-- ==== Sys2Proof/Word.lean ====
section
/-! DEFINITION. The word types of the machine (R4, R6) and the two fixed poison values (R26). -/

namespace Sys2Proof

abbrev Byte := BitVec 8
abbrev W32 := BitVec 32
abbrev W64 := BitVec 64

/-- A set of lanes of one warp: bit `l` is lane `l` (R20). -/
abbrev Mask := BitVec 32

/-- One value for each of the 32 lanes of a warp (R20). -/
abbrev Lanes (α : Type) := Vector α 32

/-- The poison value of one lane (R26). -/
def poison32 : W32 := 0x7FA0DEAD#32

/-- The poison value of a uniform register (R26). -/
def poison64 : W64 := 0x7FA0DEAD7FA0DEAD#64

end Sys2Proof
end

