-- ==== Sys2Proof/Config.lean ====
section
/-! DEFINITION. What the manual leaves to an implementation, and the free values: constants with no body, so that nothing can be proved of
their values. -/

namespace Sys2Proof.Config

/-- A free value, one for each draw that the state counts (log entry 15). -/
opaque freeValue : Nat → W64

/-- The call-slot index that admission gives a warp, by the number of its admission (R179; log entry 12). -/
opaque callSlot : Nat → BitVec 16

/-- Bytes of an SPDM response that the manual does not give: certificates, nonces and signatures (R490; log entry 15). -/
opaque spdmValue : Nat → W64

/-- The four words of a SHA-256 digest of bytes, and of the firmware image of a die (R490; log entry 15). -/
opaque digest : List Byte → Nat → W64
opaque firmwareDigest : Nat → Nat → W64

/-- Bytes 0 to 15 of the wear record by module serial number and sequence number, its bytes for the grade and the pending grade, and those of the signature over
what comes before: the manual does not give the places of the fields in them (R501; log entry 73). -/
opaque wearHeader : Nat → Nat → Nat → Byte
opaque wearGrade : Nat → Nat → Nat → Byte
opaque wearSignature : List Byte → Nat → Byte

/-- The 4 KiB page of host memory that the host's I/O memory management gives for a PASID and a page of addresses (R484; log entry 74). -/
opaque hostPage : BitVec 20 → Nat → Nat

/-- Spare lanes of an HBM4E channel: the manual does not give their number (R500; log entry 75). -/
opaque hbmSpares : Nat → Nat

/-- The address at which the gang records of a linked program lie in a process, by process and entry descriptor: the manual gives only offsets into
the section (R77; log entry 17). -/
opaque gangSection : Nat → Nat → Nat

/-- The physical ranges of an HBM4E stack, by die and stack: base and size. The manual does not say which addresses a stack holds (R480, R483;
log entry 18). -/
opaque hbmRanges : Nat → Nat → List (Nat × Nat)

end Sys2Proof.Config
end

