-- ==== Sys2Proof/Syntax.lean ====
section
/-! DEFINITION. The instructions and events of the part: one constructor for each row of spec/opcode_table.json.
An instruction of Ouvgen carries the fields of its encoding (R53, R56, R59 to R61); an event carries what names it. -/

namespace Sys2Proof

/-- A source field (R56): the number, last use, keep, and the empty policy. -/
structure Src where
  num : BitVec 8
  lu : Bool
  keep : Bool
  ep : Bool
  deriving DecidableEq, Repr

/-- The field of an operand that an instruction does not name. -/
def Src.zero : Src := ⟨0, false, false, false⟩

/-- The four shapes of an instruction: 64 bits; 96 bits with IMM32 (XK = 0); 96 bits with REX (XK = 1); 128 bits (R50, R59, R61). -/
inductive Form where
  | f64 | f96i | f96r | f128
  deriving DecidableEq, Repr

/-- Length in bytes (R50). -/
def Form.bytes : Form → Nat
  | .f64 => 8 | .f96i => 12 | .f96r => 12 | .f128 => 16

/-- The fields that every instruction shares (R53, R59 to R61). `bad` records that the words broke a rule about
reserved frame bits: XK = 1 in a 64-bit or 128-bit form (R58), a nonzero reserved bit of REX, or nonzero bits
[71:64] of a 96-bit REX form (R59, R60). The opcode itself is the constructor of `Instr`. -/
structure Frame where
  form : Form
  eor : Bool
  guard : BitVec 3
  gneg : Bool
  v : BitVec 3
  d : BitVec 8
  a : Src
  b : Src
  c : Src
  ah : BitVec 2
  bh : BitVec 2
  ch : BitVec 2
  dh : BitVec 2
  m : BitVec 14
  imm : W32
  wt : BitVec 8
  bad : Bool
  deriving DecidableEq, Repr

/-- A register of a warp. -/
inductive Reg where
  | x (n : Nat)
  | k (n : Nat)
  deriving DecidableEq, Repr

/-- The trained links of a die (R493). -/
inductive Link where
  | hbm | lp | len | pci | cxl | eth | ual
  deriving DecidableEq, Repr

/-- What a request from another node asks for (R507, R508); `tag` says that the data of a write is poison (R196). -/
inductive RemoteKind where
  | read
  | write (data : List (BitVec 8)) (tag : Bool)
  | atomic (aop : Nat) (wide : Bool) (data : W64) (new : W64)
  deriving DecidableEq, Repr

/-- A request that arrives from another node (R507): the scope at which its write releases, and whether it acquires with `.rp` (R511). -/
structure RemoteReq where
  node : BitVec 20
  job : W32
  va : W64
  bytes : Nat
  port : Nat
  kind : RemoteKind
  rel : Option Nat := none
  rp : Bool := false
  deriving DecidableEq, Repr

/-- An access of the host (R183, R364, R485): host memory, global memory through the mapping of a process, the mailbox block and the mirrors of BAR0, a
write to a deposit page that is no deposit, of another length, type or offset (R416), or the MSI-X table and its pending bits in BAR4. -/
inductive HostAcc where
  | writeHost (iova : Nat) (data : List (BitVec 8))
  | writeGlobal (proc : Nat) (va : W64) (data : List (BitVec 8))
  | readGlobal (proc : Nat) (va : W64) (bytes : Nat)
  | writeCommand (offset : Nat) (data : List (BitVec 8))
  | readBar0 (offset bytes : Nat)
  | writeDeposit (slot offset bytes : Nat)
  | writeMsix (entry : Nat) (addr : W64) (data : W32) (masked : Bool)
  | readMsix (entry : Nat)
  | readPending
  deriving DecidableEq, Repr

/-- Every operation and event of the part (spec/opcode_table.json). -/
inductive Instr where
  /-- IADD (R88). Adds two integer operands per active lane, wrapping or saturating to the type width. -/
  | iadd (f : Frame)
  /-- ISUB (R88). Subtracts B from A per active lane, wrapping or saturating to the type width. -/
  | isub (f : Frame)
  /-- IADDC (R89). Adds two 32-bit values and a carry-in predicate, writing the sum and a carry-out predicate. -/
  | iaddc (f : Frame)
  /-- ISUBB (R89). Subtracts with a borrow-in predicate, writing the difference and a borrow-out predicate. -/
  | isubb (f : Frame)
  /-- INEG (R88). Negates a signed operand per lane, wrapping or saturating. -/
  | ineg (f : Frame)
  /-- IABS (R88). Takes the absolute value of a signed operand per lane, wrapping or saturating. -/
  | iabs (f : Frame)
  /-- IMIN (R88). Writes the smaller of two integer operands per lane. -/
  | imin (f : Frame)
  /-- IMAX (R88). Writes the larger of two integer operands per lane. -/
  | imax (f : Frame)
  /-- IMUL (R88). Multiplies two integer operands per lane, reduced to the type width. -/
  | imul (f : Frame)
  /-- IMULHI (R90). Writes bits [63:32] of the exact product of two 32-bit operands. -/
  | imulhi (f : Frame)
  /-- IMAD (R88). Writes A times B plus C per lane, reduced to the type width. -/
  | imad (f : Frame)
  /-- IMADW (R90). Writes A times B plus a 64-bit C, modulo 2^64, to a register pair. -/
  | imadw (f : Frame)
  /-- ISAD (R91). Adds the sum of absolute differences of packed elements to an accumulator. -/
  | isad (f : Frame)
  /-- DOT4 (R91). Adds the dot product of four packed bytes to a 32-bit accumulator. -/
  | dot4 (f : Frame)
  /-- DOT8 (R91). Adds the dot product of eight packed nibbles to a 32-bit accumulator. -/
  | dot8 (f : Frame)
  /-- SHL (R92). Shifts A left by an amount from B, yielding zero for amounts at or above the width. -/
  | shl (f : Frame)
  /-- SHR (R92). Shifts A right logically by an amount from B. -/
  | shr (f : Frame)
  /-- SAR (R92). Shifts A right arithmetically by an amount from B. -/
  | sar (f : Frame)
  /-- SHF (R92). Performs a funnel shift of the concatenation of A and B. -/
  | shf (f : Frame)
  /-- ROT (R92). Rotates A left or right by the amount in B modulo 32. -/
  | rot (f : Frame)
  /-- AND (R93). Writes the bitwise AND of two operands. -/
  | and (f : Frame)
  /-- OR (R93). Writes the bitwise OR of two operands. -/
  | or (f : Frame)
  /-- XOR (R93). Writes the bitwise XOR of two operands. -/
  | xor (f : Frame)
  /-- LOP3 (R93). Computes an arbitrary three-input bitwise function given by a truth table. -/
  | lop3 (f : Frame)
  /-- POPC (R93). Counts the set bits of A. -/
  | popc (f : Frame)
  /-- CLZ (R93). Counts the leading zeros of A. -/
  | clz (f : Frame)
  /-- CTZ (R93). Counts the trailing zeros of A. -/
  | ctz (f : Frame)
  /-- BREV (R93). Reverses the bit order of A. -/
  | brev (f : Frame)
  /-- BFX (R94). Extracts a bit field of A, sign- or zero-extended. -/
  | bfx (f : Frame)
  /-- BFI (R94). Inserts the low bits of A into a bit field of C. -/
  | bfi (f : Frame)
  /-- PRMT (R94). Builds each result byte from a selected source byte or a constant. -/
  | prmt (f : Frame)
  /-- ICMP (R95). Compares two integer operands and writes a predicate. -/
  | icmp (f : Frame)
  /-- ICMP64 (R95). Compares two 64-bit operands and writes a predicate. -/
  | icmp64 (f : Frame)
  /-- ISEL (R95). Selects A or B per lane by a predicate, carrying only the chosen tag. -/
  | isel (f : Frame)
  /-- MOV (R96). Copies a register to the destination. -/
  | mov (f : Frame)
  /-- MOVI (R96). Writes an extended immediate to the destination. -/
  | movi (f : Frame)
  /-- LEA (R96). Computes a scaled global address without translation. -/
  | lea (f : Frame)
  /-- IADD64 (R96). Adds or subtracts a 64-bit or extended 32-bit value to a register pair. -/
  | iadd64 (f : Frame)
  /-- SEXT (R96). Sign-extends A from a given bit count. -/
  | sext (f : Frame)
  /-- ZEXT (R96). Zero-extends A from a given bit count. -/
  | zext (f : Frame)
  /-- CLAMPI (R88). Clamps A between B and C. -/
  | clampi (f : Frame)
  /-- FADD (R103). Adds two FP32 values with one rounding and raises flags. -/
  | fadd (f : Frame)
  /-- FSUB (R103). Subtracts two FP32 values with one rounding. -/
  | fsub (f : Frame)
  /-- FMUL (R103). Multiplies two FP32 values with one rounding. -/
  | fmul (f : Frame)
  /-- FMA (R103). Computes a fused FP32 multiply-add with one rounding. -/
  | fma (f : Frame)
  /-- FMIN (R104). Writes the FP32 minimum, with a selectable NaN rule. -/
  | fmin (f : Frame)
  /-- FMAX (R104). Writes the FP32 maximum, with a selectable NaN rule. -/
  | fmax (f : Frame)
  /-- FCMP (R105). Compares two FP32 values and writes a predicate. -/
  | fcmp (f : Frame)
  /-- FRND (R106). Rounds an FP32 value to an integral FP32 value. -/
  | frnd (f : Frame)
  /-- FCLASS (R107). Writes a class mask of an FP value and its poison tag. -/
  | fclass (f : Frame)
  /-- HADD2 (R108). Adds two packed pairs of 16-bit floats. -/
  | hadd2 (f : Frame)
  /-- HMUL2 (R108). Multiplies two packed pairs of 16-bit floats. -/
  | hmul2 (f : Frame)
  /-- HFMA2 (R108). Computes fused multiply-adds on packed pairs of 16-bit floats. -/
  | hfma2 (f : Frame)
  /-- HMNX2 (R108). Takes the minimum or maximum of packed 16-bit float pairs. -/
  | hmnx2 (f : Frame)
  /-- BFMA2 (R109). Computes a BF16 dot-pair into FP32 with one rounding. -/
  | bfma2 (f : Frame)
  /-- CVT (R112). Converts one value per lane between integer and float formats. -/
  | cvt (f : Frame)
  /-- CVTSR (R115). Converts FP32 to a narrow float with stochastic rounding and advances SRSEED. -/
  | cvtsr (f : Frame)
  /-- CVTPK (R116). Converts two FP32 values to a narrow format and packs them at a position. -/
  | cvtpk (f : Frame)
  /-- CVTMX (R117). Quantises the active lanes as one MX block with optional error feedback. -/
  | cvtmx (f : Frame)
  /-- BRA (R123). Branches the active lanes to a PC-relative target with a given priority. -/
  | bra (f : Frame)
  /-- BRX (R124). Branches each active lane to its own target from a table offset. -/
  | brx (f : Frame)
  /-- CALL (R125). Writes a link value and branches to a PC-relative target. -/
  | call (f : Frame)
  /-- CALLX (R125). Writes a link value and branches each lane to its own target. -/
  | callx (f : Frame)
  /-- RET (R125). Returns each active lane to the target and priority in its link value. -/
  | ret (f : Frame)
  /-- EXIT (R127). Removes the active lanes from the frontier and ends the warp when none remain. -/
  | exit (f : Frame)
  /-- NOP (R129). Issues and advances the PC without changing state. -/
  | nop (f : Frame)
  /-- YIELD (R130). Ends the run and gives way to other eligible warps at the next arbitration. -/
  | yield (f : Frame)
  /-- SETPRIO (R131). Advances the head entry with a new priority. -/
  | setprio (f : Frame)
  /-- BRK (R132). Advances and then takes a breakpoint trap reporting a code. -/
  | brk (f : Frame)
  /-- WAIT_REGS (R133). Ends the run and suspends until no register of the warp is empty. -/
  | waitRegs (f : Frame)
  /-- WAIT_ST (R133). Ends the run and suspends until earlier stores, atomics and reductions are performed. -/
  | waitSt (f : Frame)
  /-- WAIT_ALL (R133). Ends the run and suspends until no register is empty, writes are performed and all tokens are clear. -/
  | waitAll (f : Frame)
  /-- SLEEP (R134). Ends the run and makes the warp ineligible for a count of clk. -/
  | sleep (f : Frame)
  /-- WAITADDR (R136). Suspends the warp until a global word meets a condition or a timeout expires. -/
  | waitaddr (f : Frame)
  /-- PSET (R139). Sets a predicate from a bit, a uniform mask or a nonzero test. -/
  | pset (f : Frame)
  /-- PLOP (R140). Computes a predicate from three predicates through a lookup table. -/
  | plop (f : Frame)
  /-- PMOV (R141). Packs predicates into a register or unpacks a register into predicates. -/
  | pmov (f : Frame)
  /-- SHFL (R143). Moves a value between lanes within an aligned segment. -/
  | shfl (f : Frame)
  /-- VOTE (R144). Counts active lanes where a predicate holds and writes a vote result. -/
  | vote (f : Frame)
  /-- REDUX (R146). Reduces the active values in a fixed tree over lane numbers. -/
  | redux (f : Frame)
  /-- SCAN (R147). Computes an inclusive or exclusive prefix over active lanes in ascending order. -/
  | scan (f : Frame)
  /-- MATCH (R148). Groups active lanes by equal values and writes leader, mask, count or uniformity. -/
  | matchLanes (f : Frame)
  /-- LANES (R149). Writes the active mask, live mask, rank or count of lanes. -/
  | lanes (f : Frame)
  /-- RCP (R152). Computes the reciprocal by table lookup and quadratic. -/
  | rcp (f : Frame)
  /-- RSQ (R152). Computes the reciprocal square root. -/
  | rsq (f : Frame)
  /-- SQRT (R152). Computes the square root. -/
  | sqrt (f : Frame)
  /-- EX2 (R152). Computes two to the power of the argument. -/
  | ex2 (f : Frame)
  /-- LG2 (R152). Computes the base-two logarithm. -/
  | lg2 (f : Frame)
  /-- SIN (R153). Computes the sine. -/
  | sin (f : Frame)
  /-- COS (R153). Computes the cosine. -/
  | cos (f : Frame)
  /-- TANH (R153). Computes the hyperbolic tangent. -/
  | tanh (f : Frame)
  /-- SIGM (R153). Computes the logistic sigmoid. -/
  | sigm (f : Frame)
  /-- ERF (R153). Computes the error function. -/
  | erf (f : Frame)
  /-- SYSCALL (R181). Writes a call record to the call slot, marks D empty and notifies a runtime. -/
  | syscall (f : Frame)
  /-- TMSET_REL (R177). Arms the timer comparator at CLOCK plus a value. -/
  | tmsetRel (f : Frame)
  /-- TMSET_ABS (R177). Arms the timer comparator at an absolute deadline. -/
  | tmsetAbs (f : Frame)
  /-- TMSET_OFF (R177). Disarms the timer comparator. -/
  | tmsetOff (f : Frame)
  /-- TRAPRET (R178). Returns from a trap handler to the saved PC, priority and run counter. -/
  | trapret (f : Frame)
  /-- OPLOG_RETRY (R171). Queues the replay of a pending or failed operand-log entry. -/
  | oplogRetry (f : Frame)
  /-- OPLOG_KILL (R171). Completes an operand-log entry with poison without performing its access. -/
  | oplogKill (f : Frame)
  /-- PSNCLR (R172). Clears WSTAT.PSN. -/
  | psnclr (f : Frame)
  /-- PSNCLR_REG (R172). Clears the poison tags of a register in the active lanes. -/
  | psnclrReg (f : Frame)
  /-- GETSR (R175). Reads a system register into a lane or uniform register. -/
  | getsr (f : Frame)
  /-- SETSR (R175). Writes a system register that has no behaviour of its own, under its access types. -/
  | setsr (f : Frame)
  /-- TLBINV_WRITE (R395). A write to TLBINV starts a shoot-down on every die and completes when it has completed. -/
  | tlbinvWrite (f : Frame)
  /-- FLTRES_RETRY (R396). A write to FLTRES with GIVEUP 0 re-walks every waiter of the fault record. -/
  | fltresRetry (die : Nat) (id : W32)
  /-- FLTRES_GIVEUP (R396). A write to FLTRES with GIVEUP 1 fails every waiter of the fault record. -/
  | fltresGiveup (die : Nat) (id : W32)
  /-- ERRINJ_WRITE (R452). A write to ERRINJ arms a planted uncorrectable error in one line. -/
  | errinjWrite (f : Frame)
  /-- NODEQ_ST (R515). Reports the validity and reachability of a fabric node. -/
  | nodeqSt (f : Frame)
  /-- NODEQ_MAP (R515). Translates an address and reports whether and where its page is remote. -/
  | nodeqMap (f : Frame)
  /-- LDL (R199). Loads from the lane-private slice. -/
  | ldl (f : Frame)
  /-- STL (R199). Stores to the lane-private slice. -/
  | stl (f : Frame)
  /-- LDS (R202). Loads from the scratchpad under a rotation code. -/
  | lds (f : Frame)
  /-- STS (R202). Stores to the scratchpad through the write buffer. -/
  | sts (f : Frame)
  /-- LDP (R206). Reads a parameter window, returning zero beyond its bound. -/
  | ldp (f : Frame)
  /-- LDC (R307). Loads from the cluster-shared window. -/
  | ldc (f : Frame)
  /-- STC (R307). Stores to the cluster-shared window. -/
  | stc (f : Frame)
  /-- LDO (R344). Loads from the Grotto. -/
  | ldo (f : Frame)
  /-- STO (R344). Stores to the Grotto. -/
  | sto (f : Frame)
  /-- LDG (R348). Loads from global memory with a cache policy and optional acquire. -/
  | ldg (f : Frame)
  /-- STG (R349). Stores to global memory with optional release. -/
  | stg (f : Frame)
  /-- PRFG (R351). Prefetches global lines into the L1 or the home slice. -/
  | prfg (f : Frame)
  /-- LDH (R350). Loads from host memory over the host link. -/
  | ldh (f : Frame)
  /-- STH (R350). Stores to host memory with posted writes. -/
  | sth (f : Frame)
  /-- FENCE_AR (R209). Waits for a release at a scope and then performs an acquire. -/
  | fenceAr (f : Frame)
  /-- FENCE_ACQ (R209). Performs an acquire at a scope. -/
  | fenceAcq (f : Frame)
  /-- FENCE_REL (R209). Waits until earlier writes are performed at a scope. -/
  | fenceRel (f : Frame)
  /-- FENCE_PATH (R211). Waits until earlier lane-path writes reach their banks or slices. -/
  | fencePath (f : Frame)
  /-- MIGW (R213). Moves the issuing warp to another core. -/
  | migw (f : Frame)
  /-- ATOMS (R207). Performs a read-modify-write on scratchpad words. -/
  | atoms (f : Frame)
  /-- ATOMC (R308). Performs a read-modify-write on cluster-shared words at their slice. -/
  | atomc (f : Frame)
  /-- ATOMO (R352). Performs a read-modify-write on Grotto words at their bank. -/
  | atomo (f : Frame)
  /-- ATOMG (R352). Performs a read-modify-write on global words at their home slice. -/
  | atomg (f : Frame)
  /-- REDG (R353). Performs a global atomic that returns nothing. -/
  | redg (f : Frame)
  /-- REDG_DET (R355). Sends deterministic FP32 updates held at the home until the gang window commits. -/
  | redgDet (f : Frame)
  /-- ATOMH (R353). Performs a PCIe AtomicOp on host memory. -/
  | atomh (f : Frame)
  /-- DETCOMMIT (R359). Counts a commit arrival and waits for the window's fold to complete. -/
  | detcommit (f : Frame)
  /-- CPY (R225). Queues a linear copy between near and far memory. -/
  | cpy (f : Frame)
  /-- CPYT (R228). Queues a tile copy of up to three dimensions. -/
  | cpyt (f : Frame)
  /-- CPYM (R229). Queues a tile copy whose near writes go to several cores of the cluster. -/
  | cpym (f : Frame)
  /-- CPYR (R231). Queues a converting copy into MX, BSB16 or residue-plane layouts. -/
  | cpyr (f : Frame)
  /-- CPYQ (R232). Returns token and queue occupancy. -/
  | cpyq (f : Frame)
  /-- CPYX (R233). Discards the warp's unstarted queued copy commands. -/
  | cpyx (f : Frame)
  /-- MZERO (R284). Clears an accumulator part and every overlapping part. -/
  | mzero (f : Frame)
  /-- MMA (R285). Accumulates the product of two scratchpad operands into an accumulator part. -/
  | mma (f : Frame)
  /-- MADD (R286). Adds one accumulator part into another. -/
  | madd (f : Frame)
  /-- MCOPY (R287). Copies one accumulator part into another. -/
  | mcopy (f : Frame)
  /-- MSCL (R288). Multiplies a part's residues by a constant and adjusts its tag. -/
  | mscl (f : Frame)
  /-- MDRAIN_S (R291). Drains a part through Flowstone into a scratchpad output area. -/
  | mdrainS (f : Frame)
  /-- MDRAIN_R (R292). Drains one row of a part into lane registers. -/
  | mdrainR (f : Frame)
  /-- MFILL (R296). Restores a slot from a scratchpad image. -/
  | mfill (f : Frame)
  /-- MSPILL (R296). Writes the raw image of a slot to the scratchpad. -/
  | mspill (f : Frame)
  /-- MCHK (R294). Classifies every element of a part and returns counts. -/
  | mchk (f : Frame)
  /-- MCHK_FIX (R294). Classifies a whole part and rewrites corrected elements in all channels. -/
  | mchkFix (f : Frame)
  /-- MFENCE_ALL (R297). Suspends until every earlier matrix instruction of the warp has completed. -/
  | mfenceAll (f : Frame)
  /-- MFENCE_RD (R297). Suspends until earlier mma and mfill have finished reading scratchpad. -/
  | mfenceRd (f : Frame)
  /-- MSTAT (R295). Reads a part's status word or mark mask into a uniform register. -/
  | mstat (f : Frame)
  /-- BARSYNC (R316). Arrives at a gang barrier and waits for the phase to complete. -/
  | barsync (f : Frame)
  /-- BARARR (R314). Arrives at a gang barrier without waiting. -/
  | bararr (f : Frame)
  /-- BARWAIT (R316). Waits for the phase of the warp's pending arrival and writes its result. -/
  | barwait (f : Frame)
  /-- RWAIT_E (R323). Waits until a ring slot is empty for an item and returns its offset. -/
  | rwaitE (f : Frame)
  /-- RWAIT_F (R323). Waits until a ring slot is full for an item and returns its offset. -/
  | rwaitF (f : Frame)
  /-- RPUT (R324). Releases and counts a put toward filling a ring slot. -/
  | rput (f : Frame)
  /-- RGET (R325). Reads a ring's configuration, base or slot state. -/
  | rget (f : Frame)
  /-- RFREE (R324). Releases and counts a free toward emptying a ring slot. -/
  | rfree (f : Frame)
  /-- RFREE_INIT (R322). Configures a stage ring and resets its slots. -/
  | rfreeInit (f : Frame)
  /-- SPAWN (R438). Deposits one task record in the warp's scope and class. -/
  | spawn (f : Frame)
  /-- SPAWNX (R438). Deposits n task records with the record's own scope and class. -/
  | spawnx (f : Frame)
  /-- LAUNCH (R439). Deposits a launch record into the process's launch queue. -/
  | launch (f : Frame)
  /-- SCNEW (R440). Creates a child cancel scope of the warp's scope. -/
  | scnew (f : Frame)
  /-- CANCEL (R441). Marks a scope and its descendants CANCELLED. -/
  | cancel (f : Frame)
  /-- CANCEL_END (R441). Marks a scope ENDING. -/
  | cancelEnd (f : Frame)
  /-- CCHK (R442). Is a kill point when the warp's scope is cancelled. -/
  | cchk (f : Frame)
  /-- CCHK_T (R442). Writes whether the warp's scope is cancelled to a predicate. -/
  | cchkT (f : Frame)
  /-- PREEMPT (R443). Takes cores from other processes and waits until they are granted. -/
  | preempt (f : Frame)
  /-- PMIG (R409). Requests a migration of a page to a destination tier. -/
  | pmig (f : Frame)
  /-- PSTAT (R410). Returns the migration state of a page. -/
  | pstat (f : Frame)
  /-- PHOT (R411). Returns the hotness counter of a 64 KiB region. -/
  | phot (f : Frame)
  /-- PABORT (R412). Aborts the migration of a page with reason 3. -/
  | pabort (f : Frame)
  /-- ISSUE_ARBITRATION (R187). A free quadrant issue slot is given to the eligible warp of highest effective priority and age. -/
  | issueArbitration (core q : Nat)
  /-- AGEING_RAISE (R188). Each 4,096 clk of waiting raises an eligible warp's effective priority by one level. -/
  | ageingRaise (w : Nat)
  /-- PRODUCER_RESULT (R32). A producer's result arrives, is written and marks its register full. -/
  | producerResult (w k : Nat)
  /-- REGISTER_SPILL (R29). A victim binding is written to the spill region so its entry can be reused. -/
  | registerSpill (core q : Nat) (lanePool : Bool)
  /-- REGISTER_REFILL (R31). A spilled register is copied back into a physical entry. -/
  | registerRefill (w : Nat) (r : Reg)
  /-- FRONTIER_MOVE (R38). A frontier entry moves to or returns from the spill region. -/
  | frontierMove (w : Nat)
  /-- ICACHE_FILL (R190). An instruction cache miss fills its line and the next. -/
  | icacheFill (core line : Nat)
  /-- BOUNDARY_TRAP (R159). A pending unresolved-fault, poison or timer trap is taken at the next run boundary. -/
  | boundaryTrap (w : Nat)
  /-- TIMER (R176). The armed comparator reaches its deadline, clears ARM and raises the timer trap. -/
  | timer (w : Nat)
  /-- EXCEPTION_REPLY (R164). The runtime's reply ends, redirects or resumes a stopped warp. -/
  | exceptionReply (w : Nat)
  /-- FIFTH_FAULT_RETRY (R167). A stalled fifth faulting access retries when an operand-log entry frees. -/
  | fifthFaultRetry (w : Nat)
  /-- REPLAY (R169). A queued operand-log entry replays its access. -/
  | replay (w e : Nat)
  /-- SYSCALL_REPLY (R181). The answer's STATUS is seen and the reply words are written to D. -/
  | syscallReply (w : Nat)
  /-- CALL_RING_NOTICE (R183). The device writes a notice into a call ring and raises TAIL. -/
  | callRingNotice (k : Nat)
  /-- REDIRECTION (R183). A notice held 2^20 clk in a full device-runtime ring goes to the host ring. -/
  | redirection (k : Nat)
  /-- WAITADDR_EVALUATION (R136). A write to the watched line re-evaluates a waitaddr condition. -/
  | waitaddrEvaluation (w : Nat)
  /-- WAITADDR_DEADLINE (R136). A waitaddr timeout expires and the warp resumes with a false result. -/
  | waitaddrDeadline (w : Nat)
  /-- WAITADDR_PERIODIC (R136). Every 16,384 clk a waitaddr condition is evaluated again. -/
  | waitaddrPeriodic (w : Nat)
  /-- SLEEP_EXPIRY (R134). A sleep count expires and the warp becomes eligible. -/
  | sleepExpiry (w : Nat)
  /-- FENCE_COMPLETE (R209). The last needed acknowledgement arrives and a suspended fence completes. -/
  | fenceComplete (w : Nat)
  /-- MIGW_ARRIVAL (R214). A moved warp's context arrives, binds and becomes eligible at the target. -/
  | migwArrival (k : Nat)
  /-- WRITE_BUFFER_DRAIN (R210). A scratchpad write-buffer entry drains to its bank. -/
  | writeBufferDrain (core : Nat)
  /-- COMMAND_START (R218). A copy command reaching the front of its queue is checked and becomes active or fails. -/
  | commandStart (core : Nat) (store : Bool)
  /-- BURST_TRANSLATION (R217). A copy burst is translated, or stalls on a fault. -/
  | burstTranslation (core : Nat) (store : Bool)
  /-- BURST_COMPLETE (R217). A copy burst's writes are performed at their homes. -/
  | burstComplete (core : Nat) (store : Bool) (k : Nat)
  /-- COMMAND_RELEASE (R223). A copy command performs its release and flag word and ends done. -/
  | commandRelease (core : Nat) (store : Bool) (k : Nat)
  /-- MMA_ESTIMATE (R281). The feed forms an mma's power estimate 4 clk after entry. -/
  | mmaEstimate (core q i : Nat)
  /-- MATRIX_QUEUE_START (R279). A matrix queue head starts when order, arrays, budget and Flowstone allow. -/
  | matrixQueueStart (core q : Nat)
  /-- MATRIX_COMPLETE (R298). A started matrix instruction completes and writes its results. -/
  | matrixComplete (core q : Nat)
  /-- PAIR_PHASE_MESSAGE (R319). A half's completed phase arrives across Leneo and advances RPH. -/
  | pairPhaseMessage (cluster g : Nat)
  /-- RING_UPDATE (R326). A put, free or init takes effect in the ring 12 clk after its release. -/
  | ringUpdate (cluster k : Nat)
  /-- DET_UPDATE_ARRIVAL (R356). A deterministic update arrives at its home and is held in sorted order. -/
  | detUpdateArrival (k : Nat)
  /-- WINDOW_FOLD (R360). A home folds every held update of a closed window into its address. -/
  | windowFold (cluster g : Nat)
  /-- HOME_ACCESS (R352). A load, store or atomic step is performed at its home. -/
  | homeAccess (k : Nat)
  /-- HOTNESS_HALVING (R405). At every CLOCK multiple of 2^20 every hotness counter is halved. -/
  | hotnessHalving
  /-- REMOTE_SCOPE_FLUSH (R378). A flush request makes a core perform its core-scope global writes at device scope. -/
  | remoteScopeFlush (core : Nat)
  /-- HOST_COMPLETION (R350). A host completion or timeout finishes an ldh, sth flush read or AtomicOp. -/
  | hostCompletion (k : Nat) (ok : Bool)
  /-- LINE_COPY (R399). The engine locks a line and sends it to the destination home. -/
  | lineCopy (die slot : Nat)
  /-- LINE_FLIP (R399). The destination accepts a line; C is set, attachments move and the lock is released. -/
  | lineFlip (die slot line : Nat)
  /-- LINE_COPY_BACK (R403). A flipped and written line is copied back to the source. -/
  | lineCopyBack (die slot : Nat)
  /-- MIGRATION_RING_ROOM (R404). A slot held by a full return or event ring writes its entry when room appears. -/
  | migrationRingRoom (die slot : Nat)
  /-- LAUNCH_VALIDATION (R417). A record reaching the head of its launch queue is validated or dropped with a code. -/
  | launchValidation (p : Nat)
  /-- LAUNCH_PLACEMENT (R419). The arbiter places a launch on clusters that fit and admits its warps. -/
  | launchPlacement (p cls : Nat)
  /-- ENSEMBLE_END (R418). When all warps and copies of an ensemble end, DONE is written with a system release. -/
  | ensembleEnd (e : Nat)
  /-- TASK_DISPATCH (R423). The dispatcher admits a task record into a granted core. -/
  | taskDispatch (die : Nat)
  /-- MARKING_ARRIVAL (R428). A scope marking reaches a die and acts on its pools, queues and warps. -/
  | markingArrival (die scope : Nat)
  /-- KILL_POINT (R431). A warp at a kill point of a cancelled scope ends. -/
  | killPoint (w : Nat)
  /-- PREEMPTION_SAVE (R433). Saved warps stop, drain and write their context to the context area. -/
  | preemptionSave (k : Nat)
  /-- RESTORE (R434). A saved cluster instance or task warp is restored and made eligible. -/
  | restore (k : Nat) (at_ : List Nat)
  /-- TIME_SLICE_EXPIRY (R435). A process's slice expires, its warps are saved and grants cleared, or the expiry is refused. -/
  | timeSliceExpiry (p die : Nat)
  /-- PCREATE (R487). Creates a process with its registers and root scope. -/
  | pcreate
  /-- PDESTROY (R487). Cancels a process's work and frees its resources. -/
  | pdestroy
  /-- GRANT (R487). Sets a process's core grants on a die. -/
  | grant
  /-- SLICE (R487). Arms or disarms a process's time slice on a die. -/
  | slice
  /-- SETRT (R487). Names the device runtime and its call ring. -/
  | setrt
  /-- DIERST (R495). Starts a warm reset of one die with quiesce. -/
  | dierst
  /-- WREG (R487). Writes an allowed per-die or per-core register from the mailbox. -/
  | wreg
  /-- RREG (R487). Reads a per-core, per-cluster, per-die or device register from the mailbox. -/
  | rreg
  /-- MEMMAP (R487). Lists the memory out of service. -/
  | memmap
  /-- WARM_RESET_REFUSAL (R495). An open deterministic window not committed within 2^24 clk refuses the warm reset. -/
  | warmResetRefusal (die : Nat)
  /-- DIE_WRITE_BACK (R495). Dirty lines homed on the resetting die are written back before reset. -/
  | dieWriteBack (die : Nat)
  /-- DIE_RETRAINING (R495). The reset die retrains UCIe and resynchronises CLOCK. -/
  | dieRetraining (die : Nat)
  /-- DIE_READMISSION (R495). The die's grants return, saved contexts become restorable and replays are queued. -/
  | dieReadmission (die : Nat)
  /-- CHMAP_CHANGE (R244). A deferred CHMAP change takes effect once no matrix warp or saved context holds it. -/
  | chmapChange (core : Nat)
  /-- NODE_UNREACHABLE (R514). A remote access with no path or no response in 2^24 clk fails with code 0x07. -/
  | nodeUnreachable (k : Nat)
  /-- PAGE_WALK (R393). The walker translates an address and raises a translation fault where required. -/
  | pageWalk (core : Nat) (asid : BitVec 16) (va : W64)
  /-- LAUNCH_DEPOSIT (R416). A host Deferrable Memory Write deposits a launch record or completes with retry. -/
  | launchDeposit (p : Nat) (r : BitVec 512)
  /-- COLD_RESET (R490). Each base die verifies and starts its firmware. -/
  | coldReset (ok : BitVec 4)
  /-- FUNCTION_LEVEL_RESET (R484). A PCIe Function Level Reset cold-resets the data and control planes. -/
  | functionLevelReset
  /-- LINK_TRAINING (R492). Links train in order until the device is ready. -/
  | linkTraining (die : Nat) (link : Link) (port : Nat) (state : BitVec 2)
  /-- GET_VERSION (R490). SPDM GET_VERSION handled by the die 0 responder. -/
  | getVersion
  /-- GET_CAPABILITIES (R490). SPDM GET_CAPABILITIES handled by the responder. -/
  | getCapabilities
  /-- NEGOTIATE_ALGORITHMS (R490). SPDM NEGOTIATE_ALGORITHMS handled by the responder. -/
  | negotiateAlgorithms
  /-- GET_DIGESTS (R490). SPDM GET_DIGESTS handled by the responder. -/
  | getDigests
  /-- GET_CERTIFICATE (R490). SPDM GET_CERTIFICATE handled by the responder. -/
  | getCertificate
  /-- CHALLENGE (R490). SPDM CHALLENGE handled by the responder. -/
  | challenge
  /-- GET_MEASUREMENTS (R490). SPDM GET_MEASUREMENTS returns firmware, wear and grade measurements. -/
  | getMeasurements
  /-- KEY_EXCHANGE (R490). SPDM KEY_EXCHANGE opens a secured session. -/
  | keyExchange
  /-- FINISH (R490). SPDM FINISH completes the secured session. -/
  | finish (ok : Bool)
  /-- KEY_SLOT_LOAD (R491). A memory-encryption key slot is loaded over a secured session. -/
  | keySlotLoad (slot : Nat) (procs : List Nat)
  /-- KEY_SLOT_UNLOAD (R491). A memory-encryption key slot is unloaded. -/
  | keySlotUnload (slot : Nat)
  /-- CXL_PORT_DOWN (R482). A CXL port goes down and its accesses fail and migrations abort. -/
  | cxlPortDown (die : Nat) (lost : Bool)
  /-- MEMORY_OUT_OF_SERVICE (R483). Memory leaves service, its lines are discarded and its accesses fault. -/
  | memoryOutOfService (tier base size : Nat)
  /-- HBM_LANE_REPAIR (R500). A lane whose CRC count exceeds 64 in 2^30 clk is repaired live. -/
  | hbmLaneRepair (channel : Nat)
  /-- LENEO_LANE_REPAIR (R478). A rise in Leneo lane errors triggers module and lane redundancy repair. -/
  | leneoLaneRepair (die port : Nat)
  /-- GUARD_BAND_SAMPLE (R498). Every 2^20 clk monitors are sampled and guard-band offsets raised. -/
  | guardBandSample (core : Nat) (margin : BitVec 8) (worn : Option (Fin 12))
  /-- POWER_BUDGET_ADJUST (R502). In automatic mode REFILL is lowered or raised against the die budget. -/
  | powerBudgetAdjust (die : Nat) (pwr : BitVec 16)
  /-- REMOTE_REQUEST (R507). A fabric request arrives at the target node and is translated and performed. -/
  | remoteRequest (r : RemoteReq)
  /-- CXL_PORT_RETRAIN (R482). A CXL port that went down retrains, and the dirty L2 lines that belong to it are written back. -/
  | cxlPortRetrain (die : Nat)
  /-- LINK_STATE_CHANGE (R489). A UALink, Ethernet or other trained link goes down or comes up, LINKST changes and MSI-X vector 0 is raised. -/
  | linkStateChange (die : Nat) (link : Link) (port : Nat) (state : BitVec 2)
  /-- WARM_MODULE_RESET (R497). A warm reset of the whole module applies the pending grade and reloads guard-band offsets from the wear record. -/
  | warmModuleReset
  /-- HOST_ACCESS (R183). The host reads or writes device memory through its own mapping, for example writing a call slot's REPLY and STATUS or a ring's HEAD. -/
  | hostAccess (a : HostAcc)
  /-- DOORBELL (R486). A DOORBELL write with an unknown OPC returns status 1, and a doorbell written while BUSY is 1 is ignored. -/
  | doorbell (seq : W32)
  /-- REMOTE_FAULT_RESOLUTION (R507). The target node's resolution of a kind-5 fault reaches the issuer, whose pending entry then replays or fails. -/
  | remoteFaultResolution (k : Nat) (giveup : Bool)
  deriving DecidableEq, Repr

end Sys2Proof
end

