-- ==== Sys2Proof/Machine/Forms.lean ====
section
/-! DEFINITION. The operand forms of every instruction: the class of each field (R57), the defined codes of V, M and IMM32
(R58, R62), the need for the end-of-run bit (R41), and the registers named (R23). One table, `Instr.shape`; the check of an
encoding's fields and the list of the registers it names are computed from it. -/

namespace Sys2Proof

/-- Bit `i` of the modifier field M. -/
def Frame.bit (f : Frame) (i : Nat) : Bool := f.m.getLsbD i

/-- Bits [lo+n-1:lo] of the modifier field M. -/
def Frame.mf (f : Frame) (lo n : Nat) : Nat := (f.m.toNat >>> lo) % 2 ^ n

/-- Bits [lo+n-1:lo] of IMM32. -/
def Frame.immf (f : Frame) (lo n : Nat) : Nat := (f.imm.toNat >>> lo) % 2 ^ n

def Frame.bu (f : Frame) : Bool := f.bit 13
def Frame.bi (f : Frame) : Bool := f.bit 12
def Frame.au (f : Frame) : Bool := f.bit 11
def Frame.du (f : Frame) : Bool := f.bit 10
def Frame.cu (f : Frame) : Bool := f.bit 9
def Frame.ci (f : Frame) : Bool := f.bit 8
/-- The variant code as a number. -/
def Frame.vn (f : Frame) : Nat := f.v.toNat

/-- The scope code of a memory or copy instruction (R345, R220). -/
def Frame.scope (f : Frame) : Nat := f.mf 11 3
/-- The order code of a memory instruction (R345, R207). -/
def Frame.ord (f : Frame) : Nat := f.mf 7 2

/-- The class of a field (R57): unused, a priority byte (R121), a group of lane registers, a group of uniform registers, a
predicate, an accumulator part, a gang, a stage ring (R313), a parameter window, or exactly `xz`. -/
inductive Opd where
  | none
  | raw
  | lane (n : Nat)
  | uni (n : Nat)
  | pred
  | acc
  | gang
  | ring
  | win
  | xz
  deriving DecidableEq, Repr

/-- What an instruction's description fixes about its fields. `ok` holds the rules of its own; `keeps` says that an unbound destination is left alone (R172). -/
structure Shape where
  ok : Bool := true
  mDef : Nat := 0
  d : Opd := .none
  a : Opd := .none
  b : Opd := .none
  c : Opd := .none
  imm : Bool := false
  eor : Bool := false
  keeps : Bool := false
  deriving DecidableEq, Repr

namespace Form

/-- Lane registers of a 32-bit or 64-bit integer type (R79, R81). -/
def tw (v : Nat) : Nat := if v = 6 ∨ v = 7 then 2 else 1

/-- Lane registers of a memory width code (R194). -/
def mw (v : Nat) : Nat := if v = 1 then 2 else if v = 2 then 4 else 1

/-- A field that a class bit turns into one uniform register (R82). -/
def sel (u : Bool) (n : Nat) : Opd := if u then .uni 1 else .lane n

/-- A field that a class bit turns into a uniform register or into IMM32 (R82). -/
def seli (u i : Bool) (n : Nat) : Opd := if i then .none else sel u n

/-- `xz` in a lane field (R83). -/
def isXz (s : Src) : Bool := s.num == 255

/-- Two or three source instructions of the lane chapter with the operand-class bits of R82. `nd`, `na`, `nb`, `nc` are the
lane widths; a width of 0 means that the instruction does not name the operand. -/
def alu (f : Frame) (vs : List Nat) (own : Nat) (nd na nb nc : Nat) (duOk : Bool) (ok : Bool := true) : Shape :=
  let au := f.au; let bu := f.bu; let bi := f.bi; let cu := f.cu; let ci := f.ci
  let du := duOk && f.du
  { ok := ok && vs.contains f.vn && !(bi && bu) && !(bi && nc != 0 && ci) &&
      (!du || ((na == 0 || au || isXz f.a) && (nb == 0 || bu || bi || isXz f.b) && (nc == 0 || cu || ci || isXz f.c)))
    mDef := own ||| (if na = 0 then 0 else 0x800) ||| (if nb = 0 then 0 else 0x3000) ||| (if nc = 0 then 0 else 0x300)
      ||| (if duOk then 0x400 else 0)
    d := sel du nd
    a := if na = 0 then .none else sel au na
    b := if nb = 0 then .none else seli bu bi nb
    c := if nc = 0 then .none else seli cu ci nc
    imm := (nb != 0 && bi) || (nc != 0 && ci) }

/-- The FP instructions of R100: modifiers NA AA NB AB in M[7:4], M[3] as `m3` allows, a rounding code (R99) or none. -/
def fp (f : Frame) (vs : List Nat) (m3 : Bool) (rnd : Bool) (nb nc : Nat) : Shape :=
  alu f vs ((if nb = 0 then 0xC0 else 0xF0) ||| (if m3 then 8 else 0) ||| (if rnd then 7 else 0)) 1 1 nb nc false
    (!rnd || f.mf 0 3 ≤ 4)

def i832 : List Nat := [0, 1, 2, 3, 4, 5]

/-- Whether float format `d` holds every value of float format `s` exactly (R110, R112), or the two are one format; a conversion
that fails this narrows, between formats of equal width too (log entry 32). -/
def fmtWider (d s : Nat) : Bool :=
  d == s || d == 8 || (d == 9 && (s == 11 || s == 12 || s == 13)) || (d == 10 && (s == 11 || s == 12 || s == 13)) ||
    ((d == 11 || d == 12) && s == 13)

/-- The limits of the layout M of `cvt` (R110 to R112). -/
def cvtOk (f : Frame) : Bool :=
  let st := f.mf 8 4; let dt := f.mf 4 4
  st ≤ 13 && dt ≤ 13 && f.mf 0 3 ≤ 4 &&
    (!f.bit 3 || (st < 8 && dt < 8) || (8 ≤ st && 9 ≤ dt && dt ≤ 12 && !fmtWider dt st))

def cvtpkOk (f : Frame) : Bool :=
  let dt := f.mf 4 4; let pos := f.mf 12 2
  9 ≤ dt && dt ≤ 13 && f.mf 0 3 ≤ 4 && (!f.bit 3 || dt != 13) &&
    (if dt ≤ 10 then pos == 0 else if dt ≤ 12 then pos ≤ 1 else true)

/-- The rules of R345 on the order, scope, promotion and scale fields. `ords` lists the order codes accepted; `host` restricts
the scope to `.sy`. -/
def memOk (f : Frame) (ords : List Nat) (host rpOk : Bool) : Bool :=
  ords.contains f.ord && f.scope ≤ 5 && (f.ord != 0 || f.scope == 0) && f.mf 4 3 ≤ 4 &&
    (!host || f.ord == 0 || f.scope == 5) &&
    (!rpOk || !f.bit 9 || ((f.ord == 1 || f.ord == 3) && (f.scope == 4 || f.scope == 5)))

/-- The rules of R207 and R345 on the atomic operation code. -/
def aopOk (f : Frame) : Bool := f.mf 0 4 ≤ 10 && (f.mf 0 4 != 10 || f.vn == 0) && (f.vn == 0 || f.vn == 1)

/-- `cas` (R207). -/
def isCas (f : Frame) : Bool := f.mf 0 4 == 9

/-- A load with a uniform destination under DU (R346, R206): a `.b128` writes the even pair. -/
def ldD (f : Frame) (du : Bool) : Opd := if du then .uni (if f.vn = 2 then 2 else 1) else .lane (mw f.vn)

def ldV : List Nat := [0, 1, 2, 3, 4, 5, 6]
def stV : List Nat := [0, 1, 2, 3, 5]

/-- The rules of R220 on the layout M of a copy. -/
def cpyOk (f : Frame) (rotOk : Bool) : Bool :=
  f.scope ≤ 5 && (f.bit 10 || f.bit 9 || f.scope == 0) && (f.bit 8 || !f.bit 7) && (f.bit 3 || f.mf 0 3 == 0) &&
    ((rotOk && !f.v.getLsbD 0) || f.mf 4 3 == 0)

def cpy (f : Frame) (na : Nat) (rotOk : Bool) (ok : Bool) (imm : Bool) : Shape :=
  { ok := ok && cpyOk f rotOk, mDef := 0x3FFF, a := .uni na, b := if f.bit 8 then .uni 2 else .none, imm := imm }

/-- The part code of an accumulator field (R271). -/
def part (n : BitVec 8) : Nat := n.toNat / 32

/-- The parts that an `mma` mode accepts (R285). -/
def modePart (v p : Nat) : Bool :=
  match v with
  | 0 => p == 0
  | 1 => p == 1 || p == 2
  | 2 => p == 4 || p == 6
  | 3 => p == 4 || p == 5 || p == 6 || p == 7
  | _ => false

def mmaOk (f : Frame) : Bool :=
  let k := f.immf 0 13; let fa := f.immf 28 4; let fb := f.immf 24 4
  modePart f.vn (part f.d) && f.immf 13 11 == 0 && 4 ≤ k && k ≤ 4096 && k % 4 == 0 && (!f.bit 1 || k % 32 == 0) &&
    fa ≤ 11 && fb ≤ 11 && (f.bit 1 || !((4 ≤ fa && fa ≤ 7) || (4 ≤ fb && fb ≤ 7)))

/-- The rules of R289; `r` is the `.r` form. -/
def drainOk (f : Frame) (r : Bool) : Bool :=
  let o := f.mf 10 4
  o ≤ 11 && f.mf 7 3 ≤ 4 && f.immf 8 24 == 0 && (!f.bit 6 || [0, 1, 2, 4, 6].contains o) &&
    (!f.bit 5 || (!r && [5, 6, 7, 8, 9].contains o)) && (!r || ([0, 1, 2, 10].contains o && !f.bit 4)) &&
    (o != 11 || (f.mf 7 3 == 0 && f.imm == 0))

/-- Every number that a system register of the manual carries, with R8 access for a warp (R174). -/
def srNumbers : List Nat :=
  [0x000, 0x001, 0x002, 0x010, 0x011, 0x012, 0x013, 0x014, 0x015, 0x016, 0x017, 0x020, 0x021, 0x022, 0x023, 0x024, 0x025,
   0x026, 0x030, 0x031, 0x040, 0x041, 0x050, 0x051, 0x052, 0x053] ++
  [0x060, 0x061, 0x062, 0x063, 0x064, 0x065, 0x066, 0x070, 0x071, 0x072, 0x073, 0x074, 0x080, 0x081, 0x090, 0x091, 0x092,
   0x093, 0x094, 0x095, 0x096, 0x097, 0x0A0] ++
  [0x110, 0x111, 0x112, 0x113, 0x114, 0x115, 0x116, 0x117, 0x118, 0x119, 0x11A, 0x11B, 0x11C, 0x11D, 0x11E, 0x11F, 0x120]

/-- The system register number of `getsr` and `setsr` (R174). -/
def srNum (f : Frame) : Nat := f.immf 0 12

def srOk (f : Frame) : Bool := f.immf 12 20 == 0 && srNumbers.contains (srNum f)

def setsr (f : Frame) (ok : Bool) : Shape :=
  { ok := f.vn == 0 && srOk f && ok, mDef := 0x800, a := sel f.au 1, imm := true }

def v0 (f : Frame) : Bool := f.vn == 0

def sfu (f : Frame) : Shape := { alu f [0] 0xC0 1 1 0 0 false with }

def page (ok : Bool) : Shape := { ok := ok, d := .uni 1, a := .xz, b := .uni 1, imm := true }

end Form

open Form in
/-- The form of every instruction (R88 to R96, R103 to R117, R122, R135 to R151, R174, R195, R220, R232, R283 to R296, R307, R313,
R344, R345, R408, R437, R515). An event has no encoding; its shape is refused. -/
def Instr.shape : Instr → Shape × Option Frame
  | .iadd f => (alu f i832 1 1 1 1 0 true, some f)
  | .isub f => (alu f i832 1 1 1 1 0 true, some f)
  | .iaddc f => (alu f [1] 0x7F 1 1 1 0 false, some f)
  | .isubb f => (alu f [1] 0x7F 1 1 1 0 false, some f)
  | .ineg f => (alu f [0, 2, 4] 1 1 1 0 0 true, some f)
  | .iabs f => (alu f [0, 2, 4] 1 1 1 0 0 true, some f)
  | .imin f => (alu f i832 0 1 1 1 0 true, some f)
  | .imax f => (alu f i832 0 1 1 1 0 true, some f)
  | .imul f => (alu f i832 1 1 1 1 0 true, some f)
  | .imulhi f => (alu f [0, 1] 0 1 1 1 0 false, some f)
  | .imad f => (alu f i832 1 1 1 1 1 false, some f)
  | .imadw f => (alu f [0, 1] 0 2 1 1 2 false, some f)
  | .isad f => (alu f i832 0 1 1 1 1 false, some f)
  | .dot4 f => (alu f [4, 5] 3 1 1 1 1 false (!f.bit 1 || f.vn == 4), some f)
  | .dot8 f => (alu f [0, 1] 3 1 1 1 1 false (!f.bit 1 || f.vn == 0), some f)
  | .shl f => (alu f [1, 7] 0 (tw f.vn) (tw f.vn) 1 0 true, some f)
  | .shr f => (alu f [1, 7] 0 (tw f.vn) (tw f.vn) 1 0 true, some f)
  | .sar f => (alu f [0, 6] 0 (tw f.vn) (tw f.vn) 1 0 true, some f)
  | .shf f => (alu f [1] 1 1 1 1 1 false, some f)
  | .rot f => (alu f [1] 1 1 1 1 0 false, some f)
  | .and f => (alu f [1, 7] 0 (tw f.vn) (tw f.vn) (tw f.vn) 0 true, some f)
  | .or f => (alu f [1, 7] 0 (tw f.vn) (tw f.vn) (tw f.vn) 0 true, some f)
  | .xor f => (alu f [1, 7] 0 (tw f.vn) (tw f.vn) (tw f.vn) 0 true, some f)
  | .lop3 f => (alu f [1] 0xFF 1 1 1 1 false, some f)
  | .popc f => (alu f [1, 7] 0 1 (tw f.vn) 0 0 false, some f)
  | .clz f => (alu f [1, 7] 0 1 (tw f.vn) 0 0 false, some f)
  | .ctz f => (alu f [1, 7] 0 1 (tw f.vn) 0 0 false, some f)
  | .brev f => (alu f [1, 7] 0 (tw f.vn) (tw f.vn) 0 0 false, some f)
  | .bfx f => (alu f [0, 1] 0 1 1 1 0 false (!f.bi || f.imm &&& 0xFFFFE0E0 == 0), some f)
  | .bfi f => (alu f [1] 0 1 1 1 1 false (!f.bi || f.imm &&& 0xFFFFE0E0 == 0), some f)
  | .prmt f => (alu f [1] 0 1 1 1 1 false (!f.ci || f.imm &&& 0xE0E0E0E0 == 0), some f)
  | .icmp f => ({ alu f i832 7 1 1 1 0 false (f.mf 0 3 ≤ 5) with d := .pred }, some f)
  | .icmp64 f => ({ alu f [6, 7] 7 1 2 2 0 false (f.mf 0 3 ≤ 5) with d := .pred }, some f)
  | .isel f => (alu f [1, 7] 0xF (tw f.vn) (tw f.vn) (tw f.vn) 0 false, some f)
  | .mov f => (alu f [1, 7] 0 (tw f.vn) (tw f.vn) 0 0 true, some f)
  | .movi f => ({ alu f [0, 1, 6, 7] 0 (tw f.vn) 0 0 0 true with imm := true }, some f)
  | .lea f => ({ ok := (f.vn == 6 || f.vn == 7) && f.mf 0 3 ≤ 4 && (!f.du || isXz f.a), mDef := 0x407,
                 d := sel f.du 2, a := .lane 1, b := .uni 1, imm := true }, some f)
  | .iadd64 f => (alu f [6, 7] 6 2 2 (if f.bit 2 then 1 else 2) 0 true, some f)
  | .sext f => (alu f [0, 6] 0 (tw f.vn) 1 1 0 true, some f)
  | .zext f => (alu f [1, 7] 0 (tw f.vn) 1 1 0 true, some f)
  | .clampi f => (alu f i832 0 1 1 1 1 false, some f)
  | .fadd f => (fp f [0] false true 1 0, some f)
  | .fsub f => (fp f [0] false true 1 0, some f)
  | .fmul f => (fp f [0] false true 1 0, some f)
  | .fma f => (fp f [0] true true 1 1, some f)
  | .fmin f => (fp f [0] true false 1 0, some f)
  | .fmax f => (fp f [0] true false 1 0, some f)
  | .fcmp f => ({ alu f [0] 0xF7 1 1 1 0 false with d := .pred }, some f)
  | .frnd f => (fp f [0] false true 0 0, some f)
  | .fclass f => (alu f [0, 1, 2] 0 1 1 0 0 false, some f)
  | .hadd2 f => (fp f [0, 1] false true 1 0, some f)
  | .hmul2 f => (fp f [0, 1] false true 1 0, some f)
  | .hfma2 f => (fp f [0, 1] true true 1 1, some f)
  | .hmnx2 f => (fp f [0, 1] true false 1 0, some f)
  | .bfma2 f => (fp f [0] true true 1 1, some f)
  | .cvt f => ({ ok := v0 f && cvtOk f, mDef := 0xFFF, d := .lane (tw (f.mf 4 4)), a := .lane (tw (f.mf 8 4)) }, some f)
  | .cvtsr f => ({ ok := v0 f && 9 ≤ f.mf 4 4 && f.mf 4 4 ≤ 13, mDef := 0xF0, d := .lane 1, a := .lane 1 }, some f)
  | .cvtpk f => ({ ok := v0 f && cvtpkOk f, mDef := 0x38FF, d := .lane 1, a := .lane 1, b := .lane 1,
                   c := if f.bit 11 then .lane 1 else .none }, some f)
  | .cvtmx f => ({ ok := v0 f && 11 ≤ f.mf 4 4 && f.mf 4 4 ≤ 13, mDef := 0xF1, d := .lane (if f.bit 0 then 2 else 1), a := .lane 1,
                   b := if f.bit 0 then .lane 1 else .none }, some f)
  | .bra f => ({ ok := v0 f && f.immf 0 2 == 0, mDef := 0xFF, b := .raw, imm := true, eor := true }, some f)
  | .brx f => ({ ok := v0 f, mDef := 0xFF, a := .lane 1, b := .uni 1, eor := true }, some f)
  | .call f => ({ ok := v0 f && f.immf 0 2 == 0, mDef := 0xFF, d := .lane 2, b := .raw, imm := true, eor := true }, some f)
  | .callx f => ({ ok := v0 f, mDef := 0xFF, d := .lane 2, a := .lane 1, b := .uni 1, eor := true }, some f)
  | .ret f => ({ ok := v0 f, mDef := 0xFF, a := .lane 2, eor := true }, some f)
  | .exit f => ({ ok := v0 f, mDef := 0xFF, eor := true }, some f)
  | .nop f => ({ ok := v0 f }, some f)
  | .yield f => ({ ok := v0 f, eor := true }, some f)
  | .setprio f => ({ ok := v0 f, mDef := 0xFF, eor := true }, some f)
  | .brk f => ({ ok := v0 f, mDef := 0xFF }, some f)
  | .waitRegs f => ({ ok := f.vn == 0, eor := true }, some f)
  | .waitSt f => ({ ok := f.vn == 1, eor := true }, some f)
  | .waitAll f => ({ ok := f.vn == 2, eor := true }, some f)
  | .sleep f => ({ ok := v0 f && (f.bu != f.bi), mDef := 0x3000, b := if f.bu then .uni 1 else .none, imm := f.bi, eor := true }, some f)
  | .waitaddr f => ({ ok := (f.vn == 1 || f.vn == 7) && f.mf 3 3 ≤ 5 && (f.bit 2 || f.mf 3 3 == 0), mDef := 0x7F, d := .pred, a := .uni 1,
                      b := .uni 1, c := if f.bit 6 then .uni 1 else .none, imm := true, eor := true }, some f)
  | .pset f =>
    (match f.vn with
     | 0 => { alu f [0] 1 1 1 1 0 false with d := .pred }
     | 1 => { alu f [1] 1 1 1 0 0 false f.au with d := .pred }
     | _ => { alu f [2] 1 1 1 0 0 false with d := .pred }, some f)
  | .plop f => ({ ok := v0 f, mDef := 0x7FF, d := .pred, a := .pred, b := .pred }, some f)
  | .pmov f => (if f.vn = 0 then { d := .lane 1 } else { ok := f.vn == 1, mDef := 0x7F, a := .lane 1 }, some f)
  | .shfl f =>
    ({ ok := f.vn ≤ 3 && 1 ≤ f.mf 3 3 && f.mf 3 3 ≤ 5 && !(f.bi && f.bu), mDef := 0x3F ||| (if f.vn = 3 then 0 else 0x3000), d := .lane 1,
       a := .lane 1, b := if f.vn = 3 then .none else seli f.bu f.bi 1, imm := f.vn != 3 && f.bi }, some f)
  | .vote f =>
    ({ ok := f.vn ≤ 4 && (if f.vn = 0 then f.mf 0 6 ≤ 32 else true),
       mDef := 0x40 ||| (if f.vn = 0 then 0x3F else 0) ||| (if f.vn = 3 ∨ f.vn = 4 then 0x400 else 0),
       d := if f.vn ≤ 2 then .pred else sel f.du 1, a := .pred }, some f)
  | .redux f =>
    ({ ok := (if f.vn ≤ 2 then true else if f.vn ≤ 5 then f.bit 0 else if f.vn = 6 then f.mf 0 3 ≤ 4 else true),
       mDef := 0x400 ||| (if f.vn ≤ 5 then 1 else if f.vn = 6 then 0xC7 else 0xC0), d := sel f.du 1, a := .lane 1 }, some f)
  | .scan f =>
    ({ ok := (if f.vn ≤ 2 then true else if f.vn ≤ 5 then f.bit 0 else if f.vn = 6 then f.mf 0 3 ≤ 4 else true),
       mDef := 0x10 ||| (if f.vn ≤ 5 then 1 else if f.vn = 6 then 0xC7 else 0xC0), d := .lane 1, a := .lane 1 }, some f)
  | .matchLanes f =>
    ({ ok := f.vn ≤ 3, mDef := 1 ||| (if f.vn = 3 then 0x400 else 0), d := sel (f.vn == 3 && f.du) 1,
       a := .lane (if f.bit 0 then 2 else 1) }, some f)
  | .lanes f => ({ ok := f.vn ≤ 3, mDef := if f.vn = 2 then 0 else 0x400, d := sel (f.vn != 2 && f.du) 1 }, some f)
  | .rcp f => (sfu f, some f)
  | .rsq f => (sfu f, some f)
  | .sqrt f => (sfu f, some f)
  | .ex2 f => (sfu f, some f)
  | .lg2 f => (sfu f, some f)
  | .sin f => (sfu f, some f)
  | .cos f => (sfu f, some f)
  | .tanh f => (sfu f, some f)
  | .sigm f => (sfu f, some f)
  | .erf f => (sfu f, some f)
  | .syscall f => ({ ok := v0 f && f.immf 15 17 == 0, mDef := 1, d := .lane 1, a := .lane 1, b := if f.bit 0 then .uni 1 else .none,
                     imm := true, eor := true }, some f)
  | .tmsetRel f => ({ ok := f.vn == 0, mDef := 0x1000, a := if f.bi then .none else .uni 1, imm := f.bi }, some f)
  | .tmsetAbs f => ({ ok := f.vn == 1, a := .uni 1 }, some f)
  | .tmsetOff f => ({ ok := f.vn == 2 }, some f)
  | .trapret f => ({ ok := v0 f, eor := true }, some f)
  | .oplogRetry f => ({ ok := f.vn == 0, mDef := 3 }, some f)
  | .oplogKill f => ({ ok := f.vn == 1, mDef := 3 }, some f)
  | .psnclr f => ({ ok := f.vn == 0 }, some f)
  | .psnclrReg f => ({ ok := f.vn == 1, mDef := 0x400, d := sel f.du 1, keeps := true }, some f)
  | .getsr f => ({ ok := v0 f && srOk f && !(f.du && srNum f == 0x010), mDef := 0x400, d := sel f.du 1, imm := true }, some f)
  | .setsr f => (Form.setsr f (srNum f != 0x112 && srNum f != 0x11B), some f)
  | .tlbinvWrite f => (Form.setsr f (srNum f == 0x112), some f)
  | .errinjWrite f => (Form.setsr f (srNum f == 0x11B), some f)
  | .nodeqSt f => ({ ok := f.vn == 0, d := .uni 1, a := .uni 1 }, some f)
  | .nodeqMap f => (page (f.vn == 1), some f)
  | .ldl f => ({ ok := ldV.contains f.vn, d := .lane (mw f.vn), a := .lane 1, imm := true }, some f)
  | .stl f => ({ ok := stV.contains f.vn, a := .lane 1, b := .lane (mw f.vn), imm := true }, some f)
  | .lds f => ({ ok := ldV.contains f.vn && f.immf 20 12 == 0, mDef := 0x70, d := .lane (mw f.vn), a := .lane 1, imm := true }, some f)
  | .sts f => ({ ok := stV.contains f.vn && f.immf 20 12 == 0, mDef := 0x70, a := .lane 1, b := .lane (mw f.vn), imm := true }, some f)
  | .ldp f => ({ ok := ldV.contains f.vn && (!f.du || f.au || isXz f.a), mDef := 0xC00, d := ldD f f.du, a := sel f.au 1, b := .win,
                 imm := true }, some f)
  | .ldc f => ({ ok := ldV.contains f.vn && f.immf 20 12 == 0, d := .lane (mw f.vn), a := .lane 1, imm := true }, some f)
  | .stc f => ({ ok := stV.contains f.vn && f.immf 20 12 == 0, a := .lane 1, b := .lane (mw f.vn), imm := true }, some f)
  | .ldo f => ({ ok := ldV.contains f.vn && memOk f [0, 1] false true && (!f.du || isXz f.a), mDef := 0x3F80, d := ldD f f.du, a := .lane 1,
                 imm := true }, some f)
  | .sto f => ({ ok := stV.contains f.vn && memOk f [0, 2] false false, mDef := 0x3980, a := .lane 1, b := .lane (mw f.vn), imm := true }, some f)
  | .ldg f => ({ ok := ldV.contains f.vn && memOk f [0, 1] false true && f.mf 0 2 ≤ 2 && (!f.du || isXz f.a), mDef := 0x3FF3,
                 d := ldD f f.du, a := .lane 1, b := .uni 1, imm := true }, some f)
  | .stg f => ({ ok := stV.contains f.vn && memOk f [0, 2] false false, mDef := 0x39F0, a := .lane 1, b := .uni 1, c := .lane (mw f.vn),
                 imm := true }, some f)
  | .prfg f => ({ ok := f.vn ≤ 1 && memOk f [0] false false, mDef := 0x70, a := .lane 1, b := .uni 1, imm := true }, some f)
  | .ldh f => ({ ok := ldV.contains f.vn && memOk f [0, 1] true true && (!f.du || isXz f.a), mDef := 0x3FF0, d := ldD f f.du, a := .lane 1,
                 b := .uni 1, imm := true }, some f)
  | .sth f => ({ ok := stV.contains f.vn && memOk f [0, 2] true false, mDef := 0x39F0, a := .lane 1, b := .uni 1, c := .lane (mw f.vn),
                 imm := true }, some f)
  | .fenceAr f => ({ ok := f.vn == 0 && f.mf 3 3 ≤ 5, mDef := 0x38, eor := true }, some f)
  | .fenceAcq f => ({ ok := f.vn == 1 && f.mf 3 3 ≤ 5, mDef := 0x38, eor := true }, some f)
  | .fenceRel f => ({ ok := f.vn == 2 && f.mf 3 3 ≤ 5, mDef := 0x38, eor := true }, some f)
  | .fencePath f => ({ ok := f.vn == 3 && (f.mf 3 3 == 1 || f.mf 3 3 == 2), mDef := 0x38, eor := true }, some f)
  | .migw f => ({ ok := v0 f, d := .pred, a := .uni 1, eor := true }, some f)
  | .atoms f => ({ ok := aopOk f && f.immf 20 12 == 0, mDef := 0x1FF, d := .lane (f.vn + 1), a := .lane 1, b := .lane (f.vn + 1),
                   c := if isCas f then .lane (f.vn + 1) else .none, imm := true }, some f)
  | .atomc f => ({ ok := aopOk f && f.immf 20 12 == 0, mDef := 0x18F, d := .lane (f.vn + 1), a := .lane 1, b := .lane (f.vn + 1),
                   c := if isCas f then .lane (f.vn + 1) else .none, imm := true }, some f)
  | .atomo f => ({ ok := aopOk f && memOk f [0, 1, 2, 3] false false, mDef := 0x398F, d := .lane (f.vn + 1), a := .lane 1,
                   b := .lane ((f.vn + 1) * if isCas f then 2 else 1), imm := true }, some f)
  | .atomg f => ({ ok := aopOk f && memOk f [0, 1, 2, 3] false true, mDef := 0x3BFF, d := .lane (f.vn + 1), a := .lane 1, b := .uni 1,
                   c := .lane ((f.vn + 1) * if isCas f then 2 else 1), imm := true }, some f)
  | .redg f => ({ ok := aopOk f && memOk f [0, 2] false false && f.mf 0 4 != 8 && f.mf 0 4 != 9 && !f.bit 9, mDef := 0x3BFF, a := .lane 1,
                  b := .uni 1, c := .lane (f.vn + 1), imm := true }, some f)
  | .redgDet f => ({ ok := f.vn == 0 && memOk f [0] false false && f.mf 0 4 == 10 && f.bit 9, mDef := 0x3BFF, d := .gang, a := .lane 1,
                     b := .uni 1, c := .lane 1, imm := true }, some f)
  | .atomh f => ({ ok := aopOk f && memOk f [0, 1, 2, 3] true false && [0, 8, 9].contains (f.mf 0 4), mDef := 0x39FF, d := .lane (f.vn + 1),
                   a := .lane 1, b := .uni 1, c := .lane ((f.vn + 1) * if isCas f then 2 else 1), imm := true }, some f)
  | .detcommit f => ({ ok := v0 f, a := .gang, eor := true }, some f)
  | .cpy f => (Form.cpy f 2 true true false, some f)
  | .cpyt f => (Form.cpy f 4 false true false, some f)
  | .cpym f => (Form.cpy f 4 false ((f.vn == 0 || f.vn == 4) && (!f.bit 10 || 2 ≤ f.scope) && f.immf 5 27 == 0) true, some f)
  | .cpyr f => (Form.cpy f 4 false (f.vn == 0 || f.vn == 1 || f.vn == 4 || f.vn == 5) false, some f)
  | .cpyq f => ({ ok := f.vn ≤ 1, mDef := 0x400, d := sel f.du 1 }, some f)
  | .cpyx f => ({ ok := v0 f, mDef := 0x4FF, d := sel f.du 1 }, some f)
  | .mzero f => ({ ok := v0 f, d := .acc }, some f)
  | .mma f => ({ ok := mmaOk f, mDef := 3, d := .acc, a := .uni 2, b := .uni 2, imm := true }, some f)
  | .madd f => ({ ok := v0 f && part f.d == part f.a.num, d := .acc, a := .acc }, some f)
  | .mcopy f => ({ ok := v0 f && part f.d == part f.a.num, d := .acc, a := .acc }, some f)
  | .mscl f => ({ ok := v0 f && f.immf 24 8 == 0, d := .acc, imm := true }, some f)
  | .mdrainS f => ({ ok := f.vn == 0 && drainOk f false, mDef := 0x3FF0, a := .acc, b := .uni 2, c := if f.bit 5 then .uni 2 else .none,
                     imm := true }, some f)
  | .mdrainR f => ({ ok := f.vn == 1 && drainOk f true, mDef := 0x3FF0, d := .lane (if f.mf 10 4 = 0 ∨ f.mf 10 4 = 10 then 2 else 1),
                     a := .acc, b := .uni 1, imm := true }, some f)
  | .mfill f => ({ ok := v0 f && part f.d == 0, d := .acc, b := .uni 1 }, some f)
  | .mspill f => ({ ok := v0 f && part f.a.num == 0, a := .acc, b := .uni 1 }, some f)
  | .mchk f => ({ ok := v0 f && !f.bit 0, mDef := 1, d := .uni 1, a := .acc }, some f)
  | .mchkFix f => ({ ok := v0 f && f.bit 0 && part f.a.num == 0, mDef := 1, d := .uni 1, a := .acc }, some f)
  | .mfenceAll f => ({ ok := f.vn == 0, eor := true }, some f)
  | .mfenceRd f => ({ ok := f.vn == 1, eor := true }, some f)
  | .mstat f => ({ ok := f.vn ≤ 4, d := .uni 1, a := .acc }, some f)
  | .barsync f => ({ ok := v0 f, mDef := 1, d := .pred, a := .gang, eor := true }, some f)
  | .bararr f => ({ ok := v0 f, mDef := 1, a := .gang, eor := true }, some f)
  | .barwait f => ({ ok := v0 f, d := .pred, a := .gang, eor := true }, some f)
  | .rwaitE f => ({ ok := f.vn == 0, d := .uni 1, a := .ring, b := .uni 1, eor := true }, some f)
  | .rwaitF f => ({ ok := f.vn == 1, d := .uni 1, a := .ring, b := .uni 1, eor := true }, some f)
  | .rput f => ({ ok := v0 f, mDef := 1, a := .ring, b := .uni 1, eor := true }, some f)
  | .rget f => ({ ok := f.vn ≤ 2, d := .uni 1, a := .ring, b := if f.vn = 2 then .uni 1 else .none }, some f)
  | .rfree f => ({ ok := f.vn == 0, mDef := 1, a := .ring, b := .uni 1, eor := true }, some f)
  | .rfreeInit f => ({ ok := f.vn == 1, a := .ring, b := .uni 2, eor := true }, some f)
  | .spawn f => ({ ok := v0 f, d := .pred, a := .uni 8 }, some f)
  | .spawnx f => ({ ok := v0 f && f.immf 8 24 == 0, d := .pred, a := .uni 8, imm := true }, some f)
  | .launch f => ({ ok := v0 f, d := .pred, a := .uni 8 }, some f)
  | .scnew f => ({ ok := f.vn ≤ 1, d := .uni 1, b := .uni 1 }, some f)
  | .cancel f => ({ ok := f.vn == 0, d := .uni 1, a := .uni 1 }, some f)
  | .cancelEnd f => ({ ok := f.vn == 1, d := .uni 1, a := .uni 1 }, some f)
  | .cchk f => ({ ok := f.vn == 0, eor := true }, some f)
  | .cchkT f => ({ ok := f.vn == 1, d := .pred }, some f)
  | .preempt f => ({ ok := v0 f, d := .uni 1, a := .uni 1, eor := true }, some f)
  | .pmig f => (page (f.vn ≤ 5), some f)
  | .pstat f => (page (v0 f), some f)
  | .phot f => (page (v0 f), some f)
  | .pabort f => (page (v0 f), some f)
  | .fltresRetry .. => ({ ok := false }, none)
  | .fltresGiveup .. => ({ ok := false }, none)
  | .issueArbitration .. => ({ ok := false }, none)
  | .ageingRaise .. => ({ ok := false }, none)
  | .producerResult .. => ({ ok := false }, none)
  | .registerSpill .. => ({ ok := false }, none)
  | .registerRefill .. => ({ ok := false }, none)
  | .frontierMove .. => ({ ok := false }, none)
  | .icacheFill .. => ({ ok := false }, none)
  | .boundaryTrap .. => ({ ok := false }, none)
  | .timer .. => ({ ok := false }, none)
  | .exceptionReply .. => ({ ok := false }, none)
  | .fifthFaultRetry .. => ({ ok := false }, none)
  | .replay .. => ({ ok := false }, none)
  | .syscallReply .. => ({ ok := false }, none)
  | .callRingNotice .. => ({ ok := false }, none)
  | .redirection .. => ({ ok := false }, none)
  | .waitaddrEvaluation .. => ({ ok := false }, none)
  | .waitaddrDeadline .. => ({ ok := false }, none)
  | .waitaddrPeriodic .. => ({ ok := false }, none)
  | .sleepExpiry .. => ({ ok := false }, none)
  | .fenceComplete .. => ({ ok := false }, none)
  | .migwArrival .. => ({ ok := false }, none)
  | .writeBufferDrain .. => ({ ok := false }, none)
  | .commandStart .. => ({ ok := false }, none)
  | .burstTranslation .. => ({ ok := false }, none)
  | .burstComplete .. => ({ ok := false }, none)
  | .commandRelease .. => ({ ok := false }, none)
  | .mmaEstimate .. => ({ ok := false }, none)
  | .matrixQueueStart .. => ({ ok := false }, none)
  | .matrixComplete .. => ({ ok := false }, none)
  | .pairPhaseMessage .. => ({ ok := false }, none)
  | .ringUpdate .. => ({ ok := false }, none)
  | .detUpdateArrival .. => ({ ok := false }, none)
  | .windowFold .. => ({ ok := false }, none)
  | .homeAccess .. => ({ ok := false }, none)
  | .hotnessHalving => ({ ok := false }, none)
  | .remoteScopeFlush .. => ({ ok := false }, none)
  | .hostCompletion .. => ({ ok := false }, none)
  | .pageWalk .. => ({ ok := false }, none)
  | .lineCopy .. => ({ ok := false }, none)
  | .lineFlip .. => ({ ok := false }, none)
  | .lineCopyBack .. => ({ ok := false }, none)
  | .migrationRingRoom .. => ({ ok := false }, none)
  | .launchDeposit .. => ({ ok := false }, none)
  | .launchValidation .. => ({ ok := false }, none)
  | .launchPlacement .. => ({ ok := false }, none)
  | .ensembleEnd .. => ({ ok := false }, none)
  | .taskDispatch .. => ({ ok := false }, none)
  | .markingArrival .. => ({ ok := false }, none)
  | .killPoint .. => ({ ok := false }, none)
  | .preemptionSave .. => ({ ok := false }, none)
  | .restore .. => ({ ok := false }, none)
  | .timeSliceExpiry .. => ({ ok := false }, none)
  | .pcreate => ({ ok := false }, none)
  | .pdestroy => ({ ok := false }, none)
  | .grant => ({ ok := false }, none)
  | .slice => ({ ok := false }, none)
  | .setrt => ({ ok := false }, none)
  | .dierst => ({ ok := false }, none)
  | .wreg => ({ ok := false }, none)
  | .rreg => ({ ok := false }, none)
  | .memmap => ({ ok := false }, none)
  | .warmResetRefusal .. => ({ ok := false }, none)
  | .dieWriteBack .. => ({ ok := false }, none)
  | .dieRetraining .. => ({ ok := false }, none)
  | .dieReadmission .. => ({ ok := false }, none)
  | .coldReset .. => ({ ok := false }, none)
  | .functionLevelReset => ({ ok := false }, none)
  | .linkTraining .. => ({ ok := false }, none)
  | .getVersion => ({ ok := false }, none)
  | .getCapabilities => ({ ok := false }, none)
  | .negotiateAlgorithms => ({ ok := false }, none)
  | .getDigests => ({ ok := false }, none)
  | .getCertificate => ({ ok := false }, none)
  | .challenge => ({ ok := false }, none)
  | .getMeasurements => ({ ok := false }, none)
  | .keyExchange => ({ ok := false }, none)
  | .finish .. => ({ ok := false }, none)
  | .keySlotLoad .. => ({ ok := false }, none)
  | .keySlotUnload .. => ({ ok := false }, none)
  | .cxlPortDown .. => ({ ok := false }, none)
  | .memoryOutOfService .. => ({ ok := false }, none)
  | .hbmLaneRepair .. => ({ ok := false }, none)
  | .leneoLaneRepair .. => ({ ok := false }, none)
  | .guardBandSample .. => ({ ok := false }, none)
  | .chmapChange .. => ({ ok := false }, none)
  | .powerBudgetAdjust .. => ({ ok := false }, none)
  | .remoteRequest .. => ({ ok := false }, none)
  | .nodeUnreachable .. => ({ ok := false }, none)
  | .cxlPortRetrain .. => ({ ok := false }, none)
  | .linkStateChange .. => ({ ok := false }, none)
  | .warmModuleReset => ({ ok := false }, none)
  | .hostAccess .. => ({ ok := false }, none)
  | .doorbell .. => ({ ok := false }, none)
  | .remoteFaultResolution .. => ({ ok := false }, none)

/-- The fields of an instruction; none for an event. -/
def Instr.frame? (i : Instr) : Option Frame := i.shape.2

/-- The marks of a source field are zero (R57). -/
def Src.noMarks (s : Src) : Bool := !s.lu && !s.keep && !s.ep

/-- The number of a uniform register: `cat(xH, NUM)` (R60). -/
def uniNum (h : BitVec 2) (n : BitVec 8) : Nat := h.toNat * 256 + n.toNat

/-- A field fits its class (R57, R60, R81, R194, R221, R271, R275, R313). -/
def Opd.fits (o : Opd) (s : Src) (h : BitVec 2) : Bool :=
  match o with
  | .none => s.noMarks && s.num == 0 && h == 0
  | .raw => s.noMarks && h == 0
  | .lane n => h == 0 && (s.num == 255 || s.num.toNat % n == 0)
  | .uni n => uniNum h s.num % n == 0
  | .pred => s.noMarks && s.num.toNat < 8 && h == 0
  | .acc => s.noMarks && Form.part s.num != 3 && h == 0
  | .gang => s.noMarks && h == 0
  | .ring => s.noMarks && s.num.toNat < 32 && h == 0
  | .win => s.noMarks && s.num.toNat < 8 && h == 0
  | .xz => s.num == 255 && h == 0

/-- The destination field carries NUM alone (R57). -/
def Frame.dSrc (f : Frame) : Src := ⟨f.d, false, false, false⟩

/-- The encoding carries REX (R59, R61). -/
def Form.hasRex : Form → Bool
  | .f96r => true | .f128 => true | .f64 => false | .f96i => false

/-- The fields that a shorter form does not carry are zero. The decoder makes them so. -/
def Frame.canon (f : Frame) : Bool :=
  (f.form.hasRex || (f.c == Src.zero && f.ah == 0 && f.bh == 0 && f.ch == 0 && f.dh == 0)) &&
  (f.form == .f96i || f.form == .f128 || f.imm == 0) && (f.form == .f128 || f.wt == 0)

/-- Step 6 of R67 but for the run counter of R63: the field, length and end-of-run rules (R41, R57 to R62). -/
def Shape.legal (sh : Shape) (f : Frame) : Bool :=
  !f.bad && f.canon && sh.ok && (f.m.toNat ||| sh.mDef == sh.mDef) &&
  sh.d.fits f.dSrc f.dh && sh.a.fits f.a f.ah && sh.b.fits f.b f.bh && sh.c.fits f.c f.ch &&
  (sh.c == .none || f.form.hasRex) && (sh.imm || f.imm == 0) && (!sh.eor || f.eor)

/-- The field rules hold of an instruction. An event has no encoding. -/
def Instr.legal (i : Instr) : Bool :=
  match i.shape with
  | (sh, some f) => sh.legal f
  | (_, none) => false

/-- The registers that a field names, `xz` apart (R21, R23), also as the high half of a pair named at x254 (log entry 79). -/
def Opd.regs (o : Opd) (num : BitVec 8) (h : BitVec 2) : List Reg :=
  match o with
  | .lane n => if num = 255 then [] else ((List.range n).map (num.toNat + ·)).filterMap fun r => if r = 255 then (Option.none : Option Reg) else Option.some (Reg.x r)
  | .uni n => (List.range n).map fun i => .k (uniNum h num + i)
  | _ => []

/-- The source registers of an instruction with their field (R33). -/
def Shape.reads (sh : Shape) (f : Frame) : List (Reg × Src) :=
  (sh.a.regs f.a.num f.ah).map (·, f.a) ++ (sh.b.regs f.b.num f.bh).map (·, f.b) ++ (sh.c.regs f.c.num f.ch).map (·, f.c)

/-- The destination registers of an instruction. -/
def Shape.writes (sh : Shape) (f : Frame) : List Reg := sh.d.regs f.d f.dh

/-- The uniform register that field A, B, C or D names (R60). -/
def Frame.ka (f : Frame) : Nat := uniNum f.ah f.a.num
def Frame.kb (f : Frame) : Nat := uniNum f.bh f.b.num
def Frame.kc (f : Frame) : Nat := uniNum f.ch f.c.num
def Frame.kd (f : Frame) : Nat := uniNum f.dh f.d
def Frame.xa (f : Frame) : Nat := f.a.num.toNat
def Frame.xb (f : Frame) : Nat := f.b.num.toNat
def Frame.xc (f : Frame) : Nat := f.c.num.toNat
def Frame.xd (f : Frame) : Nat := f.d.toNat

/-- Registers released by last-use marks, with their KEEP marks (R25). -/
def Shape.releases (sh : Shape) (f : Frame) : List (Reg × Bool) :=
  ((sh.reads f).filter fun p => p.2.lu).map fun p => (p.1, p.2.keep)

/-- The role that an opcode needs (R43, R65): 1 matrix, 2 transfer. -/
def Instr.role? : Instr → Option Nat
  | .mzero _ => some 1
  | .mma _ => some 1
  | .madd _ => some 1
  | .mcopy _ => some 1
  | .mscl _ => some 1
  | .mdrainS _ => some 1
  | .mdrainR _ => some 1
  | .mfill _ => some 1
  | .mspill _ => some 1
  | .mchk _ => some 1
  | .mchkFix _ => some 1
  | .mfenceAll _ => some 1
  | .mfenceRd _ => some 1
  | .mstat _ => some 1
  | .cpy _ => some 2
  | .cpyt _ => some 2
  | .cpym _ => some 2
  | .cpyr _ => some 2
  | .cpyq _ => some 2
  | .cpyx _ => some 2
  | _ => none

/-- The six registers numbered 0x100 and above that every warp may read (R174). -/
def Form.srOpen (n : Nat) : Bool := [0x110, 0x117, 0x118, 0x119, 0x11A, 0x120].contains n

/-- A privileged form (R65, R174, R285); `unchk` is `MXCTL.UNCHK`. The second answer is whether the warp may issue it. -/
def Instr.permitted (i : Instr) (priv unchk : Bool) : Bool :=
  match i with
  | .getsr f => let n := Form.srNum f; priv || n < 0x100 || !Form.srNumbers.contains n || Form.srOpen n
  | .setsr f => let n := Form.srNum f; priv || n < 0x100 || !Form.srNumbers.contains n
  | .tlbinvWrite _ => priv
  | .errinjWrite _ => priv
  | .preempt _ => priv
  | .pabort _ => priv
  | .mma f => f.vn != 3 || (priv && unchk)
  | _ => true

end Sys2Proof
end

