-- ==== Sys2Proof/WellFormed.lean ====
section
/-! DEFINITION. Well-formed instructions: step 6 of R67 but for the run counter, as one decidable check. -/

namespace Sys2Proof

/-- The field, length and end-of-run rules of R41 and R57 to R62 hold. An event is no encoded instruction. -/
def WellFormed (i : Instr) : Bool := i.legal

end Sys2Proof
end

