-- ==== Sys2Proof/Decode.lean ====
section
/-! DEFINITION. Decoding of instruction words (R50 to R64) with its rejections by name, and after it the encoder. The fields, the lengths and
the opcodes are those of the encoding tables; whether the fields are legal is `WellFormed`. -/

namespace Sys2Proof

/-- Why words are no instruction (R66). -/
inductive Reject where
  /-- LEN is 0b11 with another bit set: illegal encoding (R51). -/
  | padForm
  /-- The pad word, which is not issued (R51). -/
  | pad
  /-- An unassigned or reserved opcode: illegal instruction (R64). -/
  | unassigned (op : BitVec 9)
  deriving DecidableEq, Repr

/-- LEN of a first word (R50). -/
def lenOf (w0 : W32) : BitVec 2 := w0.extractLsb' 0 2

/-- The 9-bit opcode of a first word (R53). -/
def opField (w0 : W32) : BitVec 9 := w0.extractLsb' 7 9

/-- The length in bytes that LEN gives; 4 for the pad form (R50). -/
def lenBytes (w0 : W32) : Nat := if lenOf w0 = 0 then 8 else if lenOf w0 = 1 then 12 else if lenOf w0 = 2 then 16 else 4

/-- A source field (R56). -/
def srcOf (b : BitVec 11) : Src := ⟨b.extractLsb' 0 8, b.getLsbD 8, b.getLsbD 9, b.getLsbD 10⟩

/-- The bits of a source field (R56). -/
def srcBits (s : Src) : BitVec 11 := BitVec.ofBool s.ep ++ BitVec.ofBool s.keep ++ BitVec.ofBool s.lu ++ s.num

/-- The form that LEN and XK select (R50, R59). -/
def formOf (len : BitVec 2) (xk : Bool) : Form :=
  if len = 0 then .f64 else if len = 1 then (if xk then .f96r else .f96i) else .f128

/-- The fields of an instruction of this form (R53, R59 to R61). `base` is bits [63:0], `x` bits [95:64], `y` bits [127:96]. -/
def frameOf (base : W64) (x y : W32) : Frame :=
  let xk := base.getLsbD 63
  let form := formOf (base.extractLsb' 0 2) xk
  let rex := form.hasRex
  { form := form
    eor := base.getLsbD 2
    guard := base.extractLsb' 3 3
    gneg := base.getLsbD 6
    v := base.extractLsb' 16 3
    d := base.extractLsb' 19 8
    a := srcOf (base.extractLsb' 27 11)
    b := srcOf (base.extractLsb' 38 11)
    c := if rex then srcOf (x.extractLsb' 8 11) else Src.zero
    ah := if rex then x.extractLsb' 19 2 else 0
    bh := if rex then x.extractLsb' 21 2 else 0
    ch := if rex then x.extractLsb' 23 2 else 0
    dh := if rex then x.extractLsb' 25 2 else 0
    m := base.extractLsb' 49 14
    imm := if form = .f96i then x else if form = .f128 then y else 0
    wt := if form = .f128 then x.extractLsb' 0 8 else 0
    bad := (xk && (form == .f64 || form == .f128)) || (rex && x.extractLsb' 27 5 != 0) || (form == .f96r && x.extractLsb' 0 8 != 0) }

/-- The instruction of an opcode (R64). An opcode of several rows is told apart by its variant, its modifier or its register number; a
variant that no row defines goes to the first row, whose field rules refuse it. -/
def instrOf (op : BitVec 9) (f : Frame) : Option Instr :=
  match op.toNat with
  | 0x001 => some (.iadd f)
  | 0x002 => some (.isub f)
  | 0x003 => some (.iaddc f)
  | 0x004 => some (.isubb f)
  | 0x005 => some (.ineg f)
  | 0x006 => some (.iabs f)
  | 0x007 => some (.imin f)
  | 0x008 => some (.imax f)
  | 0x009 => some (.imul f)
  | 0x00A => some (.imulhi f)
  | 0x00B => some (.imad f)
  | 0x00C => some (.imadw f)
  | 0x00D => some (.isad f)
  | 0x00E => some (.dot4 f)
  | 0x00F => some (.dot8 f)
  | 0x010 => some (.shl f)
  | 0x011 => some (.shr f)
  | 0x012 => some (.sar f)
  | 0x013 => some (.shf f)
  | 0x014 => some (.rot f)
  | 0x015 => some (.and f)
  | 0x016 => some (.or f)
  | 0x017 => some (.xor f)
  | 0x018 => some (.lop3 f)
  | 0x019 => some (.popc f)
  | 0x01A => some (.clz f)
  | 0x01B => some (.ctz f)
  | 0x01C => some (.brev f)
  | 0x01D => some (.bfx f)
  | 0x01E => some (.bfi f)
  | 0x01F => some (.prmt f)
  | 0x020 => some (.icmp f)
  | 0x021 => some (.isel f)
  | 0x022 => some (.mov f)
  | 0x023 => some (.movi f)
  | 0x024 => some (.lea f)
  | 0x025 => some (.iadd64 f)
  | 0x026 => some (.icmp64 f)
  | 0x027 => some (.sext f)
  | 0x028 => some (.zext f)
  | 0x029 => some (.clampi f)
  | 0x040 => some (.fadd f)
  | 0x041 => some (.fsub f)
  | 0x042 => some (.fmul f)
  | 0x043 => some (.fma f)
  | 0x044 => some (.fmin f)
  | 0x045 => some (.fmax f)
  | 0x046 => some (.fcmp f)
  | 0x047 => some (.frnd f)
  | 0x048 => some (.fclass f)
  | 0x049 => some (.hadd2 f)
  | 0x04A => some (.hmul2 f)
  | 0x04B => some (.hfma2 f)
  | 0x04C => some (.hmnx2 f)
  | 0x04D => some (.bfma2 f)
  | 0x04E => some (.cvt f)
  | 0x04F => some (.cvtsr f)
  | 0x050 => some (.cvtpk f)
  | 0x051 => some (.cvtmx f)
  | 0x080 => some (.bra f)
  | 0x081 => some (.brx f)
  | 0x082 => some (.call f)
  | 0x083 => some (.callx f)
  | 0x084 => some (.ret f)
  | 0x085 => some (.exit f)
  | 0x086 => some (.nop f)
  | 0x087 => some (.yield f)
  | 0x088 => some (.setprio f)
  | 0x089 => some (.brk f)
  | 0x08A => some (if f.v = 1 then .waitSt f else if f.v = 2 then .waitAll f else .waitRegs f)
  | 0x08B => some (.sleep f)
  | 0x08C => some (.waitaddr f)
  | 0x0A0 => some (.pset f)
  | 0x0A1 => some (.plop f)
  | 0x0A2 => some (.pmov f)
  | 0x0A3 => some (.shfl f)
  | 0x0A4 => some (.vote f)
  | 0x0A5 => some (.redux f)
  | 0x0A6 => some (.scan f)
  | 0x0A7 => some (.matchLanes f)
  | 0x0A8 => some (.lanes f)
  | 0x0C0 => some (.rcp f)
  | 0x0C1 => some (.rsq f)
  | 0x0C2 => some (.sqrt f)
  | 0x0C3 => some (.ex2 f)
  | 0x0C4 => some (.lg2 f)
  | 0x0C5 => some (.sin f)
  | 0x0C6 => some (.cos f)
  | 0x0C7 => some (.tanh f)
  | 0x0C8 => some (.sigm f)
  | 0x0C9 => some (.erf f)
  | 0x0E0 => some (.syscall f)
  | 0x0E1 => some (if f.v = 1 then .tmsetAbs f else if f.v = 2 then .tmsetOff f else .tmsetRel f)
  | 0x0E2 => some (.trapret f)
  | 0x0E3 => some (if f.v = 1 then .oplogKill f else .oplogRetry f)
  | 0x0E4 => some (if f.v = 1 then .psnclrReg f else .psnclr f)
  | 0x0E5 => some (.getsr f)
  | 0x0E6 => some (if Form.srNum f = 0x112 then .tlbinvWrite f else if Form.srNum f = 0x11B then .errinjWrite f else .setsr f)
  | 0x0E7 => some (if f.v = 1 then .nodeqMap f else .nodeqSt f)
  | 0x100 => some (.ldl f)
  | 0x101 => some (.stl f)
  | 0x102 => some (.lds f)
  | 0x103 => some (.sts f)
  | 0x104 => some (.ldp f)
  | 0x105 => some (.ldc f)
  | 0x106 => some (.stc f)
  | 0x107 => some (.ldo f)
  | 0x108 => some (.sto f)
  | 0x109 => some (.ldg f)
  | 0x10A => some (.stg f)
  | 0x10B => some (.prfg f)
  | 0x10C => some (.ldh f)
  | 0x10D => some (.sth f)
  | 0x10E => some (if f.v = 1 then .fenceAcq f else if f.v = 2 then .fenceRel f else if f.v = 3 then .fencePath f else .fenceAr f)
  | 0x10F => some (.migw f)
  | 0x140 => some (.atoms f)
  | 0x141 => some (.atomc f)
  | 0x142 => some (.atomo f)
  | 0x143 => some (.atomg f)
  | 0x144 => some (if f.bit 9 then .redgDet f else .redg f)
  | 0x145 => some (.atomh f)
  | 0x146 => some (.detcommit f)
  | 0x160 => some (.cpy f)
  | 0x161 => some (.cpyt f)
  | 0x162 => some (.cpyr f)
  | 0x163 => some (.cpym f)
  | 0x164 => some (.cpyq f)
  | 0x165 => some (.cpyx f)
  | 0x180 => some (.mzero f)
  | 0x181 => some (.mma f)
  | 0x182 => some (.madd f)
  | 0x183 => some (.mcopy f)
  | 0x184 => some (.mscl f)
  | 0x185 => some (if f.v = 1 then .mdrainR f else .mdrainS f)
  | 0x186 => some (.mfill f)
  | 0x187 => some (.mspill f)
  | 0x188 => some (if f.bit 0 then .mchkFix f else .mchk f)
  | 0x189 => some (if f.v = 1 then .mfenceRd f else .mfenceAll f)
  | 0x18A => some (.mstat f)
  | 0x1C0 => some (.barsync f)
  | 0x1C1 => some (.bararr f)
  | 0x1C2 => some (.barwait f)
  | 0x1C3 => some (if f.v = 1 then .rwaitF f else .rwaitE f)
  | 0x1C4 => some (.rput f)
  | 0x1C5 => some (.rget f)
  | 0x1C6 => some (if f.v = 1 then .rfreeInit f else .rfree f)
  | 0x1E0 => some (.spawn f)
  | 0x1E1 => some (.spawnx f)
  | 0x1E2 => some (.launch f)
  | 0x1E3 => some (.scnew f)
  | 0x1E4 => some (if f.v = 1 then .cancelEnd f else .cancel f)
  | 0x1E5 => some (if f.v = 1 then .cchkT f else .cchk f)
  | 0x1E6 => some (.preempt f)
  | 0x1E7 => some (.pmig f)
  | 0x1E8 => some (.pstat f)
  | 0x1E9 => some (.phot f)
  | 0x1EA => some (.pabort f)
  | _ => none

/-- Decoding from up to four words, the first at the lowest address. Words that the length does not reach are ignored. -/
def decodeWords (w0 w1 w2 w3 : W32) : Except Reject Instr :=
  if lenOf w0 = 3 then .error (if w0 = 3 then .pad else .padForm)
  else
    match instrOf (opField w0) (frameOf (w1 ++ w0) w2 w3) with
    | some i => .ok i
    | none => .error (.unassigned (opField w0))

/-- A 32-bit word of bytes, little-endian (R6). -/
def wordOf : List Byte → W32
  | [a, b, c, d] => d ++ c ++ b ++ a
  | _ => 0

/-- Decoding from bytes. -/
def decodeBytes (bs : List Byte) : Except Reject Instr :=
  decodeWords (wordOf (bs.take 4)) (wordOf ((bs.drop 4).take 4)) (wordOf ((bs.drop 8).take 4)) (wordOf ((bs.drop 12).take 4))

/-- The instruction that the decoder reads from `nbits` bits `w`, the bits above them zero. -/
def decodeTableWord (nbits w : Nat) : Option Instr :=
  let w := w % 2 ^ nbits
  match decodeWords (BitVec.ofNat 32 w) (BitVec.ofNat 32 (w >>> 32)) (BitVec.ofNat 32 (w >>> 64)) (BitVec.ofNat 32 (w >>> 96)) with
  | .ok i => some i
  | .error _ => none

/-! ## Encoding -/

/-- The opcode of an instruction (R64); 0 for an event. -/
def Instr.op : Instr → BitVec 9
  | .iadd _ => 0x001
  | .isub _ => 0x002
  | .iaddc _ => 0x003
  | .isubb _ => 0x004
  | .ineg _ => 0x005
  | .iabs _ => 0x006
  | .imin _ => 0x007
  | .imax _ => 0x008
  | .imul _ => 0x009
  | .imulhi _ => 0x00A
  | .imad _ => 0x00B
  | .imadw _ => 0x00C
  | .isad _ => 0x00D
  | .dot4 _ => 0x00E
  | .dot8 _ => 0x00F
  | .shl _ => 0x010
  | .shr _ => 0x011
  | .sar _ => 0x012
  | .shf _ => 0x013
  | .rot _ => 0x014
  | .and _ => 0x015
  | .or _ => 0x016
  | .xor _ => 0x017
  | .lop3 _ => 0x018
  | .popc _ => 0x019
  | .clz _ => 0x01A
  | .ctz _ => 0x01B
  | .brev _ => 0x01C
  | .bfx _ => 0x01D
  | .bfi _ => 0x01E
  | .prmt _ => 0x01F
  | .icmp _ => 0x020
  | .icmp64 _ => 0x026
  | .isel _ => 0x021
  | .mov _ => 0x022
  | .movi _ => 0x023
  | .lea _ => 0x024
  | .iadd64 _ => 0x025
  | .sext _ => 0x027
  | .zext _ => 0x028
  | .clampi _ => 0x029
  | .fadd _ => 0x040
  | .fsub _ => 0x041
  | .fmul _ => 0x042
  | .fma _ => 0x043
  | .fmin _ => 0x044
  | .fmax _ => 0x045
  | .fcmp _ => 0x046
  | .frnd _ => 0x047
  | .fclass _ => 0x048
  | .hadd2 _ => 0x049
  | .hmul2 _ => 0x04A
  | .hfma2 _ => 0x04B
  | .hmnx2 _ => 0x04C
  | .bfma2 _ => 0x04D
  | .cvt _ => 0x04E
  | .cvtsr _ => 0x04F
  | .cvtpk _ => 0x050
  | .cvtmx _ => 0x051
  | .bra _ => 0x080
  | .brx _ => 0x081
  | .call _ => 0x082
  | .callx _ => 0x083
  | .ret _ => 0x084
  | .exit _ => 0x085
  | .nop _ => 0x086
  | .yield _ => 0x087
  | .setprio _ => 0x088
  | .brk _ => 0x089
  | .waitRegs _ => 0x08A
  | .waitSt _ => 0x08A
  | .waitAll _ => 0x08A
  | .sleep _ => 0x08B
  | .waitaddr _ => 0x08C
  | .pset _ => 0x0A0
  | .plop _ => 0x0A1
  | .pmov _ => 0x0A2
  | .shfl _ => 0x0A3
  | .vote _ => 0x0A4
  | .redux _ => 0x0A5
  | .scan _ => 0x0A6
  | .matchLanes _ => 0x0A7
  | .lanes _ => 0x0A8
  | .rcp _ => 0x0C0
  | .rsq _ => 0x0C1
  | .sqrt _ => 0x0C2
  | .ex2 _ => 0x0C3
  | .lg2 _ => 0x0C4
  | .sin _ => 0x0C5
  | .cos _ => 0x0C6
  | .tanh _ => 0x0C7
  | .sigm _ => 0x0C8
  | .erf _ => 0x0C9
  | .syscall _ => 0x0E0
  | .tmsetRel _ => 0x0E1
  | .tmsetAbs _ => 0x0E1
  | .tmsetOff _ => 0x0E1
  | .trapret _ => 0x0E2
  | .oplogRetry _ => 0x0E3
  | .oplogKill _ => 0x0E3
  | .psnclr _ => 0x0E4
  | .psnclrReg _ => 0x0E4
  | .getsr _ => 0x0E5
  | .setsr _ => 0x0E6
  | .tlbinvWrite _ => 0x0E6
  | .fltresRetry .. => 0
  | .fltresGiveup .. => 0
  | .errinjWrite _ => 0x0E6
  | .nodeqSt _ => 0x0E7
  | .nodeqMap _ => 0x0E7
  | .ldl _ => 0x100
  | .stl _ => 0x101
  | .lds _ => 0x102
  | .sts _ => 0x103
  | .ldp _ => 0x104
  | .ldc _ => 0x105
  | .stc _ => 0x106
  | .ldo _ => 0x107
  | .sto _ => 0x108
  | .ldg _ => 0x109
  | .stg _ => 0x10A
  | .prfg _ => 0x10B
  | .ldh _ => 0x10C
  | .sth _ => 0x10D
  | .fenceAr _ => 0x10E
  | .fenceAcq _ => 0x10E
  | .fenceRel _ => 0x10E
  | .fencePath _ => 0x10E
  | .migw _ => 0x10F
  | .atoms _ => 0x140
  | .atomc _ => 0x141
  | .atomo _ => 0x142
  | .atomg _ => 0x143
  | .redg _ => 0x144
  | .redgDet _ => 0x144
  | .atomh _ => 0x145
  | .detcommit _ => 0x146
  | .cpy _ => 0x160
  | .cpyt _ => 0x161
  | .cpym _ => 0x163
  | .cpyr _ => 0x162
  | .cpyq _ => 0x164
  | .cpyx _ => 0x165
  | .mzero _ => 0x180
  | .mma _ => 0x181
  | .madd _ => 0x182
  | .mcopy _ => 0x183
  | .mscl _ => 0x184
  | .mdrainS _ => 0x185
  | .mdrainR _ => 0x185
  | .mfill _ => 0x186
  | .mspill _ => 0x187
  | .mchk _ => 0x188
  | .mchkFix _ => 0x188
  | .mfenceAll _ => 0x189
  | .mfenceRd _ => 0x189
  | .mstat _ => 0x18A
  | .barsync _ => 0x1C0
  | .bararr _ => 0x1C1
  | .barwait _ => 0x1C2
  | .rwaitE _ => 0x1C3
  | .rwaitF _ => 0x1C3
  | .rput _ => 0x1C4
  | .rget _ => 0x1C5
  | .rfree _ => 0x1C6
  | .rfreeInit _ => 0x1C6
  | .spawn _ => 0x1E0
  | .spawnx _ => 0x1E1
  | .launch _ => 0x1E2
  | .scnew _ => 0x1E3
  | .cancel _ => 0x1E4
  | .cancelEnd _ => 0x1E4
  | .cchk _ => 0x1E5
  | .cchkT _ => 0x1E5
  | .preempt _ => 0x1E6
  | .pmig _ => 0x1E7
  | .pstat _ => 0x1E8
  | .phot _ => 0x1E9
  | .pabort _ => 0x1EA
  | .issueArbitration .. => 0
  | .ageingRaise .. => 0
  | .producerResult .. => 0
  | .registerSpill .. => 0
  | .registerRefill .. => 0
  | .frontierMove .. => 0
  | .icacheFill .. => 0
  | .boundaryTrap .. => 0
  | .timer .. => 0
  | .exceptionReply .. => 0
  | .fifthFaultRetry .. => 0
  | .replay .. => 0
  | .syscallReply .. => 0
  | .callRingNotice .. => 0
  | .redirection .. => 0
  | .waitaddrEvaluation .. => 0
  | .waitaddrDeadline .. => 0
  | .waitaddrPeriodic .. => 0
  | .sleepExpiry .. => 0
  | .fenceComplete .. => 0
  | .migwArrival .. => 0
  | .writeBufferDrain .. => 0
  | .commandStart .. => 0
  | .burstTranslation .. => 0
  | .burstComplete .. => 0
  | .commandRelease .. => 0
  | .mmaEstimate .. => 0
  | .matrixQueueStart .. => 0
  | .matrixComplete .. => 0
  | .pairPhaseMessage .. => 0
  | .ringUpdate .. => 0
  | .detUpdateArrival .. => 0
  | .windowFold .. => 0
  | .homeAccess .. => 0
  | .hotnessHalving => 0
  | .remoteScopeFlush .. => 0
  | .hostCompletion .. => 0
  | .pageWalk .. => 0
  | .lineCopy .. => 0
  | .lineFlip .. => 0
  | .lineCopyBack .. => 0
  | .migrationRingRoom .. => 0
  | .launchDeposit .. => 0
  | .launchValidation .. => 0
  | .launchPlacement .. => 0
  | .ensembleEnd .. => 0
  | .taskDispatch .. => 0
  | .markingArrival .. => 0
  | .killPoint .. => 0
  | .preemptionSave .. => 0
  | .restore .. => 0
  | .timeSliceExpiry .. => 0
  | .pcreate => 0
  | .pdestroy => 0
  | .grant => 0
  | .slice => 0
  | .setrt => 0
  | .dierst => 0
  | .wreg => 0
  | .rreg => 0
  | .memmap => 0
  | .warmResetRefusal .. => 0
  | .dieWriteBack .. => 0
  | .dieRetraining .. => 0
  | .dieReadmission .. => 0
  | .coldReset .. => 0
  | .functionLevelReset => 0
  | .linkTraining .. => 0
  | .getVersion => 0
  | .getCapabilities => 0
  | .negotiateAlgorithms => 0
  | .getDigests => 0
  | .getCertificate => 0
  | .challenge => 0
  | .getMeasurements => 0
  | .keyExchange => 0
  | .finish .. => 0
  | .keySlotLoad .. => 0
  | .keySlotUnload .. => 0
  | .cxlPortDown .. => 0
  | .memoryOutOfService .. => 0
  | .hbmLaneRepair .. => 0
  | .leneoLaneRepair .. => 0
  | .guardBandSample .. => 0
  | .chmapChange .. => 0
  | .powerBudgetAdjust .. => 0
  | .remoteRequest .. => 0
  | .nodeUnreachable .. => 0
  | .cxlPortRetrain .. => 0
  | .linkStateChange .. => 0
  | .warmModuleReset => 0
  | .hostAccess .. => 0
  | .doorbell .. => 0
  | .remoteFaultResolution .. => 0

/-- LEN of a form (R50). -/
def Form.len : Form → BitVec 2
  | .f64 => 0 | .f96i => 1 | .f96r => 1 | .f128 => 2

/-- Bits [63:0] (R53). -/
def baseBits (op : BitVec 9) (f : Frame) : W64 :=
  (BitVec.ofBool (f.form == .f96r) ++ f.m ++ srcBits f.b ++ srcBits f.a ++ f.d ++ f.v ++ op ++ BitVec.ofBool f.gneg ++ f.guard ++
    BitVec.ofBool f.eor ++ f.form.len : BitVec 64)

/-- The register extension with its low byte (R60, R61). -/
def rexBits (f : Frame) (low : BitVec 8) : W32 := (0#5 ++ f.dh ++ f.ch ++ f.bh ++ f.ah ++ srcBits f.c ++ low : BitVec 32)

/-- Bits [95:64]. -/
def extBits (f : Frame) : W32 :=
  match f.form with
  | .f64 => 0
  | .f96i => f.imm
  | .f96r => rexBits f 0
  | .f128 => rexBits f f.wt

/-- The words of a well-formed instruction, the first at the lowest address. -/
def encode (i : Instr) : List W32 :=
  match i.frame? with
  | none => []
  | some f =>
    let b := baseBits i.op f
    let ws := [b.extractLsb' 0 32, b.extractLsb' 32 32, extBits f, if f.form = .f128 then f.imm else 0]
    ws.take (f.form.bytes / 4)

end Sys2Proof
end

