-- ==== Sys2Proof/Machine/State.lean ====
section
/-! DEFINITION. The state of one device, as plain data: warps, cores, clusters, dies, control plane, management plane, and the
agenda that says which agent acts next. -/

namespace Sys2Proof.Machine

/-- Sparse data by number, keys strictly rising. -/
abbrev Tbl (α : Type) := List (Nat × α)

/-! ## Warps -/

/-- A frontier entry (R37). -/
structure Entry where
  prio : BitVec 8
  pc : BitVec 57
  mask : Mask
  deriving DecidableEq, Repr

/-- A bound lane register (R24, R26, R27, R29): its 32 words, poison tags, the words that fail SECDED, full/empty, its place, and the
stamp of its last access. -/
structure LReg where
  val : Lanes W32
  tag : Mask
  bad : Mask := 0
  empty : Bool := false
  spilled : Bool := false
  stamp : Nat := 0
  deriving DecidableEq, Repr

/-- A bound uniform register (R24, R26, R27, R29). -/
structure UReg where
  val : W64
  tag : Bool
  bad : Bool := false
  empty : Bool := false
  spilled : Bool := false
  stamp : Nat := 0
  deriving DecidableEq, Repr

/-- A value on its way to a register (R32): for a lane register the lanes written, their values and tags. -/
inductive Put where
  | x (n : Nat) (mask : Mask) (val : Lanes W32) (tag : Mask)
  | k (n : Nat) (val : W64) (tag : Bool)
  deriving DecidableEq, Repr

/-- A producer's result that is ready to be written (R32). `psn` says that it brings poison from memory to the instruction at `pc` (R196);
`marking` names the scope whose marking must first have reached every die (R441). -/
structure Result where
  id : Nat
  puts : List Put
  psn : Bool := false
  pc : BitVec 57 := 0
  marking : Option Nat := none
  deriving DecidableEq, Repr

/-- The spaces of memory instructions (R364). `slice` is the lane-private slice, `window` a parameter window. -/
inductive Space where
  | scratch | slice | window | cluster | grotto | global | host
  deriving DecidableEq, Repr

/-- What an access does at each byte or word. `ext` is the width code of R194. -/
inductive AccOp where
  | load (v : Nat)
  | store
  | atomic (aop : Nat)
  | det (gang ord seq : Nat)
  deriving DecidableEq, Repr

/-- One lane of an access: its address in its space, the byte keys of the one memory that it reaches, its operands, and the target node of a
fabric-remote page. -/
structure LaneAcc where
  lane : Nat
  addr : Nat
  keys : List Nat
  data : List Byte := []
  new : List Byte := []
  tag : Bool := false
  node : Option Nat := none
  deriving DecidableEq, Repr

/-- The destination of a loading access (R346): lane registers from `n`, or uniform registers from `n`. -/
inductive Dest where
  | none
  | lane (n count : Nat)
  | uni (n count : Nat)
  deriving DecidableEq, Repr

/-- An access of a warp that has issued (R165, R347). `rot` is the rotation code, `rel` the scope at which its write releases (R369, R378);
`after` the number below which loads of its warp perform before it, since a fence lies between; `done`
holds the lanes that have performed, with the bytes that they read and whether these are poison; `failed` the lanes that failed at their home, with
their codes; `psn` says that a poisoned word was loaded; `entry` names the operand-log entry that the access replays. -/
structure Access where
  id : Nat
  w : Nat
  instr : Instr
  pc : BitVec 57
  space : Space
  op : AccOp
  width : Nat
  dest : Dest
  lanes : List LaneAcc
  act : Mask
  ord : Nat
  scope : Nat
  rp : Bool := false
  cp : Nat := 0
  core : Nat := 0
  proc : Nat := 0
  rot : Nat := 0
  rel : Option Nat := Option.none
  issuedAt : Nat := 0
  after : Nat := 0
  done : List (Nat × List Byte × Bool) := []
  failed : List (Nat × Nat) := []
  psn : Bool := false
  entry : Option Nat := Option.none
  deriving DecidableEq, Repr

/-- States of an operand-log entry other than free (R169). -/
inductive LogState where
  | pending | queued | failed
  deriving DecidableEq, Repr

/-- An occupied operand-log entry (R165, R170). `raised` says that the trap for its failure has been taken; `order` is the queueing order of replays;
`record` is the fault record that it waits for, and `remote` says that the record lies at another node (R507). -/
structure LogEntry where
  state : LogState
  code : Nat
  acc : Access
  raised : Bool := false
  order : Nat := 0
  record : Option (Nat × Nat) := none
  remote : Bool := false
  deriving DecidableEq, Repr

/-- A `waitaddr` watch (R135, R136): its read, the compare value, the condition, the acquire scope, the predicate and the deadline. `faulted` says that its
read has faulted, `entry` the operand-log entry that holds the read, `far` that the word lies at another node (R508), and `sent` the clk at which a read that has
had no response set out for one (R514). -/
structure Watch where
  acc : Access
  cmp : W64
  cond : Nat
  acq : Option Nat
  pd : Nat
  deadline : Option Nat
  lastEval : Nat
  faulted : Bool := false
  entry : Option Nat := none
  far : Bool := false
  sent : Option Nat := none
  deriving DecidableEq, Repr

/-- Why a warp does not issue its head instruction. `kill` says that the wait is a kill point (R430). A warp gives up its issue slot for each of them (R42, R185) but for a full matrix queue (`mxFull`, R278). -/
inductive Wait where
  | regs (rs : List Reg)
  | binding (lanePool : Bool) (need : Nat)
  | refill (r : Reg)
  | oplog
  | pages (ps : List Nat)
  | fifth
  | access (id scope : Nat)
  | flush (cores : List Nat) (upto scope : Nat)
  | pool (n : Nat)
  | tlbinv (die : Nat)
  | queue (store : Bool)
  | token (wt : BitVec 8)
  | waitRegs | waitSt | waitAll
  | sleep (till : Nat)
  | watch (x : Watch)
  | fence (kind scope : Nat)
  | migw
  | call
  | barrier (g : Nat) (pd : Option Nat) (act : Mask)
  | arrival (kill : Bool)
  | ring (r : Nat) (full : Bool) (item : W32) (kd : Nat)
  | commit (g : Nat)
  | matrix (all : Bool)
  | mxFull
  | fetch (va : Nat)
  | preempt
  deriving DecidableEq, Repr

/-- Trap state of a warp (R160 to R163, R176). -/
structure TrapRegs where
  tvBase : BitVec 49 := 0
  tvEn : BitVec 4 := 0
  act : Bool := false
  tpend : Bool := false
  rlen : Nat := 0
  vec : Nat := 0
  code : Nat := 0
  rprio : BitVec 8 := 0
  rpc : BitVec 55 := 0
  info : W64 := 0
  arm : Bool := false
  deadline : BitVec 63 := 0
  fired : Option W64 := none
  poison : Option W64 := none
  deriving DecidableEq, Repr

/-- The lane floating-point state (R97, R113). -/
structure FpState where
  ctl : W64 := 0
  seed : W64 := 1
  deriving DecidableEq, Repr

/-- A write to a half of a warp's call slot that the warp's earlier accesses come before (R181, R182): the record with its notice, or nothing for the flag that
marks an outstanding call as cancelled. -/
structure Post where
  half : Nat
  record : Option (List Byte × W32 × Nat)
  deriving DecidableEq, Repr

/-- The outstanding call of a warp and its report (R164, R179, R181), and the writes to its slot that wait. -/
structure CallState where
  seq : W32 := 0
  ix : BitVec 16 := 0
  call : Option (Nat × Mask × W32) := none
  report : Option (BitVec 57) := none
  reportSeq : W32 := 0
  posts : List Post := []
  deriving DecidableEq, Repr

/-- A gang membership slot (R311). `again` is the PC of a `barsync` or `detcommit` that a save has suspended after its arrival: issued again, it only waits (R461). -/
structure Member where
  gang : Nat
  ord : Nat
  arr : Bool := false
  ap : Bool := false
  committed : Bool := false
  dets : Nat := 0
  again : Option (BitVec 57) := none
  deriving DecidableEq, Repr

/-- Where a warp's work came from (R415, R422, R426). -/
structure Owner where
  proc : Nat
  ensemble : Option Nat
  clusterIx : Nat := 0
  task : Bool := false
  priv : Bool := false
  pcls : Nat := 0
  seq : Nat := 0
  scope : Nat := 0
  succ : W64 := 0
  deriving DecidableEq, Repr

/-- Marks of a save, a move or a kill that waits for the warp (R430, R433). -/
structure Marks where
  save : Bool := false
  stopped : Bool := false
  halted : Bool := false
  ended : Bool := false
  killed : Bool := false
  deriving DecidableEq, Repr

/-- Transfer-unit state of a warp (R226, R227). `code` is what `TSTAT.CODE` shows, `failCode` the code of the last failed command. -/
structure CopyState where
  cnt : Tbl Nat := []
  skip : BitVec 4 := 0
  stl : Bool := false
  sq : Bool := false
  code : Nat := 0
  failCode : Nat := 0
  flags : BitVec 6 := 0
  deriving DecidableEq, Repr

/-- Matrix control and status of a warp (R299, R300). -/
structure MxState where
  eft : BitVec 16 := 0x7F80
  unchk : Bool := false
  stat : W64 := 0
  deriving DecidableEq, Repr

/-- A warp (R20, R22). `aprio` is the software priority that arbitration uses: that at the start of the clk (R45, R215);
`loadMark` is the number below which reads must be done before a later access performs, since an acquire fence lies between, and `relMark` the same for
later writes and a release fence (R369). `dropMark` is the number below which reads come before an acquire at `.cl` or wider, and `sawMark` that below which
stores of its core may be ones that the warp has read before their homes performed them (R368, R375). -/
structure Warp where
  owner : Owner
  role : Nat
  prio : Nat
  aprio : Nat := 0
  eprio : Nat
  age : Nat := 0
  lregs : Nat
  uregs : Nat
  hw : List Entry
  sp : List Entry := []
  x : Tbl LReg := []
  k : Tbl UReg := []
  preds : Vector Mask 7 := Vector.replicate 7 0
  kept : List Put := []
  run : Nat := 0
  psn : Bool := false
  pwb : Bool := false
  fov : Bool := false
  spl : Bool := false
  trap : TrapRegs := {}
  fp : FpState := {}
  call : CallState := {}
  log : Tbl LogEntry := []
  fifth : Option Access := none
  results : List Result := []
  copy : CopyState := {}
  mx : MxState := {}
  members : List Member := []
  lprivBase : BitVec 45 := 0
  lprivSize : Nat := 0
  spwin : Nat := 0
  spbase : Nat := 0
  cswin : Nat := 0
  csbase : Nat := 0
  straddle : Bool := false
  pwin : Vector W64 8 := Vector.replicate 8 0
  wait : Option Wait := none
  waitLen : Nat := 0
  fenced : Option Nat := none
  loadMark : Nat := 0
  relMark : Nat := 0
  dropMark : Nat := 0
  sawMark : Nat := 0
  yielded : Bool := false
  marks : Marks := {}
  deriving DecidableEq, Repr

/-! ## Cores, clusters, dies -/

/-- A lane store or atomic in the scratchpad write buffer (R210): the byte keys, the bytes, and the poison mark written. -/
structure Buffered where
  w : Nat
  keys : List Nat
  data : List Byte
  mark : Option Bool
  deriving DecidableEq, Repr

/-- A scratchpad or cluster-shared allocation (R201, R304): the ensemble or the task warp that owns it. -/
structure Alloc where
  ensemble : Option Nat
  warp : Option Nat
  base : Nat
  size : Nat
  deriving DecidableEq, Repr

/-- The four copy instructions. -/
inductive CopyKind where
  | cpy | cpyt | cpym | cpyr
  deriving DecidableEq, Repr

/-- States of a command that holds a queue entry (R218). -/
inductive CmdState where
  | queued | active | stalled | releasing
  deriving DecidableEq, Repr

/-- A burst of a copy command that has been translated (R217): its first position and their number, the key of each position's first far byte, the keys of
its residuals (R230; none for one at another node), the nodes of fabric-remote pages of the two, the clk of its translation, and whether it is the one that its
command has stalled at (R234, R514). -/
structure Burst where
  first : Nat
  count : Nat
  far : List Nat
  res : List (Option Nat) := []
  node : Option Nat := none
  resNode : Option Nat := none
  since : Nat := 0
  stuck : Bool := false
  deriving DecidableEq, Repr

/-- A copy command in a queue (R216, R218, R223). `at_` is the next position of the loop; `ops` the operand words; `owned` says that the slot `w` still
holds its warp; `before` is the first access number that the warp had not issued; `failing` is the code of a failure that waits for the bursts in flight; `remote` says that the fault that stalls the command waits at another node (R507),
and `sent` holds the clk at which the flag word set out for one (R514). -/
structure Cmd where
  id : Nat
  w : Nat
  kind : CopyKind
  grotto : Bool
  out : Bool
  cluster : Bool
  ops : Vector W64 4
  scope : Nat
  rel : Bool
  acq : Bool
  flag : Option (W64 × W64 × Bool)
  rot : Nat
  token : Option Nat
  mask : BitVec 5 := 0
  skip : BitVec 4 := 0
  state : CmdState := .queued
  at_ : Nat := 0
  bursts : List Burst := []
  code : Nat := 0
  failing : Option Nat := none
  killed : Bool := false
  started : Bool := false
  record : Option (Nat × Nat) := none
  proc : Nat := 0
  spwin : Nat := 0
  spbase : Nat := 0
  cswin : Nat := 0
  csbase : Nat := 0
  straddle : Bool := false
  ensemble : Option Nat := none
  before : Nat := 0
  remote : Bool := false
  sent : Option Nat := none
  owned : Bool := true
  deriving DecidableEq, Repr

/-- A cached leaf of a core's TLB (R394): its virtual page, size code and the page-table entry. -/
structure TlbLine where
  asid : BitVec 16
  vpn : Nat
  size : Nat
  pte : W64
  deriving DecidableEq, Repr

/-- A table entry that a walker has cached (R394): its address space, level, and the bits of the address above the level. -/
structure WalkLine where
  asid : BitVec 16
  level : Nat
  index : Nat
  pte : W64
  deriving DecidableEq, Repr

/-- A line of the instruction cache (R190): its physical number and its 128 bytes. -/
structure CodeLine where
  line : Nat
  data : List Byte
  deriving DecidableEq, Repr

/-- An L1 line of lane-private slices (R199, R200): its warp, its virtual line, the key of its first byte, its bytes and poison marks. -/
structure SliceLine where
  w : Nat
  asid : BitVec 16
  line : Nat
  key : Nat
  data : List Byte
  marks : BitVec 16
  dirty : Bool := false
  deriving DecidableEq, Repr

/-- A clean L1 line of global memory (R341), tagged by address space and virtual address (R395): 128 bytes and their poison marks. -/
structure L1Line where
  asid : BitVec 16
  line : Nat
  data : List Byte
  marks : BitVec 16
  deriving DecidableEq, Repr

/-- A queue of one quadrant's arbitration (R185, R187). -/
structure Quad where
  holder : Option Nat := none
  ptr : Nat := 0
  deriving DecidableEq, Repr

/-- A matrix instruction in a queue or running (R278, R279): the uniform operands, `MXCTL.EFT`, the stochastic state and the scratchpad window read at
issue. `order` is its place in core order, `begun` that among starts, `after` the number below which loads of its warp come before it (R369), `left` the clk of feed that it still needs, and `owned` says that the slot `w` still holds its warp. -/
structure MxCmd where
  id : Nat
  w : Nat
  instr : Instr
  ops : Vector W64 6
  eft : BitVec 16
  seed : W32
  spwin : Nat
  spbase : Nat
  act : Mask
  order : Nat
  estimate : Option Nat := none
  after : Nat := 0
  started : Bool := false
  begun : Nat := 0
  left : Nat := 0
  owned : Bool := true
  deriving DecidableEq, Repr

/-- One element's residues in the ten channels of an accumulator (R270). -/
abbrev Residues := Vector Byte 10

/-- A part of an accumulator slot (R272, R274): clear flag, tag, masks and status. -/
structure Part where
  clr : Bool := true
  tag : BitVec 16 := 0
  masks : Vector W64 4 := Vector.replicate 4 0
  status : BitVec 16 := 0
  deriving DecidableEq, Repr

/-- An accumulator slot (R270): its seven parts, and per channel the element bytes that are not zero and the erased words. -/
structure Slot where
  parts : Vector Part 7 := Vector.replicate 7 {}
  elems : Tbl Residues := []
  erased : List Nat := []
  deriving DecidableEq, Repr

/-- A core (06, 07, 09). `wbuf` is the write buffer of its scratchpad, `csbuf` that of its cluster-shared slice (R210, R306); `served` is the clk of the
last access that reached the slice, with its place in the order of R309; `l1` holds clean lines and `slices` lane-private ones; `full` gives for a channel whose
`CONTAIN` count has reached 15 the latest window of 2^30 clk in which it had, and how many windows in a row (R499). -/
structure Core where
  quads : Vector Quad 4 := Vector.replicate 4 {}
  wbuf : List Buffered := []
  csbuf : List Buffered := []
  served : Nat × Nat := (0, 0)
  spAlloc : List Alloc := []
  icache : List CodeLine := []
  tlb : List TlbLine := []
  l1 : List L1Line := []
  slices : List SliceLine := []
  loadQ : List Cmd := []
  storeQ : List Cmd := []
  mxq : Vector (List MxCmd) 4 := Vector.replicate 4 []
  mxOrder : Nat := 0
  slots : Tbl Slot := []
  slotOwner : Option Nat := none
  chmap : W64 := 0xBA9876543210
  chmapNext : Option W64 := none
  contain : W64 := 0xF000000000000000
  mxbud : W64 := 0x0140_1000_1000_0000
  gband : W64 := 0x00FF_0000
  full : Tbl (Nat × Nat) := []
  deriving DecidableEq, Repr

/-- A gang entry (R312), with the commit arrivals of its deterministic window (R359). `due` says that its completion is still to be checked (R315). In a pair,
`sent` says that the half has sent its phase, and `ahead` that it has completed a phase which the other half has yet to complete (R319). -/
structure Gang where
  ensemble : Nat
  num : Nat
  memb : Nat
  arrv : Nat := 0
  ph : Bool := false
  cxl : Bool := false
  lres : Bool := true
  rph : Bool := false
  rcxl : Bool := false
  sent : Bool := false
  ahead : Bool := false
  due : Bool := false
  commits : Nat := 0
  window : Nat := 0
  deriving DecidableEq, Repr

/-- A slot of a stage ring (R323). -/
structure RSlot where
  full : Bool := false
  ph : Bool := false
  puts : Nat := 0
  frees : Nat := 0
  deriving DecidableEq, Repr

/-- A stage ring (R321, R322). `served` is the clk of the last event that reached it, with that event's place in the order of R309. -/
structure Ring where
  ensemble : Nat
  num : Nat
  base : W32 := 0
  sp : W32 := 16
  n : Nat := 1
  pcnt : Nat := 1
  ccnt : Nat := 1
  err : Bool := false
  slots : List RSlot := [{}]
  served : Nat × Nat := (0, 0)
  deriving DecidableEq, Repr

/-- A ring operation that has been released and not yet taken effect (R326). -/
inductive RingOp where
  | put (item : W32)
  | free (item : W32)
  | init (b b1 : W64)
  deriving DecidableEq, Repr

/-- An operation on its way to its ring, with the warp that released it. -/
structure RingMsg where
  ensemble : Nat
  num : Nat
  op : RingOp
  w : Nat
  deriving DecidableEq, Repr

/-- A cluster (10), with its second-level TLB (R394). -/
structure Cluster where
  csAlloc : Vector (List Alloc) 4 := Vector.replicate 4 []
  gangs : List Gang := []
  rings : List Ring := []
  msgs : List RingMsg := []
  tlb : List TlbLine := []
  ccont : W64 := 0x0000000080808080
  deriving DecidableEq, Repr

/-- A deterministic update that a home holds (R356). -/
structure Update where
  issuer : Nat
  seq : Nat
  val : W32
  poison : Bool
  deriving DecidableEq, Repr

/-- The held updates of one window and address (R356): the buffer, and the spilled runs with the die and the block of each. `cluster` is the
place of the window's cluster in its ensemble, twice `CLUSTERIX` plus the half of a pair. -/
structure Held where
  cluster : Nat
  ensemble : Nat
  gang : Nat
  window : Nat
  proc : Nat
  key : Nat
  buf : List Update
  runs : List (Nat × Nat × List Update) := []
  deriving DecidableEq, Repr

/-- States of a migration slot (R398). -/
inductive MigState where
  | copying | committing | aborting
  deriving DecidableEq, Repr

/-- A migration slot (R397 to R404). Frames are byte keys of the one memory; `c` and `wr` are the line bits C and W; `bad` the words of the
destination that fail correction; `rets` and `event` the ring entries that the slot owes, the first with their dies; `closed` says that nothing else is
left to do, and `waits` names the accesses and the copy bursts (command and first position) that a shoot-down waits for (R235, R395). -/
structure MigSlot where
  asid : BitVec 16
  proc : Nat
  va : W64
  size : Nat
  src : Nat
  dst : Nat
  ptePlace : Nat
  pte : W64
  auto : Bool
  state : MigState := .copying
  reason : Nat := 0
  c : List Nat := []
  wr : List Nat := []
  locked : List Nat := []
  lost : List Nat := []
  next : Nat := 0
  bad : List Nat := []
  failed : Bool := false
  rets : List (Nat × W64) := []
  event : Option (List Byte) := none
  closed : Bool := false
  waits : List (Nat × Nat) := []
  deriving DecidableEq, Repr

/-- A waiter of a fault record (R396). -/
inductive Waiter where
  | log (w e : Nat)
  | fetch (w : Nat)
  | copy (core : Nat) (store : Bool)
  | remote (k : Nat)
  deriving DecidableEq, Repr

/-- An unresolved fault record (R396): `vpn` is the first 4 KiB of its page, `pages` their number. -/
structure FaultRec where
  id : W32
  asid : BitVec 16
  vpn : Nat
  pages : Nat
  waiters : List Waiter
  written : Bool := true
  va : Nat := 0
  code : Nat := 0
  kind : Nat := 0
  place : List Byte := []
  deriving DecidableEq, Repr

/-- A task record in a pool (R422, R423). `after` names the accesses that must first have performed (R438). -/
structure TaskRec where
  words : Vector W64 8
  proc : Nat
  scope : Nat
  after : List Nat := []
  deriving DecidableEq, Repr

/-- A compute die (12, 14, 16, 18). `walks` is the cache of its walker (R394); `owed` holds deposits that wait for room in a pool (R423). -/
structure Die where
  tlbinv : W64 := 0
  fltq : W64 := 0
  fltres : W64 := 0
  migpol : W64 := 0x0040_00C0_0000_0003
  migfrm : W64 := 0
  errinj : W64 := 0
  linkst : W64 := 0
  pwrctl : W64 := 0x0000_03E8_0000_0000
  faults : List FaultRec := []
  faultSeq : W32 := 0
  slots : Tbl MigSlot := []
  pools : List TaskRec := []
  owed : List TaskRec := []
  retired : List Nat := []
  walks : List WalkLine := []
  quiesceSince : Nat := 0
  deriving DecidableEq, Repr

/-! ## Control plane and device -/

/-- States of a cancel scope (R425). -/
inductive ScopeState where
  | live | cancelled | ending
  deriving DecidableEq, Repr

/-- A scope entry that is not FREE (R425). `seen` are the dies that the last marking has reached, `told` those that any has (R428). -/
structure Scope where
  proc : Nat
  parent : Option Nat
  depth : Nat
  coop : Bool
  state : ScopeState := .live
  count : Nat := 0
  discards : Nat := 0
  ack : W64 := 0
  gen : Nat := 0
  seen : List Nat := []
  told : List Nat := []
  deriving DecidableEq, Repr

/-- A record in a launch queue (R416): whether its acceptance raised a live count, and the accesses that must first have performed (R439). -/
structure Deposit where
  record : BitVec 512
  counted : Bool
  after : List Nat := []
  deriving DecidableEq, Repr

/-- A process (R414, R487, R506). Grants are per die. `callPins` are the pinned leaves of its call window (R179): address, size and key of each. `placing` holds the validated records that wait for clusters, which keep
their queue entries. -/
structure Proc where
  priv : Bool
  pasid : BitVec 20 := 0
  ptbase : W64 := 0
  grwin : W64 := 0
  detarea : W64 := 0
  callwin : W64 := 0
  callPins : List (Nat × Nat × Nat) := []
  fjob : W64 := 0
  hostRing : W64 := 0
  grants : Vector (BitVec 96) 4 := Vector.replicate 4 0
  ctxarea : Vector W64 4 := Vector.replicate 4 0
  tslice : Vector W64 4 := Vector.replicate 4 0
  root : Nat := 0
  queue : List Deposit := []
  placing : List (BitVec 512) := []
  grantsHeld : Vector (BitVec 96) 4 := Vector.replicate 4 0
  ending : Bool := false
  deriving DecidableEq, Repr

/-- A placed ensemble (R415, R418). `matrix` says that its layout has matrix-role warps (R419). -/
structure Ensemble where
  proc : Nat
  scope : Nat
  pcls : Nat
  clusters : List Nat
  straddle : Bool
  done : W64
  doneVal : W64
  killed : Bool := false
  scratch : Nat
  seq : Nat
  live : Nat
  matrix : Bool := false
  deriving DecidableEq, Repr

/-- The copy of a core that a saved cluster instance holds (R433). -/
structure SavedCore where
  place : Nat
  scratch : List Host.Cell
  scratchMarks : List Nat
  scratchSize : Nat
  shared : List Host.Cell
  sharedMarks : List Nat
  sharedSize : Nat
  slots : Tbl Slot
  slotOwner : Option Nat
  deriving DecidableEq, Repr

/-- A saved context (R433): a cluster instance or a task warp. -/
structure Saved where
  id : Nat
  proc : Nat
  task : Bool
  ensemble : Option Nat
  clusters : List Nat
  die : Nat
  pcls : Nat
  warps : List (Nat × Warp)
  cores : List SavedCore := []
  gangs : List (List Gang) := []
  rings : List (List Ring) := []
  deriving DecidableEq, Repr

/-- A save that is being made: the warps that it waits for (R433). `move` says that a task warp may move instead (R432). -/
structure Saving where
  id : Nat
  proc : Nat
  warps : List Nat
  ensemble : Option Nat
  clusters : List Nat
  move : Bool := false
  deriving DecidableEq, Repr

/-- A warp that `migw` has sent, and the slot that it has reserved (R213, R214). -/
structure Transit where
  id : Nat
  warp : Warp
  target : Nat
  deriving DecidableEq, Repr

/-- A notice for a call ring (R183). -/
structure Notice where
  proc : Nat
  ix : BitVec 16
  seq : W32
  num : BitVec 16
  exc : Bool
  runtime : Bool
  redir : Bool := false
  since : Nat
  deriving DecidableEq, Repr

/-- What the routing tables, which the management plane writes, hold of a node (R503, R515): whether the far end of its path is up. -/
structure Path where
  up : Bool
  deriving DecidableEq, Repr

/-- What occurs before the next issue: a rise of CLOCK, an event, an upset that SECDED cannot correct, an eviction, a halt by the debugger, or what the management plane
does on its own: routing tables (R503), `CONTAIN` cleared (R301), slice pairs retired (R500). The model's own. -/
inductive Input where
  | clk (n : Nat)
  | focus (w : Nat)
  | event (i : Instr)
  | badLane (w n lane : Nat)
  | badUniform (w n : Nat)
  | badWord (key : Nat)
  | badAcc (core slot word : Nat)
  | evictL1 (core : Nat)
  | evictTlb (core : Nat)
  | halt (w : Nat) (on : Bool)
  | route (n : Nat) (entry : Option Path)
  | clearContain (core : Nat)
  | retirePair (die slice : Nat)
  deriving DecidableEq, Repr

/-- The wear record in flash (R501), by physical core where a core has an entry; `retired` holds physical clusters, `slices` dies and slices, `serial` the module's
serial number. -/
structure Wear where
  serial : Nat := 0
  seq : Nat := 0
  offs : Tbl Nat := []
  flags : Tbl Nat := []
  chmap : Tbl W64 := []
  retired : List Nat := []
  lanes : Tbl Nat := []
  slices : List (Nat × Nat) := []
  deriving DecidableEq, Repr

/-- What a use of a line by the device itself is to the home of the line (R402, R405, R452): a walker's read, which no slice counts, a read, a write,
or the write-back of a slice line by a core for an address of a process. -/
inductive HomeUse where
  | walk | read | write
  | back (core proc va : Nat)
  deriving DecidableEq, Repr

/-- Steps of the SPDM exchange of die 0's responder (R490). -/
inductive Spdm where
  | idle | version | capabilities | negotiated | digests | exchanged | secured
  deriving DecidableEq, Repr

/-- An entry of the MSI-X table (R485). A masked entry sends no message. -/
structure MsixEntry where
  addr : W64 := 0
  data : W32 := 0
  masked : Bool := true
  deriving DecidableEq, Repr

/-- The management plane (18). `lastSeq` is the number of the last doorbell; `gone` the physical clusters out of use since the last module reset;
`completion` the status of the last request of the host to a deposit page (R416), `read` what its last read of a BAR or of device memory returned; `msix` lists the
vectors signalled (R489), `table` and `pending` are BAR4's (R485), and `messages` what has been sent; `service` lists the HBM4E channels flagged for service (R500). -/
structure Pkg where
  busy : Bool := false
  lastSeq : W32 := 0
  command : Option (Nat × W32 × List Byte) := none
  msix : List Nat := []
  table : Tbl MsixEntry := []
  pending : List Nat := []
  messages : List (W64 × W32) := []
  read : List Byte := []
  service : List Nat := []
  ready : Bool := false
  booted : BitVec 4 := 0
  diest : W64 := 0
  grade : W64 := 0x180
  spdm : Spdm := .idle
  spdmOut : List W64 := []
  keySlots : Tbl (List Nat) := []
  wear : Wear := {}
  repairs : Tbl Nat := []
  cxlLost : List Nat := []
  outOfService : List (Nat × Nat × Nat) := []
  gone : List Nat := []
  completion : Nat := 0
  deriving DecidableEq, Repr

/-- A request from another node that waits for a fault resolution here, or has been answered (R507). `owed` are the cores that an `.rp` acquire still waits for,
and `upto` the access number before which they perform their writes; `result` is what it then answers (R378, R511). -/
structure Incoming where
  req : RemoteReq
  answer : Option (Nat × List Byte) := none
  result : Option (Nat × List Byte) := none
  owed : List Nat := []
  upto : Nat := 0
  deriving DecidableEq, Repr

/-- One device. `agenda`, `cur`, `draws`, `nextId` and `uses` are the model's own: the inputs that occur before the next issue, the warp whose
turn it is, the counter of free values drawn, the numbers given to accesses, commands and contexts, and the lines that the device itself has used in this
clk, whose homes still have to count them and see to their errors; `ports` holds the words that homes have served in this clk, with the place of each access in
the order of R362. -/
structure State where
  clock : Nat
  mem : List Host.Cell
  marks : List Nat
  warps : Tbl Warp
  cores : Tbl Core
  clusters : Tbl Cluster
  dies : Tbl Die
  procs : Tbl Proc
  scopes : Tbl Scope
  generation : Nat
  ensembles : Tbl Ensemble
  flights : List Access
  held : List Held
  saved : List Saved
  saving : List Saving
  transit : List Transit
  taking : Tbl (List Nat)
  notices : List Notice
  runtime : Option (Nat × W64)
  hotness : Tbl Nat
  halvings : Nat
  samples : Tbl Nat
  promotions : Tbl (List Nat)
  workSeq : Nat
  pkg : Pkg
  nodeid : BitVec 20
  routes : Tbl Path
  incoming : Tbl Incoming
  agenda : List Input
  cur : Nat
  draws : Nat
  nextId : Nat
  uses : List (Nat × HomeUse)
  ports : List (Nat × Nat)
  deriving DecidableEq, Repr

/-- The device right after cold reset: nothing is admitted, no process exists, memory lists nothing, and every unit that a table lists not
has its reset value (R9; log entries 3, 13, 14). -/
def State.reset : State :=
  { clock := 0, mem := [], marks := [], warps := [], cores := [], clusters := [], dies := [], procs := [], scopes := [],
    generation := 0, ensembles := [], flights := [], held := [], saved := [], saving := [], transit := [], taking := [],
    notices := [], runtime := none, hotness := [], halvings := 0, samples := [], promotions := [], workSeq := 0, pkg := {}, nodeid := 0,
    routes := [], incoming := [], agenda := [], cur := 0, draws := 0, nextId := 0, uses := [], ports := [] }

/-- A fault that stops the machine. The part of the spec has none: its own faults and traps are states of the machine. -/
inductive Fault where
  /-- `exec` was asked to issue an instruction while the state's `cur` names no admitted warp. `step` never asks so. Safe. -/
  | noWarp
  deriving DecidableEq, Repr

/-- A refusal of the model. -/
inductive Refusal where
  /-- The arm of an instruction that has no meaning yet. Safe: nothing can be proved of a next state. -/
  | notModelled (mnemonic : String)
  deriving DecidableEq, Repr

/-- What a step answers. -/
abbrev Out := Host.Outcome State Fault Refusal

end Sys2Proof.Machine
end

