-- ==== Sys2Proof/Machine/Mem.lean ====
section
/-! DEFINITION. Tables, sets of numbers, the bytes of the one memory and its poison marks, and the units that the tables hold. -/

namespace Sys2Proof.Machine

/-! ## Tables -/

def Tbl.get? {α : Type} : Tbl α → Nat → Option α
  | [], _ => none
  | (i, v) :: t, k => if k = i then some v else Tbl.get? t k

def Tbl.getD {α : Type} (t : Tbl α) (k : Nat) (d : α) : α := (t.get? k).getD d

/-- Writes an entry and keeps the keys rising. -/
def Tbl.set {α : Type} : Tbl α → Nat → α → Tbl α
  | [], k, v => [(k, v)]
  | (i, x) :: t, k, v => if k < i then (k, v) :: (i, x) :: t else if k = i then (k, v) :: t else (i, x) :: Tbl.set t k v

def Tbl.erase {α : Type} (t : Tbl α) (k : Nat) : Tbl α := t.filter fun p => p.1 != k

/-- The least key from `n` upward, below `n + fuel`, that the table does not hold. -/
def Tbl.free {α : Type} (t : Tbl α) (n : Nat) : Nat → Option Nat
  | 0 => none
  | fuel + 1 => if (t.get? n).isNone then some n else Tbl.free t (n + 1) fuel

def Tbl.keys {α : Type} (t : Tbl α) : List Nat := t.map (·.1)
def Tbl.vals {α : Type} (t : Tbl α) : List α := t.map (·.2)

/-- Keys strictly rise. -/
def Tbl.wf {α : Type} : Tbl α → Bool
  | [] => true
  | [_] => true
  | (i, _) :: (j, y) :: t => i < j && Tbl.wf ((j, y) :: t)

/-! ## Sets of numbers, kept strictly rising -/

def setInsert : List Nat → Nat → List Nat
  | [], k => [k]
  | i :: t, k => if k < i then k :: i :: t else if k = i then i :: t else i :: setInsert t k

def setErase (t : List Nat) (k : Nat) : List Nat := t.filter (· != k)

/-! ## Bytes -/

/-- What a byte that nothing has written reads as: 0 (log entry 3). -/
def Mem.unlisted : Byte := 0

def Mem.read : List Host.Cell → Nat → Byte
  | [], _ => Mem.unlisted
  | (a, b) :: m, k => if k = a then b else Mem.read m k

/-- Removes an address. -/
def Mem.drop (m : List Host.Cell) (k : Nat) : List Host.Cell := m.filter fun c => c.1 != k

/-- Lists an address with a byte that is not the unlisted one. -/
def Mem.put : List Host.Cell → Nat → Byte → List Host.Cell
  | [], k, v => [(k, v)]
  | (a, b) :: m, k, v => if k < a then (k, v) :: (a, b) :: m else if k = a then (k, v) :: m else (a, b) :: Mem.put m k v

/-- Writes one byte and keeps the canonical form. -/
def Mem.write (m : List Host.Cell) (k : Nat) (v : Byte) : List Host.Cell :=
  if v = Mem.unlisted then Mem.drop m k else Mem.put m k v

/-- The canonical form: addresses strictly rise and no entry equals what an unlisted address reads as. -/
def Mem.wf : List Host.Cell → Bool
  | [] => true
  | [(_, b)] => b != Mem.unlisted
  | (a, b) :: (c, d) :: m => a < c && b != Mem.unlisted && Mem.wf ((c, d) :: m)

/-- Writes bytes at byte keys, in order. -/
def Mem.writeAll : List Host.Cell → List Nat → List Byte → List Host.Cell
  | m, k :: ks, b :: bs => Mem.writeAll (Mem.write m k b) ks bs
  | m, _, _ => m

/-- Removes the bytes from `lo` to `lo + n - 1`. -/
def Mem.clear (m : List Host.Cell) (lo n : Nat) : List Host.Cell := m.filter fun c => !(lo ≤ c.1 && c.1 < lo + n)

/-- The listed bytes from `lo` to `lo + n - 1`, as offsets. -/
def Mem.image (m : List Host.Cell) (lo n : Nat) : List Host.Cell :=
  (m.filter fun c => lo ≤ c.1 && c.1 < lo + n).map fun c => (c.1 - lo, c.2)

/-- A little-endian number of bytes (R6). -/
def ofBytes : List Byte → Nat
  | [] => 0
  | b :: bs => b.toNat + 256 * ofBytes bs

/-- The `n` bytes of a number, little-endian (R6). -/
def toBytes : Nat → Nat → List Byte
  | 0, _ => []
  | n + 1, v => BitVec.ofNat 8 v :: toBytes n (v / 256)

/-- A PC: bits [1:0] are zero (R20; log entry 45). -/
def wordPc (a : BitVec 57) : BitVec 57 := a &&& ~~~3#57

/-- The keys of `n` bytes from a key. -/
def span (k n : Nat) : List Nat := (List.range n).map (k + ·)

/-! ## Where the spaces lie in the one memory -/

/-- A physical address of a tier: 0 HBM4E, 1 LPDDR6, 2 CXL (R392). -/
def tierKey (tier pa : Nat) : Nat := tier * 2 ^ 44 + pa
/-- An offset in the Grotto of a die (R343). -/
def grottoKey (die o : Nat) : Nat := 2 ^ 48 + die * 2 ^ 25 + o
/-- A byte of a core's scratchpad banks (R201). -/
def scratchKey (core o : Nat) : Nat := 2 ^ 49 + core * 2 ^ 18 + o
/-- A byte of a core's cluster-shared slice (R304). -/
def sliceKey (core o : Nat) : Nat := 2 ^ 50 + core * 2 ^ 17 + o
/-- An address of host memory (R364). -/
def hostKey (a : Nat) : Nat := 2 ^ 65 + a
/-- An offset in the mailbox BAR (R486). -/
def barKey (o : Nat) : Nat := 2 ^ 66 + o

/-- Whether a key lies in a scratchpad. -/
def isScratch (k : Nat) : Bool := 2 ^ 49 ≤ k && k < 2 ^ 50

/-! ## Units -/

/-- The number of a warp slot: core key and slot (R47). -/
def warpKey (core slot : Nat) : Nat := core * 64 + slot
def coreOf (w : Nat) : Nat := w / 64
def slotOf (w : Nat) : Nat := w % 64
def quadOf (w : Nat) : Nat := w % 64 / 16
def dieOf (core : Nat) : Nat := core / 96
def clusterOf (core : Nat) : Nat := core / 96 * 24 + core % 96 / 4
/-- The core key of core `c` of a cluster. -/
def coreIn (cluster c : Nat) : Nat := cluster / 24 * 96 + cluster % 24 * 4 + c
/-- The partner of a cluster in a die-straddling pair (R479). -/
def partner (cluster : Nat) : Nat := if cluster / 24 % 2 = 0 then cluster + 24 else cluster - 24
/-- The half of a cluster in a pair (R304). -/
def halfOf (cluster : Nat) : Nat := cluster / 24 % 2

/-- The place of a core among accesses and events that reach a cluster in one clk (R309): its own cores from `mod(CLOCK, 4)` upward, then the other
half's. -/
def arrivalRank (clock cluster core : Nat) : Nat := (if clusterOf core = cluster then 0 else 4) + (core % 4 + 4 - clock % 4) % 4
/-- One of a place may still be served in a clk. -/
def mayServe (served : Nat × Nat) (clock rank : Nat) : Bool := served.1 != clock || served.2 ≤ rank

def State.warp? (s : State) (w : Nat) : Option Warp := s.warps.get? w
def State.setWarp (s : State) (w : Nat) (x : Warp) : State := { s with warps := s.warps.set w x }
def State.modWarp (s : State) (w : Nat) (f : Warp → Warp) : State :=
  match s.warps.get? w with
  | some x => s.setWarp w (f x)
  | none => s
def State.core (s : State) (c : Nat) : Core := s.cores.getD c {}
def State.setCore (s : State) (c : Nat) (x : Core) : State := { s with cores := s.cores.set c x }
def State.modCore (s : State) (c : Nat) (f : Core → Core) : State := s.setCore c (f (s.core c))
def State.cluster (s : State) (c : Nat) : Cluster := s.clusters.getD c {}
def State.setCluster (s : State) (c : Nat) (x : Cluster) : State := { s with clusters := s.clusters.set c x }
def State.modCluster (s : State) (c : Nat) (f : Cluster → Cluster) : State := s.setCluster c (f (s.cluster c))
def State.die (s : State) (d : Nat) : Die := s.dies.getD d {}
def State.setDie (s : State) (d : Nat) (x : Die) : State := { s with dies := s.dies.set d x }
def State.modDie (s : State) (d : Nat) (f : Die → Die) : State := s.setDie d (f (s.die d))
def State.proc? (s : State) (p : Nat) : Option Proc := s.procs.get? p
def State.modProc (s : State) (p : Nat) (f : Proc → Proc) : State :=
  match s.procs.get? p with
  | some x => { s with procs := s.procs.set p (f x) }
  | none => s
def State.modScope (s : State) (n : Nat) (f : Scope → Scope) : State :=
  match s.scopes.get? n with
  | some x => { s with scopes := s.scopes.set n (f x) }
  | none => s

/-- A fresh number for an access, a command or a context. -/
def State.fresh (s : State) : Nat × State := (s.nextId, { s with nextId := s.nextId + 1 })

/-- Clusters per die at the device's grade (R497). -/
def State.cpd (s : State) : Nat := (s.pkg.grade >>> 4).toNat % 32
/-- Whether a logical core exists at the grade (R496). -/
def State.coreExists (s : State) (die c : Nat) : Bool := die < 4 && c < 4 * s.cpd
/-- The state of a die in `DIEST` (R494). -/
def State.dieState (s : State) (d : Nat) : Nat := (s.pkg.diest >>> (3 * d)).toNat % 8
/-- A die on which work runs: running, or running on after a refused warm reset (R495). -/
def State.dieRuns (s : State) (d : Nat) : Bool := s.dieState d == 0 || s.dieState d == 6
def State.setDieState (s : State) (d v : Nat) : State :=
  let m : W64 := (7#64 <<< (3 * d))
  { s with pkg := { s.pkg with diest := (s.pkg.diest &&& ~~~m) ||| (BitVec.ofNat 64 v <<< (3 * d)) } }
/-- Signals an MSI-X vector: its entry's message is sent, or its bit is pending while the entry is masked (R485; log entry 72). -/
def Pkg.signal (p : Pkg) (v : Nat) : Pkg :=
  let e := p.table.getD v {}
  if e.masked then { p with msix := p.msix ++ [v], pending := setInsert p.pending v }
  else { p with msix := p.msix ++ [v], messages := p.messages ++ [(e.addr, e.data)] }

/-- Raises an MSI-X vector (R489). -/
def State.raise (s : State) (v : Nat) : State := { s with pkg := s.pkg.signal v }

/-! ## Reading and writing memory with its marks -/

def State.byte (s : State) (k : Nat) : Byte := Mem.read s.mem k
/-- A word is marked poisoned (R196, R204): marks belong to aligned 64-bit words. -/
def State.marked (s : State) (k : Nat) : Bool := s.marks.contains (k / 8)
def State.bytes (s : State) (ks : List Nat) : List Byte := ks.map s.byte
def State.read (s : State) (k n : Nat) : Nat := ofBytes (s.bytes (span k n))
def State.anyMarked (s : State) (ks : List Nat) : Bool := ks.any s.marked
def State.writeBytes (s : State) (ks : List Nat) (bs : List Byte) : State := { s with mem := Mem.writeAll s.mem ks bs }
def State.writeNat (s : State) (k n v : Nat) : State := s.writeBytes (span k n) (toBytes n v)
def State.setMark (s : State) (word : Nat) (on : Bool) : State :=
  { s with marks := if on then setInsert s.marks word else setErase s.marks word }

/-- The distinct 64-bit words of byte keys. -/
def wordsOf (ks : List Nat) : List Nat := (ks.map (· / 8)).eraseDups

/-- Marks after a write of the byte keys: a word that is wholly written loses its mark (R204). -/
def State.clearFull (s : State) (ks : List Nat) : State :=
  (wordsOf ks).foldl (fun s w => if (span (w * 8) 8).all ks.contains then s.setMark w false else s) s

/-- The bytes that a poisoned value leaves at byte keys: byte `i` of each 4-byte word of `0x7FA0_DEAD` (R196). -/
def poisonBytes (ks : List Nat) : List Byte := ks.map fun k => BitVec.ofNat 8 (poison32.toNat / 256 ^ (k % 4))

/-- Stores a poisoned value: pattern bytes, and every word touched marked (R196). -/
def State.writePoison (s : State) (ks : List Nat) : State :=
  (wordsOf ks).foldl (fun s w => s.setMark w true) (s.writeBytes ks (poisonBytes ks))

/-- Zeroes an allocation and clears its marks (R201, R304). -/
def State.zero (s : State) (lo n : Nat) : State :=
  { s with mem := Mem.clear s.mem lo n, marks := s.marks.filter fun w => !(lo ≤ w * 8 && w * 8 < lo + n) }

/-- Bits `[lo+n-1:lo]` of a 64-bit value. -/
def bits (v : W64) (lo n : Nat) : Nat := (v.toNat >>> lo) % 2 ^ n

/-- Writes a field of a 64-bit value. -/
def putBits (v : W64) (lo n x : Nat) : W64 :=
  let m : W64 := BitVec.ofNat 64 ((2 ^ n - 1) <<< lo)
  (v &&& ~~~m) ||| (BitVec.ofNat 64 ((x % 2 ^ n) <<< lo))

end Sys2Proof.Machine
end

