-- ==== Sys2Proof/Machine/Translate.lean ====
section
/-! DEFINITION. Homes, page tables and their walk, the translation caches, and the fault queue (R339, R389 to R396). -/

namespace Sys2Proof.Machine

/-! ## Homes (R339, R392) -/

/-- The home die of a physical line. -/
def homeDie (tier pa : Nat) : Nat :=
  match tier with
  | 0 => pa / 2 ^ 38 % 4
  | 1 => 2 * (pa / 2 ^ 40 % 2) + pa / 2 ^ 8 % 2
  | _ => pa / 2 ^ 8 % 4

/-- The home slice on its die. -/
def homeSlice (pa : Nat) : Nat :=
  (pa >>> 8 ^^^ pa >>> 17 ^^^ pa >>> 26 ^^^ pa >>> 35 ^^^ pa >>> 44) % 512

def keyTier (k : Nat) : Nat := k / 2 ^ 44
def keyPa (k : Nat) : Nat := k % 2 ^ 44
/-- A key of global physical memory. -/
def isGlobal (k : Nat) : Bool := k < 3 * 2 ^ 44
def isGrotto (k : Nat) : Bool := 2 ^ 48 ≤ k && k < 2 ^ 48 + 2 ^ 27

/-- The home die of a key of global memory or the Grotto. -/
def keyDie (k : Nat) : Nat := if isGrotto k then (k - 2 ^ 48) / 2 ^ 25 else homeDie (keyTier k) (keyPa k)

/-- The slice of a key on its home die, with a retired slice replaced by its bit-8 partner (R339). -/
def State.sliceOf (s : State) (k : Nat) : Nat :=
  let n := homeSlice (keyPa k)
  if (s.die (keyDie k)).retired.contains n then n ^^^ 256 else n

/-- The `LINKST.CXL` code of a die (R493). -/
def State.cxlCode (s : State) (d : Nat) : Nat := bits (s.die d).linkst 18 2

/-- Why an access to a line of physical memory fails at its home: die in reset, or never started (R490, R495), CXL port not up (R482, R492), memory out of
service (R483). -/
def State.homeFault (s : State) (k : Nat) : Option Nat :=
  let d := keyDie k
  if s.dieState d = 3 || s.dieState d = 4 || s.dieState d = 7 then some 6
  else if isGlobal k && keyTier k = 2 && s.cxlCode d ≠ 2 then some 7
  else if isGlobal k && keyTier k = 1 && bits (s.die d).linkst 8 2 = 3 then some 8
  else if isGlobal k && s.pkg.outOfService.any (fun r => r.1 = keyTier k && r.2.1 ≤ keyPa k && keyPa k < r.2.1 + r.2.2) then some 8
  else none

/-- A path to a node is up (R503, R514): the routing tables hold it as up, and a link of its kind is up. -/
def State.pathUp (s : State) (n : Nat) : Bool :=
  let near := n / 1024 = s.nodeid.toNat / 1024
  n < 768 * 1024 && ((s.routes.get? n).map (·.up)).getD false && (List.range 4).any fun d =>
    let l := (s.die d).linkst
    if near then (List.range 4).any fun p => bits l (22 + 2 * p) 2 = 2 else bits l 20 2 = 2

/-- A request from another die that the ports hold back since the die began to quiesce (R495). -/
def State.portHolds (s : State) (core issuedAt k : Nat) : Bool :=
  let d := keyDie k
  (s.dieState d = 1 || s.dieState d = 2) && (isGlobal k || isGrotto k) && dieOf core != d && decide ((s.die d).quiesceSince < issuedAt)

/-! ## Pages in motion (R399, R400) -/

/-- The migration slots of every die. -/
def State.allSlots (s : State) : List MigSlot := s.dies.flatMap fun d => d.2.slots.vals

/-- The slot whose source holds a key. -/
def State.slotAt (s : State) (k : Nat) : Option MigSlot := s.allSlots.find? fun m => m.src ≤ k && k < m.src + m.size

def MigSlot.line (m : MigSlot) (k : Nat) : Nat := (k - m.src) / 256

/-- Where an access to a key performs: at the destination once the line has flipped (R400). -/
def State.redirect (s : State) (k : Nat) : Nat :=
  match s.slotAt k with
  | some m => if m.c.contains (m.line k) then m.dst + (k - m.src) else k
  | none => k

/-- A line that an abort has lost (R403). -/
def State.lostLine (s : State) (k : Nat) : Bool :=
  match s.slotAt k with
  | some m => !m.closed && m.lost.contains (m.line k)
  | none => false

/-- A line that the engine has locked: writes wait (R400). -/
def State.lockedLine (s : State) (k : Nat) : Bool :=
  match s.slotAt k with
  | some m => m.locked.contains (m.line k)
  | none => false

/-- A forwarded write sets W (R400). -/
def State.noteWrite (s : State) (k : Nat) : State :=
  { s with dies := s.dies.map fun d => (d.1, { d.2 with slots := d.2.slots.map fun (i, m) =>
      (i, if m.src ≤ k && k < m.src + m.size && m.c.contains (m.line k) then { m with wr := setInsert m.wr (m.line k) } else m) }) }

/-! ## Page tables (R389 to R393) -/

def pteV (e : W64) : Bool := e.getLsbD 63
def pteSt (e : W64) : Nat := bits e 61 2
def pteSz (e : W64) : Nat := bits e 58 3
def pteTier (e : W64) : Nat := bits e 56 2
def pteKey (e : W64) : Nat := bits e 45 11
def ptePin (e : W64) : Bool := e.getLsbD 44
/-- FRAME as a physical address. -/
def ptePa (e : W64) : Nat := bits e 12 32 * 4096
def pteRd (e : W64) : Bool := e.getLsbD 11
def pteWr (e : W64) : Bool := e.getLsbD 10
def pteEx (e : W64) : Bool := e.getLsbD 9
def pteSlot (e : W64) : Nat := bits e 0 9

/-- Bytes of a page of a size code (R391). -/
def szBytes (sz : Nat) : Nat :=
  match sz with
  | 0 => 2 ^ 12 | 1 => 2 ^ 16 | 2 => 2 ^ 21 | 3 => 2 ^ 30 | _ => 2 ^ 36

/-- Size codes of a leaf that a level accepts (R390). -/
def leafAt (level sz : Nat) : Bool :=
  match level with
  | 2 => sz == 3 || sz == 4
  | 1 => sz == 2
  | 0 => sz == 0 || sz == 1
  | _ => false

/-- A walk: a fault code, or the leaf with the key at which it lies. -/
inductive Walk where
  | fault (code : Nat)
  | leaf (pte : W64) (place : Nat)
  deriving DecidableEq, Repr

/-- A key slot is loaded for the process (R491, R393). -/
def State.keyLoaded (s : State) (p key : Nat) : Bool := key == 0 || ((s.pkg.keySlots.get? key).getD []).contains p

/-- An access that a leaf must permit: 0 read, 1 write, 2 atomic, 3 fetch (R391). -/
def permits (perm : Nat) (e : W64) : Bool :=
  match perm with
  | 0 => pteRd e
  | 1 => pteWr e
  | 2 => pteRd e && pteWr e
  | _ => pteEx e

/-- The device itself uses lines: their homes see to it at the end of the clk (R402, R405, R452; log entry 66). -/
def State.use (s : State) (ks : List Nat) (u : HomeUse) : State :=
  { s with uses := s.uses ++ ((ks.map fun k => k / 256 * 256).eraseDups).map fun k => (k, u) }

/-- The device writes bytes of physical memory: at the place where their lines are now, and a forwarded write sets W (R400). -/
def State.putBytes (s : State) (ks : List Nat) (bs : List Byte) : State :=
  let at_ := ks.map s.redirect
  (ks.foldl State.noteWrite ((s.writeBytes at_ bs).clearFull at_)).use ks .write

/-- A number that the device reads from physical memory, where its lines are now (R400). -/
def State.getNat (s : State) (k n : Nat) : Nat := ofBytes (s.bytes ((span k n).map s.redirect))

/-- Eight bytes of a table, where the page that holds it is now (R400). -/
def State.readTable (s : State) (place : Nat) : W64 := BitVec.ofNat 64 (s.read (s.redirect place) 8)

/-- The table entry that a walker has cached for an address at a level (R394). -/
def walkLine? (cache : List WalkLine) (asid : BitVec 16) (level va : Nat) : Option W64 :=
  (cache.find? fun l => l.asid == asid && l.level == level && l.index == va / 2 ^ (12 + 9 * level)).map (·.pte)

/-- An entry of level `n` names a next table as R391 asks. -/
def nextTable (n : Nat) (e : W64) : Bool := pteV e && pteSz e == 7 && n != 0 && pteSt e == 0 && !ptePin e && bits e 0 12 == 0 && pteTier e != 3

/-- The walk from a table at a key (R390, R393), through the table entries that the walker has cached (R394). The number is the level of this table plus one.
Address bits above the size of a tier are taken as they are (log entry 77). -/
def State.walkFrom (s : State) (cache : List WalkLine) (asid : BitVec 16) (p va : Nat) : Nat → Nat → Walk
  | 0, _ => .fault 1
  | n + 1, table =>
    let i := va / 2 ^ (12 + 9 * n) % 512
    let own := table + 8 * i
    match walkLine? cache asid n va with
    | some e => if !s.keyLoaded p (pteKey e) then .fault 3 else State.walkFrom s cache asid p va n (tierKey (pteTier e) (ptePa e))
    | none =>
    match s.homeFault (s.redirect own) with
    | some c => .fault c
    | none =>
      let e0 := s.readTable own
      let grouped := (n = 0 ∧ pteSz e0 = 1) ∨ (n = 2 ∧ pteSz e0 = 4)
      let g := if n = 0 then 16 else 64
      let place := if grouped then table + 8 * (i / g * g) else own
      let e := s.readTable place
      if !pteV e0 || !pteV e || (decide grouped && pteSz e ≠ pteSz e0) then .fault 1
      else if pteSz e = 7 then
        if !nextTable n e then .fault 1
        else if !s.keyLoaded p (pteKey e) then .fault 3
        else State.walkFrom s cache asid p va n (tierKey (pteTier e) (ptePa e))
      else if !leafAt n (pteSz e) || pteSt e = 3 || (pteSt e = 0 && pteSlot e ≠ 0) then .fault 1
      else if ptePa e % szBytes (pteSz e) ≠ 0 then .fault 1
      else if pteTier e = 2 && !s.pkg.cxlLost.isEmpty then .fault 1
      else if !s.keyLoaded p (pteKey e) then .fault 3
      else .leaf e place

/-- The key of the root table that a process names. -/
def Proc.rootTable (pr : Proc) : Option Nat :=
  if bits pr.ptbase 46 2 = 3 then none else some (tierKey (bits pr.ptbase 46 2) (bits pr.ptbase 12 32 * 4096))

/-- The walk of a process's tables for a 57-bit virtual address, with a walker's cached entries (R389, R390, R394). -/
def State.walkWith (s : State) (cache : List WalkLine) (p va : Nat) : Walk :=
  match s.proc? p with
  | none => .fault 1
  | some pr => pr.rootTable.elim (.fault 1) fun root => s.walkFrom cache (pr.ptbase.extractLsb' 48 16) p va 5 root

/-- The walk of a process's tables as memory holds them now. -/
def State.walk (s : State) (p va : Nat) : Walk := s.walkWith [] p va

/-- The table entries of levels 4 to 1 that a walk reads, up to one that it does not follow: what the walker caches (R394). -/
def State.walkTrail (s : State) (cache : List WalkLine) (asid : BitVec 16) (p va : Nat) : Nat → Nat → List WalkLine
  | 0, _ => []
  | n + 1, table =>
    let own := table + 8 * (va / 2 ^ (12 + 9 * n) % 512)
    let held := walkLine? cache asid n va
    let e := held.getD (s.readTable own)
    if !nextTable n e || (held.isNone && (s.homeFault (s.redirect own)).isSome) then []
    else { asid := asid, level := n, index := va / 2 ^ (12 + 9 * n), pte := e } ::
      (if s.keyLoaded p (pteKey e) then State.walkTrail s cache asid p va n (tierKey (pteTier e) (ptePa e)) else [])

/-- The places from which a walk reads entries that the walker has not cached (R390, R394). -/
def State.walkPlaces (s : State) (cache : List WalkLine) (asid : BitVec 16) (p va : Nat) : Nat → Nat → List Nat
  | 0, _ => []
  | n + 1, table =>
    let own := table + 8 * (va / 2 ^ (12 + 9 * n) % 512)
    let held := walkLine? cache asid n va
    let e := held.getD (s.readTable own)
    if held.isNone && (s.homeFault (s.redirect own)).isSome then []
    else (if held.isNone then [own] else []) ++
      (if nextTable n e && s.keyLoaded p (pteKey e) then State.walkPlaces s cache asid p va n (tierKey (pteTier e) (ptePa e)) else [])

/-! ## Translation caches (R394) -/

/-- The cached leaf of a core for an address. -/
def tlbFind (t : List TlbLine) (asid : BitVec 16) (va : Nat) : Option W64 :=
  (t.find? fun l => l.asid = asid && va / szBytes l.size * (szBytes l.size / 4096) = l.vpn).map (·.pte)

def State.asid (s : State) (p : Nat) : BitVec 16 := ((s.proc? p).map fun pr => pr.ptbase.extractLsb' 48 16).getD 0

/-- The leaf that a core's TLB, or its cluster's second level, holds for an access. -/
def State.cachedLeaf (s : State) (core p va perm : Nat) : Option W64 :=
  ((tlbFind (s.core core).tlb (s.asid p) va).filter (permits perm)).orElse fun _ =>
    (tlbFind (s.cluster (clusterOf core)).tlb (s.asid p) va).filter (permits perm)

/-- The walk that the walker of a core's die makes. -/
def State.walkOn (s : State) (core p va : Nat) : Walk := s.walkWith (s.die (dieOf core)).walks p va

/-- The translation of an address on a core (R393, R394): a cached leaf where it permits the access, otherwise a walk. -/
def State.lookup (s : State) (core p va perm : Nat) : Walk :=
  match s.cachedLeaf core p va perm with
  | some e => .leaf e 0
  | none => match s.walkOn core p va with
    | .fault c => .fault c
    | .leaf e place => if permits perm e then .leaf e place else .fault 2

/-- The set of a TLB in which a leaf lies: its page number modulo the number of sets (log entry 48). -/
def TlbLine.set (l : TlbLine) (sets : Nat) : Nat := l.vpn / (szBytes l.size / 4096) % sets

/-- Lists a leaf first, in place of what a TLB of so many sets and ways held for its page, and of the oldest leaf of a full set (R394). -/
def tlbInsert (line : TlbLine) (t : List TlbLine) (sets ways : Nat) : List TlbLine :=
  let rest := t.filter fun l => !(l.asid == line.asid && l.size == line.size && l.vpn == line.vpn)
  let mine := fun (l : TlbLine) => l.set sets == line.set sets
  match (if ways ≤ (rest.filter mine).length then (rest.filter mine).getLast? else none) with
  | some v => line :: rest.filter fun l => l != v
  | none => line :: rest

/-- What a translation leaves in a core's TLB, in its cluster's, and in the walker of its die. -/
def State.noteLeaf (s : State) (core p va : Nat) (e : W64) : State :=
  let asid := s.asid p
  let size := pteSz e
  let line : TlbLine := { asid := asid, vpn := va / szBytes size * (szBytes size / 4096), size := size, pte := e }
  let s := s.modCore core fun c => { c with tlb := tlbInsert line c.tlb 256 8 }
  s.modCluster (clusterOf core) fun c => { c with tlb := tlbInsert line c.tlb 1024 16 }

/-- The table entries of a walk enter the cache of the walker of the core's die. -/
def State.noteWalk (s : State) (core p va : Nat) : State :=
  match (s.proc? p).bind Proc.rootTable with
  | none => s
  | some root =>
    let cache := (s.die (dieOf core)).walks
    let new := s.walkTrail cache (s.asid p) p va 5 root
    (s.use (s.walkPlaces cache (s.asid p) p va 5 root) .walk).modDie (dieOf core) fun d =>
      { d with walks := (new ++ d.walks.filter fun l => !new.any fun k => k.asid == l.asid && k.level == l.level && k.index == l.index).take 512 }

/-- The translation of an address on a core; what it reads is cached, where it faults too (R394). -/
def State.translate (s : State) (core p va perm : Nat) : Walk × State :=
  match (tlbFind (s.core core).tlb (s.asid p) va).filter (permits perm) with
  | some e => (.leaf e 0, s)
  | none => match s.lookup core p va perm with
    | .fault c => (.fault c, s.noteWalk core p va)
    | .leaf e place =>
      let t := if (s.cachedLeaf core p va perm).isSome then s else s.noteWalk core p va
      (.leaf e place, t.noteLeaf core p va e)

/-- The key of the byte that a leaf maps (R392). -/
def leafKey (e : W64) (va : Nat) : Nat := tierKey (pteTier e) (ptePa e + va % szBytes (pteSz e))

/-- The node of a fabric-remote leaf (R392). -/
def leafNode (e : W64) : Nat := bits e 24 20

/-! ## The fault queue (R396) -/

/-- The queue of a die takes records: `FLTQ.EN`, and its memory in service (R483). -/
def State.fltqOn (s : State) (d : Nat) : Bool :=
  let q := (s.die d).fltq
  q.getLsbD 63 && (s.homeFault (tierKey 1 (bits q 12 32 * 4096))) != some 8

def State.fltqKey (s : State) (d : Nat) : Nat := tierKey 1 (bits (s.die d).fltq 12 32 * 4096)
def State.fltqSize (s : State) (d : Nat) : Nat := 2 ^ (bits (s.die d).fltq 44 4 + 4)

def State.fltqFull (s : State) (d : Nat) : Bool :=
  let k := s.fltqKey d
  (s.getNat k 4 + 2 ^ 32 - s.getNat (k + 4) 4) % 2 ^ 32 ≥ s.fltqSize d

/-- Writes the 32-byte record of R396 and raises the vector of R489. -/
def State.writeFaultRecord (s : State) (d va code kind : Nat) (asid : BitVec 16) (id : W32) (place : List Byte) : State :=
  let k := s.fltqKey d
  let tail := s.getNat k 4
  let r := k + 64 + 32 * (tail % s.fltqSize d)
  let body := toBytes 8 va ++ toBytes 2 asid.toNat ++ toBytes 1 code ++ toBytes 1 kind ++ toBytes 4 id.toNat ++ place ++ toBytes 12 0
  ((s.putBytes (span r 32) body).putBytes (span k 4) (toBytes 4 ((tail + 1) % 2 ^ 32))).raise (1 + d)

/-- Bytes 16 to 19 of a record for a warp (R396). -/
def faultPlace (w : Nat) : List Byte :=
  toBytes 1 (dieOf (coreOf w)) ++ toBytes 1 (coreOf w % 96 / 4) ++ toBytes 1 (coreOf w % 96) ++ toBytes 1 (slotOf w)

/-- The page of a fault as its first 4 KiB and their number (R396): that of the leaf where one maps the address, otherwise 4 KiB alone (log entry 29). -/
def State.faultPage (s : State) (asid : BitVec 16) (va : Nat) : Nat × Nat :=
  match (s.procs.find? fun p => s.asid p.1 == asid).map fun p => s.walk p.1 va with
  | some (.leaf e _) => let n := szBytes (pteSz e) / 4096; (va / 4096 / n * n, n)
  | _ => (va / 4096, 1)

/-- A record is about the page of an address. -/
def FaultRec.covers (r : FaultRec) (asid : BitVec 16) (va : Nat) : Bool :=
  r.asid == asid && r.vpn ≤ va / 4096 && va / 4096 < r.vpn + r.pages

/-- A fault enters the service of a die: given up at once, attached to the record of its page, or written as a new record. The answer is
the record that it waits for. -/
def State.faultIn (s : State) (d : Nat) (asid : BitVec 16) (va code kind : Nat) (place : List Byte) (x : Waiter) :
    Option (Nat × Nat) × State :=
  if !s.fltqOn d then (none, s)
  else
    let dd := s.die d
    match dd.faults.find? fun r => r.covers asid va with
    | some r =>
      (some (d, r.id.toNat), s.setDie d { dd with faults := dd.faults.map fun q =>
        if q.id = r.id then { q with waiters := q.waiters ++ [x] } else q })
    | none =>
      let id := dd.faultSeq
      let full := s.fltqFull d
      let (page, n) := s.faultPage asid va
      let rec_ : FaultRec := { id := id, asid := asid, vpn := page, pages := n, waiters := [x], written := !full,
                               va := va, code := code, kind := kind, place := place }
      let s := s.setDie d { dd with faults := dd.faults ++ [rec_], faultSeq := id + 1 }
      (some (d, id.toNat), if full then s else s.writeFaultRecord d va code kind asid id place)

/-- A fault of a key slot writes its record, or attaches to that of its page; nothing waits for it, since the fault fails at once (R168, R396; log entry 67). -/
def State.keyRecord (s : State) (d : Nat) (asid : BitVec 16) (va kind : Nat) (place : List Byte) : State :=
  if !s.fltqOn d || (s.die d).faults.any fun r => r.covers asid va then s
  else
    let id := (s.die d).faultSeq
    let full := s.fltqFull d
    let (page, n) := s.faultPage asid va
    let rec_ : FaultRec := { id := id, asid := asid, vpn := page, pages := n, waiters := [], written := !full, va := va, code := 3, kind := kind, place := place }
    let s := s.modDie d fun dd => { dd with faults := dd.faults ++ [rec_], faultSeq := id + 1 }
    if full then s else s.writeFaultRecord d va 3 kind asid id place

/-- A held record is written once the queue has room (R396). -/
def State.flushFaults (s : State) (d : Nat) : State :=
  match (s.die d).faults.find? (fun r => !r.written) with
  | some r =>
    if s.fltqOn d && !s.fltqFull d then
      (s.modDie d fun dd => { dd with faults := dd.faults.map fun q => if q.id = r.id then { q with written := true } else q }).writeFaultRecord
        d r.va r.code r.kind r.asid r.id r.place
    else s
  | none => s

end Sys2Proof.Machine
end

