-- ==== Sys2Proof/Machine/Ops.lean ====
section
/-! DEFINITION. The named operations over warps: registers and their pools (R20 to R35), the frontier (R36 to R38), code fetch and pad
words (R51), taking a trap and returning from one (R158 to R178), and the waits of a warp. -/

namespace Sys2Proof.Machine

/-! ## Lanes -/

/-- The lanes of a mask, ascending. -/
def lanesOf (m : Mask) : List (Fin 32) := (List.finRange 32).filter fun l => m.getLsbD l.val

/-- The lowest active lane (R175). -/
def firstLane (m : Mask) : Option (Fin 32) := (lanesOf m).head?

/-- A set of lanes given by a test. -/
def maskOf (f : Fin 32 → Bool) : Mask := (List.finRange 32).foldl (fun m l => if f l then m ||| (1#32 <<< l.val) else m) 0

def allLanes : Mask := 0xFFFFFFFF

/-- Values in the lanes of a mask replaced. -/
def Lanes.merge (old : Lanes W32) (m : Mask) (new : Fin 32 → W32) : Lanes W32 :=
  Vector.ofFn fun l => if m.getLsbD l.val then new l else old[l]

def poisonLanes : Lanes W32 := Vector.replicate 32 poison32

/-! ## Reading registers (R21, R26, R27, R173) -/

/-- The kept value of a released lane register (R173). -/
def keptLane (ps : List Put) (n : Nat) : Option (Lanes W32 × Mask) :=
  ps.findSome? fun p => match p with
    | .x i _ v t => if i = n then some (v, t) else none
    | .k .. => none

def keptUni (ps : List Put) (n : Nat) : Option (W64 × Bool) :=
  ps.findSome? fun p => match p with
    | .k i v t => if i = n then some (v, t) else none
    | .x .. => none

/-- What a lane register reads as: its value, and its tags. -/
def Warp.lane (w : Warp) (n : Nat) : Lanes W32 × Mask :=
  if n = 255 then (Vector.replicate 32 0, 0)
  else match w.x.get? n with
    | some r => (Vector.ofFn fun l => if r.bad.getLsbD l.val then poison32 else r.val[l], r.tag ||| r.bad)
    | none => (keptLane w.kept n).getD (poisonLanes, allLanes)

/-- What a uniform register reads as. -/
def Warp.uni (w : Warp) (n : Nat) : W64 × Bool :=
  match w.k.get? n with
  | some r => if r.bad then (poison64, true) else (r.val, r.tag)
  | none => (keptUni w.kept n).getD (poison64, true)

/-- A read of the register in these lanes meets an unbound register: the first answer; or a word that fails SECDED: the second. -/
def Warp.readFlaws (w : Warp) (r : Reg) (act : Mask) : Bool × Bool :=
  match r with
  | .x n => match w.x.get? n with
    | some r => (false, (r.bad &&& act) != 0)
    | none => ((keptLane w.kept n).isNone, false)
  | .k n => match w.k.get? n with
    | some r => (false, r.bad)
    | none => ((keptUni w.kept n).isNone, false)

def Warp.isEmpty (w : Warp) : Reg → Bool
  | .x n => ((w.x.get? n).map (·.empty)).getD false
  | .k n => ((w.k.get? n).map (·.empty)).getD false

def Warp.isSpilled (w : Warp) : Reg → Bool
  | .x n => ((w.x.get? n).map (·.spilled)).getD false
  | .k n => ((w.k.get? n).map (·.spilled)).getD false

def Warp.isBound (w : Warp) : Reg → Bool
  | .x n => (w.x.get? n).isSome
  | .k n => (w.k.get? n).isSome

/-- A predicate; `p7` is true in every lane (R21). -/
def Warp.pred (w : Warp) (n : Nat) : Mask := if h : n < 7 then w.preds[n] else allLanes

/-! ## Writing registers (R24, R25) -/

def dropKept (ps : List Put) (r : Reg) : List Put :=
  ps.filter fun p => match p, r with
    | .x i .., .x n => i != n
    | .k i .., .k n => i != n
    | _, _ => true

/-- The lanes of a mask of a lane register receive values and tags; an unbound register is bound, and its other lanes are poison. -/
def Warp.putLane (w : Warp) (n : Nat) (m : Mask) (v : Fin 32 → W32) (t : Mask) (stamp : Nat) (empty : Bool := false) : Warp :=
  if n = 255 then w
  else
    let old := (w.x.get? n).getD { val := poisonLanes, tag := allLanes }
    let r : LReg := { val := Lanes.merge old.val m v, tag := (old.tag &&& ~~~m) ||| (t &&& m), bad := old.bad &&& ~~~m, empty := empty,
                      spilled := false, stamp := stamp }
    { w with x := w.x.set n r, kept := dropKept w.kept (.x n) }

def Warp.putUni (w : Warp) (n : Nat) (v : W64) (t : Bool) (stamp : Nat) (empty : Bool := false) : Warp :=
  { w with k := w.k.set n { val := v, tag := t, empty := empty, stamp := stamp }, kept := dropKept w.kept (.k n) }

/-- Active lanes of a predicate; a write of `p7` is discarded (R21). -/
def Warp.putPred (w : Warp) (n : Nat) (m v : Mask) : Warp :=
  if h : n < 7 then { w with preds := w.preds.set n ((w.preds[n] &&& ~~~m) ||| (v &&& m)) } else w

/-- Marks a destination empty at issue, binding it where it is unbound (R24, R32). -/
def Warp.markEmpty (w : Warp) (r : Reg) (stamp : Nat) : Warp :=
  match r with
  | .x n => if n = 255 then w else
    let old := (w.x.get? n).getD { val := poisonLanes, tag := allLanes }
    { w with x := w.x.set n { old with empty := true, spilled := false, stamp := stamp }, kept := dropKept w.kept r }
  | .k n =>
    let old := (w.k.get? n).getD { val := poison64, tag := true }
    { w with k := w.k.set n { old with empty := true, spilled := false, stamp := stamp }, kept := dropKept w.kept r }

/-- A last-use read releases the binding; with KEEP the value stays readable until the run ends (R25, R173). -/
def Warp.release (w : Warp) (r : Reg) (keep : Bool) : Warp :=
  match r with
  | .x n =>
    let (v, t) := w.lane n
    let kept := if keep && (w.x.get? n).isSome then Put.x n allLanes v t :: dropKept w.kept r else w.kept
    { w with x := w.x.erase n, kept := kept }
  | .k n =>
    let (v, t) := w.uni n
    let kept := if keep && (w.k.get? n).isSome then Put.k n v t :: dropKept w.kept r else w.kept
    { w with k := w.k.erase n, kept := kept }

/-- The stamp of an access (R29). -/
def Warp.touch (w : Warp) (r : Reg) (stamp : Nat) : Warp :=
  match r with
  | .x n => match w.x.get? n with
    | some q => { w with x := w.x.set n { q with stamp := stamp } }
    | none => w
  | .k n => match w.k.get? n with
    | some q => { w with k := w.k.set n { q with stamp := stamp } }
    | none => w

/-- Writes the values that a producer delivers (R32). -/
def Warp.deliver (w : Warp) (stamp : Nat) : Put → Warp
  | .x n m v t => w.putLane n m (fun l => v[l]) t stamp
  | .k n v t => w.putUni n v t stamp

/-- The registers that a destination marks empty (R32). -/
def Dest.regs : Dest → List Reg
  | .none => []
  | .lane n count => if n = 255 then [] else ((List.range count).map (n + ·)).filterMap fun r => if r = 255 then Option.none else Option.some (Reg.x r)
  | .uni n count => (List.range count).map fun i => Reg.k (n + i)

/-! ## Pools and the spill region (R28 to R31, R192) -/

/-- The warps of a quadrant. -/
def State.quadWarps (s : State) (core q : Nat) : Tbl Warp := s.warps.filter fun p => coreOf p.1 == core && quadOf p.1 == q

/-- Physical entries that a warp holds in a pool: `lanePool` is the pool of lane warp-registers. -/
def Warp.bindings (w : Warp) (lanePool : Bool) : Nat :=
  if lanePool then (w.x.filter fun r => !r.2.spilled).length else (w.k.filter fun r => !r.2.spilled).length

def poolSize (lanePool : Bool) : Nat := if lanePool then 1024 else 4096

def State.poolUsed (s : State) (core q : Nat) (lanePool : Bool) : Nat :=
  ((s.quadWarps core q).map fun p => p.2.bindings lanePool).sum

/-- The outstanding reserves of a quadrant (R29). -/
def State.reserves (s : State) (core q : Nat) (lanePool : Bool) : Nat :=
  ((s.quadWarps core q).map fun p => 16 - p.2.bindings lanePool).sum

/-- Steps 1 and 2 of R29 give `n` entries to a warp. -/
def State.hasRoom (s : State) (w : Nat) (lanePool : Bool) (n : Nat) : Bool :=
  match s.warp? w with
  | none => false
  | some x =>
    let own := x.bindings lanePool
    let core := coreOf w; let q := quadOf w
    s.poolUsed core q lanePool + n ≤ poolSize lanePool && (own + n ≤ 16 ||
      s.reserves core q lanePool - (16 - own) + (n - 1) < poolSize lanePool - s.poolUsed core q lanePool)

/-- Bytes of the spill region that a core's warps use (R30, R38). -/
def State.spillUsed (s : State) (core : Nat) : Nat :=
  ((s.warps.filter fun p => coreOf p.1 == core).map fun p =>
    256 + 128 * (p.2.x.filter fun r => r.2.spilled).length + 8 * (p.2.k.filter fun r => r.2.spilled).length).sum

def isLaneReg : Reg → Bool
  | .x _ => true
  | .k _ => false

/-- Eligible bindings of a warp as victims, with their stamps (R29): not empty, in the pool, not named by the requesting instruction. -/
def Warp.victims (w : Warp) (lanePool : Bool) (named : List Reg) : List (Nat × Nat) :=
  if lanePool then (w.x.filter fun r => !r.2.spilled && !r.2.empty && !named.contains (.x r.1)).map fun r => (r.2.stamp, r.1)
  else (w.k.filter fun r => !r.2.spilled && !r.2.empty && !named.contains (.k r.1)).map fun r => (r.2.stamp, r.1)

/-- The least of a list of pairs by its first component, the earliest on ties. -/
def leastBy : List (Nat × Nat) → Option (Nat × Nat)
  | [] => none
  | p :: ps => match leastBy ps with
    | none => some p
    | some q => if q.1 < p.1 then some q else some p

/-- Step 3 of R29: the victim warp and its register. `req` is the requesting warp with the registers of its instruction;
its bindings are counted before the first of them is bound (log entry 78). -/
def State.victim (s : State) (core q : Nat) (lanePool : Bool) (req : Nat) (named : List Reg) : Option (Nat × Reg) :=
  let cands := (s.quadWarps core q).filter fun p =>
    16 ≤ p.2.bindings lanePool && !(p.2.victims lanePool (if p.1 = req then named else [])).isEmpty
  let best := cands.foldl (fun (b : Option (Nat × Warp)) p => match b with
    | none => some p
    | some c =>
      if p.2.prio < c.2.prio || (p.2.prio == c.2.prio && (c.2.bindings lanePool < p.2.bindings lanePool ||
        (c.2.bindings lanePool == p.2.bindings lanePool && c.1 < p.1))) then some p else some c) none
  best.bind fun p => (leastBy (p.2.victims lanePool (if p.1 = req then named else []))).map fun v =>
    (p.1, if lanePool then Reg.x v.2 else Reg.k v.2)

/-- The last-access stamp of a bound register (R29). -/
def Warp.stampOf (w : Warp) : Reg → Nat
  | .x n => ((w.x.get? n).map (fun (q : LReg) => q.stamp)).getD 0
  | .k n => ((w.k.get? n).map (fun (q : UReg) => q.stamp)).getD 0

def Warp.setSpilled (w : Warp) (r : Reg) (on : Bool) (stamp : Nat) : Warp :=
  match r with
  | .x n => match w.x.get? n with
    | some q => { w with x := w.x.set n { q with spilled := on, stamp := stamp } }
    | none => w
  | .k n => match w.k.get? n with
    | some q => { w with k := w.k.set n { q with spilled := on, stamp := stamp } }
    | none => w

/-! ## The frontier (R37, R38) -/

/-- `a` sorts before `b`: higher priority, then lower PC. -/
def Entry.before (a b : Entry) : Bool := b.prio < a.prio || (a.prio == b.prio && a.pc < b.pc)

def Entry.insert : Entry → List Entry → List Entry
  | e, [] => [e]
  | e, a :: t => if e.before a then e :: a :: t else a :: Entry.insert e t

/-- Two entries of one PC: the union of the masks and the higher priority. -/
def Entry.merge (e a : Entry) : Entry := { prio := if a.prio < e.prio then e.prio else a.prio, pc := e.pc, mask := a.mask ||| e.mask }

/-- Adds an entry: it merges with an entry of the same PC. -/
def Entry.add (es : List Entry) (e : Entry) : List Entry :=
  if e.mask = 0 then es
  else Entry.insert ((es.filter fun a => a.pc == e.pc).foldl Entry.merge e) (es.filter fun a => a.pc != e.pc)

/-- Replaces the head entry by entries. -/
def Warp.replaceHead (w : Warp) (es : List Entry) : Warp := { w with hw := es.foldl Entry.add w.hw.tail }

/-- A move of R38 is due. -/
def Warp.moveDue (w : Warp) : Bool := 16 < w.hw.length || (w.hw.length < 16 && !w.sp.isEmpty)

/-- One move of R38: the lowest entry leaves a full frontier, or the highest spilled record returns. -/
def Warp.moveEntry (w : Warp) : Warp :=
  if 16 < w.hw.length then
    match w.hw.getLast? with
    | some e => { w with hw := w.hw.dropLast, sp := Entry.insert e w.sp, fov := true }
    | none => w
  else match w.sp with
    | e :: t => if w.hw.length < 16 then { w with hw := Entry.add w.hw e, sp := t } else w
    | [] => w

/-! ## Code (R50 to R52) -/

/-- The translation of a code address of a warp, through its core's cached leaves. -/
def State.codeWalk (s : State) (w : Nat) (x : Warp) (va : Nat) : Walk := s.lookup (coreOf w) x.owner.proc va 3

/-- A byte of code as a core fetches it: from its instruction cache, or from memory (R190). -/
def State.codeByte (s : State) (core k : Nat) : Byte :=
  match (s.core core).icache.find? fun l => l.line == k / 128 with
  | some l => l.data.getD (k % 128) 0
  | none => s.byte (s.redirect k)

/-- Four bytes of code. -/
def State.codeAt (s : State) (core k : Nat) : W32 := BitVec.ofNat 32 (ofBytes ((span k 4).map (s.codeByte core)))

/-- The 32-bit code word at an address, where it translates. -/
def State.codeWord (s : State) (w : Nat) (x : Warp) (va : Nat) : Option W32 :=
  match s.codeWalk w x va with
  | .leaf e _ => if pteTier e = 3 then none else some (s.codeAt (coreOf w) (leafKey e va))
  | .fault _ => none

/-- The pad word (R51). -/
def padWord : W32 := 3

/-- The first address from `pc` on that does not hold a pad word (R51). -/
def State.skipPads (s : State) (w : Nat) (x : Warp) : Nat → BitVec 57 → BitVec 57
  | 0, pc => pc
  | n + 1, pc => if s.codeWord w x pc.toNat = some padWord then State.skipPads s w x n (pc + 4) else pc

/-- The address that an entry takes when it would take `pc` (R51): the search may pass every word of the address space. Where the next word does not
translate, the entry rests, and skips on when it is the head (log entry 46). -/
def State.land (s : State) (w : Nat) (x : Warp) (pc : BitVec 57) : BitVec 57 := s.skipPads w x (2 ^ 55) pc

/-! ## Process memory that the device itself reads and writes (DONE words, call slots, rings) -/

/-- The keys of `n` bytes of a process's virtual memory as its leaves map them, where every byte translates with the permission. -/
def State.virtRaw (s : State) (p va n perm : Nat) : Option (List Nat) :=
  (List.range n).foldr (fun i (r : Option (List Nat)) => r.bind fun ks =>
    match s.walk p ((va + i) % 2 ^ 57) with
    | .leaf e _ => if permits perm e && pteTier e ≠ 3 then some (leafKey e (va + i) :: ks) else none
    | .fault _ => none) (some [])

/-- The same keys, at the places where their lines are now (R400). -/
def State.virtKeys (s : State) (p va n perm : Nat) : Option (List Nat) := (s.virtRaw p va n perm).map fun ks => ks.map s.redirect

/-- Bytes that the device or the host writes to the memory of a process, where they translate with write permission. -/
def State.storeVirt (s : State) (p va : Nat) (bs : List Byte) : State := ((s.virtRaw p va bs.length 1).map fun ks => s.putBytes ks bs).getD s

/-- A read by the device of bytes of a process's memory is a request at their homes (R405). -/
def State.useVirt (s : State) (p va n : Nat) : State := ((s.virtRaw p va n 0).map fun ks => s.use ks .read).getD s

def State.readVirt (s : State) (p va n : Nat) : Option Nat := (s.virtKeys p va n 0).map fun ks => ofBytes (s.bytes ks)

/-! ## Issue slots (R185) -/

/-- A warp gives up its quadrant's issue slot. -/
def State.freeSlot (s : State) (w : Nat) : State :=
  let c := s.core (coreOf w)
  let q := quadOf w
  match c.quads[q]? with
  | some x => if x.holder = some w then s.setCore (coreOf w) { c with quads := c.quads.set! q { x with holder := none } } else s
  | none => s

/-- A wait of R42 or a suspension: the warp gives up its slot, and no operand-cache value survives (R173). -/
def State.hold (s : State) (w : Nat) (x : Wait) : State :=
  (s.modWarp w fun p => { p with wait := some x, kept := [] }).freeSlot w

/-! ## Traps (R158 to R164) -/

/-- The vector of a trap code (R158). -/
def trapVector (code : Nat) : Nat :=
  if code = 0x0D then 3 else if code = 0x20 then 1 else if code = 0x21 then 0 else 2

/-- The handler address of a vector (R160). -/
def TrapRegs.handler (t : TrapRegs) (v : Nat) : BitVec 57 := BitVec.ofNat 57 (t.tvBase.toNat * 256 + 64 * v)

/-- The leaves of a process's tables from an address on, up to the first address that does not translate. -/
def State.leavesFrom (s : State) (p : Nat) : Nat → Nat → Nat → List (Nat × Nat × Nat)
  | 0, _, _ => []
  | n + 1, va, last =>
    if last ≤ va then []
    else match s.walk p va with
      | .leaf e _ =>
        let size := szBytes (pteSz e)
        let lo := va / size * size
        if pteTier e = 3 then [] else (lo, size, leafKey e lo) :: State.leavesFrom s p n (lo + size) last
      | .fault _ => []

/-- Pins the translation of a process's call window, up to 65,536 slots from its base (R179; log entry 47). -/
def State.pinCalls (s : State) (p : Nat) : State :=
  s.modProc p fun q =>
    let base := bits q.callwin 0 47 * 1024
    { q with callPins := s.leavesFrom p 16385 base (Nat.min (base + 2 ^ 26) (2 ^ 57)) }

/-- The slot of a warp in the call window (R179). -/
def State.callSlotVa (s : State) (x : Warp) : Nat :=
  (((s.proc? x.owner.proc).map fun p => bits p.callwin 0 47).getD 0 * 1024 + x.call.ix.toNat * 1024) % 2 ^ 57

/-- The request part of a record in a call slot (R180). -/
def callRecord (num flags : Nat) (mask : Mask) (seq : W32) (scope w : Nat) (node : BitVec 20) (kb : W64) (args : List Byte) (tags : Mask)
    (pc : BitVec 57) (info : W64) (code : Nat) : List Byte :=
  toBytes 2 num ++ toBytes 2 flags ++ toBytes 4 mask.toNat ++ toBytes 4 seq.toNat ++ toBytes 4 scope ++
  (toBytes 1 (dieOf (coreOf w)) ++ toBytes 1 (coreOf w % 96 / 4) ++ toBytes 1 (coreOf w % 96) ++ toBytes 1 (slotOf w)) ++
  toBytes 4 node.toNat ++ toBytes 8 kb.toNat ++ args ++ toBytes 4 tags.toNat ++ toBytes 4 0 ++ toBytes 8 pc.toNat ++
  toBytes 8 info.toNat ++ toBytes 1 code ++ toBytes 71 0

/-- The keys of bytes of a warp's call slot: through the pinned translation, which never faults, or through the tables where nothing is pinned (R179). -/
def State.slotRaw (s : State) (x : Warp) (off n perm : Nat) : Option (List Nat) :=
  let va := s.callSlotVa x + off
  match (((s.proc? x.owner.proc).map (·.callPins)).getD []).find? fun r => r.1 ≤ va && va + n ≤ r.1 + r.2.1 with
  | some r => some (span (r.2.2 + (va - r.1)) n)
  | none => s.virtRaw x.owner.proc va n perm

/-- The same keys, at the places where their lines are now (R400). -/
def State.slotKeys (s : State) (x : Warp) (off n perm : Nat) : Option (List Nat) := (s.slotRaw x off n perm).map fun ks => ks.map s.redirect

/-- A read by the device of bytes of a warp's call slot is a request at their homes (R405). -/
def State.useSlot (s : State) (x : Warp) (off n : Nat) : State := ((s.slotRaw x off n 0).map fun ks => s.use ks .read).getD s

def State.readSlot (s : State) (x : Warp) (off n : Nat) : Option Nat := (s.slotKeys x off n 0).map fun ks => ofBytes (s.bytes ks)

def State.writeSlot (s : State) (x : Warp) (off : Nat) (bs : List Byte) : State :=
  ((s.slotRaw x off bs.length 1).map fun ks => s.putBytes ks bs).getD s

/-- A notice that the device owes to a call ring (R183). `since` is the clk since which the ring has held notices. -/
def State.notify (s : State) (x : Warp) (seq : W32) (num : Nat) (exc : Bool) : State :=
  let runtime := !exc && num < 0x4000 && s.runtime.isSome
  { s with notices := s.notices ++ [{ proc := x.owner.proc, ix := x.call.ix, seq := seq, num := BitVec.ofNat 16 num, exc := exc,
                                      runtime := runtime,
                                      since := ((s.notices.find? fun n => n.runtime && runtime).map (·.since)).getD s.clock }] }

/-- What a warp's slot receives: a record, which its notice follows, or the flag of a cancelled call (R180, R182). -/
def State.putPost (s : State) (x : Warp) (p : Post) : State :=
  match p.record with
  | some (bs, seq, num) => (s.writeSlot x (512 * p.half) bs).notify x seq num (p.half == 1)
  | none => match s.readSlot x 2 1 with
    | some v => s.writeSlot x 2 (toBytes 1 (v ||| 8))
    | none => s

/-- No access of a warp is on its way: a system-scope release of the warp is complete (R181). -/
def State.landed (s : State) (w : Nat) : Bool := s.flights.all fun f => f.w != w

/-- A write to a warp's call slot with a system-scope release (R181, R182): at once, or after the accesses that are on their way. -/
def State.post (s : State) (w : Nat) (p : Post) : State :=
  match s.warp? w with
  | none => s
  | some x => if s.landed w && x.call.posts.isEmpty then s.putPost x p
    else s.setWarp w { x with call := { x.call with posts := x.call.posts ++ [p] } }

/-- The writes to a warp's slot that waited for its accesses. -/
def State.putPosts (s : State) (w : Nat) : State :=
  match s.warp? w with
  | none => s
  | some x => if s.landed w && !x.call.posts.isEmpty then
      x.call.posts.foldl (fun t p => t.putPost x p) (s.setWarp w { x with call := { x.call with posts := [] } })
    else s

/-- A report (R164): the warp stops, the exception record is written into the exception half of its slot, and the host is notified. -/
def State.report (s : State) (w : Nat) (x : Warp) (code : Nat) (info : W64) (rpc : BitVec 57) : State :=
  let seq := x.call.seq + 1
  let mask := (x.hw.head?.map (·.mask)).getD 0
  let rec_ := callRecord (0x8000 + code) (2 + (if x.trap.act then 4 else 0)) mask seq x.owner.scope w s.nodeid 0 (toBytes 128 0) 0 rpc info code
  let x := { x with call := { x.call with seq := seq, report := some rpc, reportSeq := seq }, kept := [], wait := none }
  ((s.setWarp w x).freeSlot w).post w { half := 1, record := some (rec_, seq, 0x8000 + code) }

/-- TAKING A TRAP (R161): entry to the warp's handler when its vector is enabled and no handler runs; otherwise a report (R164). -/
def State.takeTrap (s : State) (w : Nat) (code : Nat) (info : W64) (rpc : BitVec 57) : State :=
  match s.warp? w with
  | none => s
  | some x =>
    let v := trapVector code
    match x.hw with
    | [] => s
    | e :: _ =>
      if x.trap.tvEn.getLsbD v && !x.trap.act then
        let t := { x.trap with act := true, tpend := x.trap.tpend || x.trap.fired.isSome, vec := v, code := code, rlen := x.run, info := info, rprio := e.prio,
                               rpc := BitVec.ofNat 55 (rpc.toNat / 4) }
        let y := { x with trap := t, run := 0, kept := [], wait := none }
        let y := y.replaceHead [{ prio := 255, pc := s.land w x (t.handler v), mask := e.mask }]
        (s.setWarp w y).freeSlot w
      else s.report w x code info rpc

/-- RETURNING FROM A TRAP (R178): the head takes the saved priority and PC, the run counter its saved value, and no handler runs. -/
def State.returnTrap (s : State) (w : Nat) : State :=
  s.modWarp w fun x =>
    match x.hw with
    | [] => x
    | e :: _ =>
      let pc := BitVec.ofNat 57 (x.trap.rpc.toNat * 4)
      let y := { x with run := x.trap.rlen, trap := { x.trap with act := false } }
      y.replaceHead [{ prio := x.trap.rprio, pc := s.land w x pc, mask := e.mask }]

/-! ## Poison at the warp (R26, R27, R172) -/

def Warp.ptrap (x : Warp) : Bool := x.fp.ctl.getLsbD 15

/-- A poisoned load, a failed register read or a poison completion: the flag, and under PTRAP the pending trap with its PC,
the first where several came before one boundary (log entry 83). -/
def Warp.poisonSeen (x : Warp) (pc : BitVec 57) : Warp :=
  { x with psn := true,
           trap := if x.ptrap && x.trap.poison.isNone then { x.trap with poison := some (pc.setWidth 64) } else x.trap }

end Sys2Proof.Machine
end

