-- ==== Sys2Proof/Machine/Operands.lean ====
section
/-! DEFINITION. Operand forms and the issue of one instruction: the waits and traps of its sources and destination (R33, R34), the reads,
the last-use releases, the operand values under the class bits of R82, its destination, and its retirement (R25, R36, R40, R54, R55). -/

namespace Sys2Proof.Machine

/-! ## Operand values -/

/-- The values of an operand in the 32 lanes, 64 bits wide, with the tags. -/
structure Opr where
  val : Fin 32 → W64
  tag : Mask

/-- A lane register, or an even pair of them (R81), in every lane. -/
def Warp.laneOpr (x : Warp) (n : Nat) (pair : Bool) : Opr :=
  let (v, t) := x.lane n
  if pair && n != 255 then
    let (h, t') := x.lane (n + 1)
    { val := fun l => h[l].setWidth 64 <<< 32 ||| v[l].setWidth 64, tag := t ||| t' }
  else { val := fun l => v[l].setWidth 64, tag := t }

/-- A uniform register, the same in every lane. -/
def Warp.uniOpr (x : Warp) (n : Nat) : Opr :=
  let (v, t) := x.uni n
  { val := fun _ => v, tag := if t then allLanes else 0 }

/-- An operand under its class bits: immediate, uniform register, or lane register or pair (R82). -/
def Warp.opr (x : Warp) (f : Frame) (imm uni : Bool) (s : Src) (h : BitVec 2) (pair signed : Bool) : Opr :=
  if imm then { val := fun _ => if signed then f.imm.signExtend 64 else f.imm.setWidth 64, tag := 0 }
  else if uni then x.uniOpr (uniNum h s.num)
  else x.laneOpr s.num.toNat pair

def Warp.oprA (x : Warp) (f : Frame) (pair signed : Bool) : Opr := x.opr f false f.au f.a f.ah pair signed
def Warp.oprB (x : Warp) (f : Frame) (pair signed : Bool) : Opr := x.opr f f.bi f.bu f.b f.bh pair signed
def Warp.oprC (x : Warp) (f : Frame) (pair signed : Bool) : Opr := x.opr f f.ci f.cu f.c f.ch pair signed

/-- Registers `n` to `n+count-1` as uniform words, and whether any is tagged (R221, R437). -/
def Warp.uniGroup (x : Warp) (n count : Nat) : List W64 × Bool :=
  let vs := (List.range count).map fun i => x.uni (n + i)
  (vs.map (·.1), vs.any (·.2))

/-! ## Issue -/

/-- What the body of an instruction sees: the warp as its sources read it. -/
structure Issue where
  w : Nat
  f : Frame
  sh : Shape
  e : Entry
  act : Mask
  x : Warp

/-- What the body of an instruction answers: a precise trap (R159), a wait, a wait that keeps the issue slot (R189), a suspension after its effects, the next state with the PC
still to advance, the next state with the frontier already changed, or a state in which the instruction has also retired. -/
inductive Act where
  | trap (code : Nat) (info : W64)
  | hold (wt : Wait)
  | stall (wt : Wait)
  | suspend (s : State) (wt : Wait)
  | next (s : State)
  | jump (s : State)
  | done (s : State)

/-- The number of a register as TINFO reports it (R158). -/
def regInfo : Reg → W64
  | .x n => BitVec.ofNat 64 n
  | .k n => BitVec.ofNat 64 (1024 + n)

/-- The lanes whose guard holds (R11, R54). -/
def Warp.active (x : Warp) (f : Frame) (e : Entry) : Mask :=
  let p := x.pred f.guard.toNat
  e.mask &&& (if f.gneg then ~~~p else p)

/-- A token named by WT is pending (R63, R226). -/
def Warp.tokenPending (x : Warp) (wt : BitVec 8) : Bool :=
  (List.range 8).any fun i => wt.getLsbD i && x.copy.cnt.getD i 0 != 0

/-- The first empty source of an instruction (R33). -/
def emptySource (sh : Shape) (f : Frame) (x : Warp) : Option (Reg × Src) := (sh.reads f).find? fun p => x.isEmpty p.1

/-- A write of the destination covers the whole register (R31). -/
def wholeWrite (r : Reg) (act : Mask) : Bool := !isLaneReg r || act == allLanes

/-- The registers that the instruction must newly bind (R24, R31). -/
def newBinds (sh : Shape) (f : Frame) (x : Warp) (act : Mask) : List Reg :=
  if act = 0 || sh.keeps then []
  else (sh.writes f).filter fun r => !x.isBound r || x.isSpilled r || (sh.releases f).any (·.1 == r)

/-- The conditions that follow the decode checks (R63, R33, R34, R31, R29), in order: a wait, a trap, or neither. -/
def State.gate (s : State) (w : Nat) (x : Warp) (sh : Shape) (f : Frame) (act : Mask) : Option Act :=
  if x.tokenPending f.wt then some (.hold (.token f.wt))
  else match emptySource sh f x with
  | some (r, src) => some (if src.ep then .trap 8 (regInfo r) else .hold (.regs [r]))
  | none =>
    match (sh.writes f).find? x.isEmpty with
    | some r => some (.hold (.regs [r]))
    | none =>
      match (sh.reads f).find? (fun p => x.isSpilled p.1 && !p.2.lu) with
      | some (r, _) => some (.hold (.refill r))
      | none =>
        match (sh.writes f).find? (fun r => act != 0 && x.isSpilled r && (sh.keeps || !wholeWrite r act) && !(sh.releases f).any (·.1 == r)) with
        | some r => some (.hold (.refill r))
        | none =>
          match newBinds sh f x act with
          | [] => none
          | r :: rs =>
            let freed := ((sh.releases f).filter fun p => x.isBound p.1 && !x.isSpilled p.1 && isLaneReg p.1 == isLaneReg r).map (·.1)
            let need := rs.length + 1 - freed.eraseDups.length
            if need = 0 || s.hasRoom w (isLaneReg r) need then none
            else some (.hold (.binding (isLaneReg r) need))

/-- Reads: the flags of R26 and R27 for the registers read in active lanes, and the stamps of R29. -/
def Warp.readAll (x : Warp) (sh : Shape) (f : Frame) (act : Mask) (pc : BitVec 57) (stamp : Nat) : Warp :=
  let rs := (sh.reads f).map (·.1)
  let y := if act = 0 then x else rs.foldl (fun y r =>
    let (unbound, bad) := x.readFlaws r act
    let y := if unbound then { y with psn := true } else y
    if bad then y.poisonSeen pc else y) x
  rs.foldl (fun y r => y.touch r stamp) y

def Warp.releaseAll (x : Warp) (rs : List (Reg × Bool)) : Warp := rs.foldl (fun y p => y.release p.1 p.2) x

/-- Retirement: the PC advances past pad words with its priority kept (R36, R51), the run counter and the end of the run (R40), the issue slot
at the end of a run or at a wait (R42, R185). -/
def State.retire (s : State) (w : Nat) (f : Frame) (advance : Bool) : State :=
  match s.warp? w with
  | none => s
  | some x =>
    let y := if advance then
        match x.hw with
        | e :: _ => x.replaceHead [{ e with pc := s.land w x (e.pc + BitVec.ofNat 57 f.form.bytes) }]
        | [] => x
      else x
    let y := { y with run := if f.eor then 0 else y.run + 1, kept := if f.eor || y.wait.isSome then [] else y.kept }
    let s := s.setWarp w y
    if f.eor || y.wait.isSome || y.hw.isEmpty then s.freeSlot w else s

/-- A suspended instruction completes: the PC passes it and its run has ended; every instruction that suspends carries EOR (R41, R195, R313). -/
def State.finishWait (s : State) (w : Nat) : State :=
  match s.warp? w with
  | none => s
  | some x =>
    let y := match x.hw with
      | e :: _ => x.replaceHead [{ e with pc := s.land w x (e.pc + BitVec.ofNat 57 x.waitLen) }]
      | [] => x
    s.setWarp w { y with run := 0, kept := [], wait := none }

/-- One instruction of the warp whose turn it is: gate, reads, releases, then its body. A wait or a precise trap leaves no effect of the
instruction (R68, R159). -/
def State.issue (s : State) (i : Instr) (body : Issue → State → Act) : Out :=
  match s.warp? s.cur, i.shape with
  | some x, (sh, some f) =>
    match x.hw with
    | [] => .next s
    | e :: _ =>
      let w := s.cur
      let act := x.active f e
      let out := match s.gate w x sh f act with
        | some a => a
        | none =>
          let y := ((x.readAll sh f act e.pc s.clock).releaseAll (sh.releases f))
          let y := { y with wait := none }
          body { w := w, f := f, sh := sh, e := e, act := act, x := x } (s.setWarp w y)
      .next (match out with
        | .trap code info => s.takeTrap w code info e.pc
        | .hold wt => (s.hold w wt).modWarp w fun q => { q with waitLen := f.form.bytes }
        | .stall wt => s.modWarp w fun q => { q with wait := some wt }
        | .suspend t wt => (t.hold w wt).modWarp w fun q => { q with waitLen := f.form.bytes, run := 0 }
        | .next t => t.retire w f true
        | .jump t => t.retire w f false
        | .done t => t)
  | none, _ => .fault .noWarp
  | _, _ => .next s

/-- An instruction that acts once if its guard holds in some lane, and otherwise only advances (R54, R55). -/
def State.issueOnce (s : State) (i : Instr) (body : Issue → State → Act) : Out :=
  s.issue i fun iss t => if iss.act = 0 then .next t else body iss t

/-- An active lane of a source is tagged. -/
def Issue.tainted (i : Issue) (t : Mask) : Bool := (i.act &&& t) != 0

/-! ## Results -/

/-- Writes a lane result: a poisoned lane receives the poison value with its tag (R84). -/
def Issue.writeLane (i : Issue) (s : State) (n : Nat) (v : Fin 32 → W32) (t : Mask) : State :=
  if i.act = 0 then s
  else s.modWarp i.w fun x => x.putLane n i.act (fun l => if t.getLsbD l.val then poison32 else v l) t s.clock

/-- A 64-bit lane result in an even pair (R81). -/
def Issue.writePair (i : Issue) (s : State) (n : Nat) (v : Fin 32 → W64) (t : Mask) : State :=
  if n = 255 then s
  else i.writeLane (i.writeLane s n (fun l => (v l).setWidth 32) t) (n + 1) (fun l => (v l >>> 32).setWidth 32) t

def Issue.writeUni (i : Issue) (s : State) (n : Nat) (v : W64) (t : Bool) : State :=
  if i.act = 0 then s else s.modWarp i.w fun x => x.putUni n (if t then poison64 else v) t s.clock

/-- A predicate result: tagged lanes are written false (R84). -/
def Issue.writePred (i : Issue) (s : State) (n : Nat) (v : Fin 32 → Bool) (t : Mask) : State :=
  s.modWarp i.w fun x => x.putPred n i.act (maskOf v &&& ~~~t)

/-- A result in the destination that DU selects: the lanes, or one uniform value (R82, R83). -/
def Issue.writeD (i : Issue) (s : State) (pair : Bool) (v : Fin 32 → W64) (t : Mask) (uniform : W64 → W64) : State :=
  if i.f.du && i.sh.mDef &&& 0x400 != 0 then i.writeUni s i.f.kd (uniform (v 0)) (t.getLsbD 0)
  else if pair then i.writePair s i.f.xd v t
  else i.writeLane s i.f.xd (fun l => (v l).setWidth 32) t

/-- A producer: its destinations become empty, and the result waits on its way (R32). -/
def State.produce (s : State) (w : Nat) (rs : List Reg) (r : Result) : State :=
  s.modWarp w fun x =>
    let y := rs.foldl (fun y q => y.markEmpty q s.clock) x
    { y with results := y.results ++ [r] }

/-- A producer's lane result in the active lanes. -/
def Issue.produceLane (i : Issue) (s : State) (n : Nat) (v : Fin 32 → W32) (t : Mask) : State :=
  if i.act = 0 then s
  else
    let (id, s) := s.fresh
    if n = 255 then s
    else s.produce i.w [.x n]
      { id := id, puts := [.x n i.act (Vector.ofFn fun l => if t.getLsbD l.val then poison32 else v l) t] }

/-- A producer's uniform result. -/
def Issue.produceUni (i : Issue) (s : State) (n : Nat) (v : W64) (t : Bool) : State :=
  if i.act = 0 then s
  else
    let (id, s) := s.fresh
    s.produce i.w [.k n] { id := id, puts := [.k n (if t then poison64 else v) t] }

/-- The integer instructions with one result and no flags (R80 to R85): operands read under the class bits, one function of the three
operand values, any tag poisons the result. -/
def State.alu (s : State) (i : Instr) (wa wb wc wd signed : Bool) (na nb nc : Bool) (g : Issue → W64 → W64 → W64 → W64)
    (uniform : W64 → W64) : Out :=
  s.issueOnce i fun iss t =>
    let f := iss.f
    let zero : Opr := { val := fun _ => 0, tag := 0 }
    let a := if na then iss.x.oprA f wa signed else zero
    let b := if nb then iss.x.oprB f wb signed else zero
    let c := if nc then iss.x.oprC f wc signed else zero
    .next (iss.writeD t wd (fun l => g iss (a.val l) (b.val l) (c.val l)) (a.tag ||| b.tag ||| c.tag) uniform)

end Sys2Proof.Machine
end

