-- ==== Sys2Proof/Machine/Fetch.lean ====
section
/-! DEFINITION. Fetching the head instruction of a warp and the decode checks in their order (R50 to R52, R67), with the fate of a fetch that
does not translate (R158, R168, R396). -/

namespace Sys2Proof.Machine

/-- What a fetch finds: an instruction that passes every check of R67, a trap, a pad word, or a fault of the fetch with its code. -/
inductive Fetched where
  | ok (i : Instr)
  | trap (code : Nat) (info : W64)
  | pad
  | fault (code : Nat)
  deriving DecidableEq, Repr

/-- The four words from a code address. Words beyond the fetch block are not looked at by an instruction that does not straddle. -/
def State.codeWords (s : State) (core k : Nat) : W32 × W32 × W32 × W32 :=
  (s.codeAt core k, s.codeAt core (k + 4), s.codeAt core (k + 8), s.codeAt core (k + 12))

/-- The first register that an instruction names beyond the declared counts (R23). Fields are taken in the order A, B, C, D (log entry 16). -/
def beyondCounts (sh : Shape) (f : Frame) (x : Warp) : Option Reg :=
  ((sh.reads f).map (·.1) ++ sh.writes f).find? fun r => match r with
    | .x n => x.lregs ≤ n
    | .k n => x.uregs ≤ n

/-- Steps 4 to 8 of R67. -/
def checkIssue (i : Instr) (x : Warp) : Fetched :=
  let op := i.op.setWidth 64
  if !i.permitted x.owner.priv x.mx.unchk then .trap 4 op
  else if (match i.role? with | some r => r != x.role | none => false) then .trap 5 op
  else match i.shape with
  | (_, none) => .trap 1 op
  | (sh, some f) =>
    if !WellFormed i || (f.wt != 0 && x.run != 0) then .trap 2 0
    else match beyondCounts sh f x with
    | some r => .trap 6 (regInfo r)
    | none => if 23 ≤ x.run && !f.eor then .trap 7 0 else .ok i

/-- Steps 1 to 8 of R67 at an address whose words are these. -/
def checkWords (pc : BitVec 57) (x : Warp) (w0 w1 w2 w3 : W32) : Fetched :=
  if 32 < pc.toNat % 32 + lenBytes w0 then .trap 3 0
  else match decodeWords w0 w1 w2 w3 with
  | .error .padForm => .trap 2 0
  | .error .pad => .pad
  | .error (.unassigned op) => .trap 1 (op.setWidth 64)
  | .ok i => checkIssue i x

/-- Why a line of code cannot be read: the instruction cache does not hold it, and it is lost, or its home fails (R190, R403). -/
def State.codeFault (s : State) (core k : Nat) : Option Nat :=
  if (s.core core).icache.any fun l => l.line == k / 128 then none
  else if s.lostLine k then some 4
  else s.homeFault (s.redirect k)

/-- Fetches and checks the head instruction of a warp. -/
def State.fetch (s : State) (w : Nat) (x : Warp) (pc : BitVec 57) : Fetched :=
  match s.codeWalk w x pc.toNat with
  | .fault c => .fault c
  | .leaf e _ =>
    if pteTier e = 3 then .trap 0x0E (pc.setWidth 64)
    else
      let k := leafKey e pc.toNat
      match s.codeFault (coreOf w) k with
      | some c => .fault c
      | none => let (w0, w1, w2, w3) := s.codeWords (coreOf w) k; checkWords pc x w0 w1 w2 w3

/-- A fetch at an address faults for the entry at `rpc`: given up, it traps; otherwise the warp waits for the fault service (R158, R168, R396). -/
def State.fetchFault (s : State) (w : Nat) (x : Warp) (pc rpc : BitVec 57) (code : Nat) : State :=
  let s := s.noteWalk (coreOf w) x.owner.proc pc.toNat
  let trap := s.takeTrap w 0x0E (pc.setWidth 64) rpc
  if code = 3 then (s.keyRecord (dieOf (coreOf w)) (s.asid x.owner.proc) pc.toNat 3 (faultPlace w)).takeTrap w 0x0E (pc.setWidth 64) rpc
  else if code = 4 || code = 7 || code = 8 then trap
  else if code = 6 then s.hold w (.fetch pc.toNat)
  else match s.faultIn (dieOf (coreOf w)) (s.asid x.owner.proc) pc.toNat code 3 (faultPlace w) (.fetch w) with
    | (none, _) => trap
    | (some _, t) => t.hold w (.fetch pc.toNat)

/-- The leaf of a fetched page enters the core's TLB (R394). -/
def State.cacheCode (s : State) (w : Nat) (x : Warp) (pc : BitVec 57) : State :=
  (s.translate (coreOf w) x.owner.proc pc.toNat 3).2

end Sys2Proof.Machine
end

