-- ==== Sys2Proof/Machine/Pages.lean ====
section
/-! DEFINITION. Pages in motion: shoot-downs (R395), frame pools and rings (R397), migration slots from start to idle (R398 to R404, R453), hotness
and the automatic policy (R405 to R407), and the page instructions (R408 to R412). -/

namespace Sys2Proof.Machine

/-! ## Shoot-downs (R395) -/

/-- A dirty slice line of a core reaches its home (R200). -/
def State.writeBack (core : Nat) (s : State) (l : SliceLine) : State :=
  let raw := span l.key 128
  let ks := raw.map s.redirect
  let s := s.writeBytes ks l.data
  let s := (List.range 16).foldl (fun s i => s.setMark (ks.getD (8 * i) 0 / 8) (l.marks.getLsbD i)) s
  (raw.foldl State.noteWrite s).use [l.key] (.back core (((s.procs.find? fun p => s.asid p.1 == l.asid).map (·.1)).getD 0) (l.line * 128))

/-- Slice lines of a core that pass a test leave its L1, the dirty ones written back (R192, R200, R395). -/
def State.dropSlices (s : State) (core : Nat) (p : SliceLine → Bool) : State :=
  let out := (s.core core).slices.filter p
  if out.isEmpty then s
  else ((out.filter (·.dirty)).foldl (State.writeBack core) s).modCore core fun c => { c with slices := c.slices.filter fun l => !p l }

/-- What a release at `.cl` or wider does to the slice stores of its warp: their home slices have them (R208). The lines stay, clean. -/
def State.cleanSlices (s : State) (w scope : Nat) : State :=
  let core := coreOf w
  let out := (s.core core).slices.filter fun l => l.w == w && l.dirty
  if scope < 2 || out.isEmpty then s
  else (out.foldl (State.writeBack core) s).modCore core fun c =>
    { c with slices := c.slices.map fun l => if l.w == w then { l with dirty := false } else l }

/-- The L1 lines that the spill region leaves to data (R2, R30, R192): it grows in steps of 4 KiB. -/
def State.l1Room (s : State) (core : Nat) : Nat := 2048 - 32 * ((s.spillUsed core + 4095) / 4096)

/-- Lines beyond that room leave the L1, lines of global memory before slice lines and the oldest first (R192; log entry 48). -/
def State.l1Trim (s : State) (core : Nat) : State :=
  let room := s.l1Room core
  let c := s.core core
  if c.l1.length + c.slices.length ≤ room then s
  else
    let kept := c.slices.take room
    (s.dropSlices core fun l => !kept.contains l).modCore core fun c => { c with l1 := c.l1.take (room - kept.length) }

/-- The named translations leave every TLB, second-level TLB and walker cache, and the L1 lines of those pages every core; a dirty slice line is
written back first (log entry 49). -/
def State.shootdown (s : State) (asid : BitVec 16) (va size : Nat) (all : Bool) : State :=
  let meets := fun (lo n : Nat) => all || (lo < va + size && va < lo + n)
  let out := fun (l : TlbLine) => l.asid == asid && meets (l.vpn * 4096) (szBytes l.size)
  let s := s.cores.keys.foldl (fun s c => s.dropSlices c fun l => l.asid == asid && meets (l.line * 128) 128) s
  { s with
    cores := s.cores.map fun c => (c.1, { c.2 with
      tlb := c.2.tlb.filter fun l => !out l, l1 := c.2.l1.filter fun l => !(l.asid == asid && meets (l.line * 128) 128) })
    clusters := s.clusters.map fun c => (c.1, { c.2 with tlb := c.2.tlb.filter fun l => !out l })
    dies := s.dies.map fun d => (d.1, { d.2 with walks := d.2.walks.filter fun l =>
      !(l.asid == asid && meets (l.index * 2 ^ (12 + 9 * l.level)) (2 ^ (12 + 9 * l.level))) }) }

/-! ## Pools and rings (R397, R404) -/

/-- The die whose pool holds a frame. -/
def poolDie (tier pa : Nat) : Nat := match tier with | 0 => pa / 2 ^ 38 % 4 | 1 => 2 * (pa / 2 ^ 40 % 2) | _ => 0

/-- Header `r` of the pool area of a die. -/
def State.ringHeader (s : State) (d r : Nat) : Nat := tierKey 1 (bits (s.die d).migfrm 12 32 * 4096) + 32 * r

/-- The ring of a header: base key, entries, HEAD, TAIL. -/
def State.ring (s : State) (d r : Nat) : Nat × Nat × Nat × Nat :=
  let h := s.ringHeader d r
  (tierKey 1 (s.getNat h 8 % 2 ^ 44), s.getNat (h + 8) 4, s.getNat (h + 12) 4, s.getNat (h + 16) 4)

/-- Takes a free entry of rings 0 to 5; the answer is the frame's physical address. -/
def State.takeFrame (s : State) (d r : Nat) : Option (Nat × State) :=
  let (base, n, head, tail) := s.ring d r
  if !(s.die d).migfrm.getLsbD 63 || s.homeFault (s.ringHeader d r) == some 8 || head = tail then none
  else
    let e := BitVec.ofNat 64 (s.getNat (base + 8 * (head % n)) 8)
    some (ptePa e, (s.use [base + 8 * (head % n)] .read).putBytes (span (s.ringHeader d r + 12) 4) (toBytes 4 ((head + 1) % 2 ^ 32)))

/-- Produces an entry on ring 6 or 7, where it has room. -/
def State.putRing (s : State) (d r : Nat) (bs : List Byte) : Option State :=
  let (base, n, head, tail) := s.ring d r
  if n ≤ (tail + 2 ^ 32 - head) % 2 ^ 32 then none
  else some ((s.putBytes (span (base + bs.length * (tail % n)) bs.length) bs).putBytes (span (s.ringHeader d r + 16) 4) (toBytes 4 ((tail + 1) % 2 ^ 32)))

/-- A return entry, with the die of its ring. -/
def returnEntry (key size : Nat) (bad : Bool) : Nat × W64 :=
  let tier := keyTier key
  (poolDie tier (keyPa key),
   putBits (putBits (putBits (putBits 0 62 2 tier) 61 1 bad.toNat) 58 3 (if size = 2 ^ 16 then 1 else 2)) 12 32 (keyPa key / 4096))

/-! ## Slots -/

def State.modSlot (s : State) (d n : Nat) (f : MigSlot → MigSlot) : State :=
  s.modDie d fun x => match x.slots.get? n with
    | some m => { x with slots := x.slots.set n (f m) }
    | none => x

/-- The die and number of the first slot of any engine that passes a test. -/
def State.findSlot (s : State) (p : MigSlot → Bool) : Option (Nat × Nat × MigSlot) :=
  s.dies.findSome? fun d => (d.2.slots.find? fun m => p m.2).map fun m => (d.1, m.1, m.2)

/-- The promotion record of a line moves with it (R378, R399). -/
def State.moveRecord (s : State) (src dst : Nat) : State :=
  match s.promotions.get? (src / 256) with
  | some cs => { s with promotions := (s.promotions.erase (src / 256)).set (dst / 256) cs }
  | none => { s with promotions := s.promotions.erase (dst / 256) }

/-- The compare-and-swap of a leaf: the state after it, where the leaf is still as the engine wrote it. -/
def State.casLeaf (s : State) (m : MigSlot) (new : W64) : Option State :=
  if s.readTable m.ptePlace = m.pte then some (s.putBytes (span m.ptePlace 8) (toBytes 8 new.toNat)) else none

/-- The accesses in flight and the copy bursts that hold a translation to a frame: what a shoot-down of its page waits for (R235, R395). -/
def State.usersOf (s : State) (src size : Nat) : List (Nat × Nat) :=
  let inSrc := fun k => decide (src ≤ k ∧ k < src + size)
  ((s.flights.filter fun a => a.lanes.any fun l => l.keys.any inSrc).map fun a => (a.id, 0)) ++
  s.cores.flatMap fun c => (c.2.loadQ ++ c.2.storeQ).flatMap fun q =>
    (q.bursts.filter fun b => b.far.any inSrc || b.res.any fun k => k.any inSrc).map fun b => (q.id, b.first)

/-- One of them is still on its way. -/
def State.stillUses (s : State) (u : Nat × Nat) : Bool :=
  s.flights.any (fun a => a.id == u.1) ||
  s.cores.any fun c => (c.2.loadQ ++ c.2.storeQ).any fun q => q.id == u.1 && q.bursts.any fun b => b.first == u.2

/-- Writes the entries that a slot owes, as far as the rings have room; the slot goes idle once none is left (R404). -/
def State.payRings (s : State) (d n : Nat) : State :=
  match (s.die d).slots.get? n with
  | none => s
  | some m =>
    if !m.closed || m.waits.any s.stillUses then s
    else
      let (left, s) := m.rets.foldl (fun (a : List (Nat × W64) × State) r =>
        match a.2.putRing r.1 6 (toBytes 8 r.2.toNat) with
        | some t => (a.1, t)
        | none => (a.1 ++ [r], a.2)) (([] : List (Nat × W64)), s)
      let (ev, s) := match m.event with
        | some e => (match s.putRing d 7 e with
          | some t => ((Option.none : Option (List Byte)), t.raise (5 + d))
          | none => (some e, s))
        | none => (Option.none, s)
      if left.isEmpty && ev.isNone then s.modDie d fun x => { x with slots := x.slots.erase n }
      else s.modSlot d n fun m => { m with rets := left, event := ev }

/-- The 64-byte-aligned frame field of an event entry (R404). -/
def frameWord (key : Nat) : W64 := putBits (putBits 0 62 2 (keyTier key)) 12 32 (keyPa key / 4096)

/-- The event entry of an abort (R404). -/
def MigSlot.abortEvent (m : MigSlot) : List Byte :=
  toBytes 8 m.va.toNat ++ toBytes 2 m.asid.toNat ++ toBytes 1 m.reason ++ toBytes 1 m.auto.toNat ++ toBytes 4 m.lost.length ++
    toBytes 8 (frameWord m.src).toNat ++ toBytes 8 (frameWord m.dst).toNat

/-- The final compare-and-swap failed: the leaf stays as software wrote it and both frames go to the return ring (R398); an abort still writes its event
entry (R404). -/
def State.slotLost (s : State) (d n : Nat) (m : MigSlot) : State :=
  (s.modSlot d n fun q => { q with closed := true, rets := [returnEntry m.src m.size false, returnEntry m.dst m.size m.failed],
                                   event := if m.state == .aborting then some m.abortEvent else none }).payRings d n

/-- A line that cannot be reached: its CXL port is down or its memory out of service (R402, R403). -/
def State.unreachable (s : State) (k : Nat) : Bool := match s.homeFault k with | some 7 => true | some 8 => true | _ => false
/-- A side of a migration that cannot be reached. -/
def State.sideDown (s : State) (k size : Nat) : Bool := (List.range (size / 256)).any fun i => s.unreachable (k + 256 * i)

/-- ABORT_FINISH (R398, R403): the leaf returns to STABLE at the source, lost lines at a reachable source are marked poisoned. -/
def State.finishAbort (s : State) (d n : Nat) : State :=
  match (s.die d).slots.get? n with
  | none => s
  | some m =>
    if m.state != .aborting || m.closed || !m.c.isEmpty then s
    else match s.casLeaf m (putBits (putBits m.pte 61 2 0) 0 9 0) with
    | none => s.slotLost d n m
    | some s =>
      let s := s.shootdown m.asid m.va.toNat m.size false
      let reach := !s.sideDown m.src m.size
      let s := if reach then m.lost.foldl (fun s i => (span (m.src / 8 + 32 * i) 32).foldl (fun s w => s.setMark w true) s) s else s
      (s.modSlot d n fun m => { m with closed := true, rets := [returnEntry m.dst m.size m.failed], event := some m.abortEvent,
                                       waits := s.usersOf m.src m.size }).payRings d n

/-- MIGRATION_ABORT (R402, R403): the leaf becomes ABORTED, lines that were not written return to the source, lines in flight are abandoned. An abort for
which the leaf has changed writes its event entry too (R404). -/
def State.abortSlot (s : State) (d n reason : Nat) : State :=
  match (s.die d).slots.get? n with
  | none => s
  | some m =>
    if m.state != .copying || m.closed then s
    else
      let new := putBits m.pte 61 2 2
      match s.casLeaf m new with
      | none => s.slotLost d n { m with state := .aborting, reason := reason, failed := m.failed || reason == 1 }
      | some s =>
        let broken := fun i => m.bad.any fun w => w / 32 == (m.dst / 256 + i)
        let back := m.c.filter m.wr.contains
        let lost := if s.sideDown m.src m.size then List.range (m.size / 256)
          else back.filter fun i => s.unreachable (m.dst + 256 * i) || broken i
        let stay := back.filter fun i => !lost.contains i
        let s := (m.c.filter fun i => !stay.contains i).foldl (fun s i => s.moveRecord (m.dst + 256 * i) (m.src + 256 * i)) s
        let s := s.modSlot d n fun m => { m with state := .aborting, pte := new, reason := reason, locked := [], lost := lost,
                                                 failed := m.failed || reason == 1 || lost.any broken, c := stay }
        s.finishAbort d n

/-- The finish of a commit (R398, R401, R405): every access that used the source has performed; the source's poison marks go with it, and what the
homes hold for its lines moves. -/
def State.finishCommit (s : State) (d n : Nat) : State :=
  match (s.die d).slots.get? n with
  | none => s
  | some m =>
    let inSrc := fun k => decide (m.src ≤ k ∧ k < m.src + m.size)
    let busy := s.flights.any (fun a => a.lanes.any fun l => l.keys.any inSrc) ||
      s.cores.any (fun c => (c.2.loadQ ++ c.2.storeQ).any fun q => q.bursts.any fun b => b.far.any inSrc || b.res.any fun k => k.any inSrc)
    if m.state != .committing || m.closed || busy then s
    else
      let move := fun k => if inSrc k then m.dst + (k - m.src) else k
      let regions := List.range (m.size / 65536)
      let hot := regions.foldl (fun (h : Tbl Nat) i =>
        let v := h.getD (m.src / 65536 + i) 0
        let h := h.erase (m.src / 65536 + i)
        if v = 0 then h.erase (m.dst / 65536 + i) else h.set (m.dst / 65536 + i) v) s.hotness
      let s := { s with hotness := hot,
                        held := s.held.map fun (h : Held) => { h with key := move h.key },
                        marks := s.marks.filter fun w => !inSrc (w * 8) }
      (s.modSlot d n fun m => { m with closed := true, rets := [returnEntry m.src m.size false] }).payRings d n

/-- The committing compare-and-swap after the last line (R398). -/
def State.commitSlot (s : State) (d n : Nat) : State :=
  match (s.die d).slots.get? n with
  | none => s
  | some m =>
    let new := putBits (putBits (putBits (putBits m.pte 61 2 0) 56 2 (keyTier m.dst)) 12 32 (keyPa m.dst / 4096)) 0 9 0
    match s.casLeaf m new with
    | none => s.slotLost d n m
    | some s => ((s.modSlot d n fun m => { m with state := .committing, pte := new }).shootdown m.asid m.va.toNat m.size false).finishCommit d n

/-- A page that R397 lets migrate. -/
def migratable (e : W64) : Bool := pteSt e == 0 && (pteSz e == 1 || pteSz e == 2) && !ptePin e && pteTier e != 3

/-- The page lies at the destination already. -/
def atDestination (e : W64) (tier die : Nat) : Bool := pteTier e == tier && (tier == 2 || poolDie tier (ptePa e) == die)

/-- A die is in a warm reset: from its first step no migration touches it (R495; log entry 38). -/
def State.inReset (s : State) (d : Nat) : Bool := 1 ≤ s.dieState d && s.dieState d ≤ 5

/-- MIGRATION_START (R398): the code of R409, and the state. `die` is the die of the destination pool. -/
def State.startMigration (s : State) (p va : Nat) (e : W64) (place tier die : Nat) (auto : Bool) : Nat × State :=
  let size := szBytes (pteSz e)
  let src := tierKey (pteTier e) (ptePa e)
  let engine := keyDie src
  let x := s.die engine
  if pteSt e != 0 then (3, s)
  else if !migratable e || (tier ≤ 1 && s.dieState die = 7) then (2, s)
  else if s.inReset engine || (tier ≤ 1 && s.inReset die) then (3, s)
  else if atDestination e tier die then (1, s)
  else
    let r := 2 * tier + (if pteSz e = 2 then 1 else 0)
    match s.takeFrame die r, x.slots.free 0 512 with
    | none, _ => (4, s)
    | some _, none => (5, s)
    | some (pa, t), some n =>
      let new := putBits (putBits e 61 2 1) 0 9 n
      let base := va / size * size
      let slot : MigSlot := { asid := s.asid p, proc := p, va := BitVec.ofNat 64 base, size := size, src := src, dst := tierKey tier pa,
                              ptePlace := place, pte := new, auto := auto, waits := s.usersOf src size }
      let t := (t.putBytes (span place 8) (toBytes 8 new.toNat)).modDie engine fun x => { x with slots := x.slots.set n slot }
      (0, t.shootdown (s.asid p) base size false)

/-! ## Writes that a home performs, and errors in a destination (R402, R452, R453) -/

/-- An uncorrectable error is found in the line of a key: a copying slot whose destination it is aborts. -/
def State.errorFound (s : State) (k : Nat) : State :=
  match s.findSlot fun m => m.dst ≤ k && k < m.dst + m.size && m.state == .copying && !m.closed && m.bad.any (fun w => w / 32 == k / 256) with
  | some (d, n, _) => s.abortSlot d n 1
  | none => s

/-- Words fail correction: marked, and noted by the slot whose destination holds them. -/
def State.breakWords (s : State) (ws : List Nat) : State :=
  let s := ws.foldl (fun s w => s.setMark w true) s
  { s with dies := s.dies.map fun d => (d.1, { d.2 with slots := d.2.slots.map fun (i, m) =>
      (i, { m with bad := m.bad ++ ws.filter fun w => decide (m.dst ≤ w * 8 ∧ w * 8 < m.dst + m.size) && m.state != .committing }) }) }

/-- The injection of a die is armed for the line of a key (R452). -/
def State.injecting (s : State) (k : Nat) : Bool :=
  let e := (s.die (keyDie k)).errinj
  isGlobal k && e.getLsbD 63 && bits e 0 2 == keyTier k && bits e 8 36 == keyPa k / 256

/-- What follows a write that the home of a line has performed: an armed injection acts. -/
def State.afterWrite (s : State) (k : Nat) : State :=
  if s.injecting k then
    let s := s.modDie (keyDie k) fun x => { x with errinj := putBits x.errinj 63 1 0 }
    (s.breakWords (span (k / 256 * 32) 32)).errorFound k
  else s.errorFound k

/-- Bytes that the spec does not give: free values (log entry 15). -/
def State.drawBytes (s : State) (n : Nat) : List Byte × State :=
  ((List.range n).map fun i => (Config.freeValue (s.draws + i)).setWidth 8, { s with draws := s.draws + n })

/-! ## Lines (R399, R403) -/

/-- Copies the 256 bytes of a line with their poison marks. -/
def State.copyLine (s : State) (src dst : Nat) : State :=
  let s := s.writeBytes (span dst 256) (s.bytes (span src 256))
  (List.range 32).foldl (fun t i => t.setMark (dst / 8 + i) (s.marks.contains (src / 8 + i))) s

def execLineCopy (die slot : Nat) (s : State) : Out :=
  match (s.die die).slots.get? slot with
  | none => .next s
  | some m =>
    if m.state != .copying || m.closed || m.size / 256 ≤ m.next || 8 ≤ m.locked.length || m.waits.any s.stillUses then .next s
    else if s.unreachable (m.src + 256 * m.next) || s.unreachable (m.dst + 256 * m.next) then .next (s.abortSlot die slot 2)
    else .next (s.modSlot die slot fun m => { m with locked := setInsert m.locked m.next, next := m.next + 1 })

/-- The destination accepts a locked line, or finds an uncorrectable error and does not (R399, R453). -/
def execLineFlip (die slot line : Nat) (s : State) : Out :=
  match (s.die die).slots.get? slot with
  | none => .next s
  | some m =>
    if m.state != .copying || m.closed || !m.locked.contains line then .next s
    else
      let dest := m.dst + 256 * line
      let inj := s.injecting dest
      let s := s.copyLine (m.src + 256 * line) dest
      let s := s.modSlot die slot fun m => { m with locked := setErase m.locked line }
      if inj then
        .next ((s.afterWrite dest).abortSlot die slot 1)
      else
        let s := (s.moveRecord (m.src + 256 * line) dest).modSlot die slot fun m => { m with c := setInsert m.c line, bad := m.bad.filter fun w => w / 32 != dest / 256 }
        .next (if m.c.length + 1 = m.size / 256 then s.commitSlot die slot else s)

/-- A flipped and written line returns to the source, or is lost; every line is lost where the source cannot be reached any more (R403). -/
def execLineCopyBack (die slot : Nat) (s : State) : Out :=
  match (s.die die).slots.get? slot with
  | none => .next s
  | some m =>
    match m.c with
    | [] => .next (s.finishAbort die slot)
    | i :: c =>
      if m.state != .aborting || m.closed then .next s
      else if s.sideDown m.src m.size then
        let s := m.c.foldl (fun s i => s.moveRecord (m.dst + 256 * i) (m.src + 256 * i)) s
        .next ((s.modSlot die slot fun m => { m with c := [], wr := [], lost := List.range (m.size / 256) }).finishAbort die slot)
      else
        let broken := m.bad.any fun w => w / 32 == m.dst / 256 + i
        let lost := s.unreachable (m.dst + 256 * i) || broken
        let s := if lost then s else s.copyLine (m.dst + 256 * i) (m.src + 256 * i)
        let s := (s.moveRecord (m.dst + 256 * i) (m.src + 256 * i)).modSlot die slot fun m =>
          { m with c := c, wr := setErase m.wr i, lost := if lost then setInsert m.lost i else m.lost, failed := m.failed || broken }
        let s := if lost then s else s.afterWrite (m.src + 256 * i)
        .next (s.finishAbort die slot)

/-- A slot that a full ring or an unperformed access has held goes on (R398, R404). -/
def execMigrationRingRoom (die slot : Nat) (s : State) : Out := .next (((s.finishCommit die slot).finishAbort die slot).payRings die slot)

/-! ## Hotness (R405 to R407) -/

/-- AUTOMATIC_PROMOTION (R407): the page of a request of a process, to the HBM4E heap of the requesting core's die. -/
def State.promote (s : State) (p va core : Nat) : State :=
  match s.walkOn core p va with
  | .fault _ => s.noteWalk core p va
  | .leaf e place =>
    let s := s.noteWalk core p va
    let engine := keyDie (tierKey (pteTier e) (ptePa e))
    let x := s.die engine
    let eligible := (pteTier e == 2 && x.migpol.getLsbD 1) || (pteTier e == 1 && x.migpol.getLsbD 0)
    if eligible && x.migpol.getLsbD 63 && (x.slots.filter fun m => m.2.auto).length < bits x.migpol 48 10 then
      (s.startMigration p va e place 0 (dieOf core) true).2
    else s

/-- One request at a home slice: every 64th counts for its region, whose counter it may take to `HOT` (R405, R407). `k` is the key before forwarding. -/
def State.countRequest (s : State) (k : Nat) : Bool × State :=
  let slice := keyDie k * 512 + s.sliceOf k
  let n := s.samples.getD slice 0 + 1
  if n < 64 then (false, { s with samples := s.samples.set slice n })
  else
    let r := k / 65536
    let v := Nat.min 255 (s.hotness.getD r 0 + 1)
    (bits (s.die (keyDie (r * 65536))).migpol 32 8 ≤ v, { s with samples := s.samples.erase slice, hotness := s.hotness.set r v })

/-- A request of a process for an address from a core (R405, R407). -/
def State.sampleRequest (s : State) (k : Nat) (p va core : Nat) : State :=
  let (hot, s) := s.countRequest k
  if hot then s.promote p va core else s

/-- What the home of a line does about a use by the device itself: a counted request, and what a read finds or a write brings about (R402, R405, R452). Those
of no core start no migration (R407). -/
def State.homeUse (s : State) (k : Nat) (u : HomeUse) : State :=
  if !isGlobal k then s
  else match u with
  | .walk => s.errorFound (s.redirect k)
  | .read => let t := (s.countRequest k).2; t.errorFound (t.redirect k)
  | .write => let t := (s.countRequest k).2; t.afterWrite (t.redirect k)
  | .back core p va => let t := s.afterWrite (s.redirect k); t.sampleRequest k p va core

/-- The uses of a clk reach their homes (log entry 66). -/
def State.homeWork (s : State) : State := s.uses.foldl (fun s u => s.homeUse u.1 u.2) { s with uses := [] }

/-- Every counter is halved once for each multiple of 2^20 that `CLOCK` has reached (R405). -/
def State.halve (s : State) : State :=
  if s.halvings < s.clock / 2 ^ 20 then
    { s with halvings := s.halvings + 1, hotness := (s.hotness.map fun h => (h.1, h.2 / 2)).filter fun h => h.2 != 0 }
  else s

def execHotnessHalving (s : State) : Out := .next s.halve

/-! ## Page instructions (R408 to R412) -/

/-- The shared rules of R408: a tagged base traps; the result goes to D as a producer's. -/
def State.pageOp (s : State) (i : Instr) (g : Issue → Nat → State → W64 × State) : Out :=
  s.issueOnce i fun iss t =>
    let (kb, tag) := iss.x.uni iss.f.kb
    if tag then .trap 9 0
    else
      let (r, t) := g iss (kb + iss.f.imm.signExtend 64).toNat t
      .next (iss.produceUni t iss.f.kd r false)

/-- The leaf of a page that is present, as the walker of a core's die finds it; the table entries that it reads are cached (R394). -/
def State.pageLeaf (s : State) (core p a : Nat) : Option (W64 × Nat) × State :=
  if 2 ^ 57 ≤ a then (none, s) else match s.walkOn core p a with
    | .leaf e place => (some (e, place), s.noteWalk core p a)
    | .fault _ => (none, s.noteWalk core p a)

def execPmig (f : Frame) (s : State) : Out :=
  s.pageOp (.pmig f) fun i a t =>
    let p := i.x.owner.proc
    let (tier, die) := match f.vn with
      | 4 => (1, dieOf (coreOf i.w) / 2 * 2)
      | 5 => (2, 0)
      | v => (0, v)
    match t.pageLeaf (coreOf i.w) p a with
    | (some (e, place), t) => if pteRd e then let (c, t) := t.startMigration p a e place tier die false; (BitVec.ofNat 64 c, t) else (6, t)
    | (none, t) => (6, t)

/-- The slot that a leaf names, with its engine. -/
def State.slotOfLeaf (s : State) (e : W64) : Option (Nat × Nat × MigSlot) :=
  let d := keyDie (tierKey (pteTier e) (ptePa e))
  if pteSt e = 0 then none else ((s.die d).slots.get? (pteSlot e)).map fun m => (d, pteSlot e, m)

def execPstat (f : Frame) (s : State) : Out :=
  s.pageOp (.pstat f) fun i a t =>
    let (leaf, t) := t.pageLeaf (coreOf i.w) i.x.owner.proc a
    match leaf.filter fun l => pteRd l.1 with
    | none => (0, t)
    | some (e, _) =>
      let v := putBits (putBits (putBits (putBits (putBits 0 62 2 (pteSt e)) 60 2 (pteTier e)) 57 3 (pteSz e)) 56 1 (ptePin e).toNat) 55 1 1
      let v := putBits v 44 9 (pteSlot e)
      (match t.slotOfLeaf e with
       | some (d, _, m) =>
         putBits (putBits (putBits v 53 2 d) 15 1 (if m.state == .aborting && !m.c.isEmpty then 1 else 0)) 0 14 m.c.length
       | none => v, t)

def execPhot (f : Frame) (s : State) : Out :=
  s.pageOp (.phot f) fun i a t =>
    let (leaf, t) := t.pageLeaf (coreOf i.w) i.x.owner.proc a
    match leaf.filter fun l => pteRd l.1 && pteTier l.1 != 3 with
    | none => (putBits 0 63 1 1, t)
    | some (e, _) => (putBits (putBits 0 0 8 (t.hotness.getD (leafKey e a / 65536) 0)) 8 2 (pteTier e), t)

def execPabort (f : Frame) (s : State) : Out :=
  s.pageOp (.pabort f) fun i a t =>
    let asid := t.asid i.x.owner.proc
    let (leaf, t) := t.pageLeaf (coreOf i.w) i.x.owner.proc a
    match leaf with
    | none => (1, t)
    | some (e, _) =>
      match t.slotOfLeaf e with
      | some (d, n, m) => if m.state == .copying then (0, t.abortSlot d n 3) else (2, t)
      | none =>
        if (t.findSlot fun m => m.asid == asid && m.va.toNat ≤ a && a < m.va.toNat + m.size && m.state == .committing).isSome then (3, t) else (1, t)

end Sys2Proof.Machine
end

