-- ==== Sys2Proof/Machine/Work.lean ====
section
/-! DEFINITION. Cancel scopes and their counts (R425 to R429), gangs and their phases (R310 to R319), join blocks and task deposits (R423, R424), and
the end of a warp (R127, R431). -/

namespace Sys2Proof.Machine

/-! ## Cancel scopes -/

/-- One item leaves the live count of a scope; a marked scope whose count reaches 0 completes: its acknowledgement word, FREE, and its parent's
count (R427). The fuel is the depth limit of R425. -/
def State.dropScope (s : State) : Nat → Nat → State
  | 0, _ => s
  | fuel + 1, n =>
    match s.scopes.get? n with
    | none => s
    | some c =>
      let c := { c with count := c.count - 1 }
      if c.state == .live || c.count ≠ 0 || c.parent.isNone then { s with scopes := s.scopes.set n c }
      else
        let word := Nat.min c.discards 65535 * 2 ^ 32 + (if c.state == .cancelled then 2 ^ 16 else 0) + n
        let s := if c.ack = 0 then s else s.storeVirt c.proc c.ack.toNat (toBytes 8 word)
        let s := { s with scopes := s.scopes.erase n }
        match c.parent with
        | some p => State.dropScope s fuel p
        | none => s

/-- An item leaves a live count (R425). -/
def State.leaveScope (s : State) (n : Nat) : State := s.dropScope 65 n

/-- A marked scope with nothing left completes at once (R427). -/
def State.settleScope (s : State) (n : Nat) : State :=
  match s.scopes.get? n with
  | some c => if c.state != .live && c.count = 0 then (s.modScope n fun c => { c with count := 1 }).leaveScope n else s
  | none => s

def State.enterScope (s : State) (n k : Nat) : State := s.modScope n fun c => { c with count := c.count + k }

/-- A scope of the process that is LIVE. -/
def State.liveScope (s : State) (p n : Nat) : Bool :=
  match s.scopes.get? n with
  | some c => c.proc == p && c.state == .live
  | none => false

/-- A scope of the process that is LIVE as a die sees it: no marking has reached it (R428, R438). -/
def State.liveAt (s : State) (p n die : Nat) : Bool :=
  match s.scopes.get? n with
  | some c => c.proc == p && (c.state == .live || !(c.seen.contains die || c.told.contains die))
  | none => false

/-- The marking of a scope has reached a die: `SCOPE.CXL` there (R426, R428). -/
def State.cancelledAt (s : State) (n die : Nat) : Bool :=
  match s.scopes.get? n with
  | some c => c.state == .cancelled && c.seen.contains die
  | none => false

/-! ## What ends a suspension (R137, R159, R176, R430) -/

/-- The comparator of a warp has been reached (R176). -/
def State.timerDue (s : State) (x : Warp) : Bool := x.trap.arm && decide (x.trap.deadline.toNat ≤ s.clock)

/-- The boundary trap that is due, in the order of R184: its code, its `TINFO`, and the warp with that trap no longer pending. -/
def Warp.dueTrap (x : Warp) : Option (Nat × W64 × Warp) :=
  match x.log.find? fun e => e.2.state == .failed && !e.2.raised with
  | some (e, l) => some (0x0D, BitVec.ofNat 64 e, { x with log := x.log.set e { l with raised := true } })
  | none => match x.trap.poison with
    | some pc => some (0x0C, pc, { x with trap := { x.trap with poison := none } })
    | none => match x.trap.fired with
      | some d => if x.trap.act then none else some (0x21, d, { x with trap := { x.trap with fired := none, tpend := false } })
      | none => none

/-- A warp that waits for the reply of its `syscall`: for the call half, or for the register of the reply. -/
def Warp.awaitsReply (x : Warp) (q : Wait) : Bool :=
  match q, x.call.call with
  | .call, _ => true
  | .regs rs, some (d, _, _) => rs.contains (.x d)
  | _, _ => false

/-- A wait that is a kill point wherever it stands (R430); step 1 of `migw` is one too (R215). -/
def Warp.killableWait (x : Warp) (q : Wait) : Bool :=
  match q with
  | .waitRegs | .waitSt | .waitAll => true
  | .sleep _ => true
  | .watch _ => true
  | .fence .. => true
  | .matrix _ => true
  | .barrier .. => true
  | .arrival kill => kill
  | .ring .. => true
  | .commit _ => true
  | .queue _ => true
  | .pool _ => true
  | .migw => true
  | .token _ => x.run == 0
  | q => x.awaitsReply q

/-- A warp at the head of a run waits on a WT token: it does not take part in arbitration (R186, R430). -/
def State.tokenWait (s : State) (w : Nat) (x : Warp) : Bool :=
  x.wait.isNone && x.run == 0 && (match x.hw with
    | [] => false
    | e :: _ => match s.fetch w x e.pc with
      | .ok i => i.shape.2.any fun f => x.tokenPending f.wt
      | _ => false)

/-- A warp of a cancelled scope is at a kill point at its wait, or at the report that has stopped it (R430). -/
def State.killDue (s : State) (w : Nat) (x : Warp) : Bool :=
  s.cancelledAt x.owner.scope (dieOf (coreOf w)) && !x.marks.ended && !x.marks.stopped && !x.hw.isEmpty &&
  (x.call.report.isSome || (x.wait.map x.killableWait).getD false || s.tokenWait w x)

/-- What R137 puts before the end of a suspension in the same clk: a timer or another boundary trap, a halt, a kill. -/
def State.interrupted (s : State) (w : Nat) (x : Warp) : Bool :=
  s.timerDue x || x.dueTrap.isSome || x.marks.halted || s.killDue w x

/-! ## Admission to a core (R191, R201, R420) -/

/-- A slot is held by a warp, or reserved for one that moves (R213). -/
def State.slotTaken (s : State) (w : Nat) : Bool := (s.warp? w).isSome || s.transit.any fun t => t.target == w

/-- Entries of a pool that no warp holds and no reserve claims (R29, R191). -/
def State.spare (s : State) (core q : Nat) (lanePool : Bool) : Nat :=
  poolSize lanePool - s.poolUsed core q lanePool - s.reserves core q lanePool -
    16 * (s.transit.filter fun t => coreOf t.target == core && quadOf t.target == q).length

def State.freeSlots (s : State) (core q : Nat) : List Nat :=
  ((List.range 16).map fun i => warpKey core (16 * q + i)).filter fun w => !s.slotTaken w

/-- The quadrant meets R191. -/
def State.admits (s : State) (core q : Nat) : Bool :=
  !(s.freeSlots core q).isEmpty && 16 ≤ s.spare core q true && 16 ≤ s.spare core q false

/-- The slot that admission to a core takes: the quadrant with the most free slots, the lowest on ties, and its lowest free slot (R420); the spill
region must hold the warp's frontier reserve (R30). -/
def State.admitSlot (s : State) (core : Nat) : Option Nat :=
  if 2 ^ 17 < s.spillUsed core + 256 then none
  else
    let best := (List.range 4).foldl (fun (b : Option Nat) q =>
      if !s.admits core q then b
      else match b with
        | none => some q
        | some p => if (s.freeSlots core p).length < (s.freeSlots core q).length then some q else b) none
    best.bind fun q => (s.freeSlots core q).head?

/-- The lowest base at which an allocation fits beside others (R201, R304). -/
def placeAlloc (as : List Alloc) (size limit : Nat) : Option Nat :=
  let fits := fun b => b + size ≤ limit && as.all fun a => a.base + a.size ≤ b || b + size ≤ a.base || a.size = 0
  ((0 :: as.map fun a => a.base + a.size).filter fits).foldl (fun (m : Option Nat) b => match m with
    | none => some b
    | some c => some (Nat.min b c)) none

/-- `.scratch` bytes as R201 rounds them. -/
def roundScratch (n : Nat) : Nat := (n + 2047) / 2048 * 2048

/-- The registers that logged faults hold empty (R35). -/
def Warp.loggedRegs (x : Warp) : List Reg := ((x.log.map (·.2.acc)) ++ x.fifth.toList).flatMap (·.dest.regs)

/-- The order in which an arriving warp binds a register: those that logged faults hold empty, other empty ones, the rest (R35). -/
def Warp.bindClass (x : Warp) (r : Reg) : Nat := if !x.isEmpty r then 2 else if x.loggedRegs.contains r then 0 else 1

/-- The registers of one pool in the order in which an arriving warp binds them: by class, then by number. -/
def Warp.bindOrder (x : Warp) (lanePool : Bool) : List Reg :=
  let rs : List Reg := if lanePool then x.x.map fun r => Reg.x r.1 else x.k.map fun r => Reg.k r.1
  [0, 1, 2].flatMap fun c => rs.filter fun r => x.bindClass r == c

/-- Bindings of an arriving warp: each pool takes what its free entries hold; the rest lies in the spill region (R35, R213). -/
def State.bindAll (s : State) (core q : Nat) (x : Warp) (spl : Bool) : Warp :=
  let held := fun (b : Bool) => (x.bindOrder b).take (poolSize b - s.poolUsed core q b)
  let xs := x.x.map fun p => (p.1, { p.2 with spilled := !(held true).contains (.x p.1) })
  let ks := x.k.map fun p => (p.1, { p.2 with spilled := !(held false).contains (.k p.1) })
  { x with x := xs, k := ks, spl := x.spl || (spl && (xs.any (fun r => r.2.spilled) || ks.any fun r => r.2.spilled)) }

/-- No register that is empty for another reason than a logged fault lies in the spill region (R35). -/
def Warp.bindOk (x : Warp) : Bool := (x.bindOrder true ++ x.bindOrder false).all fun r => x.bindClass r != 1 || !x.isSpilled r

/-- REGISTER_SPILL (R29, R192): the victim binding goes to the spill region, where that has room for it, and the L1 gives up the lines that the region takes.
`w` is the requesting warp, `named` the registers of its instruction. -/
def State.spillOne (s : State) (core q : Nat) (lanePool : Bool) (w : Nat) (named : List Reg) : State :=
  match s.victim core q lanePool w named with
  | none => s
  | some (v, r) =>
    if 2 ^ 17 < s.spillUsed core + (if lanePool then 128 else 8) then s
    else (s.modWarp v fun y => { y.setSpilled r true (y.stampOf r) with spl := true }).l1Trim core

/-- Entries of the pools for the registers of a result that a replay fills, where a restore has left them in the spill region (R35). -/
def State.makeRoom (s : State) (w : Nat) (rs : List Reg) : State :=
  rs.foldl (fun s r => if s.hasRoom w (isLaneReg r) rs.length then s else s.spillOne (coreOf w) (quadOf w) (isLaneReg r) w rs) s

/-- The registers of a result that have no entry in their pool. -/
def Warp.unplaced (x : Warp) (rs : List Reg) : List Reg := rs.filter fun r => !x.isBound r || x.isSpilled r

/-- The procedure of R29 for the registers that a result is written to outside of issue: the state after its spills, and whether there is room. -/
def State.placeRegs (s : State) (w : Nat) (rs : List Reg) : State × Bool :=
  match (s.warp? w).map fun x => x.unplaced rs with
  | some (r :: t) =>
    let u := s.makeRoom w (r :: t)
    (u, [true, false].all fun b => let n := ((r :: t).filter fun q => isLaneReg q == b).length
      n = 0 || u.hasRoom w b n)
  | _ => (s, true)

/-- The register of a value on its way. -/
def Put.reg : Put → Reg
  | .x n .. => .x n
  | .k n .. => .k n

/-- A core of a cluster is granted to a process (R414, R487). -/
def State.granted (s : State) (p core : Nat) : Bool :=
  match s.proc? p with
  | some pr => match pr.grants[dieOf core]? with
    | some g => g.getLsbD (core % 96)
    | none => false
  | none => false

/-- A core that a `preempt` has chosen and does not hold yet (R432): it takes no new work. -/
def State.chosen (s : State) (core : Nat) : Bool :=
  s.taking.any fun t => t.2.contains core && match s.warp? t.1 with
    | some x => !s.granted x.owner.proc core
    | none => false

/-! ## Task deposits (R422 to R424) -/

/-- The class of a task record: byte 32 (R422). -/
def TaskRec.pcls (r : TaskRec) : Nat := r.words[4].toNat % 8
/-- A record read from 64 bytes of memory. -/
def taskOf (p : Nat) (bs : List Byte) : TaskRec :=
  let ws : Vector W64 8 := Vector.ofFn fun i => BitVec.ofNat 64 (ofBytes ((bs.drop (8 * i.val)).take 8))
  { words := ws, proc := p, scope := bits ws[2] 48 16 }

/-- A flight that writes (R208). -/
def Access.writes (a : Access) : Bool := match a.op with | .load _ => false | _ => true

/-! ## Contexts (R433) -/

/-- Bytes of a warp's saved context, without its allocation. -/
def Warp.contextBytes (x : Warp) : Nat :=
  512 + 128 * x.x.length + 8 * x.k.length + 16 * (x.hw.length + x.sp.length) + 1024 * (x.log.length + (if x.fifth.isSome then 1 else 0))

/-- Bytes of a slot that is saved: one with any part not clear. -/
def slotBytes (t : Slot) : Nat := if t.parts.toList.all (·.clr) then 0 else 41216

/-- The size of a process's context area on a die. -/
def State.ctxSize (s : State) (p die : Nat) : Nat :=
  match s.proc? p with
  | some q => let c := q.ctxarea.toList.getD die 0; if c.getLsbD 63 then bits c 0 12 * 2 ^ 20 else 0
  | none => 0

/-- Bytes of a saved context that lie in the area of a die: those of its cores there; the instance's own part lies with its half 0 (R433). -/
def Saved.bytesOn (c : Saved) (die : Nat) : Nat :=
  let here := fun (place : Nat) => (match c.clusters[place / 4]? with | some cl => cl / 24 | none => c.die) == die
  ((c.warps.filter fun w => here w.1).map fun w => w.2.contextBytes).sum +
  (if c.ensemble.isSome && c.die == die then 4096 else 0) +
  ((c.cores.filter fun k => here k.place).map fun k => k.scratchSize + k.sharedSize + (k.slots.map fun t => slotBytes t.2).sum).sum

/-- Records that a pool of a die holds itself, for each process and class; none while the die is in a warm reset (R423, R495). -/
def State.poolCap (s : State) (die : Nat) : Nat := if s.dieRuns die then 4096 else 0

/-- Records of a process in one pool of a die. -/
def State.poolLength (s : State) (die p cls : Nat) : Nat := ((s.die die).pools.filter fun r => r.proc == p && r.pcls == cls).length

/-- Bytes of a process's context area on a die that saved contexts and spilled records use (R423, R433). -/
def State.ctxUsed (s : State) (p die : Nat) : Nat :=
  ((s.saved.filter fun c => c.proc == p).map fun c => c.bytesOn die).sum + 64 * ((List.range 8).map fun c => s.poolLength die p c - s.poolCap die).sum

/-- The pools and the spill area of a die can take `n` records of a class (R438). -/
def State.poolTakes (s : State) (die p cls n : Nat) : Bool :=
  let spill := s.poolLength die p cls + n - s.poolCap die - (s.poolLength die p cls - s.poolCap die)
  spill = 0 || s.ctxUsed p die + 64 * spill ≤ s.ctxSize p die

/-- Bytes that the device puts into the context area of a process on a die from an offset: where and how a context or a record lies there is not architected
(log entry 50). -/
def State.fillArea (s : State) (p die at_ n : Nat) : State :=
  match s.proc? p with
  | some q =>
    let (bs, s) := s.drawBytes n
    s.storeVirt p (bits (q.ctxarea.toList.getD die 0) 12 45 * 4096 + at_) bs
  | none => s

/-- The accesses of a warp that write and have not performed: what a record that it deposits must see performed first (R438). -/
def State.writesOwed (s : State) (w : Nat) : List Nat :=
  ((s.flights.filter fun a => a.w == w && a.writes).map (·.id)) ++
  (match s.warp? w with
   | some x => (x.log.filter fun e => e.2.acc.writes).map (·.2.acc.id)
   | none => [])

/-- None of the accesses of these numbers is on its way, or lies in an operand log (R438). -/
def State.performedBefore (s : State) (ids : List Nat) : Bool :=
  let inLog := fun (x : Warp) => x.log.any (fun e => ids.contains e.2.acc.id) || x.fifth.any fun a => ids.contains a.id
  !s.flights.any (fun a => ids.contains a.id) && !s.warps.any (fun p => inLog p.2) && !s.saved.any fun c => c.warps.any fun p => inLog p.2

/-- A record enters a pool of a die; beyond the records that the pool holds it lies in the context area (R423). -/
def State.poolTask (s : State) (die : Nat) (r : TaskRec) : State :=
  let s := if s.poolLength die r.proc r.pcls < s.poolCap die then s else s.fillArea r.proc die (s.ctxUsed r.proc die) 64
  s.modDie die fun d => { d with pools := d.pools ++ [r] }

/-- Deposits a task record in the pools of a die; its scope counts it. One that finds no room waits for it (R423). -/
def State.depositTask (s : State) (die : Nat) (r : TaskRec) : State :=
  (if s.poolTakes die r.proc r.pcls 1 then s.poolTask die r else s.modDie die fun d => { d with owed := d.owed ++ [r] }).enterScope r.scope 1

/-- The end of a task at its join block (R424). -/
def State.joinTask (s : State) (die p : Nat) (succ : W64) (killed : Bool) : State :=
  if succ = 0 then s
  else match s.virtKeys p succ.toNat 8 2 with
    | none => s
    | some ks =>
      let s := s.useVirt p succ.toNat 8
      let old := BitVec.ofNat 64 (ofBytes (s.bytes ks))
      let count := bits old 0 32
      let new := putBits (if killed then old ||| (1#64 <<< 63) else old) 0 32 (count - 1)
      if s.anyMarked ks then s else
      let s := s.storeVirt p succ.toNat (toBytes 8 new.toNat)
      if count = 1 then
        match s.virtKeys p (succ.toNat + 64) 64 0 with
        | some qs => (s.useVirt p (succ.toNat + 64) 64).depositTask die (taskOf p (s.bytes qs))
        | none => s
      else s

/-! ## Gangs (R310 to R319) -/

def State.gang? (s : State) (cluster ens g : Nat) : Option Gang :=
  (s.cluster cluster).gangs.find? fun x => x.ensemble == ens && x.num == g

def State.modGang (s : State) (cluster ens g : Nat) (f : Gang → Gang) : State :=
  s.modCluster cluster fun c => { c with gangs := c.gangs.map fun x => if x.ensemble == ens && x.num == g then f x else x }

/-- The membership of a warp in a gang. -/
def Warp.member? (x : Warp) (g : Nat) : Option Member := x.members.find? fun m => m.gang == g
def Warp.modMember (x : Warp) (g : Nat) (f : Member → Member) : Warp :=
  { x with members := x.members.map fun m => if m.gang == g then f m else m }

/-- The acquire action at `.cl` or wider: the core's clean L1 lines are discarded (R208). -/
def State.acquire (s : State) (core scope : Nat) : State := if 2 ≤ scope then s.modCore core fun c => { c with l1 := [] } else s

/-- The acquire of a warp: at `.cl` or wider, what it reads later it reads at the homes, after its earlier reads (R208, R375). -/
def State.acquireFor (s : State) (w scope : Nat) : State :=
  if 2 ≤ scope then (s.modWarp w fun x => { x with loadMark := s.nextId, dropMark := s.nextId }).acquire (coreOf w) scope else s

/-- A waiting member completes `barwait` or the wait of `barsync` (R316). -/
def State.releaseMember (s : State) (w g : Nat) (pd : Option Nat) (act : Mask) (res : Bool) : State :=
  let s := s.modWarp w fun x =>
    let x := x.modMember g fun m => { m with arr := false }
    match pd with
    | some n => x.putPred n act (if res then allLanes else 0)
    | none => x
  (s.finishWait w).acquireFor w 2

/-- The warps of an ensemble in a cluster. -/
def State.ensembleWarps (s : State) (cluster ens : Nat) : Tbl Warp :=
  s.warps.filter fun p => clusterOf (coreOf p.1) == cluster && p.2.owner.ensemble == some ens

/-- The phase of a gang completes in a cluster with a result, and its waiting members go on (R315, R316). -/
def State.completePhase (s : State) (cluster ens g : Nat) (res : Bool) : State :=
  let s := s.modGang cluster ens g fun q =>
    { q with lres := res, cxl := false, rcxl := false, arrv := 0, ph := !q.ph, sent := false }
  (s.ensembleWarps cluster ens).foldl (fun s p =>
    match p.2.wait with
    | some (.barrier g' pd act) => if g' = g then s.releaseMember p.1 g pd act res else s
    | _ => s) s

/-- The phase of a half completes with the result that the other half has reached; a removal by a kill since then counts for the next phase, and so does what
the half that was ahead has counted meanwhile (R319). -/
def State.followPhase (s : State) (cluster ens g : Nat) (res cxl : Bool) : State :=
  ((s.completePhase cluster ens g res).modGang cluster ens g fun q => { q with cxl := cxl }).modGang (partner cluster) ens g fun o =>
    { o with ahead := false, due := true }

/-- Whether the phase of a gang is complete (R315). In a pair, a half whose count is complete sends its phase, and completes once the other
half's phase has arrived; a half without members counts for nothing (R319). A half that has completed first gives its result to the other. -/
def State.checkPhase (s : State) (cluster ens g : Nat) (straddle : Bool) : State :=
  match s.gang? cluster ens g with
  | none => s
  | some q =>
    if q.arrv ≠ q.memb || q.ahead then s
    else if !straddle then s.completePhase cluster ens g (!q.cxl)
    else
      let s := s.modGang cluster ens g fun q => { q with sent := true }
      match s.gang? (partner cluster) ens g with
      | none => s.completePhase cluster ens g (!q.cxl)
      | some o =>
        if o.ph != q.ph then (if q.rph != q.ph || o.memb == 0 then s.followPhase cluster ens g o.lres q.cxl else s)
        else if o.memb == 0 then
          let res := !(q.cxl || o.cxl)
          (s.completePhase cluster ens g res).completePhase (partner cluster) ens g res
        else if q.rph != q.ph then
          ((s.completePhase cluster ens g (!(q.cxl || q.rcxl || o.cxl))).modGang cluster ens g fun q => { q with ahead := true }).modGang (partner cluster) ens g
            fun o => { o with cxl := false }
        else s

/-- A member leaves its gangs; completion is checked once the arrivals and removals of the clk have been counted (R315, R318). -/
def State.leaveGangs (s : State) (w : Nat) (killed : Bool) : State :=
  match s.warp? w with
  | none => s
  | some x =>
    match x.owner.ensemble with
    | none => s
    | some ens =>
      let cl := clusterOf (coreOf w)
      let s := s.setWarp w { x with members := [] }
      x.members.foldl (fun s m =>
        let s := s.modGang cl ens m.gang fun q =>
          { q with arrv := if m.arr && m.ap == q.ph then q.arrv - 1 else q.arrv, memb := q.memb - 1, cxl := q.cxl || killed,
                   commits := if m.committed then q.commits - 1 else q.commits, due := true }
        s) s

/-! ## The end of a warp -/

/-- Copy commands of a core (R216). -/
def State.commands (s : State) (core : Nat) : List Cmd := (s.core core).loadQ ++ (s.core core).storeQ

/-- Accesses of a warp that have not performed. -/
def State.flightsOf (s : State) (w : Nat) : List Access := s.flights.filter fun a => a.w == w

/-- Every issued store, atomic and reduction of the warp is performed at its home (R133); a cluster-shared write in the buffer of its slice is (log entry 81). -/
def State.writesDone (s : State) (w : Nat) : Bool := !(s.flightsOf w).any Access.writes

/-- Copy commands of a warp that is still on its core. -/
def State.commandsOf (s : State) (w : Nat) : List Cmd := (s.commands (coreOf w)).filter fun c => c.w == w && c.owned

/-- Nothing of an ended warp is outstanding (R127); a task's copies count too, since they may use its scratchpad (R425). -/
def State.quiet (s : State) (w : Nat) (x : Warp) : Bool :=
  (s.flightsOf w).isEmpty && x.results.isEmpty && x.call.call.isNone && x.call.posts.isEmpty && x.log.isEmpty && x.fifth.isNone && (!x.owner.task || (s.commandsOf w).isEmpty)

/-- A kill point of its warp stops a started command (R218, R237): the bursts in flight complete, but for one that has stalled. -/
def Cmd.stopped (c : Cmd) : Option Cmd :=
  let bs := c.bursts.filter fun b => !b.stuck
  if bs.isEmpty then none else some { c with bursts := bs, killed := true, token := none }

/-- Updates every copy command of a core, and drops those for which the answer is nothing. -/
def State.mapCmds (s : State) (core : Nat) (f : Cmd → Option Cmd) : State :=
  s.modCore core fun c => { c with loadQ := c.loadQ.filterMap f, storeQ := c.storeQ.filterMap f }

/-- Entries of a write buffer but for those of bytes that a test names. -/
def keepBuffered (p : Nat → Bool) (q : List Buffered) : List Buffered := q.filter fun b => !b.keys.any p

/-- Scratchpad allocations of a warp or an ensemble on a core are freed, with what the write buffer still holds for them (R201). -/
def State.freeScratch (s : State) (core : Nat) (p : Alloc → Bool) : State :=
  s.modCore core fun c => { c with
    spAlloc := c.spAlloc.filter fun a => !p a
    wbuf := keepBuffered (fun k => c.spAlloc.any fun a => p a && scratchKey core a.base ≤ k && k < scratchKey core (a.base + a.size)) c.wbuf }

/-- Cluster-shared allocations of an ensemble on a core are freed, with what the slice's write buffer still holds for them (R304). -/
def State.freeShared (s : State) (core ens : Nat) : State :=
  let as := (s.cluster (clusterOf core)).csAlloc.toList.getD (core % 4) []
  (s.modCore core fun c => { c with
    csbuf := keepBuffered (fun k => as.any fun a => a.ensemble == some ens && sliceKey core a.base ≤ k && k < sliceKey core (a.base + a.size)) c.csbuf }).modCluster
    (clusterOf core) fun c => { c with csAlloc := c.csAlloc.set! (core % 4) (as.filter fun a => a.ensemble != some ens) }

/-- The L1's slice lines of a warp go without a write-back (R200). -/
def State.discardSlices (s : State) (w : Nat) : State :=
  if (s.core (coreOf w)).slices.any fun l => l.w == w then s.modCore (coreOf w) fun c => { c with slices := c.slices.filter fun l => l.w != w } else s

/-- The slot of an ended warp is freed, with what its end does to its task or ensemble (R127, R424, R425). Accesses in its operand log that can still be
replayed are waited for (R164, R166); a failed one is dropped. -/
def State.reap (s : State) (w : Nat) : State :=
  let s := (s.putPosts w).modWarp w fun x => if x.marks.ended then { x with log := x.log.filter fun e => e.2.state != .failed } else x
  match s.warp? w with
  | none => s
  | some x =>
    if !x.marks.ended then s
    else if !s.quiet w x then s
    else
      let s := ({ s with warps := s.warps.erase w } : State).discardSlices w
      let s := s.mapCmds (coreOf w) fun c => some (if c.w == w then { c with owned := false } else c)
      let s := s.modCore (coreOf w) fun c => { c with mxq := c.mxq.map fun q => q.map fun m => if m.w == w then { m with owned := false } else m }
      if x.owner.task then
        let s := s.freeScratch (coreOf w) fun a => a.warp == some w
        (s.joinTask (dieOf (coreOf w)) x.owner.proc x.owner.succ x.marks.killed).leaveScope x.owner.scope
      else match x.owner.ensemble with
        | none => s
        | some e => match s.ensembles.get? e with
          | some q => { s with ensembles := s.ensembles.set e { q with live := q.live - 1, killed := q.killed || x.marks.killed } }
          | none => s

/-- A warp ends (R127): it issues nothing further, leaves its gangs, and frees its slot once nothing of it is outstanding. Under a kill its
operand-log entries, its queued copies and unstarted matrix instructions, its pending traps and its tokens go too (R431). -/
def State.endWarp (s : State) (w : Nat) (killed : Bool) : State :=
  match s.warp? w with
  | none => s
  | some x =>
    let y := { x with hw := [], sp := [], wait := none, marks := { x.marks with ended := true, killed := killed } }
    let y := if killed then
        { y with log := [], fifth := none, copy := { y.copy with cnt := [], flags := y.copy.flags ||| (if (s.commandsOf w).isEmpty then 0 else 16) },
                 trap := { y.trap with fired := none, poison := none, tpend := false } }
      else y
    let s := (s.setWarp w y).freeSlot w
    let s := s.mapCmds (coreOf w) fun d =>
      if !(d.w == w && d.owned) then some d
      else if !killed then some { d with token := none }
      else d.stopped
    let s := if killed then s.modCore (coreOf w) fun c => { c with mxq := c.mxq.map fun q => q.filter fun m => !(m.w == w && m.owned && !m.started) } else s
    let s := if killed then { s with flights := s.flights.filter fun f => !(f.w == w && f.entry.isSome) } else s
    (s.leaveGangs w killed).reap w

/-! ## Completion of gang phases (R315) -/

/-- The members of a gang that are at a kill point in this clk, but for one that arrives in it (R430, R462). -/
def State.dying (s : State) (cluster ens g : Nat) (straddle : Bool) (arriving : Option Nat) : List Nat :=
  ((s.ensembleWarps cluster ens ++ if straddle then s.ensembleWarps (partner cluster) ens else []).filter fun p =>
    (p.2.member? g).isSome && arriving != some p.1 && s.killDue p.1 p.2).map (·.1)

/-- The check of completion after the arrivals and removals of a clk: members at a kill point leave first (R315, R318). -/
def State.checkGang (s : State) (cluster ens g : Nat) (straddle : Bool) (arriving : Option Nat) : State :=
  let s := (s.dying cluster ens g straddle arriving).foldl (fun s w => s.endWarp w true) s
  (s.modGang cluster ens g fun q => { q with due := false }).checkPhase cluster ens g straddle

/-- The checks that removals of the clk have left for its end (R315). -/
def State.checkDue (s : State) : State :=
  s.clusters.foldl (fun s c => (c.2.gangs.filter (·.due)).foldl (fun s q =>
    s.checkGang c.1 q.ensemble q.num (((s.ensembles.get? q.ensemble).map (·.straddle)).getD false) none) s) s

end Sys2Proof.Machine
end

