-- ==== Sys2Proof/Machine/Control.lean ====
section
/-! DEFINITION. Control transfers and the instructions that hold a warp back (R119 to R134), opcodes 0x080 to 0x08B. -/

namespace Sys2Proof.Machine

/-! ## The frontier update of R120 -/

/-- The address that follows the instruction. -/
def Issue.follow (i : Issue) : BitVec 57 := i.e.pc + BitVec.ofNat 57 i.f.form.bytes

/-- The lanes of the head entry whose guard does not hold. -/
def Issue.rest (i : Issue) : Mask := i.e.mask &&& ~~~i.act

/-- The head entry gives way to one entry per active lane, and to the lanes that continue (R120). -/
def Issue.branch (i : Issue) (s : State) (target : Fin 32 → Entry) (fprio : BitVec 8) : State :=
  s.modWarp i.w fun x =>
    x.replaceHead ((lanesOf i.act).map (fun l => { target l with pc := s.land i.w x (target l).pc, mask := 1#32 <<< l.val }) ++
      [{ prio := fprio, pc := s.land i.w x i.follow, mask := i.rest }])

/-- The byte M[7:0]. -/
def Frame.m8 (f : Frame) : BitVec 8 := f.m.setWidth 8
/-- The direct target of `bra` and `call` (R123). -/
def Issue.direct (i : Issue) : BitVec 57 := i.e.pc + i.f.imm.signExtend 57
/-- The target and priority that an operand word gives (R124). -/
def indexed (kb : W64) (o : W32) : Entry :=
  { prio := o.extractLsb' 24 8, pc := wordPc (kb.setWidth 57 + ((o.extractLsb' 2 22).setWidth 57 <<< 2)), mask := 0 }
/-- The link value of a call (R125). -/
def Issue.link (i : Issue) (rprio : BitVec 8) : W64 := rprio ++ (0#1 : BitVec 1) ++ i.follow.extractLsb' 2 55

def execBra (f : Frame) (s : State) : Out :=
  s.issue (.bra f) fun i t => .jump (i.branch t (fun _ => { prio := Frame.m8 f, pc := i.direct, mask := 0 }) f.b.num)

def execBrx (f : Frame) (s : State) : Out :=
  s.issue (.brx f) fun i t =>
    let (a, ta) := i.x.lane f.xa
    let (kb, tb) := i.x.uni f.kb
    if i.tainted (ta ||| if tb then allLanes else 0) then .trap 9 0
    else .jump (i.branch t (fun l => indexed kb a[l]) (Frame.m8 f))

def execCall (f : Frame) (s : State) : Out :=
  s.issue (.call f) fun i t =>
    .jump (i.branch (i.writePair t f.xd (fun _ => i.link f.b.num) 0) (fun _ => { prio := Frame.m8 f, pc := i.direct, mask := 0 }) f.b.num)

def execCallx (f : Frame) (s : State) : Out :=
  s.issue (.callx f) fun i t =>
    let (a, ta) := i.x.lane f.xa
    let (kb, tb) := i.x.uni f.kb
    if i.tainted (ta ||| if tb then allLanes else 0) then .trap 9 0
    else .jump (i.branch (i.writePair t f.xd (fun _ => i.link (Frame.m8 f)) 0) (fun l => indexed kb a[l]) (Frame.m8 f))

def execRet (f : Frame) (s : State) : Out :=
  s.issue (.ret f) fun i t =>
    let a := i.x.laneOpr f.xa true
    if i.tainted a.tag then .trap 9 0
    else .jump (i.branch t (fun l =>
      { prio := (a.val l).extractLsb' 56 8, pc := ((a.val l).extractLsb' 0 55).setWidth 57 <<< 2, mask := 0 }) (Frame.m8 f))

/-- An operand-log entry is occupied, or a fifth access is stalled (R166, R167). -/
def Warp.logBusy (x : Warp) : Bool := !x.log.isEmpty || x.fifth.isSome

/-- `exit` (R127): it waits for the operand log (R166); the warp ends with its last entry. -/
def execExit (f : Frame) (s : State) : Out :=
  s.issue (.exit f) fun i t =>
    if i.act != 0 && i.x.logBusy then .hold .oplog
    else
      let t := t.modWarp i.w fun x => x.replaceHead [{ prio := Frame.m8 f, pc := t.land i.w x i.follow, mask := i.rest }]
      match t.warp? i.w with
      | some x => if x.hw.isEmpty && x.sp.isEmpty then .done (t.endWarp i.w false) else .jump t
      | none => .jump t

/-! ## Holding a warp back -/

def execNop (f : Frame) (s : State) : Out := s.issue (.nop f) fun _ t => .next t

def execYield (f : Frame) (s : State) : Out :=
  s.issueOnce (.yield f) fun i t => .next (t.modWarp i.w fun x => { x with yielded := true, age := 0 })

def execSetprio (f : Frame) (s : State) : Out :=
  s.issueOnce (.setprio f) fun i t =>
    .jump (t.modWarp i.w fun x => x.replaceHead [{ prio := Frame.m8 f, pc := t.land i.w x i.follow, mask := i.e.mask }])

/-- `brk` (R132): the breakpoint trap is taken after the instruction has retired; its return PC is the address that follows. -/
def execBrk (f : Frame) (s : State) : Out :=
  s.issueOnce (.brk f) fun i t => .done ((t.retire i.w f true).takeTrap i.w 0x20 ((Frame.m8 f).setWidth 64) i.follow)

/-- No register of the warp is empty (R133). -/
def Warp.noneEmpty (x : Warp) : Bool := x.x.all (fun r => !r.2.empty) && x.k.all (fun r => !r.2.empty)
/-- Every token is clear (R133, R226). -/
def Warp.tokensClear (x : Warp) : Bool := x.copy.cnt.all fun c => c.2 == 0

/-- The condition of `wait` by its code (R133, R166). -/
def State.waitOver (s : State) (w : Nat) (x : Warp) (v : Nat) : Bool :=
  match v with
  | 0 => x.noneEmpty
  | 1 => s.writesDone w && !x.logBusy
  | _ => x.noneEmpty && s.writesDone w && !x.logBusy && x.tokensClear

/-- `wait` suspends unless its condition already holds. -/
def Issue.waitFor (i : Issue) (s : State) (v : Nat) (wt : Wait) : Act :=
  match s.warp? i.w with
  | some x => if s.waitOver i.w x v then .next s else .suspend s wt
  | none => .next s

def execWaitRegs (f : Frame) (s : State) : Out := s.issueOnce (.waitRegs f) fun i t => i.waitFor t 0 .waitRegs
def execWaitSt (f : Frame) (s : State) : Out := s.issueOnce (.waitSt f) fun i t => i.waitFor t 1 .waitSt
def execWaitAll (f : Frame) (s : State) : Out := s.issueOnce (.waitAll f) fun i t => i.waitFor t 2 .waitAll

/-- `sleep` (R134, R137): the PC has passed the instruction while the warp sleeps. -/
def execSleep (f : Frame) (s : State) : Out :=
  s.issueOnce (.sleep f) fun i t =>
    let (k, tag) := i.x.uni f.kb
    if f.bu && tag then .trap 9 0
    else
      let n := if f.bi then f.imm.toNat else k.toNat % 2 ^ 32
      .next (if n = 0 then t else t.modWarp i.w fun x => { x with wait := some (.sleep (t.clock + n)) })

end Sys2Proof.Machine
end

