-- ==== Sys2Proof/Machine/Flags.lean ====
section
/-! DEFINITION. The floating-point exception flags and controls of `FPCTL` (R97 to R99), carries and borrows (R89), and the comparison codes
of R94 and R135. -/

namespace Sys2Proof.Machine

/-- The exceptions of one lane's operation (R97). -/
structure Exc where
  nv : Bool := false
  dz : Bool := false
  of_ : Bool := false
  uf : Bool := false
  nx : Bool := false
  deriving DecidableEq, Repr

def Exc.or (a b : Exc) : Exc := ⟨a.nv || b.nv, a.dz || b.dz, a.of_ || b.of_, a.uf || b.uf, a.nx || b.nx⟩

/-- The exceptions at their places in `FPCTL` (R97). -/
def Exc.bits (e : Exc) : W64 :=
  (BitVec.ofBool e.nv ++ BitVec.ofBool e.dz ++ BitVec.ofBool e.of_ ++ BitVec.ofBool e.uf ++ BitVec.ofBool e.nx : BitVec 5).setWidth 64

/-- The exceptions of every active, unpoisoned lane are ORed into `FPCTL` (R98). -/
def Issue.raise (i : Issue) (s : State) (poisoned : Mask) (e : Fin 32 → Exc) : State :=
  let all : Exc := (lanesOf (i.act &&& ~~~poisoned)).foldl (fun (a : Exc) l => a.or (e l)) {}
  s.modWarp i.w fun x => { x with fp := { x.fp with ctl := x.fp.ctl ||| all.bits } }

/-- `FPCTL.FZ` (R97). -/
def Warp.fz (x : Warp) : Bool := x.fp.ctl.getLsbD 8

/-- Rounding modes (R99): the code of an instruction, or `FPCTL.RM` under code 0. -/
inductive Rm where
  | rne | rz | ru | rd
  deriving DecidableEq, Repr

def Warp.rm (x : Warp) (code : Nat) : Rm :=
  match code with
  | 1 => .rne | 2 => .rz | 3 => .ru | 4 => .rd
  | _ => match bits x.fp.ctl 5 2 with
    | 0 => .rne | 1 => .rz | 2 => .ru | _ => .rd

/-- Sum and carry-out of two 32-bit values and a carry-in (R89). -/
def addCarry (a b : W32) (c : Bool) : W32 × Bool :=
  let t := a.toNat + b.toNat + c.toNat
  (BitVec.ofNat 32 t, 2 ^ 32 ≤ t)

/-- Difference and borrow-out of two 32-bit values and a borrow-in (R89). -/
def subBorrow (a b : W32) (c : Bool) : W32 × Bool :=
  (a - b - (if c then 1 else 0), a.toNat < b.toNat + c.toNat)

/-- The condition codes of `waitaddr` (R135), unsigned: eq, ne, geu, ltu. -/
def waitCond (cond : Nat) (v k : Nat) : Bool :=
  match cond with
  | 0 => v == k | 1 => v != k | 2 => k ≤ v | _ => v < k

end Sys2Proof.Machine
end

