-- ==== Sys2Proof/Machine/Integer.lean ====
section
/-! DEFINITION. Integer, address and bit instructions (R79 to R96), opcodes 0x001 to 0x029. -/

namespace Sys2Proof.Machine

/-! ## Types and results (R79, R80) -/

/-- Width of a type code. -/
def tyWidth (v : Nat) : Nat := match v with | 0 => 32 | 1 => 32 | 2 => 16 | 3 => 16 | 4 => 8 | 5 => 8 | _ => 64
def tySigned (v : Nat) : Bool := v % 2 = 0

/-- `sext(v, n)` of R12. -/
def sextN (v n : Nat) : Int := if 2 ^ (n - 1) ≤ v % 2 ^ n then (v % 2 ^ n : Int) - 2 ^ n else v % 2 ^ n

/-- The value of a source of a type (R80). -/
def tyVal (v : Nat) (s : W64) : Int :=
  if tySigned v then sextN s.toNat (tyWidth v) else (s.toNat % 2 ^ tyWidth v : Nat)

/-- Clamping to a range (R12). -/
def satI (x lo hi : Int) : Int := if x < lo then lo else if hi < x then hi else x

/-- The least and greatest values of a type (R80). -/
def tyMin (v : Nat) : Int := if tySigned v then -2 ^ (tyWidth v - 1) else 0
def tyMax (v : Nat) : Int := if tySigned v then 2 ^ (tyWidth v - 1) - 1 else 2 ^ tyWidth v - 1

/-- The exact result reduced to the type and extended to 64 bits (R80). -/
def tyFit (v : Nat) (sat : Bool) (t : Int) : W64 :=
  let r := if sat then satI t (tyMin v) (tyMax v) else t
  let n := (r % 2 ^ tyWidth v).toNat
  BitVec.ofInt 64 (if tySigned v then sextN n (tyWidth v) else n)

/-- A 32-bit result as a uniform register takes it (R80). -/
def ext32 (signed : Bool) (v : W64) : W64 := if signed then (v.setWidth 32).signExtend 64 else (v.setWidth 32).setWidth 64

/-- Arithmetic on the typed values of A, B and C (R80, R88). -/
def State.intOp (s : State) (i : Instr) (f : Frame) (nb nc sat : Bool) (g : Int → Int → Int → Int) : Out :=
  let v := f.vn
  s.alu i false false false false (tySigned v) true nb nc
    (fun _ a b c => tyFit v (sat && f.bit 0) (g (tyVal v a) (tyVal v b) (tyVal v c))) id

def execIadd (f : Frame) (s : State) : Out := s.intOp (.iadd f) f true false true fun a b _ => a + b
def execIsub (f : Frame) (s : State) : Out := s.intOp (.isub f) f true false true fun a b _ => a - b
def execIneg (f : Frame) (s : State) : Out := s.intOp (.ineg f) f false false true fun a _ _ => -a
def execIabs (f : Frame) (s : State) : Out := s.intOp (.iabs f) f false false true fun a _ _ => if a < 0 then -a else a
def execImin (f : Frame) (s : State) : Out := s.intOp (.imin f) f true false false fun a b _ => if b < a then b else a
def execImax (f : Frame) (s : State) : Out := s.intOp (.imax f) f true false false fun a b _ => if a < b then b else a
def execImul (f : Frame) (s : State) : Out := s.intOp (.imul f) f true false true fun a b _ => a * b
def execImad (f : Frame) (s : State) : Out := s.intOp (.imad f) f true true true fun a b c => a * b + c
/-- `min(max(A, B), C)` (R88). -/
def execClampi (f : Frame) (s : State) : Out :=
  s.intOp (.clampi f) f true true false fun a b c => let m := if a < b then b else a; if c < m then c else m

/-- Carry chains (R89): the result and the carry-out predicate. -/
def State.carryOp (s : State) (i : Instr) (g : W32 → W32 → Bool → W32 × Bool) : Out :=
  s.issueOnce i fun iss t =>
    let f := iss.f
    let a := iss.x.oprA f false false
    let b := iss.x.oprB f false false
    let tag := a.tag ||| b.tag
    let pin := iss.x.pred (f.mf 0 3)
    let r := fun l : Fin 32 => g ((a.val l).setWidth 32) ((b.val l).setWidth 32) (pin.getLsbD l.val != f.bit 6)
    .next (iss.writePred (iss.writeLane t f.xd (fun l => (r l).1) tag) (f.mf 3 3) (fun l => (r l).2) tag)

def execIaddc (f : Frame) (s : State) : Out := s.carryOp (.iaddc f) addCarry
def execIsubb (f : Frame) (s : State) : Out := s.carryOp (.isubb f) subBorrow

/-- Bits [63:32] of the exact product (R90). -/
def execImulhi (f : Frame) (s : State) : Out :=
  s.alu (.imulhi f) false false false false (tySigned f.vn) true true false
    (fun _ a b _ => BitVec.ofInt 64 (tyVal f.vn a * tyVal f.vn b / 2 ^ 32)) id

/-- `mod(A × B + C, 2^64)` in a pair (R90). -/
def execImadw (f : Frame) (s : State) : Out :=
  s.alu (.imadw f) false false true true (tySigned f.vn) true true true
    (fun _ a b c => BitVec.ofInt 64 (tyVal f.vn a * tyVal f.vn b + (c.toNat : Int))) id

/-- Element `j` of width `n` of a packed source (R91). -/
def elem (signed : Bool) (n j : Nat) (v : W64) : Int :=
  let e := v.toNat / 2 ^ (n * j) % 2 ^ n
  if signed then sextN e n else e

/-- The sum of a function over element numbers below `n`. -/
def sumBelow (g : Nat → Int) : Nat → Int
  | 0 => 0
  | n + 1 => sumBelow g n + g n

def execIsad (f : Frame) (s : State) : Out :=
  let v := f.vn
  let n := tyWidth v
  s.alu (.isad f) false false false false (tySigned v) true true true
    (fun _ a b c => BitVec.ofInt 64 ((c.setWidth 32).toNat +
      sumBelow (fun j => let d := elem (tySigned v) n j a - elem (tySigned v) n j b; if d < 0 then -d else d) (32 / n))) id

/-- The dot products (R91): `n` is the element width. -/
def State.dotOp (s : State) (i : Instr) (f : Frame) (n : Nat) (signed : Bool) : Out :=
  s.alu i false false false false signed true true true
    (fun _ a b c =>
      let acc : Int := if signed then sextN c.toNat 32 else (c.toNat % 2 ^ 32 : Nat)
      let t := acc + sumBelow (fun j => elem signed n j a * elem (signed && !f.bit 1) n j b) (32 / n)
      BitVec.ofInt 64 (if f.bit 0 then (if signed then satI t (-2 ^ 31) (2 ^ 31 - 1) else satI t 0 (2 ^ 32 - 1)) else t)) id

def execDot4 (f : Frame) (s : State) : Out := s.dotOp (.dot4 f) f 8 (f.vn == 4)
def execDot8 (f : Frame) (s : State) : Out := s.dotOp (.dot8 f) f 4 (f.vn == 0)

/-! ## Shifts (R92) -/

/-- The shift amount: bits [7:0] of the 32-bit operand B. -/
def shamt (b : W64) : Nat := b.toNat % 256

/-- A shift of a 32-bit or 64-bit A by a 32-bit B. `g` takes the width, A below 2^width, and the amount. -/
def State.shiftOp (s : State) (i : Instr) (f : Frame) (g : Nat → Nat → Nat → Int) : Out :=
  let v := f.vn
  let wide := decide (v = 6 ∨ v = 7)
  let n := tyWidth v
  s.alu i wide false false wide (tySigned v) true true false
    (fun _ a b _ => BitVec.ofInt 64 (g n (a.toNat % 2 ^ n) (shamt b))) (if wide then id else ext32 (tySigned v))

def execShl (f : Frame) (s : State) : Out := s.shiftOp (.shl f) f fun n a k => if n ≤ k then 0 else (a * 2 ^ k % 2 ^ n : Nat)
def execShr (f : Frame) (s : State) : Out := s.shiftOp (.shr f) f fun n a k => if n ≤ k then 0 else (a / 2 ^ k : Nat)
def execSar (f : Frame) (s : State) : Out := s.shiftOp (.sar f) f fun n a k => sextN a n / 2 ^ (if n ≤ k then n else k)

/-- The funnel shift (R92): `w` is `cat(A, B)`. -/
def execShf (f : Frame) (s : State) : Out :=
  s.alu (.shf f) false false false false false true true true
    (fun _ a b c =>
      let k := Nat.min (shamt c) 32
      let w := a.toNat % 2 ^ 32 * 2 ^ 32 + b.toNat % 2 ^ 32
      BitVec.ofNat 64 (if f.bit 0 then w / 2 ^ k % 2 ^ 32 else w * 2 ^ k / 2 ^ 32 % 2 ^ 32)) id

/-- Rotation left or right by `mod(s, 32)` (R92). -/
def execRot (f : Frame) (s : State) : Out :=
  s.alu (.rot f) false false false false false true true false
    (fun _ a b _ =>
      let x := a.setWidth 32
      ((if f.bit 0 then x.rotateRight (shamt b % 32) else x.rotateLeft (shamt b % 32)) : W32).setWidth 64) id

/-! ## Logic and bit counting (R93) -/

def State.logicOp (s : State) (i : Instr) (f : Frame) (g : W64 → W64 → W64) : Out :=
  let wide := f.vn == 7
  s.alu i wide wide false wide false true true false (fun _ a b _ => g a b) (if wide then id else ext32 false)

def execAnd (f : Frame) (s : State) : Out := s.logicOp (.and f) f (· &&& ·)
def execOr (f : Frame) (s : State) : Out := s.logicOp (.or f) f (· ||| ·)
def execXor (f : Frame) (s : State) : Out := s.logicOp (.xor f) f (· ^^^ ·)

/-- A number below `2^n` built from a test of each bit. -/
def ofBits (g : Nat → Bool) : Nat → Nat
  | 0 => 0
  | n + 1 => ofBits g n + (if g n then 2 ^ n else 0)

/-- Bit `i` is bit A[i] + 2·B[i] + 4·C[i] of the truth table (R93). -/
def lop3 (tt : Nat) (a b c : W64) : W64 :=
  BitVec.ofNat 64 (ofBits (fun i => tt.testBit ((a.getLsbD i).toNat + 2 * (b.getLsbD i).toNat + 4 * (c.getLsbD i).toNat)) 32)

def execLop3 (f : Frame) (s : State) : Out :=
  s.alu (.lop3 f) false false false false false true true true (fun _ a b c => lop3 (f.mf 0 8) a b c) id

/-- Number of set bits below `n`. -/
def popcount (a : W64) : Nat → Nat
  | 0 => 0
  | n + 1 => popcount a n + (a.getLsbD n).toNat

/-- Zeros above the highest set bit below `n`. -/
def leadZeros (a : W64) : Nat → Nat
  | 0 => 0
  | n + 1 => if a.getLsbD n then 0 else leadZeros a n + 1

/-- Zeros below the lowest set bit; `k` bits remain above position `n - k` of `n`. -/
def trailZeros (a : W64) (n : Nat) : Nat → Nat
  | 0 => 0
  | k + 1 => if a.getLsbD (n - (k + 1)) then 0 else trailZeros a n k + 1

def State.countOp (s : State) (i : Instr) (f : Frame) (g : Nat → W64 → Nat) : Out :=
  s.alu i (f.vn == 7) false false false false true false false (fun _ a _ _ => BitVec.ofNat 64 (g (tyWidth f.vn) a)) id

def execPopc (f : Frame) (s : State) : Out := s.countOp (.popc f) f fun n a => popcount a n
def execClz (f : Frame) (s : State) : Out := s.countOp (.clz f) f fun n a => leadZeros a n
def execCtz (f : Frame) (s : State) : Out := s.countOp (.ctz f) f fun n a => trailZeros a n n

/-- Bit `i` takes bit width−1−`i` (R93). -/
def execBrev (f : Frame) (s : State) : Out :=
  let wide := f.vn == 7
  let n := tyWidth f.vn
  s.alu (.brev f) wide false false wide false true false false
    (fun _ a _ _ => BitVec.ofNat 64 (ofBits (fun i => a.getLsbD (n - 1 - i)) n)) id

/-! ## Fields (R94) -/

def execBfx (f : Frame) (s : State) : Out :=
  s.alu (.bfx f) false false false false false true true false
    (fun _ a b _ =>
      let lo := b.toNat % 32; let hi := b.toNat / 256 % 32
      if hi < lo then 0
      else
        let n := hi - lo + 1
        let x := a.toNat % 2 ^ 32 / 2 ^ lo % 2 ^ n
        BitVec.ofInt 64 (if f.vn = 0 then sextN x n else x)) id

def execBfi (f : Frame) (s : State) : Out :=
  s.alu (.bfi f) false false false false false true true true
    (fun _ a b c =>
      let lo := b.toNat % 32; let hi := b.toNat / 256 % 32
      if hi < lo then c
      else
        let m : W64 := BitVec.ofNat 64 ((2 ^ (hi - lo + 1) - 1) * 2 ^ lo)
        (c &&& ~~~m) ||| ((a <<< lo) &&& m)) id

/-- Byte `j` of the result of `prmt` (R94). -/
def prmtByte (src sel : Nat) (j : Nat) : Nat :=
  let c := sel / 256 ^ j % 256
  let b := src / 256 ^ (c % 8) % 256
  match c / 8 % 4 with
  | 0 => b
  | 1 => 0
  | 2 => if 128 ≤ b then 255 else 0
  | _ => 255

def execPrmt (f : Frame) (s : State) : Out :=
  s.alu (.prmt f) false false false false false true true true
    (fun _ a b c =>
      let src := b.toNat % 2 ^ 32 * 2 ^ 32 + a.toNat % 2 ^ 32
      let byte := prmtByte src (c.toNat % 2 ^ 32)
      BitVec.ofNat 64 (byte 0 + 256 * byte 1 + 65536 * byte 2 + 16777216 * byte 3)) id

/-! ## Comparison, selection and moves (R95, R96) -/

/-- The condition codes of `icmp` (R95). -/
def icond (c : Nat) (a b : Int) : Bool :=
  match c with
  | 0 => a == b | 1 => a != b | 2 => a < b | 3 => a ≤ b | 4 => b < a | _ => b ≤ a

def State.cmpOp (s : State) (i : Instr) (wide : Bool) : Out :=
  s.issueOnce i fun iss t =>
    let f := iss.f
    let v := f.vn
    let a := iss.x.oprA f wide (tySigned v)
    let b := iss.x.oprB f wide (tySigned v)
    .next (iss.writePred t f.xd (fun l => icond (f.mf 0 3) (tyVal v (a.val l)) (tyVal v (b.val l))) (a.tag ||| b.tag))

def execIcmp (f : Frame) (s : State) : Out := s.cmpOp (.icmp f) false
def execIcmp64 (f : Frame) (s : State) : Out := s.cmpOp (.icmp64 f) true

/-- A under the predicate, otherwise B, with the tag of the source selected (R84, R95). -/
def execIsel (f : Frame) (s : State) : Out :=
  s.issueOnce (.isel f) fun iss t =>
    let wide := f.vn == 7
    let a := iss.x.oprA f wide false
    let b := iss.x.oprB f wide false
    let p := iss.x.pred (f.mf 0 3)
    let p := if f.bit 3 then ~~~p else p
    .next (iss.writeD t wide (fun l => if p.getLsbD l.val then a.val l else b.val l) ((a.tag &&& p) ||| (b.tag &&& ~~~p)) id)

def execMov (f : Frame) (s : State) : Out :=
  let wide := f.vn == 7
  s.alu (.mov f) wide false false wide false true false false (fun _ a _ _ => a) (if wide then id else ext32 false)

/-- IMM32 extended by type (R82, R96). -/
def execMovi (f : Frame) (s : State) : Out :=
  let wide := decide (f.vn = 6 ∨ f.vn = 7)
  s.alu (.movi f) false false false wide false false false false
    (fun _ _ _ _ => if tySigned f.vn then f.imm.signExtend 64 else f.imm.setWidth 64) id

/-- `mod(kB + ext(xA) × s + sext(IMM32, 32), 2^64)` (R96). -/
def execLea (f : Frame) (s : State) : Out :=
  s.issueOnce (.lea f) fun iss t =>
    let a := iss.x.laneOpr f.xa false
    let b := iss.x.uniOpr f.kb
    let ext := fun v : W64 => if f.vn = 6 then (v.setWidth 32).signExtend 64 else v
    .next (iss.writeD t true (fun l => b.val l + (ext (a.val l) <<< f.mf 0 3) + f.imm.signExtend 64) (a.tag ||| b.tag) id)

/-- `A + B`, or `A − B` under NEG; under BW, B is a 32-bit register extended by type (R96). -/
def execIadd64 (f : Frame) (s : State) : Out :=
  let signed := tySigned f.vn
  s.alu (.iadd64 f) true (!f.bit 2) false true signed true true false
    (fun _ a b _ =>
      let b := if f.bit 2 then (if signed then (b.setWidth 32).signExtend 64 else (b.setWidth 32).setWidth 64) else b
      if f.bit 1 then a - b else a + b) id

/-- `sext` and `zext` by the amount B[7:0] (R96). -/
def State.extOp (s : State) (i : Instr) (f : Frame) (signed : Bool) : Out :=
  let wide := decide (f.vn = 6 ∨ f.vn = 7)
  s.alu i false false false wide signed true true false
    (fun _ a b _ =>
      let n := b.toNat % 256
      let x := a.toNat % 2 ^ 32
      let r : W32 := if n = 0 then 0 else if 32 ≤ n then BitVec.ofNat 32 x
        else if signed then BitVec.ofInt 32 (sextN x n) else BitVec.ofNat 32 (x % 2 ^ n)
      if signed then r.signExtend 64 else r.setWidth 64) id

def execSext (f : Frame) (s : State) : Out := s.extOp (.sext f) f true
def execZext (f : Frame) (s : State) : Out := s.extOp (.zext f) f false

end Sys2Proof.Machine
end

