-- ==== Sys2Proof/Machine/SoftFloat.lean ====
section
/-! DEFINITION. Floating-point formats, exact values and rounding (R99 to R102, R110, R114). -/

namespace Sys2Proof.Machine

/-- A float format: exponent and fraction widths, the code of its greatest finite value, and whether it has infinities and NaNs (R110). -/
structure Fmt where
  eb : Nat
  mb : Nat
  maxCode : Nat
  inf : Bool
  nan : Nat
  deriving DecidableEq, Repr

def f32 : Fmt := ⟨8, 23, 0x7F7FFFFF, true, 0x7FC00000⟩
def f16 : Fmt := ⟨5, 10, 0x7BFF, true, 0x7E00⟩
def bf16 : Fmt := ⟨8, 7, 0x7F7F, true, 0x7FC0⟩
def e4m3 : Fmt := ⟨4, 3, 0x7E, false, 0x7F⟩
def e5m2 : Fmt := ⟨5, 2, 0x7B, true, 0x7E⟩
/-- `e2m1` has no NaN; its field is not used. -/
def e2m1 : Fmt := ⟨2, 1, 7, false, 0⟩

/-- The format of a code of R110. -/
def fmtOf (code : Nat) : Fmt := match code with | 8 => f32 | 9 => f16 | 10 => bf16 | 11 => e4m3 | 12 => e5m2 | _ => e2m1

def Fmt.width (F : Fmt) : Nat := 1 + F.eb + F.mb
/-- The exponent of the least normal value. -/
def Fmt.emin (F : Fmt) : Int := 2 - 2 ^ (F.eb - 1)
/-- The code of infinity, one past the greatest finite value of an IEEE format. -/
def Fmt.infCode (F : Fmt) : Nat := (2 ^ F.eb - 1) * 2 ^ F.mb

/-- An exact value `n × 2^e`. -/
structure Dy where
  n : Int
  e : Int
  deriving DecidableEq, Repr

def Dy.neg (a : Dy) : Dy := ⟨-a.n, a.e⟩
def Dy.mul (a b : Dy) : Dy := ⟨a.n * b.n, a.e + b.e⟩
def Dy.add (a b : Dy) : Dy :=
  if a.e ≤ b.e then ⟨a.n + b.n * 2 ^ (b.e - a.e).toNat, a.e⟩ else ⟨a.n * 2 ^ (a.e - b.e).toNat + b.n, b.e⟩
def Dy.sub (a b : Dy) : Dy := a.add b.neg
def Dy.isZero (a : Dy) : Bool := a.n == 0
def Dy.lt (a b : Dy) : Bool := (a.sub b).n < 0
def Dy.abs (a : Dy) : Dy := ⟨a.n.natAbs, a.e⟩
/-- `a × 2^k`. -/
def Dy.scale (a : Dy) (k : Int) : Dy := ⟨a.n, a.e + k⟩
/-- `floor(log2(|a|))` of a nonzero value. -/
def Dy.log2 (a : Dy) : Int := Nat.log2 a.n.natAbs + a.e

/-- What a float code stands for: a NaN, quiet or signalling; an infinity; or a signed number. -/
inductive FVal where
  | nan (sig : Bool)
  | inf (s : Bool)
  | num (s : Bool) (v : Dy)
  deriving DecidableEq, Repr

/-- The value of a code. -/
def Fmt.dec (F : Fmt) (code : Nat) : FVal :=
  let c := code % 2 ^ (F.eb + F.mb)
  let s := code.testBit (F.eb + F.mb)
  let ex := c / 2 ^ F.mb
  let fr := c % 2 ^ F.mb
  if F.inf && ex = 2 ^ F.eb - 1 then (if fr = 0 then .inf s else .nan (!fr.testBit (F.mb - 1)))
  else if !F.inf && F.nan ≠ 0 && c = F.nan then .nan false
  else
    let m : Int := if ex = 0 then fr else fr + 2 ^ F.mb
    .num s ⟨if s then -m else m, F.emin - F.mb + (if ex = 0 then 0 else (ex : Int) - 1)⟩

def FVal.isNan : FVal → Bool
  | .nan _ => true
  | _ => false
def FVal.isSig : FVal → Bool
  | .nan s => s
  | _ => false

/-- Subnormal inputs become zeros of the same sign under FZ (R102). -/
def Fmt.decFz (F : Fmt) (fz : Bool) (code : Nat) : FVal :=
  let c := code % 2 ^ (F.eb + F.mb)
  if fz && c < 2 ^ F.mb then .num (code.testBit (F.eb + F.mb)) ⟨0, 0⟩ else F.dec code

/-- Rounds `n / 2^k` to an integer by a mode, for a value of this sign. -/
def roundShift (rm : Rm) (neg : Bool) (n k : Nat) : Nat :=
  let q := n / 2 ^ k
  let r := n % 2 ^ k
  let up := match rm with
    | .rne => 2 ^ k < 2 * r || (2 * r == 2 ^ k && q % 2 == 1)
    | .rz => false
    | .ru => r != 0 && !neg
    | .rd => r != 0 && neg
  if up then q + 1 else q

/-- A rounded magnitude: its code with unbounded exponent range upward, whether it differs from the exact value, and whether it is tiny after
rounding (R101). -/
structure Rounded where
  code : Nat
  inexact : Bool
  tiny : Bool
  deriving DecidableEq, Repr

/-- Rounds a nonzero magnitude `m × 2^e`; `pick` rounds `n / 2^k` to an integer. -/
def Fmt.roundWith (F : Fmt) (pick : Nat → Nat → Nat) (m : Nat) (e : Int) : Rounded :=
  let lead := (Nat.log2 m : Int) + e
  let low := F.emin - F.mb
  let q := if lead < F.emin then low else lead - F.mb
  let k := if e ≤ q then pick m (q - e).toNat else m * 2 ^ (e - q).toNat
  let exact := e ≥ q || m % 2 ^ (q - e).toNat = 0
  let tiny := lead < F.emin && (
    let q' := lead - F.mb
    let k' := if e ≤ q' then pick m (q' - e).toNat else m * 2 ^ (e - q').toNat
    !(lead == F.emin - 1 && k' == 2 ^ (F.mb + 1)))
  { code := (q - low).toNat * 2 ^ F.mb + k, inexact := !exact, tiny := tiny }

def Fmt.round (F : Fmt) (rm : Rm) (neg : Bool) (m : Nat) (e : Int) : Rounded := F.roundWith (roundShift rm neg) m e

/-- A code with its sign. -/
def Fmt.sign (F : Fmt) (neg : Bool) (code : Nat) : Nat := if neg then 2 ^ (F.eb + F.mb) + code else code

/-- The code on overflow under a mode (R101). -/
def Fmt.overflow (F : Fmt) (rm : Rm) (neg : Bool) : Nat :=
  let toInf := match rm with | .rne => true | .rz => false | .ru => !neg | .rd => neg
  if toInf then F.infCode else F.maxCode

/-- Rounds an exact nonzero value with IEEE overflow, and FZ on a subnormal result where asked (R101, R102). -/
def Fmt.enc (F : Fmt) (rm : Rm) (fz : Bool) (v : Dy) : Nat × Exc :=
  let neg := decide (v.n < 0)
  let r := F.round rm neg v.n.natAbs v.e
  if F.maxCode < r.code then (F.sign neg (F.overflow rm neg), { of_ := true, nx := true })
  else if fz && r.code < 2 ^ F.mb && r.code != 0 then (F.sign neg 0, { uf := true, nx := true })
  else (F.sign neg r.code, { uf := r.tiny && r.inexact, nx := r.inexact })

/-- Rounds an exact value, zero as +0, and a value beyond the greatest finite one to it (R117, `sat` of R12). -/
def Fmt.encSat (F : Fmt) (rm : Rm) (v : Dy) : Nat :=
  if v.isZero then 0
  else
    let neg := decide (v.n < 0)
    F.sign neg (Nat.min (F.round rm neg v.n.natAbs v.e).code F.maxCode)

/-- The exact value of a code that is a number. -/
def Fmt.val (F : Fmt) (code : Nat) : Dy :=
  match F.dec code with
  | .num _ v => v
  | _ => ⟨0, 0⟩

/-! ## Arithmetic (R101) -/

/-- An exact product with its sign; `none` is invalid. -/
def FVal.mul : FVal → FVal → Option FVal
  | .nan a, .nan b => some (.nan (a || b))
  | .nan a, _ => some (.nan a)
  | _, .nan b => some (.nan b)
  | .inf s, .inf t => some (.inf (s != t))
  | .inf s, .num t v => if v.isZero then none else some (.inf (s != t))
  | .num s v, .inf t => if v.isZero then none else some (.inf (s != t))
  | .num s v, .num t u => some (.num (s != t) (v.mul u))

/-- The exact sum of terms, rounded once to a format (R101). `inv` says that a term was already invalid. -/
def Fmt.sum (F : Fmt) (rm : Rm) (fz : Bool) (inv : Bool) (terms : List FVal) : Nat × Exc :=
  let sig := terms.any FVal.isSig
  let pinf := terms.any fun t => t == .inf false
  let ninf := terms.any fun t => t == .inf true
  let bad := inv || (pinf && ninf)
  if bad || terms.any FVal.isNan then (F.nan, { nv := bad || sig })
  else if pinf then (F.infCode, {})
  else if ninf then (F.sign true F.infCode, {})
  else
    let v := terms.foldl (fun (a : Dy) t => match t with | .num _ x => a.add x | _ => a) ⟨0, 0⟩
    if v.isZero then
      let zero := fun (t : FVal) (s : Bool) => match t with | .num s' x => x.isZero && s' == s | _ => false
      let neg := if terms.all (zero · false) then false else if terms.all (zero · true) then true else rm == .rd
      (F.sign neg 0, {})
    else F.enc rm fz v

/-- A product rounded once; a zero product keeps its sign. -/
def Fmt.product (F : Fmt) (rm : Rm) (fz : Bool) (a b : FVal) : Nat × Exc :=
  match a.mul b with
  | none => (F.nan, { nv := true })
  | some (.nan s) => (F.nan, { nv := s })
  | some (.inf s) => (F.sign s F.infCode, {})
  | some (.num s v) => if v.isZero then (F.sign s 0, {}) else F.enc rm fz v

/-- `rnd(Σ a_i × b_i + c)` (R103, R108, R109). -/
def Fmt.mulAdd (F : Fmt) (rm : Rm) (fz : Bool) (ps : List (FVal × FVal)) (c : FVal) : Nat × Exc :=
  let prods := ps.map fun p => p.1.mul p.2
  let sig := (ps.any fun p => p.1.isSig || p.2.isSig) || c.isSig
  let (r, x) := F.sum rm fz (prods.any (·.isNone)) (prods.filterMap id ++ [c])
  (r, { x with nv := x.nv || sig })

/-- `fadd` in FP32 under R101 with RNE and subnormals kept (R207). -/
def fadd32 (a b : W32) : W32 := BitVec.ofNat 32 (f32.sum .rne false false [f32.dec a.toNat, f32.dec b.toNat]).1

/-! ## Order (R104, R105) -/

/-- `a < b` on numbers and infinities, zeros equal. -/
def FVal.lt : FVal → FVal → Bool
  | .inf true, .inf true => false
  | .inf true, _ => true
  | _, .inf true => false
  | .inf false, _ => false
  | _, .inf false => true
  | .num _ v, .num _ u => v.lt u
  | _, _ => false

/-- The sign of a value. -/
def FVal.sign : FVal → Bool
  | .nan _ => false
  | .inf s => s
  | .num s _ => s

/-- `a` before `b` with −0 below +0 (R104). -/
def FVal.before (a b : FVal) : Bool := a.lt b || (!b.lt a && a.sign && !b.sign)

/-- The smaller or the greater of two codes (R104): NaN operands, `pn` propagating them. -/
def Fmt.minMax (F : Fmt) (fz max pn : Bool) (ca cb : Nat) : Nat × Exc :=
  let a := F.decFz fz ca
  let b := F.decFz fz cb
  let exc : Exc := { nv := a.isSig || b.isSig }
  let code := fun (c : Nat) (v : FVal) => match v with | .num s x => if x.isZero then F.sign s 0 else c | _ => c
  let r := if a.isNan && b.isNan then F.nan
    else if a.isNan then (if pn then F.nan else code cb b)
    else if b.isNan then (if pn then F.nan else code ca a)
    else if max then (if a.before b then code cb b else code ca a)
    else if b.before a then code cb b else code ca a
  (r, exc)

/-! ## Integral values and conversion (R106, R112) -/

/-- Rounds an exact value to an integer. -/
def Dy.toInt (v : Dy) (rm : Rm) : Int :=
  if 0 ≤ v.e then v.n * 2 ^ v.e.toNat
  else
    let neg := decide (v.n < 0)
    let r := roundShift rm neg v.n.natAbs (-v.e).toNat
    if neg then -(r : Int) else r

/-- An exact value is an integer `t`. -/
def Dy.isInt (v : Dy) (t : Int) : Bool := (v.sub ⟨t, 0⟩).isZero

/-- A number or infinity rounded to a float format under the cases of R112. -/
def cvtFloat (code : Nat) (rm : Rm) (sat : Bool) (v : FVal) : Nat × Exc :=
  let F := fmtOf code
  match v with
  | .nan sig => if code = 13 then (0, { nv := true }) else (F.nan, { nv := sig })
  | .inf s =>
    if sat || code = 13 then (F.sign s F.maxCode, {})
    else if code = 11 then (F.nan, { nv := true })
    else (F.sign s F.infCode, {})
  | .num s x =>
    if x.isZero then (F.sign s 0, {})
    else
      let r := F.round rm s x.n.natAbs x.e
      if F.maxCode < r.code then
        let exc : Exc := { of_ := true, nx := true }
        if sat || code = 13 then (F.sign s F.maxCode, exc)
        else
          let toInf := match rm with | .rne => true | .rz => false | .ru => !s | .rd => s
          if !toInf then (F.sign s F.maxCode, exc)
          else if code = 11 then (F.nan, exc)
          else (F.sign s F.infCode, exc)
      else (F.sign s r.code, { uf := r.tiny && r.inexact, nx := r.inexact })

/-- A float value to an integer type (R112). -/
def cvtInt (dt : Nat) (rm : Rm) (v : FVal) : W64 × Exc :=
  match v with
  | .nan _ => (0, { nv := true })
  | .inf s => (tyFit dt true (if s then tyMin dt else tyMax dt), { nv := true })
  | .num _ x =>
    let t := x.toInt rm
    if t < tyMin dt || tyMax dt < t then (tyFit dt true t, { nv := true })
    else (tyFit dt false t, { nx := !x.isInt t })

/-! ## Stochastic rounding (R114, R115) -/

/-- One step of the generator. -/
def xs (v : W32) : W32 :=
  let v := v ^^^ (v <<< 13)
  let v := v ^^^ (v >>> 17)
  v ^^^ (v <<< 5)

/-- The 16 bits of lane or element `l`. -/
def srbits (s : W32) (l : Nat) : Nat := (xs (s ^^^ BitVec.ofNat 32 (l * 0x9E3779B9))).toNat % 2 ^ 16

/-- Rounds `n / 2^k` to the neighbour that the bits choose. -/
def pickSr (u n k : Nat) : Nat := if 2 ^ 16 ≤ n % 2 ^ k * 2 ^ 16 / 2 ^ k + u then n / 2 ^ k + 1 else n / 2 ^ k

/-- Stochastic rounding of an FP32 value to a format (R115). Beyond max finite there is no next value: the one a step further stands in its place, so that a draw
that picks max finite raises NX alone, and one that passes it OF and NX (DESIGN CHOICE, log entry 71). An infinity that becomes max finite differs from the
operand. -/
def cvtSr (code u : Nat) (v : FVal) : Nat × Exc :=
  let F := fmtOf code
  match v with
  | .nan sig => if code = 13 then (0, { nv := true }) else (F.nan, { nv := sig })
  | .inf s => (F.sign s (if F.inf then F.infCode else F.maxCode), { nx := !F.inf })
  | .num s x =>
    if x.isZero then (F.sign s 0, {})
    else
      let r := F.roundWith (pickSr u) x.n.natAbs x.e
      if F.maxCode < r.code then (F.sign s F.maxCode, { of_ := true, nx := true }) else (F.sign s r.code, { nx := r.inexact })

/-! ## Microscaling blocks (R117, R118) -/

/-- Exponent offset of an MX element format (R117). -/
def mxEmax (code : Nat) : Int := match code with | 11 => 8 | 12 => 15 | _ => 2

/-- A quantised block: the scale code, whether it was clamped, the element codes, and whether some element differs from its value. `pick`
rounds element `i`. -/
structure MxBlock where
  code : Nat
  clamped : Bool
  elems : List Nat
  inexact : Bool

/-- The value that an element has under a scale code. -/
def mxValue (dt code q : Nat) : Dy := ((fmtOf dt).val q).scale ((code : Int) - 127)

/-- Rounds an exact value by a picker, saturating. -/
def Fmt.pickSat (F : Fmt) (pick : Bool → Nat → Nat → Nat) (v : Dy) : Nat :=
  if v.isZero then 0
  else
    let neg := decide (v.n < 0)
    F.sign neg (Nat.min (F.roundWith (pick neg) v.n.natAbs v.e).code F.maxCode)

def mxQuant (dt : Nat) (pick : Nat → Bool → Nat → Nat → Nat) (vs : List Dy) : MxBlock :=
  let F := fmtOf dt
  let amax := vs.foldl (fun (a : Dy) v => if a.lt v.abs then v.abs else a) ⟨0, 0⟩
  let x := if amax.isZero then -127 else amax.log2 - mxEmax dt
  let scale := satI x (-127) 127
  let qs := vs.mapIdx fun i v => F.pickSat (pick i) (v.scale (-scale))
  let code := if qs.all fun q => (F.val q).isZero then 0 else (scale + 127).toNat
  { code := code, clamped := 127 < x, elems := qs,
    inexact := (vs.zip qs).any fun p => !(p.1.sub (mxValue dt code p.2)).isZero }

end Sys2Proof.Machine
end

