-- ==== Sys2Proof/Machine/Float.lean ====
section
/-! DEFINITION. Floating-point and conversion instructions (R97 to R118), opcodes 0x040 to 0x051. -/

namespace Sys2Proof.Machine

/-! ## Operands (R100) -/

/-- Absolute value, then negation, by the sign bits that a mask gives. -/
def signMods (signs : W32) (neg abs : Bool) (v : W32) : W32 :=
  let v := if abs then v &&& ~~~signs else v
  if neg then v ^^^ signs else v

/-- The sign bits of one FP32 value, or of two 16-bit halves. -/
def signsOf (packed : Bool) : W32 := if packed then 0x80008000 else 0x80000000

/-- Operand A, B or C of an FP instruction with its modifiers. -/
def Issue.fa (i : Issue) (packed : Bool) : (Fin 32 → W32) × Mask :=
  let o := i.x.oprA i.f false false
  (fun l => signMods (signsOf packed) (i.f.bit 7) (i.f.bit 6) ((o.val l).setWidth 32), o.tag)
def Issue.fb (i : Issue) (packed : Bool) : (Fin 32 → W32) × Mask :=
  let o := i.x.oprB i.f false false
  (fun l => signMods (signsOf packed) (i.f.bit 5) (i.f.bit 4) ((o.val l).setWidth 32), o.tag)
/-- C is negated under NC. -/
def Issue.fc (i : Issue) (packed : Bool) : (Fin 32 → W32) × Mask :=
  let o := i.x.oprC i.f false false
  (fun l => signMods (signsOf packed) (i.f.bit 3) false ((o.val l).setWidth 32), o.tag)

/-- Writes lane results and raises their exceptions (R84, R98). -/
def Issue.writeF (i : Issue) (s : State) (t : Mask) (r : Fin 32 → Nat × Exc) : State :=
  i.raise (i.writeLane s i.f.xd (fun l => BitVec.ofNat 32 (r l).1) t) t fun l => (r l).2

/-- The low and high halves of a packed operand. -/
def half (h : Nat) (v : W32) : Nat := v.toNat / 65536 ^ h % 65536

/-- A packed operation on both halves, with the flags of either (R108). -/
def packed (g : Nat → Nat × Exc) : Nat × Exc := ((g 0).1 + 65536 * (g 1).1, (g 0).2.or (g 1).2)

/-- A two or three operand FP instruction. `n` is the number of operands. -/
def State.fpOp (s : State) (i : Instr) (pk : Bool) (n : Nat) (g : Rm → Bool → W32 → W32 → W32 → Nat × Exc) : Out :=
  s.issueOnce i fun iss t =>
    let (a, ta) := iss.fa pk
    let (b, tb) := if 2 ≤ n then iss.fb pk else (fun _ => 0, 0)
    let (c, tc) := if 3 ≤ n then iss.fc pk else (fun _ => 0, 0)
    let rm := iss.x.rm (iss.f.mf 0 3)
    .next (iss.writeF t (ta ||| tb ||| tc) fun l => g rm iss.x.fz (a l) (b l) (c l))

/-! ## FP32 (R103 to R107) -/

def execFadd (f : Frame) (s : State) : Out :=
  s.fpOp (.fadd f) false 2 fun rm fz a b _ => f32.sum rm fz false [f32.decFz fz a.toNat, f32.decFz fz b.toNat]
def execFsub (f : Frame) (s : State) : Out :=
  s.fpOp (.fsub f) false 2 fun rm fz a b _ => f32.sum rm fz false [f32.decFz fz a.toNat, f32.decFz fz (b ^^^ 0x80000000).toNat]
def execFmul (f : Frame) (s : State) : Out :=
  s.fpOp (.fmul f) false 2 fun rm fz a b _ =>
    let x := f32.decFz fz a.toNat; let y := f32.decFz fz b.toNat
    let (r, e) := f32.product rm fz x y
    (r, { e with nv := e.nv || x.isSig || y.isSig })
def execFma (f : Frame) (s : State) : Out :=
  s.fpOp (.fma f) false 3 fun rm fz a b c =>
    f32.mulAdd rm fz [(f32.decFz fz a.toNat, f32.decFz fz b.toNat)] (f32.decFz fz c.toNat)
/-- The rounding field of `fmin` and `fmax` is 0; bit 3 is PN (R104). -/
def execFmin (f : Frame) (s : State) : Out :=
  s.fpOp (.fmin f) false 2 fun _ fz a b _ => f32.minMax fz false (f.bit 3) a.toNat b.toNat
def execFmax (f : Frame) (s : State) : Out :=
  s.fpOp (.fmax f) false 2 fun _ fz a b _ => f32.minMax fz true (f.bit 3) a.toNat b.toNat

/-- The conditions of R105 and whether NV is raised. -/
def fcond (c : Nat) (a b : FVal) : Bool × Bool :=
  let un := a.isNan || b.isNan
  let sig := a.isSig || b.isSig
  match c with
  | 0 => (!un && !a.lt b && !b.lt a, sig)
  | 1 => (un || a.lt b || b.lt a, sig)
  | 2 => (!un && a.lt b, un)
  | 3 => (!un && !b.lt a, un)
  | 4 => (!un && b.lt a, un)
  | 5 => (!un && !a.lt b, un)
  | 6 => (!un, sig)
  | _ => (un, sig)

def execFcmp (f : Frame) (s : State) : Out :=
  s.issueOnce (.fcmp f) fun iss t =>
    let (a, ta) := iss.fa false
    let (b, tb) := iss.fb false
    let fz := iss.x.fz
    let r := fun l : Fin 32 => fcond (f.mf 0 3) (f32.decFz fz (a l).toNat) (f32.decFz fz (b l).toNat)
    .next (iss.raise (iss.writePred t f.xd (fun l => (r l).1) (ta ||| tb)) (ta ||| tb) fun l => { nv := (r l).2 })

/-- Rounding to an integral value (R106). -/
def frnd (rm : Rm) (fz : Bool) (a : W32) : Nat × Exc :=
  match f32.decFz fz a.toNat with
  | .nan sig => (f32.nan, { nv := sig })
  | .inf s => (f32.sign s f32.infCode, {})
  | .num s v =>
    let t := v.toInt rm
    if t = 0 then (f32.sign s 0, {}) else (f32.encSat rm ⟨t, 0⟩, {})

def execFrnd (f : Frame) (s : State) : Out := s.fpOp (.frnd f) false 1 fun rm fz a _ _ => frnd rm fz a

/-- The class mask of a code (R107). -/
def fclass (F : Fmt) (code : Nat) : Nat :=
  match F.dec code with
  | .nan true => 0x100
  | .nan false => 0x200
  | .inf s => if s then 1 else 0x80
  | .num s v =>
    if v.isZero then (if s then 8 else 0x10)
    else if code % 2 ^ (F.eb + F.mb) < 2 ^ F.mb then (if s then 4 else 0x20)
    else if s then 2 else 0x40

/-- The class of A with its poison tag at bit 10; the result is never poisoned (R84, R107). -/
def execFclass (f : Frame) (s : State) : Out :=
  s.issueOnce (.fclass f) fun iss t =>
    let o := iss.x.oprA f false false
    let F := match f.vn with | 0 => f32 | 1 => f16 | _ => bf16
    .next (iss.writeLane t f.xd (fun l =>
      if o.tag.getLsbD l.val then 0x500 else BitVec.ofNat 32 (fclass F ((o.val l).toNat % 2 ^ F.width))) 0)

/-! ## Packed 16-bit (R108, R109) -/

def hfmt (f : Frame) : Fmt := if f.vn = 0 then f16 else bf16

def execHadd2 (f : Frame) (s : State) : Out :=
  let F := hfmt f
  s.fpOp (.hadd2 f) true 2 fun rm fz a b _ => packed fun h => F.sum rm fz false [F.decFz fz (half h a), F.decFz fz (half h b)]
def execHmul2 (f : Frame) (s : State) : Out :=
  let F := hfmt f
  s.fpOp (.hmul2 f) true 2 fun rm fz a b _ => packed fun h =>
    let x := F.decFz fz (half h a); let y := F.decFz fz (half h b)
    let (r, e) := F.product rm fz x y
    (r, { e with nv := e.nv || x.isSig || y.isSig })
def execHfma2 (f : Frame) (s : State) : Out :=
  let F := hfmt f
  s.fpOp (.hfma2 f) true 3 fun rm fz a b c => packed fun h =>
    F.mulAdd rm fz [(F.decFz fz (half h a), F.decFz fz (half h b))] (F.decFz fz (half h c))
/-- Bit 3 selects the maximum. -/
def execHmnx2 (f : Frame) (s : State) : Out :=
  let F := hfmt f
  s.fpOp (.hmnx2 f) true 2 fun _ fz a b _ => packed fun h => F.minMax fz (f.bit 3) false (half h a) (half h b)

/-- The BF16 dot-pair into FP32 (R109): C is an FP32 value. -/
def execBfma2 (f : Frame) (s : State) : Out :=
  s.issueOnce (.bfma2 f) fun iss t =>
    let (a, ta) := iss.fa true
    let (b, tb) := iss.fb true
    let (c, tc) := iss.fc false
    let fz := iss.x.fz
    let rm := iss.x.rm (f.mf 0 3)
    .next (iss.writeF t (ta ||| tb ||| tc) fun l =>
      let d := fun h v => bf16.decFz fz (half h v)
      f32.mulAdd rm fz [(d 0 (a l), d 0 (b l)), (d 1 (a l), d 1 (b l))] (f32.decFz fz (c l).toNat))

/-! ## Conversions (R110 to R118) -/

/-- One conversion of `cvt` (R112): the source in the low bits of a lane or pair. -/
def convert (st dt : Nat) (sat : Bool) (rm : Rm) (a : W64) : W64 × Exc :=
  if st < 8 then
    let v := tyVal st a
    if dt < 8 then (tyFit dt sat v, {})
    else
      let (r, e) := cvtFloat dt rm sat (.num (decide (v < 0)) ⟨v, 0⟩)
      (BitVec.ofNat 64 r, e)
  else
    let v := (fmtOf st).dec (a.toNat % 2 ^ (fmtOf st).width)
    if dt < 8 then cvtInt dt rm v
    else
      let (r, e) := cvtFloat dt rm sat v
      (BitVec.ofNat 64 r, e)

def execCvt (f : Frame) (s : State) : Out :=
  s.issueOnce (.cvt f) fun iss t =>
    let st := f.mf 8 4; let dt := f.mf 4 4
    let o := iss.x.laneOpr f.xa (decide (st = 6 ∨ st = 7))
    let r := fun l : Fin 32 => convert st dt (f.bit 3) (iss.x.rm (f.mf 0 3)) (o.val l)
    let t := if dt = 6 ∨ dt = 7 then iss.writePair t f.xd (fun l => (r l).1) o.tag
      else iss.writeLane t f.xd (fun l => (r l).1.setWidth 32) o.tag
    .next (iss.raise t o.tag fun l => (r l).2)

/-- `SRSEED` advances once (R114). -/
def Issue.advanceSeed (i : Issue) (s : State) : State :=
  s.modWarp i.w fun x => { x with fp := { x.fp with seed := (xs (x.fp.seed.setWidth 32)).setWidth 64 } }

def execCvtsr (f : Frame) (s : State) : Out :=
  s.issueOnce (.cvtsr f) fun iss t =>
    let o := iss.x.laneOpr f.xa false
    let seed := iss.x.fp.seed.setWidth 32
    .next (iss.advanceSeed (iss.writeF t o.tag fun l => cvtSr (f.mf 4 4) (srbits seed l.val) (f32.dec ((o.val l).toNat % 2 ^ 32))))

/-- Width of a packed element (R116). -/
def packWidth (dt : Nat) : Nat := if dt ≤ 10 then 16 else if dt ≤ 12 then 8 else 4

def execCvtpk (f : Frame) (s : State) : Out :=
  s.issueOnce (.cvtpk f) fun iss t =>
    let dt := f.mf 4 4
    let a := iss.x.laneOpr f.xa false
    let b := iss.x.laneOpr f.xb false
    let c : Opr := if f.bit 11 then iss.x.laneOpr f.xc false else { val := fun _ => 0, tag := 0 }
    let rm := iss.x.rm (f.mf 0 3)
    let n := packWidth dt
    let at_ := 2 * n * f.mf 12 2
    let cv := fun v : W64 => cvtFloat dt rm (f.bit 3) (f32.dec (v.toNat % 2 ^ 32))
    .next (iss.writeF t (a.tag ||| b.tag ||| c.tag) fun l =>
      let (ra, ea) := cv (a.val l)
      let (rb, eb) := cv (b.val l)
      let m : W64 := BitVec.ofNat 64 ((2 ^ (2 * n) - 1) * 2 ^ at_)
      let keep := ((c.val l) &&& ~~~m).toNat % 2 ^ 32
      (keep + (ra + rb * 2 ^ n) * 2 ^ at_, ea.or eb))

/-- The exact value of `A` plus a BF16 residual, or none where either is a NaN or an infinity (R117, R118). -/
def mxInput (a : W64) (b : Option W64) : Option Dy :=
  match f32.dec (a.toNat % 2 ^ 32), b.map fun v => bf16.dec (v.toNat % 2 ^ 16) with
  | .num _ v, none => some v
  | .num _ v, some (.num _ u) => some (v.add u)
  | _, _ => none

/-- One block over the active lanes (R117, R118): results of each lane, 64 bits with the residual in the high half, and the exceptions. -/
def mxLanes (dt : Nat) (act : Mask) (a : Fin 32 → W64) (b : Option (Fin 32 → W64)) : (Fin 32 → W64) × Exc :=
  let ls := lanesOf act
  let ins := ls.map fun l => mxInput (a l) (b.map (· l))
  if ins.any (·.isNone) then (fun _ => 0xFF00, { nv := true })
  else
    let vs := ins.filterMap id
    let q := mxQuant dt (fun _ neg => roundShift .rne neg) vs
    let res := fun i : Nat =>
      let v := vs.getD i ⟨0, 0⟩
      let e := q.elems.getD i 0
      let low := (if q.clamped then 0x10000 else 0) + q.code * 256 + e
      BitVec.ofNat 64 (low + 2 ^ 32 * (if b.isSome then bf16.encSat .rne (v.sub (mxValue dt q.code e)) else 0))
    (fun l => res (ls.idxOf l), { of_ := q.clamped, nx := q.inexact })

def execCvtmx (f : Frame) (s : State) : Out :=
  s.issueOnce (.cvtmx f) fun iss t =>
    let dt := f.mf 4 4
    let ef := f.bit 0
    let a := iss.x.laneOpr f.xa false
    let b := iss.x.laneOpr f.xb false
    let tag := if (a.tag ||| (if ef then b.tag else 0)) &&& iss.act = 0 then 0 else allLanes
    let (r, e) := mxLanes dt iss.act a.val (if ef then some b.val else none)
    let t := if ef then iss.writePair t f.xd r tag else iss.writeLane t f.xd (fun l => (r l).setWidth 32) tag
    .next (iss.raise t tag fun _ => e)

end Sys2Proof.Machine
end

