-- ==== Sys2Proof/Machine/Access.lean ====
section
/-! DEFINITION. Accesses of a warp to memory: where a lane's bytes lie (R199, R202, R206, R305, R343, R346), what a load, store or atomic does to
them (R194, R196, R204, R207, R352), the order in which accesses perform (R349, R366 to R375, R400), and the operand log (R165 to R169). -/

namespace Sys2Proof.Machine

/-! ## Words (R196, R204) -/

/-- What the lanes of one instruction write to one 64-bit word, in ascending lane order: byte keys and bytes, and the poison mark that the word takes. -/
def wordWrite (w : Nat) (ls : List (List Nat × List Byte × Bool)) (word : Nat) : Buffered :=
  let r := ls.foldl (fun (r : Tbl Byte × List Nat × Option Bool) l =>
    let here := (l.1.zip (if l.2.2 then poisonBytes l.1 else l.2.1)).filter fun p => p.1 / 8 == word
    if here.isEmpty then r
    else
      let bytes := here.foldl (fun (t : Tbl Byte) p => t.set p.1 p.2) r.1
      if l.2.2 then (bytes, [], some true)
      else
        let cov := here.foldl (fun (c : List Nat) p => setInsert c p.1) r.2.1
        (bytes, cov, if cov.length = 8 then some false else r.2.2)) ([], [], none)
  { w := w, keys := r.1.keys, data := r.1.vals, mark := r.2.2 }

/-- The words that lanes of one instruction write (R204, R349): keys, bytes and whether the data is tagged, lane by lane. -/
def wordWrites (w : Nat) (ls : List (List Nat × List Byte × Bool)) : List Buffered :=
  (wordsOf (ls.flatMap (·.1))).map (wordWrite w ls)

def State.applyWord (s : State) (b : Buffered) : State :=
  let s := s.writeBytes b.keys b.data
  match b.mark, b.keys.head? with
  | some m, some k => s.setMark (k / 8) m
  | _, _ => s

/-! ## The scratchpad write buffer (R210) -/

/-- The scratchpad as lane loads of a core see it: the buffer over the banks. -/
def State.portView (s : State) (core : Nat) : State := (s.core core).wbuf.foldl State.applyWord s

/-- The cluster-shared slice of a core as lane accesses see it: its buffer over the banks (R210, R306). -/
def State.sliceView (s : State) (core : Nat) : State := (s.core core).csbuf.foldl State.applyWord s

/-- The oldest entry of a core's scratchpad buffer reaches its bank. -/
def State.drainOne (s : State) (core : Nat) : State :=
  match (s.core core).wbuf with
  | b :: r => (s.modCore core fun c => { c with wbuf := r }).applyWord b
  | [] => s

/-- The oldest entry of a slice's buffer reaches its bank. -/
def State.drainShared (s : State) (core : Nat) : State :=
  match (s.core core).csbuf with
  | b :: r => (s.modCore core fun c => { c with csbuf := r }).applyWord b
  | [] => s

/-- Everything in a core's two buffers reaches the banks. -/
def State.drainAll (s : State) (core : Nat) : State :=
  let s := (s.core core).wbuf.foldl (fun s _ => s.drainOne core) s
  (s.core core).csbuf.foldl (fun s _ => s.drainShared core) s

/-- Lane-path writes enter the buffer, which holds 64 words. -/
def State.bufferWords (s : State) (core : Nat) (bs : List Buffered) : State :=
  bs.foldl (fun s b =>
    let s := if 64 ≤ (s.core core).wbuf.length then s.drainOne core else s
    s.modCore core fun c => { c with wbuf := c.wbuf ++ [b] }) s

/-- Lane-path writes enter the buffer of a slice, which holds 64 words (R210). -/
def State.bufferShared (s : State) (core : Nat) (bs : List Buffered) : State :=
  bs.foldl (fun s b =>
    let s := if 64 ≤ (s.core core).csbuf.length then s.drainShared core else s
    s.modCore core fun c => { c with csbuf := c.csbuf ++ [b] }) s

/-- The cores whose slices a warp of a core reaches (R304). -/
def sliceCores (core : Nat) (straddle : Bool) : List Nat :=
  let cl := clusterOf core
  (if straddle then [cl, partner cl] else [cl]).flatMap fun c => (List.range 4).map (coreIn c)

/-- The core whose cluster-shared slice holds a key. -/
def sliceOwner (k : Nat) : Nat := (k - 2 ^ 50) / 2 ^ 17

/-- Drains the buffers of slices for a write of the transfer unit: through the youngest entry for one of its words (R210, R309). -/
def State.drainSlices (s : State) (ks : List Nat) : State :=
  ((ks.map sliceOwner).eraseDups).foldl (fun s core =>
    let q := (s.core core).csbuf
    let n := (q.reverse.dropWhile fun b => !b.keys.any fun k => ks.any fun j => j / 8 == k / 8).length
    (List.range n).foldl (fun s _ => s.drainShared core) s) s

/-- Drains the buffer through the youngest entry that holds a byte of these keys (R210). -/
def State.drainFor (s : State) (core : Nat) (ks : List Nat) : State :=
  let q := (s.core core).wbuf
  let n := (q.reverse.dropWhile fun b => !b.keys.any fun k => ks.any fun j => j / 8 == k / 8).length
  (List.range n).foldl (fun s _ => s.drainOne core) s

/-! ## Where a lane's bytes lie -/

/-- Physical place of byte `a` of an allocation under a rotation code (R202). -/
def rotated (rot a : Nat) : Nat :=
  let row := a / 512
  let r := if rot = 0 then 0 else row % 2 ^ rot * 2 ^ (7 - rot)
  row * 512 + ((a / 4 % 128) ^^^ r) * 4 + a % 4

/-- The keys of `n` scratchpad bytes of a warp from `a`. -/
def scratchKeys (core base rot a n : Nat) : List Nat := (List.range n).map fun i => scratchKey core (base + rotated rot (a + i))

/-- The core whose slice a cluster-shared address names, or none where the address is invalid (R305). -/
def sliceCore (core : Nat) (straddle : Bool) (size a n : Nat) : Option Nat :=
  if 2 ^ 20 ≤ a || (a / 2 ^ 19 % 2 = 1 && !straddle) || size * 2048 < a % 2 ^ 17 + n then none
  else
    let cl := clusterOf core
    let cl := if straddle && halfOf cl != a / 2 ^ 19 % 2 then partner cl else cl
    some (coreIn cl (a / 2 ^ 17 % 4))

/-- The virtual address of byte `o` of a lane's slice (R199). -/
def Warp.sliceVa (x : Warp) (lane o : Nat) : Nat := x.lprivBase.toNat * 4096 + o / 4 * 128 + 4 * lane + o % 4

/-- Where an access of a lane goes: byte keys, another node, or a fault with its address; `now` says that it fails at once (R197). -/
inductive Reach where
  | keys (ks : List Nat)
  | node (n : Nat)
  | fault (code va : Nat) (now : Bool)

/-- The permission that an operation needs (R391). -/
def AccOp.perm : AccOp → Nat
  | .load _ => 0
  | .store => 1
  | _ => 2

/-- The address of the first byte as translation sees it. -/
def Warp.accVa (x : Warp) (a : Access) (l : LaneAcc) : Nat :=
  match a.space with | .slice => x.sliceVa l.lane l.addr | _ => l.addr

/-- An access that may not leave the node: the lane-private slice and windows, `redg.det`, and atomics to another pod (R508). -/
def State.staysHome (s : State) (a : Access) (node : Nat) : Bool :=
  a.space != .global || (match a.op with
    | .det .. => true
    | .atomic _ => node / 1024 != s.nodeid.toNat / 1024
    | _ => false)

/-- Keys of an access that another node, or this one, serves as the target of a fabric-remote page (R507): the process whose job matches. -/
def State.serveVa (s : State) (job : W32) (va n perm : Nat) : Except Nat (List Nat) :=
  match s.procs.find? fun p => p.2.fjob.getLsbD 63 && p.2.fjob.setWidth 32 == job with
  | none => .error 2
  | some (p, _) => match s.walk p va with
    | .fault c => .error c
    | .leaf e _ => if pteTier e = 3 then .error 1 else if permits perm e then .ok (span (leafKey e va) n) else .error 2

/-- Translation of a lane of a global, lane-private or window access (R393, R507, R508, R514). -/
def State.reachVa (s : State) (x : Warp) (a : Access) (l : LaneAcc) : Reach × State :=
  let va := x.accVa a l
  match s.translate a.core a.proc va a.op.perm with
  | (.fault c, t) => (.fault c va false, t)
  | (.leaf e _, t) =>
    if pteTier e = 3 then
      let job := ((s.proc? a.proc).map (·.fjob)).getD 0
      let n := leafNode e
      (if s.staysHome a n then .fault 2 va true
       else if !job.getLsbD 63 then .fault 2 va false
       else if n = s.nodeid.toNat then (match s.serveVa (job.setWidth 32) va a.width a.op.perm with
         | .ok ks => .keys ks
         | .error c => .fault c va false)
       else if !s.pathUp n then .fault 7 va true
       else .node n, t)
    else (.keys ((List.range a.width).map fun i =>
      leafKey e (match a.space with | .slice => x.sliceVa l.lane (l.addr + i) | _ => va + i)), t)

/-- The place in host memory of an address that a process uses: its request carries the process's PASID (R484). -/
def State.hostPlace (s : State) (p a : Nat) : Nat :=
  Config.hostPage (((s.proc? p).map (·.pasid)).getD 0) (a / 4096) % 2 ^ 52 * 4096 + a % 4096

/-- Where a lane's bytes are, by space. -/
def State.reachOf (s : State) (x : Warp) (a : Access) (l : LaneAcc) : Reach × State :=
  match a.space with
  | .scratch =>
    if x.spwin * 2048 < l.addr + a.width then (.fault 2 l.addr true, s)
    else (.keys (scratchKeys a.core x.spbase a.rot l.addr a.width), s)
  | .cluster => match sliceCore a.core x.straddle x.cswin l.addr a.width with
    | some c => (.keys (span (sliceKey c (x.csbase + l.addr % 2 ^ 17)) a.width), s)
    | none => (.fault 2 l.addr true, s)
  | .grotto =>
    let g := ((s.proc? a.proc).map (·.grwin)).getD 0
    let o := l.addr % 2 ^ 25
    if 2 ^ 27 ≤ l.addr || bits g 32 10 * 65536 < o + a.width then (.fault 2 l.addr true, s)
    else (.keys (span (grottoKey (l.addr / 2 ^ 25) (bits g 16 9 * 65536 + o)) a.width), s)
  | .host => (.keys (span (hostKey (s.hostPlace a.proc l.addr)) a.width), s)
  | .slice => if x.lprivSize * 64 < l.addr + a.width then (.fault 2 l.addr true, s) else s.reachVa x a l
  | _ => if 2 ^ 57 ≤ l.addr then (.fault 2 l.addr true, s) else s.reachVa x a l

/-- Lanes of an access that have neither performed nor failed. -/
def Access.todo (a : Access) : List LaneAcc :=
  a.lanes.filter fun l => !(a.done.any fun d => d.1 == l.lane) && !(a.failed.any fun d => d.1 == l.lane)

/-- Every lane translated, or the first lane that faults: a faulting instruction is all-or-nothing (R165). -/
def State.resolve (s : State) (x : Warp) (a : Access) : (Except (Nat × Nat × Bool) (List LaneAcc)) × State :=
  a.lanes.foldl (fun (r : (Except (Nat × Nat × Bool) (List LaneAcc)) × State) l =>
    match r.1 with
    | .error e => (.error e, r.2)
    | .ok ls =>
      if a.done.any fun d => d.1 == l.lane then (.ok (ls ++ [l]), r.2)
      else match r.2.reachOf x a l with
      | (.keys ks, t) => (.ok (ls ++ [{ l with keys := ks, node := none }]), t)
      | (.node n, t) => (.ok (ls ++ [{ l with keys := [], node := some n }]), t)
      | (.fault c va now, t) => (.error (c, va, now), t)) (.ok [], s)

/-- The page of a lane in its space, as a range (R166); an address without a leaf counts for a page of 4 KiB (log entry 85). -/
def State.pageOf (s : State) (x : Warp) (a : Access) (l : LaneAcc) : Nat × Nat :=
  let va := x.accVa a l
  match a.space with
  | .global | .slice | .window =>
    (match s.walk a.proc va with
     | .leaf e _ => (va / szBytes (pteSz e) * szBytes (pteSz e), szBytes (pteSz e))
     | .fault _ => (va / 4096 * 4096, 4096))
  | _ => (va / 4096 * 4096, 4096)

/-- Two accesses share a page of one space (R166, R169). -/
def State.sharePage (s : State) (x : Warp) (a b : Access) : Bool :=
  a.space == b.space &&
    a.todo.any fun l => b.todo.any fun m =>
      let (p, n) := s.pageOf x a l
      let (q, k) := s.pageOf x b m
      p < q + k && q < p + n

/-! ## Values -/

/-- The register words of a load result under its width code (R194). -/
def loadWords (v : Nat) (bs : List Byte) : List W32 :=
  let n := ofBytes bs
  match v with
  | 1 => [BitVec.ofNat 32 n, BitVec.ofNat 32 (n / 2 ^ 32)]
  | 2 => (List.range 4).map fun i => BitVec.ofNat 32 (n / 2 ^ (32 * i))
  | 4 => [(BitVec.ofNat 16 n).signExtend 32]
  | 6 => [(BitVec.ofNat 8 n).signExtend 32]
  | _ => [BitVec.ofNat 32 n]

/-- The uniform words of a load result (R206, R346). -/
def loadUnis (v : Nat) (bs : List Byte) : List W64 :=
  let n := ofBytes bs
  match v with
  | 2 => [BitVec.ofNat 64 n, BitVec.ofNat 64 (n / 2 ^ 64)]
  | 4 => [(BitVec.ofNat 16 n).signExtend 64]
  | 6 => [(BitVec.ofNat 8 n).signExtend 64]
  | _ => [BitVec.ofNat 64 n]

/-- The width code by which a result is extended. -/
def AccOp.code (o : AccOp) (width : Nat) : Nat := match o with | .load v => v | _ => if width = 8 then 1 else 0

/-- What the destination of an access receives once every lane has performed. -/
def Access.puts (a : Access) : List Put :=
  let v := a.op.code a.width
  match a.dest with
  | .none => []
  | .lane n count =>
    if n = 255 then []
    else ((List.range count).filter fun i => n + i != 255).map fun i =>
      let get := fun l : Fin 32 => (a.done.find? fun d => d.1 == l.val)
      Put.x (n + i) (maskOf fun l => (get l).isSome)
        (Vector.ofFn fun l => match get l with
          | some d => if d.2.2 then poison32 else (loadWords v d.2.1).getD i 0
          | none => 0)
        (maskOf fun l => match get l with | some d => d.2.2 | none => false)
  | .uni n count =>
    match a.done with
    | d :: _ => (List.range count).map fun i => if d.2.2 then Put.k (n + i) poison64 true else Put.k (n + i) ((loadUnis v d.2.1).getD i 0) false
    | [] => []

/-- The new value of an atomic (R207). -/
def atomicNew (aop width : Nat) (m b c : Nat) : Nat :=
  let w := 8 * width
  let lt := fun x y : Nat => decide ((BitVec.ofNat w x).toInt < (BitVec.ofNat w y).toInt)
  match aop with
  | 0 => (m + b) % 2 ^ w
  | 1 => if lt b m then b else m
  | 2 => if lt m b then b else m
  | 3 => Nat.min m b
  | 4 => Nat.max m b
  | 5 => m &&& b
  | 6 => m ||| b
  | 7 => m ^^^ b
  | 8 => b
  | 9 => if m = b then c else m
  | _ => (fadd32 (BitVec.ofNat 32 m) (BitVec.ofNat 32 b)).toNat

/-! ## Which access may perform -/

/-- Two lanes may touch a common byte: of `n` and `k` bytes in one space of one process, or at one place; or the requests of one warp go to one line of another
node, on one path (R507). -/
def LaneAcc.meets (l m : LaneAcc) (same path : Bool) (n k : Nat) : Bool :=
  l.keys.any m.keys.contains || (same && l.addr < m.addr + k && m.addr < l.addr + n) ||
    (path && l.node.isSome && l.node == m.node && l.addr / 256 == m.addr / 256)

/-- Lanes of an access that have not performed. -/
def Access.left (a : Access) : List LaneAcc := a.lanes.filter fun l => !(a.done.any fun d => d.1 == l.lane)

/-- A lane with its bytes at the places where their lines are now (R400). -/
def State.placed (s : State) (l : LaneAcc) : LaneAcc := { l with keys := l.keys.map s.redirect }

/-- Lanes of one access may touch bytes of what another has left. -/
def State.meets (s : State) (a : Access) (ls : List LaneAcc) (b : Access) : Bool :=
  b.left.any fun m => ls.any fun l => (s.placed l).meets (s.placed m) (a.space == b.space && a.proc == b.proc) (a.w == b.w) a.width b.width

/-- A store to global memory, plain or releasing at `.wp` or `.co` (R375). -/
def Access.plain (a : Access) : Bool := a.op == .store && a.space == .global && (match a.rel with | some r => r ≤ 1 | none => true)

/-- A deterministic update. -/
def Access.isDet (a : Access) : Bool := match a.op with | .det .. => true | _ => false

/-- An access that reads: a load or an atomic. -/
def Access.reads (a : Access) : Bool := match a.op with | .load _ => true | .atomic _ => true | _ => false

/-- The accesses of a warp that wait for the fault service: those of its operand log, and a stalled fifth one (R165, R167). -/
def Warp.logged (x : Warp) : List Access := x.log.map (·.2.acc) ++ x.fifth.toList

/-- Those of the warp in a slot. -/
def State.loggedOf (s : State) (w : Nat) : List Access := (s.warp? w).elim [] Warp.logged

/-- The loads and atomics of a warp with numbers below this have read: none is on its way, or waits for the fault service in its place (R366). -/
def State.loadsDone (s : State) (w upto : Nat) : Bool :=
  s.flights.all (fun f => f.w != w || upto ≤ f.id || !f.reads) && (s.loggedOf w).all fun b => upto ≤ b.id || !b.reads

/-- No earlier access of the warp of an access that passes a test waits for the fault service. -/
def State.logClear (s : State) (a : Access) (p : Access → Bool) : Bool := (s.loggedOf a.w).all fun b => a.id ≤ b.id || !p b

/-- A global write that its own core may read before its home performs it (R375): at once where it does not release or releases at `.wp`; at `.co` once the
warp's earlier accesses have performed there, which earlier stores of this kind have. -/
def State.early (s : State) (f : Access) : Bool :=
  f.plain && s.loadsDone f.w (Nat.min f.after f.id) &&
  (f.ord < 2 || f.scope == 0 || (s.flights.all (fun g => g.w != f.w || f.id ≤ g.id || g.plain) && s.logClear f fun _ => true))

/-- An access to other nodes alone has been accepted by the fabric port of its die: it goes as soon as what its own release orders before it has performed
(R510; log entry 69). -/
def State.accepted (s : State) (f : Access) : Bool :=
  f.left.all (·.node.isSome) && s.loadsDone f.w (Nat.min f.after f.id) &&
  (f.ord < 2 || f.scope == 0 || (s.flights.all (fun g => g.w != f.w || f.id ≤ g.id) && s.logClear f fun _ => true))

/-- A pending access has performed at a scope (R208, R510). -/
def State.performedAt (s : State) (a : Access) (scope : Nat) : Bool := scope == 0 || (scope == 1 && (s.early a || s.accepted a))

/-- No cluster-shared write of a warp waits in the buffer of a slice. -/
def State.sharedDrained (s : State) (w : Nat) : Bool := s.cores.all fun c => c.2.csbuf.all fun b => b.w != w

/-- No `rfree.init` of a warp is on its way to its ring (R322). -/
def State.initsDone (s : State) (w : Nat) : Bool :=
  s.clusters.all fun c => c.2.msgs.all fun m => m.w != w || (match m.op with | .init .. => false | _ => true)

/-- Stores of its core that a warp may have read before their homes performed them have performed, up to an access number (R368): what a release at `.cl` or
wider takes to other cores. -/
def State.seenDone (s : State) (w upto : Nat) : Bool :=
  (s.warp? w).all fun x => s.flights.all fun f => f.core != coreOf w || f.w == w || Nat.min upto x.sawMark ≤ f.id || !s.early f

/-- The scope at which an access releases before it performs: that of `.rel`, and `.dv` for a deterministic update, whose fold takes what its warp wrote
before to every member (R349, R369). A release at `.wp` performs as one at `.co` does, since a promotion can widen it (R377). -/
def Access.releases (a : Access) : Option Nat := if a.isDet then some 4 else if 2 ≤ a.ord then some (Nat.max a.scope 1) else none

/-- A write to global memory that a fence at `.wp` makes releasing performs after the warp's writes before the fence have performed at `.co`, since a promotion can widen it
(R369, R377). -/
def State.fenceHeld (s : State) (a : Access) : Bool :=
  a.space == .global && a.writes && a.ord < 2 && a.rel == some 0 && s.flights.any fun f => f.w == a.w && f.id < Nat.min a.after a.id && f.writes && !s.performedAt f 1

/-- A release waits until every earlier access of its warp has performed at its scope (R208, R349, R372); an earlier access that lies in the operand
log has not. -/
def State.releaseReady (s : State) (a : Access) : Bool :=
  s.loadsDone a.w (Nat.min a.after a.id) && !s.fenceHeld a &&
  match a.releases with
  | none => true
  | some scope =>
    s.flights.all (fun f => f.w != a.w || a.id ≤ f.id || (a.isDet && f.isDet) || s.performedAt f scope) &&
    (scope ≤ 1 || (s.sharedDrained a.w && s.seenDone a.w a.id)) && s.initsDone a.w && s.logClear a fun b => !(a.isDet && b.isDet)

/-- The writes of lanes as word writes, at the places where their lines are now. -/
def State.laneWords (s : State) (a : Access) (ls : List LaneAcc) : List Buffered :=
  wordWrites a.w (ls.map fun l => (l.keys.map s.redirect, l.data, l.tag))

/-- Global memory as the agents of a core see it: the core's early writes over the homes (R375). -/
def State.coreView (s : State) (core : Nat) (p : Access → Bool) : State :=
  s.flights.foldl (fun t f => if f.core == core && s.early f && p f then (s.laneWords f f.todo).foldl State.applyWord t else t) s

/-- The cores that the promotion record of a line lists (R378). -/
def State.promoted (s : State) (k : Nat) : List Nat := s.promotions.getD (k / 256) []

/-- A core has early writes older than `upto` that their homes have not performed. -/
def State.coreOwes (s : State) (core upto : Nat) : Bool := s.flights.any fun f => f.core == core && f.id < upto && s.early f

/-- A release to a line may enter its promotion record: a fifth core waits until the oldest one has been flushed, of what it had written by then (R378). -/
def State.recordOpen (s : State) (core : Nat) (rel : Option Nat) (k upto : Nat) : Bool :=
  match rel, s.promoted (s.redirect k) with
  | some r, c :: cs => 1 < r || (c :: cs).contains core || cs.length < 3 || !s.coreOwes c upto
  | _, _ => true

/-- The place of a core's access among those that reach one home word in one clk: the home's own die first, then the dies in ascending order from
`mod(CLOCK, 4)` (R362). -/
def State.homeRank (s : State) (core k : Nat) : Nat :=
  if dieOf core = keyDie (s.redirect k) then 0 else 1 + (dieOf core + 4 - s.clock % 4) % 4

/-- No access that comes later in that order has been served at one of the words in this clk. -/
def State.portsOpen (s : State) (ks : List Nat) (rank : Nat) : Bool :=
  (wordsOf (ks.map s.redirect)).all fun w => s.ports.all fun p => p.1 != w || p.2 ≤ rank

/-- Words are served in this clk. -/
def State.notePorts (s : State) (ks : List Nat) (rank : Nat) : State :=
  { s with ports := s.ports ++ (wordsOf (ks.map s.redirect)).map fun w => (w, rank) }

/-- The bytes of lanes lie at homes of global memory or the Grotto. -/
def atHome (ls : List LaneAcc) : Bool := (ls.head?.bind (·.keys.head?)).any fun k => isGlobal k || isGrotto k

/-- An access may reach the cluster-shared slice of its lanes in this clk (R309). -/
def State.slotOpen (s : State) (a : Access) (ls : List LaneAcc) : Bool :=
  a.space != .cluster || (match ls.head?.bind (·.keys.head?) with
    | some k => let home := sliceOwner k; mayServe (s.core home).served s.clock (arrivalRank s.clock (clusterOf home) a.core)
    | none => true)

/-- Lanes of an access are in order: same-warp order on a common byte, order of one core's writes to it, releases, locked lines, the order of accesses
that reach a slice in one clk, and the flush that a fifth core's release needs (R366, R368, R349, R400, R309, R378). -/
def State.inOrder (s : State) (a : Access) (ls : List LaneAcc) : Bool :=
  let older := s.flights.filter fun f => f.id < a.id
  older.all (fun f => !((f.w == a.w || (f.core == a.core && f.writes && a.writes)) && s.meets a ls f)) &&
  ((s.loggedOf a.w).all fun b => a.id ≤ b.id || !s.meets a ls b) &&
  s.releaseReady a && s.slotOpen a ls &&
  (!a.writes || ls.all fun l => l.keys.all fun k => !s.lockedLine k) &&
  (ls.head?.bind (·.keys.head?)).all fun k => s.recordOpen a.core a.rel k a.id

/-- Lanes of an access may perform at their home now: they are in order, and no access that comes later in the order of this clk has been served at one of
their words (R362). -/
def State.mayPerform (s : State) (a : Access) (ls : List LaneAcc) : Bool :=
  s.inOrder a ls &&
  (ls.head?.bind (·.keys.head?)).all fun k => !atHome ls || s.portsOpen (ls.flatMap (·.keys)) (s.homeRank a.core k)

/-- The lanes that one step at a home performs: those of the first line, or of the first node; a host request is one lane, and all lanes of one word for an
atomic (R338, R352, R367). -/
def Access.chunk (a : Access) : List LaneAcc :=
  match a.todo with
  | [] => []
  | l :: r =>
    if a.space == .host then l :: r.filter fun m => (match a.op with | .atomic _ => true | _ => false) && m.keys == l.keys
    else match l.keys.head? with
    | some k => l :: r.filter fun m => match m.keys.head? with | some j => j / 256 == k / 256 | none => false
    | none => l :: r.filter fun m => m.node == l.node

/-! ## The L1 (R341, R348, R375) -/

def State.l1Line? (s : State) (core : Nat) (asid : BitVec 16) (va : Nat) : Option L1Line :=
  (s.core core).l1.find? fun l => l.asid == asid && l.line == va / 128

/-- The poison marks of the 16 words of a line. -/
def State.lineMarks (s : State) (ks : List Nat) : BitVec 16 :=
  (List.range 16).foldl (fun (m : BitVec 16) i => if s.marked (ks.getD (8 * i) 0) then m ||| (1#16 <<< i) else m) 0

/-- Brings the 128 bytes around a key into the L1, as their home holds them. -/
def State.l1Fill (s : State) (core : Nat) (asid : BitVec 16) (va key : Nat) : State :=
  let ks := (span (key - va % 128) 128).map s.redirect
  let line : L1Line := { asid := asid, line := va / 128, data := s.bytes ks, marks := s.lineMarks ks }
  (s.modCore core fun c => { c with l1 := line :: c.l1.filter fun l => !(l.asid == asid && l.line == va / 128) }).l1Trim core

/-- Discards a core's copies of the lines of lanes. -/
def State.l1Drop (s : State) (core : Nat) (asid : BitVec 16) (vas : List Nat) : State :=
  s.modCore core fun c => { c with l1 := c.l1.filter fun l => !(l.asid == asid && vas.any fun v => v / 128 == l.line) }

/-- A word write to one L1 line, by virtual address. -/
def L1Line.apply (l : L1Line) (b : Buffered) : L1Line :=
  match b.keys.head? with
  | none => l
  | some k =>
    if k / 128 != l.line then l
    else
      let data := (b.keys.zip b.data).foldl (fun (d : List Byte) p => d.set (p.1 % 128) p.2) l.data
      let bit : BitVec 16 := 1#16 <<< (k % 128 / 8)
      { l with data := data, marks := match b.mark with | some true => l.marks ||| bit | some false => l.marks &&& ~~~bit | none => l.marks }

/-- A store that its home performs updates its own core's copies (R341). -/
def State.l1Update (s : State) (a : Access) (ls : List LaneAcc) : State :=
  if a.space != .global || a.op != .store then s
  else
    let asid := s.asid a.proc
    let ws := wordWrites a.w ((ls.filter fun l => l.node.isNone).map fun l => (span l.addr a.width, l.data, l.tag))
    s.modCore a.core fun c => { c with l1 := c.l1.map fun l => if l.asid == asid then ws.foldl L1Line.apply l else l }

/-! ## Performing lanes -/

/-- What lanes have read, in lane order, and whether a poisoned word was met. -/
structure Got where
  done : List (Nat × List Byte × Bool) := []
  psn : Bool := false

/-- A load of one lane in a view of memory. -/
def readLane (v : State) (ks : List Nat) (l : LaneAcc) (g : Got) : Got :=
  if v.anyMarked ks then { done := g.done ++ [(l.lane, [], true)], psn := true }
  else { g with done := g.done ++ [(l.lane, v.bytes ks, false)] }

/-- One atomic step (R207): poison without a write on a tagged operand or a poisoned word. -/
def atomicLane (a : Access) (aop : Nat) (view : State → State) (write : State → List Nat → List Byte → State) (ks : List Nat)
    (l : LaneAcc) (g : Got × State) : Got × State :=
  let v := view g.2
  let marked := v.anyMarked ks
  if marked || l.tag then ({ done := g.1.done ++ [(l.lane, [], true)], psn := g.1.psn || marked }, g.2)
  else
    let old := v.bytes ks
    ({ g.1 with done := g.1.done ++ [(l.lane, old, false)] },
     write g.2 ks (toBytes a.width (atomicNew aop a.width (ofBytes old) (ofBytes l.data) (ofBytes l.new))))

/-- Lanes of an access to scratchpad, at issue (R198, R207, R210). -/
def State.performPort (s : State) (a : Access) (ls : List LaneAcc) : Got × State :=
  let view := fun s : State => s.portView a.core
  match a.op with
  | .load _ => (ls.foldl (fun g l => readLane (view s) l.keys l g) {}, s)
  | .atomic aop => ls.foldl (fun g l =>
      atomicLane a aop view (fun s ks bs => s.bufferWords a.core [{ w := a.w, keys := ks, data := bs, mark := none }]) l.keys l g) ({}, s)
  | _ => ({ done := ls.map fun l => (l.lane, [], false) }, s.bufferWords a.core (wordWrites a.w (ls.map fun l => (l.keys, l.data, l.tag))))

/-! ## Lane-private slices in the L1 (R198 to R200) -/

/-- The lines that a lane's bytes touch: virtual line, and key of the line's first byte. -/
def Warp.sliceSpots (x : Warp) (l : LaneAcc) : List (Nat × Nat) :=
  (l.keys.zipIdx.map fun k => let va := x.sliceVa l.lane (l.addr + k.2); (va / 128, k.1 - va % 128)).eraseDups

def State.sliceLine? (s : State) (core : Nat) (asid : BitVec 16) (line : Nat) : Option SliceLine :=
  (s.core core).slices.find? fun l => l.asid == asid && l.line == line

/-- Brings a slice line into the L1 where it is not there; its home counts the request (R405). -/
def State.fillSlice (s : State) (a : Access) (asid : BitVec 16) (spot : Nat × Nat) : State :=
  if (s.sliceLine? a.core asid spot.1).isSome then s
  else
    let ks := (span spot.2 128).map s.redirect
    let line : SliceLine := { w := a.w, asid := asid, line := spot.1, key := spot.2, data := s.bytes ks, marks := s.lineMarks ks }
    (((ks.headD 0 |> s.errorFound).modCore a.core fun c => { c with slices := line :: c.slices }).l1Trim a.core).sampleRequest spot.2 a.proc (spot.1 * 128) a.core

/-- Memory with the L1's slice lines in the places where their pages were mapped. -/
def State.overSlices (s : State) (a : Access) (asid : BitVec 16) (spots : List (Nat × Nat)) : State :=
  spots.foldl (fun t p => match s.sliceLine? a.core asid p.1 with
    | some l => (List.range 16).foldl (fun t i => t.setMark (p.2 / 8 + i) (l.marks.getLsbD i)) (t.writeBytes (span p.2 128) l.data)
    | none => t) s

/-- Lanes of an access to a lane-private slice, at issue: write-back and write-allocate in the L1 (R198, R200). -/
def State.performSlice (s : State) (x : Warp) (a : Access) (ls : List LaneAcc) : Got × State :=
  let asid := s.asid a.proc
  let spots := (ls.flatMap x.sliceSpots).eraseDups
  let s := spots.foldl (fun s p => s.fillSlice a asid p) s
  let v := s.overSlices a asid spots
  match a.op with
  | .load _ => (ls.foldl (fun g l => readLane v l.keys l g) {}, s)
  | _ =>
    let v := (wordWrites a.w (ls.map fun l => (l.keys, l.data, l.tag))).foldl State.applyWord v
    ({ done := ls.map fun l => (l.lane, [], false) },
     s.modCore a.core fun c => { c with slices := c.slices.map fun l => match spots.find? fun p => l.asid == asid && l.line == p.1 with
       | some p => { l with data := v.bytes (span p.2 128), marks := v.lineMarks (span p.2 128), dirty := true }
       | none => l })

/-- The promotion record after a release to a line (R378). -/
def State.noteRelease (s : State) (core : Nat) (rel : Option Nat) (k : Nat) : State :=
  match rel with
  | none => s
  | some r =>
    if !isGlobal k then s
    else if 2 ≤ r then { s with promotions := s.promotions.erase (k / 256) }
    else
      let cs := s.promoted k
      if cs.contains core then s
      else { s with promotions := s.promotions.set (k / 256) ((if 4 ≤ cs.length then cs.tail else cs) ++ [core]) }

/-- What lanes of a load see: the core's L1 line of each where there is one, else the home; over both the core's early writes, but for younger writes of the
same warp (R348, R366, R375). -/
def State.loadView (s : State) (a : Access) (ls : List LaneAcc) : State :=
  (ls.foldl (fun (t : State) l => match s.l1Line? a.core (s.asid a.proc) l.addr with
    | some c =>
      let ks := l.keys.map s.redirect
      let t := t.writeBytes ks ((c.data.drop (l.addr % 128)).take ks.length)
      ks.zipIdx.foldl (fun t k => t.setMark (k.1 / 8) (c.marks.getLsbD ((l.addr % 128 + k.2) / 8))) t
    | none => t) s).coreView a.core fun f => f.w != a.w || f.id < a.id

/-- Lanes of one line at their home (R348, R349, R352), or at another node. What they ask of the home is one request (R405; log entry 22); a load that the
L1 answers is none. -/
def State.performHome (s : State) (a : Access) (ls : List LaneAcc) : Got × State :=
  match ls.head?.bind (·.node) with
  | some _ =>
    ls.foldl (fun (g : Got × State) l =>
      match a.op with
      | .store => ({ g.1 with done := g.1.done ++ [(l.lane, [], false)] }, g.2)
      | _ => let (bs, t) := g.2.drawBytes a.width; ({ g.1 with done := g.1.done ++ [(l.lane, bs, false)] }, t)) ({}, s)
  | none =>
    let place := fun l : LaneAcc => l.keys.map s.redirect
    let key := (ls.head?.bind (·.keys.head?)).getD 0
    let touched := fun (t : State) (ws : List LaneAcc) =>
      ws.foldl (fun t l => (place l).head?.elim t t.afterWrite) ((ws.flatMap (·.keys)).foldl State.noteWrite t)
    let asid := s.asid a.proc
    let cached := (match a.op with | .load _ => true | _ => false) && ls.all fun l => (s.l1Line? a.core asid l.addr).isSome
    let home := sliceOwner (s.redirect key)
    let shared := a.space == .cluster
    let (g, s) : Got × State := match a.op with
      | .load _ =>
        let v := if isGlobal key then s.loadView a ls else if shared then s.sliceView home else s
        let g := ls.foldl (fun g l => readLane v (place l) l g) {}
        let t := ls.foldl (fun t l => (place l).head?.elim t t.errorFound) s
        (g, if isGlobal key && a.cp = 0 then ls.foldl (fun (t : State) l =>
            if (t.l1Line? a.core asid l.addr).isSome then t else t.l1Fill a.core asid l.addr (l.keys.headD 0)) t else t)
      | .store =>
        if shared then ({ done := ls.map fun l => (l.lane, [], false) }, s.bufferShared home (s.laneWords a ls))
        else ({ done := ls.map fun l => (l.lane, [], false) }, (touched ((s.laneWords a ls).foldl State.applyWord s) ls).l1Update a ls)
      | .atomic aop =>
        if shared then ls.foldl (fun g l => atomicLane a aop (fun s => s.sliceView home)
          (fun s ks bs => s.bufferShared home [{ w := a.w, keys := ks, data := bs, mark := none }]) (place l) l g) (({} : Got), s)
        else
          let (g, t) := ls.foldl (fun g l => atomicLane a aop id (fun s ks bs => s.writeBytes ks bs) (place l) l g) (({} : Got), s)
          let wrote := fun (l : LaneAcc) => g.done.any fun d => d.1 == l.lane && !d.2.2
          let t := (ls.filter fun l => !wrote l).foldl (fun t l => (place l).head?.elim t t.errorFound) t
          (g, (touched t (ls.filter wrote)).l1Drop a.core asid (ls.map (·.addr)))
      | .det .. => ({}, s)
    let s := if a.writes then s.noteRelease a.core a.rel (s.redirect key) else s
    let s := if shared then s.modCore home fun c => { c with served := (s.clock, arrivalRank s.clock (clusterOf home) a.core) } else s
    let s := if atHome ls && !cached then s.notePorts (ls.flatMap (·.keys)) (s.homeRank a.core key) else s
    (g, if isGlobal key && !cached then s.sampleRequest key a.proc ((ls.head?.map (·.addr)).getD 0) a.core else s)

/-! ## The operand log (R165 to R169) -/

def State.removeFlight (s : State) (id : Nat) : State := { s with flights := s.flights.filter fun f => f.id != id }

def insertFlight : List Access → Access → List Access
  | [], a => [a]
  | f :: r, a => if a.id < f.id then a :: f :: r else f :: insertFlight r a

def State.addFlight (s : State) (a : Access) : State := { s with flights := insertFlight s.flights a }

/-- The wait of a load or atomic that carries `.acq` ends (R348, R352): the acquire, after the flush that `.rp` asks for (R378). -/
def State.endAcquire (s : State) (a : Access) : State :=
  match s.warp? a.w with
  | none => s
  | some x =>
    if x.wait != some (.access a.id a.scope) then s
    else
      let cores := if a.rp then ((a.lanes.flatMap fun l => (l.keys.head?.map fun k => s.promoted (s.redirect k)).getD []).eraseDups).filter
          fun c => s.coreOwes c s.nextId else []
      if cores.isEmpty then (s.modWarp a.w fun x => { x with wait := none }).acquireFor a.w a.scope
      else s.modWarp a.w fun x => { x with wait := some (.flush cores s.nextId a.scope) }

/-- A watch whose read returned poison ends with a false result (R136). -/
def State.endWatch (s : State) (w : Nat) (res : Bool) : State :=
  match s.warp? w with
  | none => s
  | some x => match x.wait with
    | some (.watch q) =>
      let s := s.setWarp w (x.putPred q.pd q.acc.act (if res then allLanes else 0))
      let s := s.finishWait w
      match q.acq with
      | some scope => s.acquireFor w scope
      | none => s
    | _ => s

/-- What reads of an access leave behind: an acquire at `.cl` or wider that came after it is made again, so that later reads are not answered from lines that
were filled before it read (R375); and stores of its core that it may have read before their homes performed them are noted (R368). -/
def State.noteReads (s : State) (a : Access) : State :=
  match s.warp? a.w with
  | none => s
  | some x =>
    if !a.reads then s
    else
      let saw := ((s.flights.filter fun f => f.core == a.core && f.w != a.w && s.early f && s.meets a a.lanes f).map (·.id + 1)).foldl Nat.max x.sawMark
      (s.setWarp a.w { x with sawMark := saw }).acquire a.core (if a.id < x.dropMark then 2 else 0)

/-- An access completes with poison in the lanes that have not performed (R169): the destination full, `WSTAT.PSN` set, nothing written. Under
PTRAP a poison completion raises the trap of R172; `oplog.kill`, which R169 names beside it, does not (log entry 21). -/
def State.poisonFinish (s : State) (a : Access) (raises : Bool) : State :=
  let b := { a with done := a.done ++ a.left.map fun l => (l.lane, [], true) }
  let s := (s.placeRegs a.w a.dest.regs).1.modWarp a.w fun x =>
    let y := b.puts.foldl (fun x p => x.deliver s.clock p) x
    if raises then y.poisonSeen a.pc else { y with psn := true }
  match a.instr with
  | .waitaddr _ => s.endWatch a.w false
  | _ => s.endAcquire b

/-- Codes that fail at once (R168). -/
def failsAtOnce (code : Nat) : Bool := code == 3 || code == 5 || code == 7 || code == 8

/-- The kind of an access in a fault record (R396). -/
def AccOp.kind : AccOp → Nat
  | .load _ => 0
  | .store => 1
  | _ => 2

/-- Puts a fault of an access into operand-log entry `e` (R165, R168, R396). Codes above 64 are failures at another node, those above 32 faults that wait for
the service there (R507). A poison completion waits for entries of the pools where its registers lie in the spill region (R35). -/
def State.setEntry (s : State) (e : Nat) (a : Access) (code va : Nat) (now : Bool) : State :=
  let put := fun (s : State) (l : LogEntry) => s.modWarp a.w fun x => { x with log := x.log.set e l }
  if 64 ≤ code then put s { state := .failed, code := code - 64, acc := a }
  else if 32 ≤ code then put s { state := .pending, code := code - 32, acc := a, remote := true }
  else if code = 4 then
    let (t, room) := s.placeRegs a.w a.dest.regs
    if room then (t.modWarp a.w fun x => { x with log := x.log.erase e }).poisonFinish a true else put t { state := .pending, code := 4, acc := a }
  else if code = 3 then put (s.keyRecord (dieOf a.core) (s.asid a.proc) va a.op.kind (faultPlace a.w)) { state := .failed, code := 3, acc := a }
  else if now || failsAtOnce code then put s { state := .failed, code := code, acc := a }
  else if code = 6 then put s { state := .pending, code := code, acc := a }
  else match s.faultIn (dieOf a.core) (s.asid a.proc) va code a.op.kind (faultPlace a.w) (.log a.w e) with
    | (none, s) => put s { state := .failed, code := code, acc := a }
    | (some r, s) => put s { state := .pending, code := code, acc := a, record := some r }

/-- An access that waits for `.acq` makes its warp wait (R42, R348). -/
def Access.acquires (a : Access) : Bool := a.ord == 1 || a.ord == 3

/-- An access with every lane settled: its result sets out for its registers, or is written at once by a replay; failed lanes enter the operand log as
soon as it has room, with the code of the first of them (R165, R169; log entries 7 and 84); a host failure fails its entry (R350). -/
def State.settle (s : State) (a : Access) : State :=
  let s := s.noteReads a
  if !a.todo.isEmpty then { s with flights := s.flights.map fun f => if f.id == a.id then a else f }
  else match a.failed with
  | [] =>
    let (r, room) := if a.entry.isSome then s.placeRegs a.w a.dest.regs else (s, true)
    if !room then { r with flights := r.flights.map fun f => if f.id == a.id then a else f }
    else
    let s := r.removeFlight a.id
    match a.entry with
    | some e =>
      let s := s.modWarp a.w fun x =>
        let x := a.puts.foldl (fun x p => x.deliver s.clock p) { x with log := x.log.erase e }
        if a.psn then x.poisonSeen a.pc else x
      (s.endAcquire a).reap a.w
    | none =>
      let s := if a.puts.isEmpty && !a.psn then s
        else s.modWarp a.w fun x => { x with results := x.results ++ [{ id := a.id, puts := a.puts, psn := a.psn, pc := a.pc }] }
      (s.endAcquire a).reap a.w
  | (l, code) :: _ =>
    match s.warp? a.w with
    | none => s.removeFlight a.id
    | some x =>
      let va := ((a.lanes.find? fun m => m.lane == l).map (x.accVa a)).getD 0
      if x.marks.ended && x.marks.killed then (s.removeFlight a.id).reap a.w
      else
        let b := { a with failed := [], entry := none }
        match a.entry.orElse fun _ => x.log.free 0 4 with
        | some e => ((s.removeFlight a.id).setEntry e b code va (a.space == .host)).reap a.w
        | none =>
          if x.fifth.isSome then { s with flights := s.flights.map fun f => if f.id == a.id then a else f }
          else ((s.removeFlight a.id).modWarp a.w fun x =>
            { x with fifth := some b, wait := x.wait.orElse fun _ => some .fifth, kept := [] }).freeSlot a.w

/-- Why lanes fail at their home: a lost line, or the home itself (R403, R165, R168). -/
def State.keyFault (s : State) (k : Nat) : Option Nat := if s.lostLine k then some 4 else s.homeFault (s.redirect k)
def State.laneFault (s : State) (l : LaneAcc) : Option Nat := l.keys.head?.bind s.keyFault

/-- A scratchpad access may use the port: it has released, and no older access of its warp waits for the port (R198, R369). -/
def State.portReady (s : State) (a : Access) : Bool :=
  s.releaseReady a && s.flights.all fun f => f.w != a.w || f.space != .scratch || a.id ≤ f.id

/-- A scratchpad access performs. -/
def State.usePort (s : State) (a : Access) : State :=
  let (g, s) := s.performPort a a.todo
  s.settle { a with done := a.done ++ g.done, psn := a.psn || (g.psn && a.dest != .none) }

/-- Lanes of a load whose lines the L1 holds read them at issue, in program order (R198, R348). -/
def State.readHits (s : State) (a : Access) : Access :=
  match a.op with
  | .load _ =>
    if a.space != .global && a.space != .window then a
    else
      let ls := a.todo.filter fun l => l.node.isNone && (s.l1Line? a.core (s.asid a.proc) l.addr).isSome && (s.laneFault l).isNone && s.inOrder a [l]
      let v := s.loadView a ls
      let g := ls.foldl (fun g l => readLane v (l.keys.map s.redirect) l g) ({} : Got)
      { a with done := a.done ++ g.done, psn := a.psn || (g.psn && a.dest != .none) }
  | _ => a

/-- A resolved access performs at its port at once, or sets out for its homes. -/
def State.start (s : State) (a : Access) : State :=
  match a.space, s.warp? a.w with
  | .scratch, _ => if s.portReady a then s.usePort a else s.addFlight a
  | .slice, some x =>
    let missing := fun l : LaneAcc => (x.sliceSpots l).findSome? fun p =>
      if (s.sliceLine? a.core (s.asid a.proc) p.1).isSome then (s.keyFault p.2).filter fun c => c == 7 || c == 8 else s.keyFault p.2
    let bad := a.todo.filterMap fun l => (missing l).map fun c => (l.lane, c)
    let (g, t) := s.performSlice x a (a.todo.filter fun l => (missing l).isNone)
    let lost := (bad.filter fun b => b.2 == 4).map fun b => (b.1, ([] : List Byte), true)
    t.settle { a with done := a.done ++ g.done ++ lost, failed := a.failed ++ bad.filter fun b => b.2 != 4,
                      psn := a.psn || (g.psn && a.dest != .none) || !lost.isEmpty }
  | _, _ =>
    let a := s.readHits a
    if a.todo.isEmpty then s.settle a else s.addFlight a

/-- An access issues: it translates, and sets out, or faults into the operand log; a fifth fault stalls the warp (R165, R167). -/
def State.launchAccess (s : State) (a : Access) : State :=
  match s.warp? a.w with
  | none => s
  | some x =>
    let s := if a.acquires then s.modWarp a.w fun x => { x with wait := some (.access a.id a.scope) } else s
    match s.resolve x a with
    | (.ok ls, s) => s.start { a with lanes := ls }
    | (.error (code, va, now), s) =>
      match x.log.free 0 4 with
      | some e => s.setEntry e a code va now
      | none => s.modWarp a.w fun x => { x with fifth := some a, wait := some .fifth }

/-! ## Steps of accesses -/

/-- What another node makes of a request, which its own state decides (R507; log entry 15): performed; failed with code 2, 3, 7 or 8; a translation fault that
waits for the service there, or a die in reset there; or poison. -/
def remoteAnswer (v : W64) : Option Nat :=
  match v.toNat % 16 with
  | 1 => some 66 | 2 => some 33 | 3 => some 34 | 4 => some 67 | 5 => some 71 | 6 => some 72 | 7 => some 38 | 8 => some 4 | _ => none

/-- Performs the next lanes of an access at their home. -/
def State.advance (s : State) (a : Access) : State :=
  let ls := a.chunk
  if a.space == .scratch then (if s.portReady a then s.usePort a else s)
  else match ls with
  | [] => s.settle a
  | l :: _ =>
    let answer := if l.node.isSome then remoteAnswer (Config.freeValue s.draws) else none
    if !s.mayPerform a ls || l.keys.any fun k => s.portHolds a.core a.issuedAt (s.redirect k) then s
    else
    let s := if l.node.isSome then { s with draws := s.draws + 1 } else s
    match answer.orElse fun _ => s.laneFault l with
    | some 4 => s.settle { a with done := a.done ++ ls.map fun l => (l.lane, [], true), psn := true }
    | some c => s.settle { a with failed := a.failed ++ ls.map fun l => (l.lane, c) }
    | none =>
      let (g, s) := s.performHome a ls
      s.settle { a with done := a.done ++ g.done, psn := a.psn || (g.psn && a.dest != .none) }

def State.flight? (s : State) (k : Nat) : Option Access := s.flights.find? fun f => f.id == k

/-- HOME_ACCESS (R352): the next line of an access that is on its way; host accesses and deterministic updates have steps of their own. -/
def execHomeAccess (k : Nat) (s : State) : Out :=
  .next (match s.flight? k with
    | some a => (match a.space, a.op with
      | .host, _ => s
      | _, .det .. => s
      | _, _ => s.advance a)
    | none => s)

/-- HOST_COMPLETION (R350, R353): the completion of one lane's request, good or failed with code 2. -/
def execHostCompletion (k : Nat) (ok : Bool) (s : State) : Out :=
  .next (match s.flight? k with
    | some a =>
      if a.space != .host then s
      else match a.chunk with
      | [] => s.settle a
      | ls =>
        if !s.mayPerform a ls then s
        else if ok then
          let (g, s) := s.performHome a ls
          s.settle { a with done := a.done ++ g.done, psn := a.psn || (g.psn && a.dest != .none) }
        else s.settle { a with failed := a.failed ++ (ls.take 1).map fun l => (l.lane, 2) }
    | none => s)

/-- A marking has reached every die; a scope that has become FREE has no marking left to reach any (R428, R441). -/
def State.markedEverywhere (s : State) (n : Option Nat) : Bool :=
  match n.bind s.scopes.get? with
  | some c => c.state == .live || (List.range 4).all c.seen.contains
  | none => true

/-- PRODUCER_RESULT (R32, R127): a result arrives, is written and marks its registers full, once those in the spill region have entries (R35); an ended warp
receives nothing. -/
def execProducerResult (w k : Nat) (s : State) : Out :=
  .next (match s.warp? w with
    | none => s
    | some x => match x.results.find? fun r => r.id == k with
      | none => s
      | some r =>
        if !s.markedEverywhere r.marking then s else
        let (s, room) := if x.marks.ended then (s, true) else s.placeRegs w (r.puts.map Put.reg)
        if !room then s else
        let x := (s.warp? w).getD x
        let x := { x with results := x.results.filter fun q => q.id != k }
        let x := if x.marks.ended then x
          else
            let x := r.puts.foldl (fun x p => x.deliver s.clock p) x
            if r.psn then x.poisonSeen r.pc else x
        (s.setWarp w x).reap w)

/-- What the read of a watch finds (R136, R508): its order holds it back; it has set out for another node, which has not answered; a fault with its address, and
whether it fails at once; or bytes, whether they are poison, and whether they lie at another node. -/
inductive WatchRead where
  | held
  | away
  | fault (code va : Nat) (now : Bool)
  | got (bs : List Byte) (psn far : Bool)

/-- The read of a watch. It drops its own core's copy of the line. -/
def State.readWatch (s : State) (x : Warp) (a : Access) : WatchRead × State :=
  match s.resolve x a with
  | (.error (code, va, now), s) => (.fault code va now, s)
  | (.ok [], s) => (.held, s)
  | (.ok (l :: ls), s) =>
    if !s.mayPerform a (l :: ls) then (.held, s)
    else if l.node.isSome then
      let v := Config.freeValue s.draws
      let (bs, t) := ({ s with draws := s.draws + 1 } : State).drawBytes a.width
      if v.toNat % 16 = 9 then (.away, t)
      else match remoteAnswer v with
      | some 4 => (.got [] true true, t)
      | some c => (.fault c l.addr false, t)
      | none => (.got bs false true, t)
    else match s.laneFault l with
    | some 4 => (.got [] true false, s)
    | some c => (.fault c l.addr false, s)
    | none =>
      let ks := l.keys.map s.redirect
      let v := s.coreView a.core fun f => f.w != a.w || f.id < a.id
      let t := (ks.foldl State.errorFound (s.noteReads { a with lanes := l :: ls })).l1Drop a.core (s.asid a.proc) [l.addr]
      let t := (t.notePorts l.keys (s.homeRank a.core (l.keys.headD 0))).sampleRequest (l.keys.headD 0) a.proc l.addr a.core
      (.got (v.bytes ks) (v.anyMarked ks) false, t)

/-- The decision of a watch: it ends with true where the condition holds, otherwise with false from the deadline on (R136). -/
def State.decideWatch (s : State) (w : Nat) (q : Watch) (bs : List Byte) (far : Bool) : State :=
  let s := s.modWarp w fun x => { x with wait := some (.watch { q with lastEval := s.clock, faulted := false, entry := none, far := far, sent := none }) }
  if waitCond q.cond (ofBytes bs) (q.cmp.toNat % 2 ^ (8 * q.acc.width)) then s.endWatch w true
  else if q.deadline.any fun d => d ≤ s.clock then s.endWatch w false
  else s

/-- Evaluates a watch, as the replay of an operand-log entry where one is named (R136, R169): a read that faults enters that entry, or a free one, or waits for
one; poison ends the watch with false. A read at another node that has had no response for 2^24 clk fails (R514). -/
def State.watchFrom (s : State) (w : Nat) (x : Warp) (q : Watch) (entry : Option Nat) : State :=
  let a := { q.acc with id := ((entry.bind x.log.get?).map (·.acc.id)).getD s.nextId, w := w, core := coreOf w }
  let setWatch := fun (s : State) (q : Watch) => s.modWarp w fun x => { x with wait := some (.watch q) }
  match (if q.sent.any fun n => n + 2 ^ 24 ≤ s.clock then (.fault 7 ((a.lanes.head?.map (·.addr)).getD 0) true, s) else s.readWatch x a) with
  | (.held, t) => if entry.isNone then setWatch t { q with faulted := false } else t
  | (.away, t) => setWatch t { q with lastEval := s.clock, far := true, sent := q.sent.orElse fun _ => some s.clock }
  | (.fault code va now, t) =>
    let at_ := entry.orElse fun _ => x.log.free 0 4
    let t := setWatch t { q with faulted := true, entry := at_, sent := none }
    (match at_ with
     | some e => t.setEntry e a code va now
     | none => t.modWarp w fun x => { x with fifth := some a })
  | (.got bs psn far, t) =>
    let t := match entry with
      | some e => t.modWarp w fun x => { x with log := x.log.erase e }
      | none => t
    if psn then t.poisonFinish a true else t.decideWatch w q bs far

/-- The watch of a warp is evaluated, unless its read has faulted. -/
def State.evalWatch (s : State) (w : Nat) : State :=
  match s.warp? w with
  | none => s
  | some x => match x.wait with
    | some (.watch q) => if q.faulted then s else s.watchFrom w x q none
    | _ => s

/-- The replay of an entry that holds the read of a watch: the watch goes on (R136); where its suspension has ended, the read is made and nothing is written
(log entry 68). A trap, a halt or a kill that is due comes first (R137). -/
def State.replayWatch (s : State) (w : Nat) (x : Warp) (e : Nat) (a : Access) : State :=
  let alone := match s.readWatch x a with
    | (.held, _) => s
    | (.away, t) => t
    | (.fault code va now, t) => t.setEntry e a code va now
    | (.got .., t) => t.modWarp w fun x => { x with log := x.log.erase e }
  match x.wait with
  | some (.watch q) => if q.entry != some e then alone else if s.interrupted w x then s else s.watchFrom w x q (some e)
  | _ => alone

/-- Replays of entry `e` may start: it is the first queued entry of those that share no page with an older entry (R169). -/
def State.replayNext (s : State) (x : Warp) (e : Nat) : Bool :=
  let free := x.log.filter fun p => p.2.state == .queued && !(s.flights.any fun f => f.w == p.2.acc.w && f.entry == some p.1) &&
    x.log.all fun q => q.2.acc.id ≥ p.2.acc.id || !s.sharePage x p.2.acc q.2.acc
  free.any (fun p => p.1 == e) && free.all fun p => (x.log.get? e).elim false fun l => l.order ≤ p.2.order

/-- REPLAY (R169): the access translates again and sets out, or its entry is pending with the new code. -/
def execReplay (w e : Nat) (s : State) : Out :=
  .next (match s.warp? w with
    | none => s
    | some x => match x.log.get? e with
      | none => s
      | some l =>
        if !s.replayNext x e then s
        else
          let a := { l.acc with w := w, core := coreOf w, issuedAt := s.clock }
          match a.instr with
          | .waitaddr _ => s.replayWatch w x e a
          | _ => match s.resolve x a with
            | (.ok ls, s) => s.start { a with lanes := ls, entry := some e }
            | (.error (code, va, now), s) => s.setEntry e a code va now)

/-- FIFTH_FAULT_RETRY (R167): an entry has become free. -/
def execFifthFaultRetry (w : Nat) (s : State) : Out :=
  .next (match s.warp? w with
    | none => s
    | some x => match x.fifth, x.log.free 0 4 with
      | some a, some _ =>
        let y := { x with fifth := none, wait := if x.wait == some .fifth then none else x.wait }
        (match a.instr, x.wait with
         | .waitaddr _, some (.watch q) => if s.interrupted w x then s else (s.setWarp w y).watchFrom w y q none
         | .waitaddr _, _ => s.setWarp w y
         | _, _ => (s.setWarp w y).launchAccess { a with w := w, core := coreOf w })
      | _, _ => s)

/-- A core has acknowledged the flushes that requests of other nodes wait for; a request that waits for no other core is answered (R511). -/
def State.flushIncoming (s : State) (core : Nat) : State :=
  { s with incoming := s.incoming.map fun (q : Nat × Incoming) =>
      (q.1, if q.2.owed.contains core && !s.coreOwes core q.2.upto then
          { q.2 with owed := q.2.owed.filter (· != core),
                     answer := if (q.2.owed.filter (· != core)).isEmpty then q.2.result else q.2.answer }
        else q.2) }

/-- REMOTE_SCOPE_FLUSH (R378): a core performs its early writes that a promotion asks for; once none is left, it acknowledges. -/
def execRemoteScopeFlush (core : Nat) (s : State) : Out :=
  let upto := (s.warps.filterMap fun p => match p.2.wait with
    | some (.flush cs n _) => if cs.contains core then some n else none
    | _ => none) ++ (s.incoming.filter fun q => q.2.owed.contains core).map (·.2.upto)
  let upto := upto.foldl Nat.max 0
  let s := (s.flights.filter fun f => f.core == core && f.id < upto).foldl (fun t f =>
    if t.early f then (match t.flight? f.id with | some a => t.advance a | none => t) else t) s
  .next (s.warps.foldl (fun t p => match p.2.wait with
    | some (.flush cs n scope) =>
      if cs.contains core && !t.coreOwes core n then
        let left := cs.filter fun c => c != core
        if left.isEmpty then (t.modWarp p.1 fun x => { x with wait := none }).acquireFor p.1 scope
        else t.modWarp p.1 fun x => { x with wait := some (.flush left n scope) }
      else t
    | _ => t) (s.flushIncoming core))

/-- WRITE_BUFFER_DRAIN (R210): the oldest entry of each buffer of a core reaches its bank. -/
def execWriteBufferDrain (core : Nat) (s : State) : Out := .next ((s.drainOne core).drainShared core)

/-- PAGE_WALK (R393, R394): the walker translates an address for a core, and its leaf is cached. -/
def execPageWalk (core : Nat) (asid : BitVec 16) (va : W64) (s : State) : Out :=
  .next (match s.procs.find? fun p => s.asid p.1 == asid with
    | some p => if va.toNat < 2 ^ 57 then (s.translate core p.1 va.toNat 0).2 else s
    | none => s)

end Sys2Proof.Machine
end

