-- ==== Sys2Proof/Machine/CoreMemory.lean ====
section
/-! DEFINITION. Memory instructions of the core and the cluster-shared window (R194 to R215, R304 to R309), fences and `migw`. -/

namespace Sys2Proof.Machine

/-! ## The shared shape of a memory instruction -/

/-- What an instruction says of its access: addresses and data lane by lane. `zero` names the lanes that read 0 without an access (R206). -/
structure MemForm where
  space : Space
  op : AccOp
  width : Nat
  dest : Dest := .none
  addr : Fin 32 → Nat × Bool
  data : Fin 32 → List Byte × List Byte × Bool := fun _ => ([], [], false)
  zero : Fin 32 → Bool := fun _ => false
  once : Bool := false
  ord : Nat := 0
  scope : Nat := 0
  rp : Bool := false
  cp : Nat := 0
  rot : Nat := 0

/-- The lanes that an access has: lane 0 where it is made once, otherwise the active lanes. -/
def Issue.accLanes (i : Issue) (m : MemForm) : List (Fin 32) := if m.once then [(0 : Fin 32)] else lanesOf i.act

/-- The access that an instruction makes. A lane whose address is tagged makes none: a load answers it with poison (R196). A release that its instruction
carries, or the last release fence of the warp, makes its writes releasing; accesses that fences order wait for the loads before these (R369). -/
def Issue.request (i : Issue) (s : State) (instr : Instr) (m : MemForm) (id : Nat) : Access :=
  let lanes := i.accLanes m
  let clean := lanes.filter fun l => !(m.addr l).2
  let tagged := if m.dest != .none then (lanes.filter fun l => (m.addr l).2).map fun l => (l.val, ([] : List Byte), true) else []
  { id := id, w := i.w, instr := instr, pc := i.e.pc, space := m.space, op := m.op, width := m.width, dest := m.dest,
    lanes := (clean.filter fun l => !m.zero l).map fun l =>
      let (d, n, g) := m.data l
      { lane := l.val, addr := (m.addr l).1, keys := [], data := d, new := n, tag := g },
    act := i.act, ord := m.ord, scope := m.scope, rp := m.rp, cp := m.cp, core := coreOf i.w, proc := i.x.owner.proc, rot := m.rot,
    rel := if 2 ≤ m.ord then some m.scope else i.x.fenced, issuedAt := s.clock
    after := Nat.max i.x.loadMark (match m.op with | .load _ => 0 | _ => i.x.relMark)
    done := tagged ++ (clean.filter m.zero).map fun l => (l.val, toBytes m.width 0, false) }

/-- Alignment (R196), the waits for the operand log (R166), the empty destination (R32), and the access sets out (R165). -/
def Issue.access (i : Issue) (s : State) (instr : Instr) (m : MemForm) : Act :=
  let clean := (i.accLanes m).filter fun l => !(m.addr l).2
  match clean.find? fun l => (m.addr l).1 % m.width != 0 with
  | some l => .trap 0x0A (BitVec.ofNat 64 (m.addr l).1)
  | none =>
    let (id, t) := s.fresh
    if i.x.log.any fun e => s.sharePage i.x (i.request s instr m id) e.2.acc then .hold (.pages (i.x.log.keys))
    else if 2 ≤ m.ord && i.x.logBusy then .hold .oplog
    else
      let t := t.cleanSlices i.w (if 2 ≤ m.ord then m.scope else 0)
      let t := t.modWarp i.w fun x => m.dest.regs.foldl (fun x r => x.markEmpty r s.clock) x
      let t := if (clean.filter m.zero).isEmpty then t else t.modWarp i.w fun x => { x with pwb := true }
      .next (t.launchAccess (i.request s instr m id))

/-- Bytes of a memory width code (R194). -/
def widthOf (v : Nat) : Nat := match v with | 0 => 4 | 1 => 8 | 2 => 16 | 3 => 2 | 4 => 2 | _ => 1

/-- The words of a group of lane registers in every lane, with the tags of any of them. -/
def Warp.group (x : Warp) (n count : Nat) : List (Lanes W32) × Mask :=
  let rs := (List.range count).map fun k => x.lane (if n = 255 then 255 else n + k)
  (rs.map (·.1), rs.foldl (fun (m : Mask) r => m ||| r.2) 0)

/-- The bytes of a group in a lane. -/
def groupBytes (vs : List (Lanes W32)) (width : Nat) (l : Fin 32) : List Byte := (vs.flatMap fun v => toBytes 4 v[l].toNat).take width

/-- Store data: the registers of a group, `width` bytes. -/
def Issue.storeData (i : Issue) (n count width : Nat) : Fin 32 → List Byte × List Byte × Bool :=
  let (vs, t) := i.x.group n count
  fun l => (groupBytes vs width l, [], t.getLsbD l.val)

/-- Atomic data: the operand, and the new value of `cas` from a second group (R207). -/
def Issue.atomData (i : Issue) (n c count width : Nat) (cas : Bool) : Fin 32 → List Byte × List Byte × Bool :=
  let (vs, t) := i.x.group n count
  let (us, u) := if cas then i.x.group c count else ([], 0)
  fun l => (groupBytes vs width l, groupBytes us width l, (t ||| u).getLsbD l.val)

/-- `mod(xA(l) + e, 2^32)` (R199, R202, R305, R343). -/
def Issue.laneAddr (i : Issue) (e : W32) : Fin 32 → Nat × Bool :=
  let (a, t) := i.x.lane i.f.xa
  fun l => ((a[l] + e).toNat, t.getLsbD l.val)

/-- IMM32[19:0] sign-extended (R195). -/
def Frame.e20 (f : Frame) : W32 := (f.imm.setWidth 20).signExtend 32

/-! ## Lane-private slices and scratchpad -/

def execLdl (f : Frame) (s : State) : Out :=
  s.issueOnce (.ldl f) fun i t => i.access t (.ldl f)
    { space := .slice, op := .load f.vn, width := widthOf f.vn, dest := .lane f.xd (Form.mw f.vn), addr := i.laneAddr f.imm }

def execStl (f : Frame) (s : State) : Out :=
  s.issueOnce (.stl f) fun i t => i.access t (.stl f)
    { space := .slice, op := .store, width := widthOf f.vn, addr := i.laneAddr f.imm, data := i.storeData f.xb (Form.mw f.vn) (widthOf f.vn) }

def execLds (f : Frame) (s : State) : Out :=
  s.issueOnce (.lds f) fun i t => i.access t (.lds f)
    { space := .scratch, op := .load f.vn, width := widthOf f.vn, dest := .lane f.xd (Form.mw f.vn), addr := i.laneAddr (Frame.e20 f),
      rot := f.mf 4 3 }

def execSts (f : Frame) (s : State) : Out :=
  s.issueOnce (.sts f) fun i t => i.access t (.sts f)
    { space := .scratch, op := .store, width := widthOf f.vn, addr := i.laneAddr (Frame.e20 f), rot := f.mf 4 3,
      data := i.storeData f.xb (Form.mw f.vn) (widthOf f.vn) }

/-- `atoms` (R207): always at core scope; the in-order port meets its orders. -/
def execAtoms (f : Frame) (s : State) : Out :=
  s.issueOnce (.atoms f) fun i t => i.access t (.atoms f)
    { space := .scratch, op := .atomic (f.mf 0 4), width := 4 * (f.vn + 1), dest := .lane f.xd (f.vn + 1), addr := i.laneAddr (Frame.e20 f),
      data := i.atomData f.xb f.xc (f.vn + 1) (4 * (f.vn + 1)) (Form.isCas f), ord := f.ord, scope := 1, rot := f.mf 4 3 }

/-! ## Parameter windows (R205, R206) -/

def execLdp (f : Frame) (s : State) : Out :=
  s.issueOnce (.ldp f) fun i t =>
    let win := i.x.pwin.toList.getD f.xb 0
    if !win.getLsbD 63 then .trap 0x0B (BitVec.ofNat 64 f.xb)
    else
      let width := widthOf f.vn
      let a := if f.au then i.x.uniOpr f.ka else i.x.laneOpr f.xa false
      let off := fun l : Fin 32 => ((a.val l).setWidth 32 + f.imm : W32).toNat
      let base := bits win 0 45 * 4096
      -- an offset beyond the bound keeps its own alignment; its lane reads 0
      i.access t (.ldp f)
        { space := .window, op := .load f.vn, width := width,
          dest := if f.du then .uni f.kd (if f.vn = 2 then 2 else 1) else .lane f.xd (Form.mw f.vn),
          addr := fun l => (if off l % width = 0 then base + off l else off l, a.tag.getLsbD l.val),
          zero := fun l => bits win 47 16 * 16 < off l + width, once := f.du }

/-! ## The cluster-shared window (R304 to R308) -/

def execLdc (f : Frame) (s : State) : Out :=
  s.issueOnce (.ldc f) fun i t => i.access t (.ldc f)
    { space := .cluster, op := .load f.vn, width := widthOf f.vn, dest := .lane f.xd (Form.mw f.vn), addr := i.laneAddr (Frame.e20 f) }

def execStc (f : Frame) (s : State) : Out :=
  s.issueOnce (.stc f) fun i t => i.access t (.stc f)
    { space := .cluster, op := .store, width := widthOf f.vn, addr := i.laneAddr (Frame.e20 f),
      data := i.storeData f.xb (Form.mw f.vn) (widthOf f.vn) }

/-- `atomc` (R308): always at `.cl`, which for a die-straddling pair waits as `.dv` does. -/
def execAtomc (f : Frame) (s : State) : Out :=
  s.issueOnce (.atomc f) fun i t => i.access t (.atomc f)
    { space := .cluster, op := .atomic (f.mf 0 4), width := 4 * (f.vn + 1), dest := .lane f.xd (f.vn + 1), addr := i.laneAddr (Frame.e20 f),
      data := i.atomData f.xb f.xc (f.vn + 1) (4 * (f.vn + 1)) (Form.isCas f), ord := f.ord, scope := if i.x.straddle then 4 else 2 }

/-! ## Fences (R208, R209, R211) -/

/-- Earlier scratchpad writes of a warp have reached their banks and, at `.cl`, its cluster-shared writes their slices (R211). -/
def State.pathDone (s : State) (w scope : Nat) : Bool :=
  (s.core (coreOf w)).wbuf.all (fun b => b.w != w) &&
  (s.flightsOf w).all (fun f => !f.writes || (f.space != .scratch && (scope == 1 || f.space != .cluster))) && (scope == 1 || s.sharedDrained w)

/-- What a fence of a kind (0 `.ar`, 1 `.acq`, 2 `.rel`, 3 `.path`) waits for beside the operand log: a release for the warp's writes, an acquire for
nothing (R208, R209, R211). -/
def State.fenceReady (s : State) (w kind scope : Nat) : Bool :=
  match kind with
  | 1 => true
  | 3 => s.pathDone w scope
  | _ => (s.flightsOf w).all (fun f => !f.writes || s.performedAt f scope) && (scope ≤ 1 || (s.sharedDrained w && s.seenDone w s.nextId)) && (scope == 0 || s.initsDone w)

/-- What the completion of a fence does (R208, R369): a release at `.cl` or wider takes the warp's slice stores to their homes, and accesses that follow an
acquire, and writes that follow a release, perform after the reads before. -/
def State.fenceDone (s : State) (w kind scope : Nat) : State :=
  let n := s.nextId
  let s := if kind = 0 || kind = 2 then (s.modWarp w fun x => { x with fenced := some scope, relMark := n }).cleanSlices w scope else s
  if kind ≤ 1 then (s.modWarp w fun x => { x with loadMark := n }).acquireFor w scope else s

/-- Every access of a warp has performed, at a scope of `.cl` or wider, and every ring that it has set up is (R208, R314, R322, R324). -/
def State.releaseLanded (s : State) (w : Nat) : Bool := s.landed w && s.sharedDrained w && s.initsDone w && s.seenDone w s.nextId

def State.fence (s : State) (i : Instr) (kind : Nat) : Out :=
  s.issueOnce i fun iss t =>
    let scope := iss.f.mf 3 3
    if iss.x.logBusy then .hold .oplog
    else if t.fenceReady iss.w kind scope then .next (t.fenceDone iss.w kind scope)
    else .suspend t (.fence kind scope)

def execFenceAr (f : Frame) (s : State) : Out := s.fence (.fenceAr f) 0
def execFenceAcq (f : Frame) (s : State) : Out := s.fence (.fenceAcq f) 1
def execFenceRel (f : Frame) (s : State) : Out := s.fence (.fenceRel f) 2
def execFencePath (f : Frame) (s : State) : Out := s.fence (.fencePath f) 3

/-- FENCE_COMPLETE (R209): the last needed acknowledgement has arrived, and the operand log is free (R166). A kill comes first (R430). -/
def execFenceComplete (w : Nat) (s : State) : Out :=
  .next (match s.warp? w with
    | some x => (match x.wait with
      | some (.fence kind scope) =>
        if s.fenceReady w kind scope && !x.logBusy && !s.killDue w x then (s.fenceDone w kind scope).finishWait w else s
      | _ => s)
    | none => s)

/-! ## Moving a warp (R212 to R214) -/

/-- Step 1 of R213. -/
def State.moveReady (s : State) (w : Nat) (x : Warp) : Bool :=
  !x.logBusy && x.noneEmpty && x.tokensClear && x.results.isEmpty && s.releaseLanded w && (s.commandsOf w).isEmpty

/-- Step 2 of R213: the slot at the target and, for a task warp, the base of its scratchpad allocation there. -/
def State.moveTarget (s : State) (w : Nat) (x : Warp) (ka : W64) : Option (Nat × Nat) :=
  let die := bits ka 8 2
  let c := bits ka 0 7
  let target := die * 96 + c
  let own := if x.owner.task then s.granted x.owner.proc target
    else match x.owner.ensemble.bind s.ensembles.get? with
      | some e => e.clusters.contains (clusterOf target)
      | none => false
  if bits ka 10 54 != 0 || bits ka 7 1 != 0 || !s.coreExists die c || !own || x.role == 1 then none
  else if !x.members.isEmpty && clusterOf target != clusterOf (coreOf w) then none
  else match s.admitSlot target with
  | none => none
  | some slot =>
    if x.owner.task then (placeAlloc (s.core target).spAlloc (x.spwin * 2048) (2 ^ 18)).map (slot, ·)
    else (((s.core target).spAlloc.find? fun a => a.ensemble == x.owner.ensemble).map fun a => (slot, a.base)).orElse fun _ => some (slot, 0)

/-- A suspension that travels with a context and goes on after it (R137, R167); every other wait is at its instruction, which issues again (R461). -/
def Wait.kept : Wait → Bool
  | .sleep _ => true
  | .watch _ => true
  | .fifth => true
  | _ => false

/-- Step 3 of R213: the warp's dirty slice lines are written back, and the context leaves; a task warp's allocation travels with it. -/
def State.sendWarp (s : State) (w slot base : Nat) : State :=
  match s.warp? w with
  | none => s
  | some x =>
    let src := coreOf w
    let dst := coreOf slot
    let s := (s.drainAll src).dropSlices src fun l => l.w == w
    let s := if x.owner.task then
        let n := x.spwin * 2048
        let img := Mem.image s.mem (scratchKey src x.spbase) n
        let lo := scratchKey src x.spbase / 8
        let marks := (s.marks.filter fun m => lo ≤ m && m < lo + n / 8).map fun m => scratchKey dst base / 8 + (m - lo)
        let s := (s.freeScratch src fun a => a.warp == some w).zero (scratchKey dst base) n
        let s := img.foldl (fun s c => s.writeBytes [scratchKey dst base + c.1] [c.2]) s
        let s := marks.foldl (fun s m => s.setMark m true) s
        s.modCore dst fun c => { c with spAlloc := c.spAlloc ++ [{ ensemble := none, warp := some slot, base := base, size := n }] }
      else s
    let csbase := (((s.cluster (clusterOf dst)).csAlloc.toList.getD (dst % 4) []).find? fun a => a.ensemble == x.owner.ensemble).elim x.csbase (·.base)
    let y := { x with age := 0, copy := {}, kept := [], spbase := base, csbase := csbase, wait := x.wait.filter Wait.kept,
                      marks := { x.marks with save := false, stopped := false } }
    let (id, s) := s.fresh
    { s with warps := s.warps.erase w, transit := s.transit ++ [{ id := id, warp := y, target := slot }] }

def execMigw (f : Frame) (s : State) : Out :=
  s.issueOnce (.migw f) fun i t =>
    let (ka, tag) := i.x.uni f.ka
    if tag then .trap 9 0
    else if !t.moveReady i.w i.x then .hold .migw
    else
      let here := bits ka 0 7 < 96 && bits ka 8 2 * 96 + bits ka 0 7 == coreOf i.w
      match if here then none else t.moveTarget i.w i.x ka with
      | none => .next (i.writePred t f.xd (fun _ => here) 0)
      | some (slot, base) => .done (((i.writePred t f.xd (fun _ => true) 0).retire i.w f true).sendWarp i.w slot base)

/-- The accesses that a context holds belong to its new slot. -/
def Warp.rehome (x : Warp) (w : Nat) : Warp :=
  let here := fun (a : Access) => { a with w := w, core := coreOf w }
  { x with fifth := x.fifth.map here, log := x.log.map (fun e => (e.1, { e.2 with acc := here e.2.acc })),
           wait := x.wait.map fun q => match q with
             | .watch q => .watch { q with acc := here q.acc }
             | q => q }

/-- MIGW_ARRIVAL (R213, R214, R385): the context binds at the target, whose core acquires at `.dv`; an arrival that finds the target's spill region full
waits. -/
def execMigwArrival (k : Nat) (s : State) : Out :=
  .next (match s.transit.find? fun t => t.id == k with
    | none => s
    | some t =>
      let u := { s with transit := s.transit.filter fun q => q.id != k }
      let x := u.bindAll (coreOf t.target) (quadOf t.target) (t.warp.rehome t.target) true
      let v := u.setWarp t.target x
      if 2 ^ 17 < v.spillUsed (coreOf t.target) then s else (v.l1Trim (coreOf t.target)).acquireFor t.target 4)

end Sys2Proof.Machine
end

