-- ==== Sys2Proof/Machine/DieMemory.lean ====
section
/-! DEFINITION. The instructions of the Grotto, global and host memory (R343 to R354), `waitaddr` (R135, R136), and deterministic
reductions (R355 to R361). -/

namespace Sys2Proof.Machine

/-! ## Addresses (R346) and data -/

/-- `mod(kB + zext(xA(l)) * s + sext(IMM32), 2^64)`. -/
def Issue.globalAddr (i : Issue) : Fin 32 → Nat × Bool :=
  let (a, t) := i.x.lane i.f.xa
  let (kb, tb) := i.x.uni i.f.kb
  fun l => ((kb + (a[l].setWidth 64 <<< i.f.mf 4 3) + i.f.imm.signExtend 64 : W64).toNat, tb || t.getLsbD l.val)

/-- The destination of a load: a lane group, or uniform registers under DU (R345, R346). -/
def Issue.loadDest (i : Issue) : Dest := if i.f.du then .uni i.f.kd (if i.f.vn = 2 then 2 else 1) else .lane i.f.xd (Form.mw i.f.vn)

/-- Data of an atomic whose group from `n` holds, for `cas`, the compare value and then the new value (R344). -/
def Issue.groupData (i : Issue) (n : Nat) : Fin 32 → List Byte × List Byte × Bool :=
  let count := i.f.vn + 1
  i.atomData n (if n = 255 then 255 else n + count) count (4 * count) (Form.isCas i.f)

/-! ## The Grotto -/

def execLdo (f : Frame) (s : State) : Out :=
  s.issueOnce (.ldo f) fun i t => i.access t (.ldo f)
    { space := .grotto, op := .load f.vn, width := widthOf f.vn, dest := i.loadDest, addr := i.laneAddr f.imm, once := f.du, ord := f.ord,
      scope := f.scope, rp := f.bit 9 }

def execSto (f : Frame) (s : State) : Out :=
  s.issueOnce (.sto f) fun i t => i.access t (.sto f)
    { space := .grotto, op := .store, width := widthOf f.vn, addr := i.laneAddr f.imm, ord := f.ord, scope := f.scope,
      data := i.storeData f.xb (Form.mw f.vn) (widthOf f.vn) }

def execAtomo (f : Frame) (s : State) : Out :=
  s.issueOnce (.atomo f) fun i t => i.access t (.atomo f)
    { space := .grotto, op := .atomic (f.mf 0 4), width := 4 * (f.vn + 1), dest := .lane f.xd (f.vn + 1), addr := i.laneAddr f.imm,
      data := i.groupData f.xb, ord := f.ord, scope := f.scope }

/-! ## Global memory -/

def execLdg (f : Frame) (s : State) : Out :=
  s.issueOnce (.ldg f) fun i t => i.access t (.ldg f)
    { space := .global, op := .load f.vn, width := widthOf f.vn, dest := i.loadDest, addr := i.globalAddr, once := f.du, ord := f.ord,
      scope := f.scope, rp := f.bit 9, cp := f.mf 0 2 }

def execStg (f : Frame) (s : State) : Out :=
  s.issueOnce (.stg f) fun i t => i.access t (.stg f)
    { space := .global, op := .store, width := widthOf f.vn, addr := i.globalAddr, ord := f.ord, scope := f.scope,
      data := i.storeData f.xc (Form.mw f.vn) (widthOf f.vn) }

/-- A prefetch of the line of an address, into the L1 or into its home slice only (R351): where the second-level TLB of the core's cluster lists a leaf that
may be read, and the home answers. The home counts the request (R405). -/
def State.prefetch (s : State) (core p va : Nat) (l1 : Bool) : State :=
  if 2 ^ 57 ≤ va || (l1 && (s.l1Line? core (s.asid p) va).isSome) then s
  else match (tlbFind (s.cluster (clusterOf core)).tlb (s.asid p) va).filter fun e => pteRd e && pteTier e != 3 with
  | some e =>
    let key := leafKey e va
    if (s.keyFault key).isSome then s
    else ((if l1 then s.l1Fill core (s.asid p) va key else s).errorFound (s.redirect key)).sampleRequest key p va core
  | none => s

def execPrfg (f : Frame) (s : State) : Out :=
  s.issueOnce (.prfg f) fun i t =>
    .next (((((lanesOf i.act).filter fun l => !(i.globalAddr l).2).map fun l => (i.globalAddr l).1 / 128 * 128).eraseDups).foldl (fun t va =>
      t.prefetch (coreOf i.w) i.x.owner.proc va (f.vn == 0)) t)

def execAtomg (f : Frame) (s : State) : Out :=
  s.issueOnce (.atomg f) fun i t => i.access t (.atomg f)
    { space := .global, op := .atomic (f.mf 0 4), width := 4 * (f.vn + 1), dest := .lane f.xd (f.vn + 1), addr := i.globalAddr,
      data := i.groupData f.xc, ord := f.ord, scope := f.scope, rp := f.bit 9 }

/-- `redg` (R353): an atomic that returns nothing. -/
def execRedg (f : Frame) (s : State) : Out :=
  s.issueOnce (.redg f) fun i t => i.access t (.redg f)
    { space := .global, op := .atomic (f.mf 0 4), width := 4 * (f.vn + 1), addr := i.globalAddr, data := i.groupData f.xc, ord := f.ord,
      scope := f.scope }

/-! ## Host memory -/

def execLdh (f : Frame) (s : State) : Out :=
  s.issueOnce (.ldh f) fun i t => i.access t (.ldh f)
    { space := .host, op := .load f.vn, width := widthOf f.vn, dest := i.loadDest, addr := i.globalAddr, once := f.du, ord := f.ord,
      scope := f.scope, rp := f.bit 9 }

def execSth (f : Frame) (s : State) : Out :=
  s.issueOnce (.sth f) fun i t => i.access t (.sth f)
    { space := .host, op := .store, width := widthOf f.vn, addr := i.globalAddr, ord := f.ord, scope := f.scope,
      data := i.storeData f.xc (Form.mw f.vn) (widthOf f.vn) }

def execAtomh (f : Frame) (s : State) : Out :=
  s.issueOnce (.atomh f) fun i t => i.access t (.atomh f)
    { space := .host, op := .atomic (f.mf 0 4), width := 4 * (f.vn + 1), dest := .lane f.xd (f.vn + 1), addr := i.globalAddr,
      data := i.groupData f.xc, ord := f.ord, scope := f.scope }

/-! ## Waiting on an address (R135, R136) -/

def execWaitaddr (f : Frame) (s : State) : Out :=
  s.issueOnce (.waitaddr f) fun i t =>
    let (kb, tb) := i.x.uni f.kb
    let (ka, ta) := i.x.uni f.ka
    let (kc, tc) := i.x.uni f.kc
    let to_ := f.bit 6
    let a : W64 := kb + f.imm.signExtend 64
    let width := if f.vn = 7 then 8 else 4
    let acc : Access :=
      { id := t.nextId, w := i.w, instr := .waitaddr f, pc := i.e.pc, space := .global, op := .load 0, width := width, dest := .none,
        lanes := [{ lane := 0, addr := a.toNat, keys := [] }], act := i.act, ord := 0, scope := 0, core := coreOf i.w,
        proc := i.x.owner.proc, issuedAt := t.clock, after := i.x.loadMark }
    if tb || ta || (to_ && tc) then .trap 9 0
    else if a.toNat % width != 0 then .trap 0x0A a
    else if i.x.log.any fun e => t.sharePage i.x acc e.2.acc then .hold (.pages i.x.log.keys)
    else
      let q : Watch :=
        { acc := acc, cmp := ka, cond := f.mf 0 2, acq := if f.bit 2 then some (f.mf 3 3) else none, pd := f.xd,
          deadline := if to_ then some (t.clock + kc.toNat % 2 ^ 32) else none, lastEval := t.clock }
      .done (((t.hold i.w (.watch q)).modWarp i.w fun x => { x with run := 0, waitLen := f.form.bytes }).evalWatch i.w)

/-- Evaluates a watch that meets a condition; a trap, a halt or a kill that is due comes first (R137). -/
def State.lookAgain (s : State) (w : Nat) (p : Watch → Bool) : State :=
  match s.warp? w with
  | none => s
  | some x => match x.wait with
    | some (.watch q) => if p q && !s.interrupted w x then s.evalWatch w else s
    | _ => s

/-- WAITADDR_EVALUATION (R136): after a write to the watched line; none at another node wakes the warp, whose read there may still have to be answered (R508,
R514). -/
def execWaitaddrEvaluation (w : Nat) (s : State) : Out := .next (s.lookAgain w fun q => !q.far || q.sent.isSome)

/-- WAITADDR_DEADLINE (R136): `CLOCK` has reached the deadline. -/
def execWaitaddrDeadline (w : Nat) (s : State) : Out := .next (s.lookAgain w fun q => q.deadline.any fun d => d ≤ s.clock)

/-- WAITADDR_PERIODIC (R136): every 16,384 clk. -/
def execWaitaddrPeriodic (w : Nat) (s : State) : Out := .next (s.lookAgain w fun q => q.lastEval + 16384 ≤ s.clock)

/-- SLEEP_EXPIRY (R134). -/
def execSleepExpiry (w : Nat) (s : State) : Out :=
  .next (match s.warp? w with
    | some x => (match x.wait with
      | some (.sleep till) => if till ≤ s.clock && !s.interrupted w x then s.setWarp w { x with wait := none } else s
      | _ => s)
    | none => s)

/-! ## Deterministic updates (R355 to R358) -/

def execRedgDet (f : Frame) (s : State) : Out :=
  s.issueOnce (.redgDet f) fun i t =>
    let g := f.d.toNat
    match i.x.member? g with
    | none => .trap 5 0x144
    | some m =>
      match i.access t (.redgDet f)
        { space := .global, op := .det g m.ord m.dets, width := 4, addr := i.globalAddr, data := i.storeData f.xc 1 4 } with
      | .next u => .next (u.modWarp i.w fun x => x.modMember g fun m => { m with dets := m.dets + 1 })
      | out => out

/-- The place of a cluster in an ensemble, as windows name it (R355): twice `CLUSTERIX`, plus the half of a pair. -/
def State.windowPlace (s : State) (cluster ens : Nat) : Nat :=
  match s.ensembles.get? ens with
  | some e => if e.straddle then e.clusters.idxOf cluster else 2 * e.clusters.idxOf cluster
  | none => 0

def Held.same (a b : Held) : Bool :=
  a.cluster == b.cluster && a.ensemble == b.ensemble && a.gang == b.gang && a.window == b.window && a.key == b.key

/-- Two holdings are of one window and one address, wherever its line is now (R384, R399). -/
def State.heldSame (s : State) (a b : Held) : Bool := Held.same { a with key := s.redirect a.key } { b with key := s.redirect b.key }

/-- Blocks of 256 bytes in a process's determinism area on a die (R357): 0 where there is no area, or one that does not lie inside the window. -/
def detBlocks (p : Proc) : Nat :=
  if p.detarea.getLsbD 63 && bits p.detarea 16 9 + bits p.detarea 32 9 ≤ bits p.grwin 32 10 then bits p.detarea 32 9 * 256 else 0

/-- Spills a buffer (R356): its run takes a free block, where there is one. The block's format is not architected: its bytes are free values. -/
def State.spill (s : State) (h : Held) : Option State :=
  let die := keyDie (s.redirect h.key)
  (s.proc? h.proc).bind fun p =>
    let used := s.held.flatMap fun q => if q.proc == h.proc then (q.runs.filter fun r => r.1 == die).map (·.2.1) else []
    if detBlocks p ≤ used.length then none
    else ((List.range (used.length + 1)).find? fun b => !used.contains b).map fun b =>
      let ks := span (grottoKey die ((bits p.grwin 16 9 + bits p.detarea 16 9) * 65536 + 256 * b)) 256
      let (bs, s) := s.drawBytes 256
      let s := (s.writeBytes ks bs).clearFull ks
      { s with held := s.held.map fun q => if s.heldSame q h then { q with buf := [], runs := q.runs ++ [(die, b, h.buf)] } else q }

/-- Updates in ascending (issuer, sequence). -/
def Update.insert (u : Update) : List Update → List Update
  | [] => [u]
  | v :: r => if u.issuer < v.issuer || (u.issuer == v.issuer && u.seq < v.seq) then u :: v :: r else v :: Update.insert u r

/-- The buffer that the slice of a key spills to make room (R356): the most entries, the lowest address on ties. -/
def State.spillVictim (s : State) (key : Nat) : Option Held :=
  let home := fun k => (keyDie (s.redirect k), s.sliceOf (s.redirect k))
  let mine := s.held.filter fun q => !q.buf.isEmpty && home q.key == home key
  if mine.length < 32 then none
  else mine.foldl (fun (b : Option Held) q => match b with
    | none => some q
    | some c => if c.buf.length < q.buf.length || (c.buf.length == q.buf.length && q.key < c.key) then some q else some c) none

/-- Holds one update (R356), or answers nothing where a spill finds no block (R358). -/
def State.holdUpdate (s : State) (h : Held) (u : Update) : Option State :=
  let ready := match s.held.find? fun q => s.heldSame q h && !q.buf.isEmpty with
    | some q => if 16 ≤ q.buf.length then s.spill q else some s
    | none => match s.spillVictim h.key with
      | some v => s.spill v
      | none => some s
  ready.map fun s =>
    if s.held.any (s.heldSame h) then { s with held := s.held.map fun q => if s.heldSame q h then { q with buf := u.insert q.buf } else q }
    else { s with held := s.held ++ [{ h with buf := [u] }] }

/-- DET_UPDATE_ARRIVAL (R356, R358): the update of one lane is held at its home, or its lane fails with code 5. -/
def execDetUpdateArrival (k : Nat) (s : State) : Out :=
  .next (match s.flight? k with
    | none => s
    | some a => match a.op, a.todo with
      | .det g ord seq, l :: _ =>
        (match s.warp? a.w with
         | none => s
         | some x =>
          if !s.mayPerform a [l] then s
          else match s.laneFault l with
          | some 4 => s.settle { a with done := a.done ++ [(l.lane, [], true)], psn := true }
          | some c => s.settle { a with failed := a.failed ++ [(l.lane, c)] }
          | none =>
            let ens := x.owner.ensemble.getD 0
            let window := ((s.gang? (clusterOf a.core) ens g).map (·.window)).getD 0
            let h : Held := { cluster := s.windowPlace (clusterOf a.core) ens, ensemble := ens, gang := g, window := window, proc := a.proc,
                              key := l.keys.headD 0, buf := [] }
            let u : Update := { issuer := ord * 32 + l.lane, seq := seq, val := BitVec.ofNat 32 (ofBytes l.data), poison := l.tag }
            if l.node.isSome then s.settle { a with done := a.done ++ [(l.lane, [], false)] }
            else match s.holdUpdate h u with
            | some s =>
              let key := l.keys.headD 0
              let s := s.notePorts l.keys (s.homeRank a.core key)
              let s := ((l.keys.foldl State.noteWrite s).l1Drop a.core (s.asid a.proc) [l.addr]).sampleRequest key a.proc l.addr a.core
              s.settle { a with done := a.done ++ [(l.lane, [], false)] }
            | none => s.settle { a with failed := a.failed ++ [(l.lane, 5)] })
      | .det .., [] => s.settle a
      | _, _ => s)

/-! ## Commit and fold (R359, R360) -/

/-- A deterministic update of a warp to a gang is on its way, or waits for its replay (R359). -/
def State.detFlying (s : State) (w g : Nat) : Bool :=
  let mine := fun (a : Access) => match a.op with | .det h _ _ => h == g | _ => false
  (s.flightsOf w).any mine || (s.warp? w).any fun x => (x.log.any fun e => e.2.state != .failed && mine e.2.acc) || x.fifth.any mine

def execDetcommit (f : Frame) (s : State) : Out :=
  s.issueOnce (.detcommit f) fun i t =>
    let g := f.xa
    match i.x.member? g, i.x.owner.ensemble with
    | some m, some ens =>
      let t := t.modWarp i.w fun x => x.modMember g fun m => { m with again := none }
      if m.committed then .suspend t (.commit g)
      else if m.again == some i.e.pc then .next (t.acquireFor i.w 4)
      else if i.x.logBusy then .hold .oplog
      else if t.detFlying i.w g then .hold (.arrival true)
      else
        let t := t.modGang (clusterOf (coreOf i.w)) ens g fun q => { q with commits := q.commits + 1 }
        .suspend (t.modWarp i.w fun x => x.modMember g fun m => { m with committed := true }) (.commit g)
    | _, _ => .next t

/-- A gang's window has closed (R359): every member has committed, and every update of a departed member has been performed. -/
def State.windowClosed (s : State) (cluster : Nat) (q : Gang) : Bool :=
  let place := s.windowPlace cluster q.ensemble
  q.commits == q.memb &&
  (q.commits != 0 || s.held.any fun h => h.cluster == place && h.ensemble == q.ensemble && h.gang == q.num && h.window == q.window) &&
  (s.ensembleWarps cluster q.ensemble).all fun p => (p.2.member? q.num).isSome || !s.detFlying p.1 q.num

/-- The fold of one address (R360). -/
def foldUpdates (v : W32 × Bool) (us : List Update) : W32 × Bool :=
  us.foldl (fun (v : W32 × Bool) u => if v.2 || u.poison then (poison32, true) else (fadd32 v.1 u.val, false)) v

/-- Folds the entries of one window and address into the stored word: one indivisible step. -/
def State.foldHeld (s : State) (h : Held) : State :=
  let s := { s with held := s.held.filter fun q => !s.heldSame q h }
  let ks := (span h.key 4).map s.redirect
  if (s.homeFault (s.redirect h.key)).isSome then s
  else
    let all := (h.runs.flatMap (·.2.2) ++ h.buf).foldl (fun (r : List Update) u => u.insert r) []
    let (v, p) := foldUpdates (BitVec.ofNat 32 (ofBytes (s.bytes ks)), s.anyMarked ks) all
    let s := if p then s.writePoison ks else s.writeBytes ks (toBytes 4 v.toNat)
    (s.noteWrite h.key).afterWrite (s.redirect h.key)

/-- WINDOW_FOLD (R360): a home folds one address of the closed window of a gang; once none is left, the members' `detcommit` completes with an acquire at
`.dv`. A home whose die is in reset folds once it is back, and one whose line is locked once that is free (R400). -/
def execWindowFold (cluster g : Nat) (s : State) : Out :=
  .next (match (s.cluster cluster).gangs.find? fun q => q.num == g && s.windowClosed cluster q with
    | none => s
    | some q =>
      let mine := s.held.filter fun h =>
        h.cluster == s.windowPlace cluster q.ensemble && h.ensemble == q.ensemble && h.gang == g && h.window == q.window
      match mine.find? fun h => s.homeFault (s.redirect h.key) != some 6 && !s.lockedLine h.key with
      | some h => s.foldHeld h
      | none =>
        if !mine.isEmpty then s else
        let s := s.modGang cluster q.ensemble g fun q => { q with commits := 0, window := q.window + 1 }
        (s.ensembleWarps cluster q.ensemble).foldl (fun s p =>
          let s := s.modWarp p.1 fun x => x.modMember g fun m => { m with committed := false, dets := 0 }
          match p.2.wait with
          | some (.commit h) => if h = g then (s.finishWait p.1).acquireFor p.1 4 else s
          | _ => s) s)

end Sys2Proof.Machine
end

