-- ==== Sys2Proof/Machine/Residue.lean ====
section
/-! DEFINITION. Residue arithmetic: the channels and their ranges (R239 to R242), block alignment (R249, R250, R252), reconstruction and classification
(R255 to R258), and the rounding of drained values (R261 to R263). -/

namespace Sys2Proof.Machine

/-! ## Channels (R239 to R242) -/

def modulusOf (c : Nat) : Nat := [239, 233, 229, 227, 223, 211, 199, 197, 251, 241].getD c 1

/-- The residue of an integer in a channel. -/
def residue (c : Nat) (x : Int) : Nat := (x % (modulusOf c : Int)).toNat

/-- The range of a channel set, and its half-range. -/
def rangeOf (cs : List Nat) : Nat := (cs.map modulusOf).foldl (· * ·) 1
def halfRange (cs : List Nat) : Nat := (rangeOf cs - 1) / 2

/-! ## Reconstruction (R255) -/

def powMod (m b : Nat) : Nat → Nat
  | 0 => 1 % m
  | e + 1 => b * powMod m b e % m

/-- The inverse modulo a prime, as a power. -/
def invMod (a m : Nat) : Nat := powMod m (a % m) (m - 2)

/-- The mixed-radix digits of residues, with the moduli of the digits found so far. -/
def mixedRadix (done : List (Nat × Nat)) : List (Nat × Nat) → List (Nat × Nat)
  | [] => done
  | (m, r) :: rest =>
    let t := done.foldl (fun (t : Nat) d => (t + m * d.2 - d.2 % m) % m * invMod d.1 m % m) (r % m)
    mixedRadix (done ++ [(m, t)]) rest

/-- The integer of a channel list, centred. -/
def decodeResidues (cs : List Nat) (res : Nat → Nat) : Int :=
  let ds := mixedRadix [] (cs.map fun c => (modulusOf c, res c))
  let v := (ds.foldr (fun d (a : Nat) => d.2 + d.1 * a) 0)
  let m := rangeOf cs
  if v ≤ (m - 1) / 2 then v else (v : Int) - m

/-! ## Classification (R256, R257) -/

/-- The outcome of an element; `corr` names the channel. -/
inductive Outcome where
  | valid | corr (j : Nat) | ovf | chk
  deriving DecidableEq, Repr

/-- Primary channels of a part, by its place 0 whole, 1 h0, 2 h1, 3 q0, 4 q1, 5 q2, 6 q3 (R242, R270), and its check channels. -/
def primaryOf (p : Nat) : List Nat :=
  match p with
  | 0 => [0, 1, 2, 3, 4, 5, 6, 7] | 1 => [0, 1, 2, 3] | 2 => [4, 5, 6, 7] | 3 => [0, 1] | 4 => [2, 3] | 5 => [4, 5] | _ => [6, 7]
def checkOf (p : Nat) : List Nat :=
  match p with
  | 0 => [8, 9] | 1 => [8] | 2 => [9] | 3 => [8] | 5 => [9] | _ => []
/-- Every channel of a part. -/
def channelsOf (p : Nat) : List Nat := primaryOf p ++ checkOf p

/-- Classifies an element of a part: the delivered value and the outcome. `erased` lists the erased channels of its words. -/
def classify (p : Nat) (unchecked : Bool) (erased : List Nat) (res : Nat → Nat) : Int × Outcome :=
  let prim := primaryOf p
  let legit := fun y : Int => decide (y.natAbs ≤ halfRange prim)
  if unchecked then
    if prim.any erased.contains then (0, .chk) else (decodeResidues prim res, .valid)
  else
    let lost := (channelsOf p).filter erased.contains
    match lost with
    | [j] =>
      if p = 0 then
        let y := decodeResidues ((List.range 10).filter fun c => c != j) res
        if legit y then (y, .corr j) else (0, .chk)
      else (0, .chk)
    | _ :: _ => (0, .chk)
    | [] =>
      let y := decodeResidues (channelsOf p) res
      if legit y then (y, .valid)
      else if p ≠ 0 then (0, .chk)
      else
        let zs := (List.range 10).filterMap fun j =>
          let z := decodeResidues ((List.range 10).filter fun c => c != j) res
          if legit z then some (z, j) else none
        match zs with
        | [(z, j)] => (z, .corr j)
        | [] => (y, .ovf)
        | _ => (0, .chk)

/-! ## Block alignment (R249, R250, R252) -/

/-- Integers of a block under a fraction width and a least exponent, and the block's exponent. -/
def alignBlock (fw emin : Int) (vs : List Dy) : List Int × Int :=
  let es := (vs.filter fun v => !v.isZero).map fun v => max v.log2 emin
  let emax := match es with | [] => emin | e :: r => r.foldl max e
  (vs.map fun v => (v.scale (fw - emax)).toInt .rne, emax)

/-! ## Rounding drained values (R261, R262) -/

/-- Rounding modes of a drain: the modes of R99, or stochastic rounding with the state read at issue. -/
inductive DrainRm where
  | mode (rm : Rm)
  | sr (s : W32)
  deriving DecidableEq, Repr

/-- How a drain rounds `n / 2^k` of element `e`. -/
def DrainRm.pick (r : DrainRm) (e : Nat) (neg : Bool) (n k : Nat) : Nat :=
  match r with
  | .mode rm => roundShift rm neg n k
  | .sr s => pickSr (srbits s e) n k

/-- An integer output: the rounded value, clamped to a width. -/
def drainInt (r : DrainRm) (e width : Nat) (w : Dy) : Int :=
  let v : Int := if 0 ≤ w.e then w.n * 2 ^ w.e.toNat
    else
      let neg := decide (w.n < 0)
      let q := r.pick e neg w.n.natAbs (-w.e).toNat
      if neg then -(q : Int) else q
  satI v (-(2 ^ (width - 1))) (2 ^ (width - 1) - 1)

/-- A float output of a format code of R110; `inf` asks for the overflow rule of R101. -/
def drainFloat (r : DrainRm) (e code : Nat) (inf : Bool) (w : Dy) : Nat :=
  if w.isZero then 0
  else
    let F := fmtOf code
    let neg := decide (w.n < 0)
    let c := (F.roundWith (r.pick e neg) w.n.natAbs w.e).code
    let big := match r with
      | .sr _ => (Dy.mk (F.val F.maxCode).n (F.val F.maxCode).e).lt w.abs
      | .mode _ => decide (F.maxCode < c)
    if !big then F.sign neg (Nat.min c F.maxCode)
    else if inf && F.inf then F.sign neg (match r with | .mode rm => F.overflow rm neg | .sr _ => F.infCode)
    else F.sign neg F.maxCode

end Sys2Proof.Machine
end

