-- ==== Sys2Proof/Machine/Copies.lean ====
section
/-! DEFINITION. The transfer unit: its queues and commands (R216 to R218), the copy instructions (R220 to R233), the steps of a command (R217, R223), and
its faults, kill points and ends (R234 to R237). -/

namespace Sys2Proof.Machine

/-! ## The positions of a command (R225, R228, R230) -/

def Cmd.op (c : Cmd) (i : Nat) : W64 := c.ops.toList.getD i 0
/-- Rows, row bytes and near pitch of a tile. -/
def Cmd.rows (c : Cmd) : Nat := bits (c.op 3) 32 16 * bits (c.op 3) 16 16
def Cmd.rowBytes (c : Cmd) : Nat := bits (c.op 3) 0 16
def Cmd.pitch (c : Cmd) : Nat := bits (c.op 2) 32 20
/-- Output and source codes of `cpyr`, its blocks, and whether it has error feedback. -/
def Cmd.df (c : Cmd) : Nat := bits (c.op 3) 20 4
def Cmd.sf (c : Cmd) : Nat := bits (c.op 3) 16 4
def Cmd.blocks (c : Cmd) : Nat := bits (c.op 3) 0 16
def Cmd.ef (c : Cmd) : Bool := (c.op 3).getLsbD 27
def Cmd.srcBytes (c : Cmd) : Nat := if c.sf = 8 then 4 else 2

/-- Positions of the loop: words, or blocks of `cpyr`. -/
def Cmd.total (c : Cmd) : Nat :=
  match c.kind with
  | .cpy => bits (c.op 1) 32 32 / 4
  | .cpyr => c.blocks
  | _ => c.rows * (c.rowBytes / 4)

/-- Far bytes of a position. -/
def Cmd.step (c : Cmd) : Nat := match c.kind with | .cpyr => 32 * c.srcBytes | _ => 4

/-- The far address of a position. -/
def Cmd.farAt (c : Cmd) (i : Nat) : Nat :=
  match c.kind with
  | .cpy => ((c.op 0) + BitVec.ofNat 64 (4 * i)).toNat
  | .cpyr => ((c.op 0) + BitVec.ofNat 64 (c.step * i)).toNat
  | _ =>
    let n := c.rowBytes / 4
    let h := bits (c.op 3) 16 16
    let row := i / n
    let stride := fun lo => ((c.op 1).extractLsb' lo 32).signExtend 64
    ((c.op 0) + BitVec.ofNat 64 (row / h) * stride 32 + BitVec.ofNat 64 (row % h) * stride 0 + BitVec.ofNat 64 (4 * (i % n))).toNat

/-- The far address of a block's residuals (R231). -/
def Cmd.resAt (c : Cmd) (i : Nat) : Nat := (c.op 2 + BitVec.ofNat 64 (64 * i)).toNat

/-- The near offset of a word position. -/
def Cmd.nearAt (c : Cmd) (i : Nat) : Nat :=
  match c.kind with
  | .cpy => bits (c.op 1) 0 32 + 4 * i
  | _ =>
    let n := c.rowBytes / 4
    bits (c.op 2) 0 32 + i / n * c.pitch + 4 * (i % n)

/-- The rotation code of the near side. -/
def Cmd.nearRot (c : Cmd) : Nat :=
  match c.kind with
  | .cpy => c.rot
  | .cpyr => bits (c.op 3) 24 3
  | _ => bits (c.op 2) 52 3

/-! ## Checks at the front of the queue (R221, R228, R230) -/

/-- Offsets and lengths of the element areas of block `b` of `cpyr` (R231). -/
def Cmd.blockAreas (c : Cmd) (b : Nat) : List (Nat × Nat) :=
  let ne := bits (c.op 1) 0 32
  let planes := match c.df with | 1 => 2 | 2 => 4 | 3 => 8 | _ => 10
  if c.df = 0 then [(ne + 64 * b, 64)]
  else if c.df ≤ 4 then (List.range planes).map fun k => (ne + 32 * c.blocks * k + 32 * b, 32)
  else if c.df = 13 then [(ne + 16 * b, 16)] else [(ne + 32 * b, 32)]

/-- Near ranges of `cpyr`: offset and length of the elements and of the scales. -/
def Cmd.areas (c : Cmd) : List (Nat × Nat) :=
  let n := c.blocks
  let bytes := match c.df with
    | 0 => 64 * n | 1 => 64 * n | 2 => 128 * n | 3 => 256 * n | 4 => 320 * n | 13 => 16 * n | _ => 32 * n
  [(bits (c.op 1) 0 32, bytes), (bits (c.op 1) 32 32, n)]

/-- A near range lies in the allocation. -/
def Cmd.nearOk (c : Cmd) (core lo n : Nat) : Bool :=
  if c.cluster then lo + n ≤ 2 ^ 20 && (List.range (n / 4)).all fun i => (sliceCore core c.straddle c.cswin (lo + 4 * i) 4).isSome
  else lo + n ≤ c.spwin * 2048

/-- A far range lies in its space. -/
def State.farOk (s : State) (c : Cmd) (a n : Nat) : Bool :=
  if c.grotto then
    let g := ((s.proc? c.proc).map (·.grwin)).getD 0
    a < 2 ^ 27 && a % 2 ^ 25 + n ≤ bits g 32 10 * 65536
  else a + n ≤ 2 ^ 57

/-- The limits of the record and the ranges; a `cpy` of no bytes has no range, and only the bits of its address that must be zero (R221, R225). -/
def State.cmdOk (s : State) (core : Nat) (c : Cmd) : Bool :=
  let near := match c.kind with
    | .cpy => (c.total == 0 && (!c.grotto || (c.op 0).toNat < 2 ^ 27)) || (c.total != 0 && c.nearOk core (bits (c.op 1) 0 32) (bits (c.op 1) 32 32))
    | .cpyr =>
      [8, 10].contains c.sf && [0, 1, 2, 3, 4, 11, 12, 13].contains c.df && 1 ≤ c.blocks && bits (c.op 3) 28 36 == 0 &&
        (!c.ef || 11 ≤ c.df) && (c.ef || c.op 2 == 0) && (!c.cluster || c.nearRot == 0) &&
        c.areas.all (fun a => if c.cluster then a.1 + a.2 ≤ 2 ^ 20 &&
            ((List.range a.2).all fun i => (sliceCore core c.straddle c.cswin (a.1 + i) 1).isSome)
          else a.1 + a.2 ≤ c.spwin * 2048)
    | _ =>
      bits (c.op 2) 55 9 == 0 && bits (c.op 3) 48 16 == 0 && (!c.cluster || c.nearRot == 0) && c.rowBytes ≤ c.pitch && 4 ≤ c.rowBytes &&
        1 ≤ c.rows && (bits (c.op 2) 0 32 + (c.rows - 1) * c.pitch + c.rowBytes ≤ (if c.cluster then 2 ^ 20 else c.spwin * 2048)) &&
        (!c.cluster || (List.range c.rows).all fun r => c.nearOk core (bits (c.op 2) 0 32 + r * c.pitch) c.rowBytes)
  near && (List.range c.total).all (fun i => s.farOk c (c.farAt i) c.step) &&
    (!c.ef || c.kind != .cpyr || (List.range c.blocks).all fun i => s.farOk c (c.resAt i) 64)

/-! ## Queues -/

def State.queue (s : State) (core : Nat) (store : Bool) : List Cmd := if store then (s.core core).storeQ else (s.core core).loadQ

def State.modQueue (s : State) (core : Nat) (store : Bool) (f : List Cmd → List Cmd) : State :=
  s.modCore core fun c => if store then { c with storeQ := f c.storeQ } else { c with loadQ := f c.loadQ }

def State.modCmd (s : State) (core : Nat) (store : Bool) (id : Nat) (f : Cmd → Cmd) : State :=
  s.modQueue core store fun q => q.map fun c => if c.id == id then f c else c

/-- Every burst of a command has been translated. -/
def Cmd.translated (c : Cmd) : Bool := c.started && c.at_ == c.total

/-- The command at the front of its queue: the first that still has bursts to translate, or that a stalled burst holds (R217). -/
def frontCmd (q : List Cmd) : Option Cmd :=
  q.find? fun c => !c.killed && c.failing.isNone && (!c.translated || (c.state == .stalled && !c.bursts.isEmpty))

/-- `TSTAT.STL`, `SQ` and `CODE` after a change (R227). -/
def State.copyStatus (s : State) (core w : Nat) : State :=
  let stalled := fun (q : List Cmd) => q.find? fun c => c.w == w && c.owned && c.state == .stalled
  let c := s.core core
  s.modWarp w fun x => { x with copy := match stalled c.loadQ, stalled c.storeQ with
    | some d, _ => { x.copy with stl := true, sq := false, code := d.code }
    | none, some d => { x.copy with stl := true, sq := true, code := d.code }
    | none, none => { x.copy with stl := false, sq := false, code := x.copy.failCode } }

/-- A command ends: its entry and its token are free, and `TSTAT` records the ending (R218, R226, R227). -/
def State.endCmd (s : State) (core : Nat) (store : Bool) (c : Cmd) (f : CopyState → CopyState) : State :=
  let s := s.modQueue core store fun q => q.filter fun d => d.id != c.id
  if !c.owned then s
  else
    let s := s.modWarp c.w fun x =>
      let y := match c.token with
        | some t => { x.copy with cnt := x.copy.cnt.set t (x.copy.cnt.getD t 0 - 1) }
        | none => x.copy
      { x with copy := f y }
    (s.copyStatus core c.w).reap c.w

/-- A command with no burst in flight ends if it is killed or fails, and goes to its release if its loop is over (R218, R234, R237). -/
def State.afterBurst (s : State) (core : Nat) (store : Bool) (id : Nat) : State :=
  match (s.queue core store).find? fun c => c.id == id with
  | none => s
  | some c =>
    if !c.bursts.isEmpty then s
    else if c.killed then s.endCmd core store c fun y => { y with flags := y.flags ||| 16 }
    else match c.failing with
    | some code => s.endCmd core store c fun y => { y with flags := y.flags ||| 32, failCode := code }
    | none => if c.state == .active && c.translated then s.modCmd core store id fun d => { d with state := .releasing } else s

/-- A command fails: it ends once the bursts in flight, but for those that a test names, have completed (R218, R234; log entry 52). -/
def State.failCmd (s : State) (core : Nat) (store : Bool) (c : Cmd) (code : Nat) (gone : Burst → Bool := fun _ => false) : State :=
  ((s.modCmd core store c.id fun d => { d with state := .active, failing := some code, bursts := d.bursts.filter fun b => !gone b }).copyStatus
    core c.w).afterBurst core store c.id

/-- Flags of `TSTAT` that a command sets while it runs. -/
def State.cmdFlags (s : State) (c : Cmd) (fl : BitVec 6) : State :=
  if c.owned then s.modWarp c.w fun x => { x with copy := { x.copy with flags := x.copy.flags ||| fl } } else s

/-- A far access of a command faults (R234): it stalls, or it ends failed; a translation fault that no service resolves is recorded all the same (R396; log
entry 67). -/
def State.stallCmd (s : State) (core : Nat) (store : Bool) (c : Cmd) (code va : Nat) : State :=
  if code = 3 then (s.keyRecord (dieOf core) (s.asid c.proc) va 4 (faultPlace c.w)).failCmd core store c 3
  else if failsAtOnce code then s.failCmd core store c code
  else
    let stall := fun (s : State) (r : Option (Nat × Nat)) =>
      (s.modCmd core store c.id fun d => { d with state := .stalled, code := code, record := r, remote := false, sent := none }).copyStatus core c.w
    if code = 6 then stall s none
    else match s.faultIn (dieOf core) (s.asid c.proc) va code 4 (faultPlace c.w) (.copy core store) with
      | (none, s) => s.failCmd core store c code
      | (some r, s) => stall s (some r)

/-! ## Start (R218, R223) -/

/-- Something that the issuing warp issued before the command is still to perform: an access, or an `rfree.init` on its way. The command's accesses
follow all of it (R223, R371, R382). -/
def State.owes (s : State) (c : Cmd) : Bool :=
  c.owned && ((s.flightsOf c.w).any (fun f => f.id < c.before) || !s.initsDone c.w ||
    match s.warp? c.w with
    | some x => x.logged.any fun a => a.id < c.before
    | none => false)

/-- The cores that a `cpym` names (R229). -/
def Cmd.targets (c : Cmd) (core : Nat) : List Nat :=
  let cl := if c.mask.getLsbD 4 then partner (clusterOf core) else clusterOf core
  ((List.range 4).filter fun i => c.mask.getLsbD i).map (coreIn cl)

/-- A warp of an ensemble is in a slot of a core. -/
def State.runsEnsemble (s : State) (core e : Nat) : Bool := s.warps.any fun p => coreOf p.1 == core && p.2.owner.ensemble == some e

/-- The base of the allocation that a core holds for the command's ensemble, which it runs (R229); a task's is on its own core. -/
def State.targetBase (s : State) (c : Cmd) (core t : Nat) : Option Nat :=
  match c.ensemble with
  | some e => if s.runsEnsemble t e then ((s.core t).spAlloc.find? fun a => a.ensemble == some e).map (·.base) else none
  | none => if t = core then some c.spbase else none

/-- The skip mask of a `cpym` as the cores are now. -/
def State.skipped (s : State) (c : Cmd) (core : Nat) : BitVec 4 :=
  (c.targets core).foldl (fun (m : BitVec 4) t => if (s.targetBase c core t).isNone then m ||| (1#4 <<< (t % 4)) else m) c.skip

/-- A kill of a warp falls in this clk: it is suspended at a kill point, or may issue nothing before one (R430). -/
def State.killNow (s : State) (w : Nat) : Bool :=
  match s.warp? w with
  | none => false
  | some x => s.killDue w x || (s.cancelledAt x.owner.scope (dieOf (coreOf w)) && !(((s.scopes.get? x.owner.scope).map (·.coop)).getD false) &&
      x.wait.isNone && x.run == 0 && !x.marks.halted && !x.marks.ended)

/-- COMMAND_START (R218, R223): the checks of R221, the wait and the acquire. A kill that is due at the warp comes first (R237, R238, R475). -/
def execCommandStart (core : Nat) (store : Bool) (s : State) : Out :=
  .next (match frontCmd (s.queue core store) with
    | none => s
    | some c =>
      if c.state != .queued || (c.owned && s.killNow c.w) then s
      else if !s.cmdOk core c then s.failCmd core store c 2
      else if s.owes c then s
      else
        let s := if c.acq then s.acquire core c.scope else s
        let skip := if c.kind == .cpym then s.skipped c core else 0
        s.modCmd core store c.id fun d =>
          { d with started := true, skip := skip, state := if d.total = 0 then .releasing else .active })

/-! ## Bursts (R217) -/

/-- Positions of the next burst: those that follow in the same 4 KiB of far addresses, at most 4 KiB. -/
def Cmd.burst (c : Cmd) : Nat :=
  let page := c.farAt c.at_ / 4096
  ((List.range (Nat.min (c.total - c.at_) (4096 / c.step))).takeWhile fun j => c.farAt (c.at_ + j) / 4096 == page).length

/-- The permission that the far side needs. -/
def Cmd.perm (c : Cmd) : Nat := if c.out then 1 else 0

/-- What far addresses name: keys, none for those of another node, with the last node met; or a fault (R221, R234, R507). -/
abbrev FarPlaces := Except (Nat × Nat) (List (Option Nat) × Option Nat)

def State.farKeys (s : State) (core : Nat) (c : Cmd) (perm : Nat) (vas : List Nat) : FarPlaces × State :=
  if c.grotto then
    let g := ((s.proc? c.proc).map (·.grwin)).getD 0
    let ks := vas.map fun a => grottoKey (a / 2 ^ 25) (bits g 16 9 * 65536 + a % 2 ^ 25)
    (match ks.findSome? s.homeFault with | some f => .error (f, vas.headD 0) | none => .ok (ks.map some, none), s)
  else vas.foldl (fun (r : FarPlaces × State) va =>
    match r.1 with
    | .error e => (.error e, r.2)
    | .ok (ks, node) =>
      match r.2.translate core c.proc va perm with
      | (.fault f, t) => (.error (f, va), t)
      | (.leaf e _, t) =>
        if pteTier e = 3 then
          let job := ((s.proc? c.proc).map (·.fjob)).getD 0
          (if !job.getLsbD 63 then .error (2, va)
           else if leafNode e = s.nodeid.toNat then (match s.serveVa (job.setWidth 32) va 1 perm with
             | .ok qs => .ok (ks ++ qs.map some, node)
             | .error f => .error (f, va))
           else if !s.pathUp (leafNode e) then .error (7, va)
           else .ok (ks ++ [none], some (leafNode e)), t)
        else match t.homeFault (t.redirect (leafKey e va)) with
          | some f => (.error (f, va), t)
          | none => (.ok (ks ++ [some (leafKey e va)], node), t)) (.ok ([], none), s)

/-- BURST_TRANSLATION (R217, R234): the next burst of the queue's front command. -/
def execBurstTranslation (core : Nat) (store : Bool) (s : State) : Out :=
  .next (match frontCmd (s.queue core store) with
    | none => s
    | some c =>
      if c.state != .active || 8 ≤ ((s.queue core store).map fun d => d.bursts.length).sum then s
      else
        let n := c.burst
        match s.farKeys core c c.perm ((List.range n).map fun j => c.farAt (c.at_ + j)) with
        | (.error (f, va), s) => s.stallCmd core store c f va
        | (.ok (far, node), t) =>
          let held := fun (t : State) (ks : List (Option Nat)) => (ks.filterMap fun k => k).any fun k => t.portHolds core t.clock (t.redirect k)
          if held t far then s
          else
          let old := s
          let s := t
          let rest := if c.kind == .cpyr && c.ef then
              s.farKeys core c 2 ((List.range n).map fun j => c.resAt (c.at_ + j))
            else (.ok ([], none), s)
          match rest with
          | (.error (f, va), s) => s.stallCmd core store c f va
          | (.ok (res, resNode), s) =>
            if held s res then old
            else s.modCmd core store c.id fun d =>
              { d with at_ := d.at_ + n, bursts := d.bursts ++
                [{ first := d.at_, count := n, far := far.filterMap fun k => k, res := res, node := node, resNode := resNode, since := s.clock }] })

/-! ## What a burst reads and writes -/

/-- The near keys of `n` bytes at an offset, on a target core with its base. -/
def Cmd.nearKeys (c : Cmd) (core base off n : Nat) : List Nat :=
  if c.cluster then (List.range n).map fun i =>
    match sliceCore core c.straddle c.cswin (off + i) 1 with
    | some t => sliceKey t (c.csbase + (off + i) % 2 ^ 17)
    | none => sliceKey core c.csbase
  else scratchKeys core base c.nearRot off n

/-- A read of bytes in a view: the bytes, and whether they are poison (R236). -/
def readBytes (v : State) (ks : List Nat) : List Byte × Bool := (v.bytes ks, v.anyMarked ks)

/-- `n` far bytes from a key as the agents of the core see them (R375), with the lines that an abort has lost as poison; an uncorrectable word of a
destination aborts its migration (R402). Bytes of another node, and whether they are poison there, are free values (R507). -/
def State.readFar (s : State) (core : Nat) (key : Option Nat) (n : Nat) : (List Byte × Bool) × State :=
  match key with
  | none => let (bs, t) := s.drawBytes n; ((bs, (Config.freeValue t.draws).getLsbD 0), { t with draws := t.draws + 1 })
  | some k =>
    let ks := span k n
    let place := ks.map s.redirect
    let (bs, p) := readBytes (s.coreView core fun _ => true) place
    ((bs, p || ks.any s.lostLine), (wordsOf place).foldl (fun t w => t.errorFound (w * 8)) s)

/-- Near memory as the transfer unit reads it: the write buffers over the banks (R224). -/
def State.nearView (s : State) (core : Nat) (c : Cmd) : State :=
  if c.cluster then (sliceCores core c.straddle).foldl State.sliceView s else s.portView core

/-- A list of writes of one step: byte keys, bytes, poison. -/
abbrev Writes := List (List Nat × List Byte × Bool)

/-- A block of `cpyr` (R231): writes to the near side by offset, the residual writes' bytes, and the flags of `TSTAT`. -/
structure BlockOut where
  near : List (Nat × List Byte × Bool)
  res : List Byte × Bool
  flags : BitVec 6

/-- Converts the 32 values of a block. -/
def Cmd.convert (c : Cmd) (b : Nat) (src : List Byte) (res : List Byte) (poisoned : Bool) : BlockOut :=
  let ns := bits (c.op 1) 32 32
  let dt := c.df
  let areas := c.blockAreas b
  if poisoned then
    { near := areas.map (fun a => (a.1, List.replicate a.2 0, true)) ++ [(ns + b, [0xFF], false)], res := (List.replicate 64 0, true), flags := 1 }
  else
    let word := fun (l : List Byte) (w i : Nat) => ofBytes ((l.drop (w * i)).take w)
    let ins : List (Option Dy) := (List.range 32).map fun i =>
      let v := (fmtOf c.sf).dec (word src c.srcBytes i)
      let r := if c.ef then bf16.dec (word res 2 i) else .num false ⟨0, 0⟩
      match v, r with
      | .num _ x, .num _ y => some (x.add y)
      | _, _ => none
    let special := ins.any (·.isNone)
    let vs := ins.filterMap fun o => o
    if 11 ≤ dt then
      let q := mxQuant dt (fun _ neg => roundShift .rne neg) vs
      let elems := if special then List.replicate 32 0 else q.elems
      let code := if special then 255 else q.code
      let bytes := if dt = 13 then (List.range 16).map fun i => BitVec.ofNat 8 (elems.getD (2 * i) 0 + 16 * elems.getD (2 * i + 1) 0)
        else elems.map (BitVec.ofNat 8)
      let back := (List.range 32).flatMap fun i =>
        toBytes 2 (if special then 0 else bf16.encSat .rne ((vs.getD i ⟨0, 0⟩).sub (mxValue dt q.code (q.elems.getD i 0))))
      { near := [((areas.headD (0, 0)).1, bytes, false), (ns + b, [BitVec.ofNat 8 code], false)], res := (back, false),
        flags := if special then 8 else if q.clamped then 4 else 0 }
    else
      let (ints, emax) := alignBlock (if dt = 1 then 13 else 14) (-126) vs
      let ints := if special then List.replicate 32 0 else ints
      let scale := if special then 255 else (emax + 127).toNat
      let datas := if dt = 0 then [ints.flatMap fun n => toBytes 2 (n % 65536).toNat]
        else (List.range areas.length).map fun k => ints.map fun n => BitVec.ofNat 8 (residue k n)
      { near := (areas.zip datas).map (fun p => (p.1.1, p.2, false)) ++ [(ns + b, [BitVec.ofNat 8 scale], false)], res := ([], false),
        flags := if special then 8 else 0 }

/-- The cores whose near memory a command writes, with their bases. -/
def State.nearCores (s : State) (c : Cmd) (core : Nat) : List (Nat × Nat) :=
  if c.kind == .cpym then
    (c.targets core).filterMap fun t => if c.skip.getLsbD (t % 4) then none else (s.targetBase c core t).map (t, ·)
  else [(core, c.spbase)]

/-- Reads of a burst: near writes by offset, far writes by key, and the flags. -/
def State.gather (s : State) (core : Nat) (c : Cmd) (b : Burst) : (List (Nat × List Byte × Bool) × Writes × BitVec 6) × State :=
  let view := s.nearView core c
  (List.range b.count).foldl (fun (r : (List (Nat × List Byte × Bool) × Writes × BitVec 6) × State) j =>
    let (acc, s) := r
    let i := b.first + j
    let far := b.far[j]?
    if c.kind == .cpyr then
      let ((src, p), s) := s.readFar core far c.step
      let key := (b.res[j]?).join
      let ((rs, q), s) := if c.ef then s.readFar core key 64 else (([], false), s)
      let o := c.convert i src rs (p || q)
      ((acc.1 ++ o.near, acc.2.1 ++ (match key with | some k => [(span k 64, o.res.1, o.res.2)] | none => []), acc.2.2 ||| o.flags), s)
    else if c.out then
      let (bs, p) := readBytes view (c.nearKeys core c.spbase (c.nearAt i) 4)
      ((acc.1, acc.2.1 ++ (match far with | some k => [(span k 4, bs, p)] | none => []), acc.2.2 ||| (if p then 1 else 0)), s)
    else
      let ((bs, p), s) := s.readFar core far 4
      ((acc.1 ++ [(c.nearAt i, bs, p)], acc.2.1, acc.2.2 ||| (if p then 1 else 0)), s)) (([], [], 0), s)

/-- Far writes: at the places where their lines are, with what a home does after a write. -/
def State.writeFar (s : State) (core : Nat) (c : Cmd) (vas : List Nat) (ws : Writes) : State :=
  let s := (wordWrites c.w (ws.map fun l => (l.1.map s.redirect, l.2.1, l.2.2))).foldl State.applyWord s
  let keys := ws.flatMap (·.1)
  let s := keys.foldl State.noteWrite s
  let s := ((ws.filterMap fun l => l.1.head?).map s.redirect).foldl State.afterWrite s
  if c.grotto then s else s.l1Drop core (s.asid c.proc) vas

/-- Near writes reach the banks once the buffers hold no earlier entry of the same words (R210, R224). -/
def State.writeNear (s : State) (core : Nat) (c : Cmd) (ws : List (Nat × List Byte × Bool)) : State :=
  (s.nearCores c core).foldl (fun s t =>
    let ks := ws.map fun l => (c.nearKeys t.1 t.2 l.1 l.2.1.length, l.2.1, l.2.2)
    let keys := ks.flatMap (·.1)
    (wordWrites c.w ks).foldl State.applyWord (if c.cluster then s.drainSlices keys else s.drainFor t.1 keys)) s

/-- Requests that a burst makes at its home slices, one for each line (R405). -/
def State.sampleBurst (s : State) (core : Nat) (c : Cmd) (b : Burst) : State :=
  if c.grotto then s
  else
    let count := fun (s : State) (ks : List Nat) (va : Nat) => ((ks.map (· / 256)).eraseDups).foldl (fun s l => s.sampleRequest (l * 256) c.proc va core) s
    count (count s b.far (c.farAt b.first)) (b.res.filterMap fun k => k) (c.resAt b.first)

/-! ## Completion of bursts -/

/-- Destination bytes of a burst, as near offsets or far addresses: two bursts of one command that share none may perform in any order (R217). -/
def Cmd.dest (c : Cmd) (b : Burst) : List Nat :=
  match c.kind with
  | .cpyr => (List.range b.count).flatMap fun j =>
    ((bits (c.op 1) 32 32 + b.first + j, 1) :: c.blockAreas (b.first + j)).flatMap fun a => span a.1 a.2
  | _ => (List.range b.count).map fun j => if c.out then c.farAt (b.first + j) else c.nearAt (b.first + j)

/-- The bursts in flight of a queue, in order, with their commands. -/
def flyingBursts (q : List Cmd) : List (Cmd × Burst) := q.flatMap fun c => c.bursts.map fun b => (c, b)

/-- A burst reaches another node. -/
def Burst.remote (b : Burst) : Bool := b.node.isSome || b.resNode.isSome

/-- An early write of a core to one of these bytes is still to reach its home; a later write of the core waits for it (R371, R375). -/
def State.earlyAt (s : State) (core : Nat) (ks : List Nat) : Bool :=
  s.flights.any fun f => f.core == core && s.early f && f.todo.any fun l => (s.placed l).keys.any (ks.map s.redirect).contains

/-- A copy of a core may reach home words, and cluster-shared slices, in this clk (R309, R362). -/
def State.copyOpen (s : State) (core : Nat) (homes slices : List Nat) : Bool :=
  homes.all (fun k => s.portsOpen [k] (s.homeRank core k)) &&
  slices.all fun k => mayServe (s.core (sliceOwner k)).served s.clock (arrivalRank s.clock (clusterOf (sliceOwner k)) core)

/-- It reaches them. -/
def State.noteCopy (s : State) (core : Nat) (homes slices : List Nat) : State :=
  let s := ((slices.map sliceOwner).eraseDups).foldl (fun s h => s.modCore h fun c =>
    { c with served := (s.clock, arrivalRank s.clock (clusterOf h) core) }) s
  (wordsOf homes).foldl (fun s w => s.notePorts [w * 8] (s.homeRank core (w * 8))) s

/-- The keys of a burst's near side in cluster-shared slices. -/
def Cmd.sliceKeys (c : Cmd) (core : Nat) (b : Burst) : List Nat :=
  if !c.cluster then []
  else if c.kind == .cpyr then (List.range b.count).flatMap fun j =>
    ((bits (c.op 1) 32 32 + b.first + j, 1) :: c.blockAreas (b.first + j)).flatMap fun a => c.nearKeys core c.spbase a.1 a.2
  else (List.range b.count).flatMap fun j => c.nearKeys core c.spbase (c.nearAt (b.first + j)) 4

/-- The command stalls at a burst in flight (R234): the other bursts complete, and later ones of the queue wait. -/
def State.stallBurst (s : State) (core : Nat) (store : Bool) (c : Cmd) (b : Burst) (code : Nat) (remote : Bool) : State :=
  (s.modCmd core store c.id fun d =>
    { d with state := .stalled, code := code, record := none, remote := remote,
             bursts := d.bursts.map fun q => if q.first == b.first then { q with stuck := true } else q }).copyStatus core c.w

/-- BURST_COMPLETE (R217): the `k`-th burst in flight of a queue reads and writes, unless an earlier burst of its command writes a byte of its own, a line
that it writes is locked, an earlier write of its core is on its way to a byte that it writes, or an access that the order of a clk puts later has been served
(R309, R362); a fault at another node and a die in reset stall the command, which holds back what follows in the queue (R217, R234, R507). -/
def execBurstComplete (core : Nat) (store : Bool) (k : Nat) (s : State) : Out :=
  .next (match (flyingBursts (s.queue core store))[k]? with
    | none => s
    | some (c, b) =>
      let earlier := c.bursts.takeWhile fun d => d.first != b.first
      let dest := c.dest b
      let res := b.res.filterMap fun k => k
      let keys := b.far ++ res
      let written := if c.out then b.far.flatMap fun k => span k 4 else res.flatMap fun k => span k 64
      let answer := if b.remote then (remoteAnswer (Config.freeValue s.draws)).filter (· != 4) else none
      let homes := (b.far.flatMap fun k => span k c.step) ++ res.flatMap fun k => span k 64
      let shared := c.sliceKeys core b
      if (earlier.any fun d => (c.dest d).any dest.contains) || written.any s.lockedLine || s.earlyAt core written ||
          ((flyingBursts (s.queue core store)).take (k + 1)).any (fun p => p.2.stuck) || !s.copyOpen core homes shared then s
      else match answer with
      | some f =>
        let s := { s with draws := s.draws + 1 }
        if 64 ≤ f then s.failCmd core store c (f - 64) fun q => q.first == b.first else s.stallBurst core store c b (f - 32) true
      | none =>
      let s := if b.remote then { s with draws := s.draws + 1 } else s
      match keys.findSome? fun k => s.homeFault (s.redirect k) with
      | some 6 => s.stallBurst core store c b 6 false
      | some f => s.failCmd core store c f fun q => q.first == b.first
      | none =>
        -- a target that no longer runs the ensemble is skipped from here on (R229)
        let c := if c.kind == .cpym then { c with skip := s.skipped c core } else c
        let s := s.noteCopy core homes shared
        let ((near, far, flags), s) := s.gather core c b
        let vas := (List.range b.count).flatMap fun j => c.farAt (b.first + j) :: (if c.kind == .cpyr && c.ef then [c.resAt (b.first + j)] else [])
        let s := s.writeNear core c near
        let s := if far.isEmpty then s else s.writeFar core c vas far
        let s := if c.grotto then s else s.l1Drop core (s.asid c.proc) vas
        let s := (s.sampleBurst core c b).cmdFlags c flags
        (s.modCmd core store c.id fun d => { d with skip := c.skip, bursts := d.bursts.filter fun q => q.first != b.first }).afterBurst core store c.id)

/-! ## Release, flag word and end (R223) -/

/-- The flag value: a 64-bit flag of `cpym` carries the skip mask. -/
def Cmd.flagValue (c : Cmd) (v : W64) : W64 := if c.kind == .cpym then putBits v 32 4 c.skip.toNat else v

/-- The command ends done. -/
def State.doneCmd (s : State) (core : Nat) (store : Bool) (c : Cmd) : State :=
  s.endCmd core store c fun y =>
    if c.kind == .cpym then { y with skip := c.skip, flags := y.flags ||| (if c.skip = 0 then 0 else 2) } else y

/-- The flag word of a command at its place: key and length. A write of the core that is on its way there, a locked line and a full promotion record make it
wait (R223, R378, R400). -/
def State.storeFlag (s : State) (core : Nat) (c : Cmd) (a : W64) (key n : Nat) (v : W64) : State :=
  let s := s.writeFar core { c with grotto := false } [a.toNat] [(span key n, toBytes n (c.flagValue v).toNat, false)]
  let s := (s.notePorts [key] (s.homeRank core key)).sampleRequest key c.proc a.toNat core
  if c.rel then s.noteRelease core (some c.scope) (s.redirect key) else s

/-- The release of a command has taken effect at its scope (R208, R223): what its warp may have read of its core's stores has performed (R368). -/
def State.commandReleased (s : State) (c : Cmd) : Bool := !c.rel || !c.owned || c.scope ≤ 1 || s.seenDone c.w c.before

/-- COMMAND_RELEASE (R223, R226): every write is performed; the flag word is stored, and the command ends done. A kill that is due at its warp comes first
(R238). A flag word at another node sets out, and its response ends the command (R507, R514). -/
def execCommandRelease (core : Nat) (store : Bool) (k : Nat) (s : State) : Out :=
  .next (match (s.queue core store)[k]? with
    | none => s
    | some c =>
      if c.state != .releasing || c.killed || c.failing.isSome || (c.owned && s.killNow c.w) || !s.commandReleased c then s
      else
      let s := if c.rel && c.owned then s.cleanSlices c.w c.scope else s
      match c.flag with
      | none => s.doneCmd core store c
      | some (a, v, wide) =>
        let n := if wide then 8 else 4
        if 2 ^ 57 ≤ a.toNat then s.failCmd core store c 2
        else match s.farKeys core { c with grotto := false } 1 [a.toNat] with
        | (.error (f, va), s) => s.stallCmd core store c f va
        | (.ok (_, some _), s) =>
          if c.sent.isNone then s.modCmd core store c.id fun d => { d with sent := some s.clock }
          else
          let t := { s with draws := s.draws + 1 }
          (match remoteAnswer (Config.freeValue s.draws) with
          | none | some 4 => t.doneCmd core store c
          | some f => if 64 ≤ f then t.failCmd core store c (f - 64)
            else (t.modCmd core store c.id fun d => { d with state := .stalled, code := f - 32, record := none, remote := true, sent := none }).copyStatus core c.w)
        | (.ok (ks, none), s) =>
          let key := (ks.head?.join).getD 0
          if s.lockedLine key || s.earlyAt core (span key n) || !s.recordOpen core (if c.rel then some c.scope else none) key c.before || !s.copyOpen core [key] [] then s
          else (s.storeFlag core c a key n v).doneCmd core store c)

/-! ## Instructions -/

/-- Values whose alignment is checked at issue, in order, with the multiples that they must be (R222, R228, R230). -/
def copyAligns (kind : CopyKind) (ops : List W64) : List (W64 × Nat) :=
  let o := fun i => ops.getD i 0
  let field := fun i lo n => BitVec.ofNat 64 (bits (o i) lo n)
  match kind with
  | .cpy => [(o 0, 4), (field 1 0 32, 4), (field 1 32 32, 4)]
  | .cpyr => [(o 0, if bits (o 3) 16 4 = 8 then 128 else 64), (o 2, 64), (field 1 0 32, 16), (field 1 32 32, 4)]
  | _ => [(o 0, 4), (field 1 32 32, 4), (field 1 0 32, 4), (field 2 0 32, 4), (field 2 32 20, 4), (field 3 0 16, 4)]

/-- The issue of a copy (R222, R223). -/
def Issue.copy (i : Issue) (s : State) (kind : CopyKind) : Act :=
  let f := i.f
  let (ops, tag) := i.x.uniGroup f.ka (if kind == .cpy then 2 else 4)
  let (fl, ftag) := if f.bit 8 then i.x.uniGroup f.kb 2 else ([], false)
  let flagBytes := if f.bit 7 then 8 else 4
  let store := f.v.getLsbD 1
  let core := coreOf i.w
  let mask := f.imm.setWidth 5
  let aligns := copyAligns kind ops ++ (fl.take 1).map fun a => (a, flagBytes)
  if tag || ftag then .trap 9 0
  else match aligns.find? fun p => p.1.toNat % p.2 != 0 with
  | some (v, _) => .trap 0x0A v
  | none =>
    if kind == .cpym && (mask.setWidth 4 == 0 || (mask.getLsbD 4 && !i.x.straddle)) then .trap 0x10 (mask.setWidth 4 |>.setWidth 64)
    else if f.bit 10 && i.x.logBusy then .hold .oplog
    else if 16 ≤ (s.queue core store).length then .hold (.queue store)
    else
      let (id, s) := s.fresh
      let c : Cmd :=
        { id := id, w := i.w, kind := kind, grotto := f.v.getLsbD 2, out := store, cluster := f.v.getLsbD 0,
          ops := Vector.ofFn fun j => ops.getD j.val 0, scope := f.scope, rel := f.bit 10, acq := f.bit 9,
          flag := match fl with | [a, v] => some (a, v, f.bit 7) | _ => none,
          rot := f.mf 4 3, token := if f.bit 3 then some (f.mf 0 3) else none, mask := if kind == .cpym then mask else 0,
          proc := i.x.owner.proc, spwin := i.x.spwin, spbase := i.x.spbase, cswin := i.x.cswin, csbase := i.x.csbase,
          straddle := i.x.straddle, ensemble := i.x.owner.ensemble, before := id }
      let s := s.modQueue core store fun q => q ++ [c]
      .next (s.modWarp i.w fun x => match c.token with
        | some t => { x with copy := { x.copy with cnt := x.copy.cnt.set t (x.copy.cnt.getD t 0 + 1) } }
        | none => x)

def execCpy (f : Frame) (s : State) : Out := s.issueOnce (.cpy f) fun i t => i.copy t .cpy
def execCpyt (f : Frame) (s : State) : Out := s.issueOnce (.cpyt f) fun i t => i.copy t .cpyt
def execCpym (f : Frame) (s : State) : Out := s.issueOnce (.cpym f) fun i t => i.copy t .cpym
def execCpyr (f : Frame) (s : State) : Out := s.issueOnce (.cpyr f) fun i t => i.copy t .cpyr

/-- A value into a lane register of every active lane, or into a uniform register under DU (R232). -/
def Issue.writeValue (i : Issue) (s : State) (v : W64) : State :=
  if i.f.du then i.writeUni s i.f.kd v false else i.writeLane s i.f.xd (fun _ => v.setWidth 32) 0

/-- Tokens that are pending, as `TOKENS.PEND` shows them (R226). -/
def Warp.pending (x : Warp) : Nat :=
  (List.range 8).foldl (fun m i => if x.copy.cnt.getD i 0 = 0 then m else m + 2 ^ i) 0

def execCpyq (f : Frame) (s : State) : Out :=
  s.issueOnce (.cpyq f) fun i t =>
    let count := fun (q : List Cmd) => (q.filter fun c => f.vn == 0 || (c.w == i.w && c.owned)).length
    let core := coreOf i.w
    .next (i.writeValue t (BitVec.ofNat 64 (i.x.pending * 2 ^ 24 + count (t.queue core true) * 2 ^ 16 + count (t.queue core false) * 2 ^ 8)))

def execCpyx (f : Frame) (s : State) : Out :=
  s.issueOnce (.cpyx f) fun i t =>
    let tm := f.mf 0 8
    let core := coreOf i.w
    let gone := (t.commandsOf i.w).filter fun c =>
      c.state == .queued && (tm == 0 || (match c.token with | some k => tm.testBit k | none => false))
    let u := t.mapCmds core fun c => if gone.any (fun d => d.id == c.id) then none else some c
    let u := u.modWarp i.w fun x =>
      let cnt := gone.foldl (fun (m : Tbl Nat) c => match c.token with | some k => m.set k (m.getD k 0 - 1) | none => m) x.copy.cnt
      { x with copy := { x.copy with cnt := cnt, flags := if gone.isEmpty then x.copy.flags else x.copy.flags ||| 16 } }
    .next (i.writeValue u (BitVec.ofNat 64 gone.length))

end Sys2Proof.Machine
end

