-- ==== Sys2Proof/Machine/Fabric.lean ====
section
/-! DEFINITION. Resolution of faults (R396, R168, R169), requests from other nodes (R507, R508, R513), failures of nodes (R514), and `nodeq` (R515). -/

namespace Sys2Proof.Machine

/-! ## Resolving a fault -/

/-- An entry that the service resolves or gives up (R169). -/
def LogEntry.resolved (e : LogEntry) (giveup : Bool) (order : Nat) : LogEntry :=
  if giveup then { e with state := .failed, raised := false, record := none, remote := false }
  else { e with state := .queued, order := order, record := none, remote := false }

/-- Resolves the operand-log entries that pass a test, of warps and of saved contexts. -/
def State.resolveLogs (s : State) (p : LogEntry → Bool) (giveup : Bool) : State :=
  let f := fun (x : Warp) => { x with log := x.log.map fun e => (e.1, if p e.2 then e.2.resolved giveup s.nextId else e.2) }
  { s with nextId := s.nextId + 1, warps := s.warps.map fun w => (w.1, f w.2),
           saved := s.saved.map fun c => { c with warps := c.warps.map fun w => (w.1, f w.2) } }

/-- A stalled command goes on (R234). -/
def Cmd.resumed (c : Cmd) : Cmd :=
  { c with state := if c.translated && c.bursts.isEmpty then .releasing else .active, record := none, remote := false,
           bursts := c.bursts.map fun b => { b with stuck := false } }

/-- Every stalled copy command that passes a test resumes, or fails without the burst that it has stalled at. -/
def State.resolveCopies (s : State) (p : Cmd → Bool) (giveup : Bool) : State :=
  s.cores.keys.foldl (fun s core => [false, true].foldl (fun s store =>
    ((s.queue core store).filter fun c => c.state == .stalled && p c).foldl (fun s c =>
      if giveup then s.failCmd core store c c.code (·.stuck) else (s.modCmd core store c.id Cmd.resumed).copyStatus core c.w) s) s) s

/-! ## Requests from other nodes (R507) -/

/-- The die that owns a port: UALink ports 0 to 15, four per die, then one Ethernet port per die (R504, R505). -/
def portDie (port : Nat) : Nat := if port < 16 then port / 4 else (port - 16) % 4

/-- The answer to a request: 0 with the bytes read, 4 with poison, otherwise the code of its failure. -/
def State.answer (s : State) (k code : Nat) (bs : List Byte) : State :=
  match s.incoming.get? k with
  | some q => { s with incoming := s.incoming.set k { q with answer := some (code, bs) } }
  | none => s

def remotePerm : RemoteKind → Nat
  | .read => 0
  | .write .. => 1
  | .atomic .. => 2

/-- The answer to a request that has performed: an `.rp` acquire waits until the cores in the line's promotion record have performed what they had written by
then (R378, R511). -/
def State.concludeRemote (s : State) (k : Nat) (r : RemoteReq) (line code : Nat) (bs : List Byte) : State :=
  match if r.rp then (s.promoted line).filter fun c => s.coreOwes c s.nextId else [] with
  | [] => s.answer k code bs
  | cs => match s.incoming.get? k with
    | some q => { s with incoming := s.incoming.set k { q with result := some (code, bs), owed := cs, upto := s.nextId } }
    | none => s

/-- Performs a request at the homes of its bytes (R507): a flipped line at its destination, poison as R196 states it. A release at `.cl` or wider empties the
promotion record of the line; a narrower one of another node does not enter it (R378, R511). -/
def State.performRemote (s : State) (k : Nat) (r : RemoteReq) (proc : Nat) (ks : List Nat) : State :=
  let place := ks.map s.redirect
  let die := portDie r.port
  let line := place.headD 0
  let released := fun (t : State) => if r.rel.any fun c => 2 ≤ c then t.noteRelease (96 * die) r.rel line else t
  let after := fun (t : State) => released (place.head?.elim (ks.foldl State.noteWrite t) (ks.foldl State.noteWrite t).afterWrite)
  let found := fun (t : State) => (wordsOf place).foldl (fun t w => t.errorFound (w * 8)) t
  let s := (s.sampleRequest (ks.headD 0) proc r.va.toNat (96 * die)).notePorts ks (5 + r.port)
  let done := fun (t : State) (code : Nat) (bs : List Byte) => t.concludeRemote k r line code bs
  match r.kind with
  | .read => if s.anyMarked place then done (found s) 4 [] else done (found s) 0 (s.bytes place)
  | .write data tag => done (after ((wordWrites 0 [(place, data, tag)]).foldl State.applyWord s)) 0 []
  | .atomic aop wide data new =>
    let n := if wide then 8 else 4
    if s.anyMarked place then done (found s) 4 []
    else
      let old := s.bytes place
      let v := atomicNew aop n (ofBytes old) (data.toNat % 2 ^ (8 * n)) (new.toNat % 2 ^ (8 * n))
      done (after (s.writeBytes place (toBytes n v))) 0 old

/-- The die that owns the port of a request walks the tables of the process that it is delivered to, with its walker's cache (R394, R507). -/
def State.walkRemote (s : State) (r : RemoteReq) (p : Nat) : State := if r.va.toNat < 2 ^ 57 then s.noteWalk (96 * portDie r.port) p r.va.toNat else s

/-- A request arrived before another on its port for the same line, and has no answer (R507, R513). -/
def State.portBusy (s : State) (k : Nat) (r : RemoteReq) : Bool :=
  s.incoming.any fun q => q.1 < k && q.2.answer.isNone && q.2.result.isNone && q.2.req.port == r.port && q.2.req.job == r.job &&
    q.2.req.va.toNat / 256 == r.va.toNat / 256

/-- Serves a request that has no answer: delivery to the process of its job, translation there, its home. A fault of translation enters the fault queue of the
port's die and waits; a locked line and a die in reset make it wait, and so does an access that the order of a clk puts later: the dies of this node come first,
then the ports in ascending order, each in order of arrival (R513). -/
def State.serveIncoming (s : State) (k : Nat) : State :=
  match s.incoming.get? k with
  | none => s
  | some q =>
    if q.answer.isSome || q.result.isSome || s.portBusy k q.req then s
    else
      let r := q.req
      let n := match r.kind with | .atomic _ wide _ _ => if wide then 8 else 4 | .write data _ => data.length | .read => r.bytes
      match s.procs.find? fun p => p.2.fjob.getLsbD 63 && p.2.fjob.setWidth 32 == r.job with
      | none => s.answer k 2 []
      | some (p, _) =>
        if (match r.kind with | .atomic .. => r.node.toNat / 1024 != s.nodeid.toNat / 1024 | _ => false) then s.answer k 2 []
        else match s.serveVa r.job r.va.toNat n (remotePerm r.kind) with
        | .error c =>
          let s := s.walkRemote r p
          if c = 3 then (s.keyRecord (portDie r.port) (s.asid p) r.va.toNat 5 (List.replicate 4 0xFF)).answer k 3 []
          else if failsAtOnce c then s.answer k c []
          else if c = 6 then s
          else (match s.faultIn (portDie r.port) (s.asid p) r.va.toNat c 5 (List.replicate 4 0xFF) (.remote k) with
            | (none, s) => s.answer k c []
            | (some _, s) => s)
        | .ok ks =>
          let writes := match r.kind with | .read => false | _ => true
          if ks.any s.lostLine then s.answer k 4 []
          else match ks.findSome? fun i => s.homeFault (s.redirect i) with
          | some 6 => s
          | some c => s.answer k c []
          | none => if (writes && ks.any s.lockedLine) || !s.portsOpen ks (5 + r.port) then s else (s.walkRemote r p).performRemote k r p ks

/-- REMOTE_REQUEST (R507): a request of another node arrives. A number whose pod exceeds 767 names no node, and no logical port exceeds 19 (R503 to R505). -/
def execRemoteRequest (r : RemoteReq) (s : State) : Out :=
  if 768 ≤ r.node.toNat / 1024 || 20 ≤ r.port then .next s
  else
  let (k, s) := s.fresh
  .next ({ s with incoming := s.incoming.set k { req := r } }.serveIncoming k)

/-- A request that nothing holds back any more: it has no answer, and no record names it. -/
def State.incomingReady (s : State) (k : Nat) : Bool :=
  (match s.incoming.get? k with | some q => q.answer.isNone && q.result.isNone | none => false) &&
  !s.dies.any fun d => d.2.faults.any fun r => r.waiters.contains (.remote k)

/-! ## `FLTRES` (R396) -/

/-- A fetch that waits for a record fetches again, or takes its trap. -/
def State.resolveFetch (s : State) (r : FaultRec) (w : Nat) (giveup : Bool) : State :=
  match s.warp? w with
  | none => s
  | some x => match x.wait with
    | some (.fetch va) =>
      if !r.covers (s.asid x.owner.proc) va then s
      else if giveup then s.takeTrap w 0x0E (BitVec.ofNat 64 va) ((x.hw.head?.map (·.pc)).getD 0)
      else s.setWarp w { x with wait := none }
    | _ => s

/-- A write of `FLTRES`: every waiter of the record is resolved, and the record is gone; an unknown number is ignored. -/
def State.resolveRecord (s : State) (die : Nat) (id : W32) (giveup : Bool) : State :=
  match (s.die die).faults.find? fun r => r.id == id && r.written with
  | none => s
  | some r =>
    let s := s.modDie die fun d => { d with faults := d.faults.filter fun q => q.id != id }
    let mine := some (die, id.toNat)
    let s := s.resolveLogs (fun e => e.record == mine) giveup
    let s := s.resolveCopies (fun c => c.record == mine) giveup
    let s := r.waiters.foldl (fun s x => match x with
      | .fetch w => s.resolveFetch r w giveup
      | .remote k => if giveup then s.answer k r.code [] else s.serveIncoming k
      | _ => s) s
    s.flushFaults die

/-- FLTRES_RETRY, FLTRES_GIVEUP (R396). -/
def execFltresRetry (die : Nat) (id : W32) (s : State) : Out :=
  .next ((s.modDie die fun d => { d with fltres := id.setWidth 64 }).resolveRecord die id false)
def execFltresGiveup (die : Nat) (id : W32) (s : State) : Out :=
  .next ((s.modDie die fun d => { d with fltres := id.setWidth 64 ||| (1#64 <<< 63) }).resolveRecord die id true)

/-- REMOTE_FAULT_RESOLUTION (R507): the other node resolves the fault of an access, or of a burst of the copy command, of this number. -/
def execRemoteFaultResolution (k : Nat) (giveup : Bool) (s : State) : Out :=
  .next ((s.resolveLogs (fun e => e.remote && e.acc.id == k && e.state == .pending) giveup).resolveCopies
    (fun c => c.id == k && c.remote) giveup)

/-! ## Unreachable nodes (R514) -/

/-- A burst to another node that has had no response for 2^24 clk (R514). -/
def Burst.overdue (b : Burst) (clock : Nat) : Bool := b.remote && !b.stuck && b.since + 2 ^ 24 ≤ clock

/-- NODE_UNREACHABLE (R514): the remote lanes of an access that has had no response within 2^24 clk fail with code 7; so does a copy command with such a burst,
once its other bursts have completed, or with such a flag word. -/
def execNodeUnreachable (k : Nat) (s : State) : Out :=
  .next (match s.flight? k with
    | some a =>
      let ls := a.todo.filter fun l => l.node.isSome
      if ls.isEmpty || s.clock < a.issuedAt + 2 ^ 24 then s
      else s.settle { a with failed := a.failed ++ ls.map fun l => (l.lane, 7) }
    | none => s.cores.keys.foldl (fun s core => [false, true].foldl (fun s store =>
        ((s.queue core store).filter fun c => c.id == k && (c.bursts.any (·.overdue s.clock) ||
            (c.state == .releasing && c.sent.any fun n => n + 2 ^ 24 ≤ s.clock))).foldl (fun s c =>
          s.failCmd core store c 7 (·.overdue s.clock)) s) s) s)

/-! ## `nodeq` (R515) -/

/-- What `nodeq.st` reports of a node. -/
def State.nodeStatus (s : State) (n : Nat) : W64 :=
  if n = s.nodeid.toNat then putBits (putBits (BitVec.ofNat 64 n) 63 1 1) 62 1 1
  else match (s.routes.get? n).filter fun _ => n < 768 * 1024 with
  | none => BitVec.ofNat 64 n
  | some _ =>
    let near := n / 1024 = s.nodeid.toNat / 1024
    let v := putBits (putBits (BitVec.ofNat 64 n) 63 1 1) 62 1 (s.pathUp n).toNat
    putBits (putBits v 60 2 (if !s.pathUp n then 3 else if near then 1 else 2)) 56 4 (if near then 1 else 3)

def execNodeqSt (f : Frame) (s : State) : Out :=
  s.issueOnce (.nodeqSt f) fun i t =>
    let (k, tag) := i.x.uni f.ka
    if tag then .trap 9 0
    else .next (i.produceUni t f.kd (if bits k 20 44 = 0 then t.nodeStatus (bits k 0 20) else 0) false)

def execNodeqMap (f : Frame) (s : State) : Out :=
  s.pageOp (.nodeqMap f) fun i a t =>
    let (leaf, t) := t.pageLeaf (coreOf i.w) i.x.owner.proc a
    match leaf.filter fun l => pteRd l.1 with
    | none => (0, t)
    | some (e, _) =>
      (if pteTier e = 3 then putBits (putBits (BitVec.ofNat 64 (leafNode e)) 63 1 1) 62 1 1
       else putBits (s.nodeid.setWidth 64) 63 1 1, t)

end Sys2Proof.Machine
end

