-- ==== Sys2Proof/Machine/Tiles.lean ====
section
/-! DEFINITION. Accumulator slots (R270 to R274) and what the matrix instructions do to them: accumulation (R251 to R254, R285), moves between tiles (R286 to
R288), drains and checks (R289 to R294), and raw images (R296). -/

namespace Sys2Proof.Machine

/-! ## Parts (R270 to R274) -/

/-- The place of a part by its PART code. -/
def partIx (code : Nat) : Nat := if code ≤ 2 then code else code - 1

/-- Other parts that overlap a part (R270). -/
def overlaps (p : Nat) : List Nat := (List.range 7).filter fun q => q != p && (channelsOf q).any (channelsOf p).contains

def Slot.part (t : Slot) (p : Nat) : Part := t.parts.toList.getD p {}
def Slot.setPart (t : Slot) (p : Nat) (x : Part) : Slot := { t with parts := t.parts.set! p x }
def Slot.modPart (t : Slot) (p : Nat) (f : Part → Part) : Slot := t.setPart p (f (t.part p))

/-- Makes the overlapping parts clear (R272). -/
def Slot.clearOthers (t : Slot) (p : Nat) : Slot := (overlaps p).foldl (fun t q => t.setPart q {}) t
/-- Makes a part and the overlapping parts clear. -/
def Slot.clearPart (t : Slot) (p : Nat) : Slot := (t.setPart p {}).clearOthers p

def zeroResidues : Residues := Vector.replicate 10 0
def Slot.elem (t : Slot) (k : Nat) : Residues := t.elems.getD k zeroResidues
def Residues.at (r : Residues) (c : Nat) : Nat := (r.toList.getD c 0).toNat

/-- Rewrites channels of every element. -/
def Slot.setElems (t : Slot) (cs : List Nat) (f : Nat → Nat → Nat) : Slot :=
  { t with elems := (List.range 4096).filterMap fun k =>
      let r : Residues := Vector.ofFn fun c => if cs.contains c.val then BitVec.ofNat 8 (f k c.val) else (t.elem k)[c]
      if r = zeroResidues then none else some (k, r) }

/-- The word of a channel that holds an element (R273). -/
def accWord (c k : Nat) : Nat := c * 512 + k / 8

/-- The channels of an element whose word is erased. -/
def Slot.erasedAt (t : Slot) (k : Nat) : List Nat := (List.range 10).filter fun c => t.erased.contains (accWord c k)

/-- Those of some channels that have an erased word among the elements. -/
def Slot.erasedAmong (t : Slot) (cs : List Nat) : List Nat := cs.filter fun c => t.erased.any fun w => w / 512 == c
/-- Channels of a part that have an erased word among the elements. -/
def Slot.erasedIn (t : Slot) (p : Nat) : List Nat := t.erasedAmong (channelsOf p)

/-- Drops the erasure marks of channels. -/
def Slot.mend (t : Slot) (cs : List Nat) : Slot := { t with erased := t.erased.filter fun w => !cs.contains (w / 512) }

/-- The status bits that a part shows: a clear part only those that an operation which left it clear has set, DSC, XR and those of a drain (R272, R274; log
entry 70). -/
def Part.shown (x : Part) : BitVec 16 := if x.clr then x.status &&& 0x0C7E else x.status

/-- Bits [15:0] of the status word (R274). The masks of a clear part read 0 (R272). -/
def Part.word (x : Part) : Nat :=
  let on := fun (i : Nat) (b : Bool) => if b then 2 ^ i else 0
  let m := fun i => x.masks.toList.getD i 0
  let base := (x.shown &&& 0x2CFE).toNat
  base + on 12 x.clr + on 9 (!x.clr && (m 2 != 0 || m 3 != 0)) + on 8 (!x.clr && (m 0 != 0 || m 1 != 0))

/-- The whole status word; the tag of a clear part reads 0 (R272). -/
def Part.statusWord (x : Part) : W64 := BitVec.ofNat 64 ((if x.clr then 0 else x.tag.toNat) * 2 ^ 48 + x.word)

def Part.or (x : Part) (b : BitVec 16) : Part := { x with status := x.status ||| b }

/-- Status bits (R274, R300). -/
def stDsc : BitVec 16 := 0x800
def stXr : BitVec 16 := 0x400
def stPsn : BitVec 16 := 0x200
def stNan : BitVec 16 := 0x100
def stErs : BitVec 16 := 0x80
def stUck : BitVec 16 := 0x2000

/-- `NAN` and `PSN` for the masks that an operation brings to a part (R300). -/
def Part.markStat (x : Part) : BitVec 16 :=
  let m := fun i => x.masks.toList.getD i 0
  if x.clr then 0 else (if m 0 != 0 || m 1 != 0 then stNan else 0) ||| (if m 2 != 0 || m 3 != 0 then stPsn else 0)

/-- What an operation answers: the slot after it, the conditions for `MXSTAT`, the channels with an erasure seen, and the channels corrected in tile order. -/
structure TileOut where
  slot : Slot
  stat : BitVec 16 := 0
  seen : List Nat := []
  fixed : List Nat := []

/-- Erasures of a part have been seen (R273). -/
def Slot.see (t : Slot) (p : Nat) (cs : List Nat) : Slot := if cs.isEmpty then t else t.modPart p fun x => x.or stErs

/-! ## The exponent rule (R253) -/

/-- The new exponent of a tile, unless a shift of more than 30 is needed. -/
def newTag (old : Option Int) (lo hi : Int) : Option Int :=
  let t0 := old.getD lo
  let tn := min t0 lo
  if 30 < t0 - tn || 30 < hi - tn then none else some tn

/-- A residue times a power of two. -/
def shiftResidue (c r k : Nat) : Nat := r % modulusOf c * powMod (modulusOf c) (2 % modulusOf c) k % modulusOf c

/-! ## Operands (R251, R275, R276) -/

/-- Bits of an element per plane, planes, and whether there is a scale area, by the operand code. -/
def operandBits (code : Nat) : Nat := match code with | 0 => 4 | 3 => 16 | 4 => 4 | 7 => 16 | _ => 8
def operandPlanes (code : Nat) : Nat := match code with | 8 => 2 | 9 => 4 | 10 => 8 | 11 => 10 | _ => 1
/-- The scale or exponent area is read. -/
def operandScales (code : Nat) (bs : Bool) : Bool := bs && 4 ≤ code

/-- A descriptor (R275). -/
structure Desc where
  base : Nat
  tp : Nat
  rp : Nat
  rot : Nat
  ok : Bool

def descOf (k k1 : W64) : Desc :=
  { base := bits k 0 32, tp := bits k 32 32, rp := bits k1 0 16, rot := bits k1 16 4,
    ok := bits k1 20 44 == 0 && bits k 0 32 % 16 == 0 && bits k 32 32 % 16 == 0 && bits k1 0 16 % 16 == 0 && bits k1 16 4 ≤ 7 }

/-- Validity of an area of 64 rows (R277): its planes, row bytes, and the bytes of its scale area. -/
def Desc.valid (d : Desc) (limit planes row scale : Nat) : Bool :=
  d.ok && row ≤ d.rp && (!(1 < planes || 0 < scale) || 63 * d.rp + row ≤ d.tp) &&
    d.base + (planes - 1) * d.tp + 63 * d.rp + row ≤ limit && (scale = 0 || d.base + planes * d.tp + scale ≤ limit)

/-- The operand of a row of an `mma`, block by block: residues of its elements, the block's exponent, and NaN; with the poison of the row. -/
structure OperandRow where
  elems : List (Nat → Nat)
  eps : List (Option Int)
  nan : Bool
  poison : Bool

/-- Residues of an integer. -/
def ofInt (n : Int) : Nat → Nat := fun c => residue c n

/-- A block of 32 elements, or the whole K without block scaling: residues, exponent where there is one, NaN. -/
def operandBlock (code : Nat) (bs : Bool) (n : Nat) (planes : List (List Byte)) (scale : Nat) : List (Nat → Nat) × Option Int × Bool :=
  let bytes := planes.headD []
  let byte := fun i => (bytes.getD i 0)
  let nib := fun i => ((byte (i / 2)) >>> (4 * (i % 2))).setWidth 4
  let half := fun i => (byte (2 * i + 1) ++ byte (2 * i) : BitVec 16)
  let ix := List.range n
  let zeros := ix.map fun _ => ofInt 0
  match code with
  | 0 => (ix.map fun i => ofInt (nib i).toInt, some 0, false)
  | 1 => (ix.map fun i => ofInt (byte i).toInt, some 0, false)
  | 2 => (ix.map fun i => ofInt (byte i).toNat, some 0, false)
  | 3 => (ix.map fun i => ofInt (half i).toInt, some 0, false)
  | 4 =>
    if scale = 255 then (zeros, none, true)
    else (ix.map fun i => ofInt ((e2m1.val (nib i).toNat).scale 1 |>.toInt .rne), some ((scale : Int) - 128), false)
  | 5 | 6 =>
    let F := if code = 5 then e4m3 else e5m2
    let fw : Int := if code = 5 then 10 else 9
    if scale = 255 then (zeros, none, true)
    else
      let vs := ix.map fun i => F.dec (byte i).toNat
      let (ns, emax) := alignBlock fw F.emin (vs.map fun v => match v with | .num _ x => x | _ => ⟨0, 0⟩)
      (ns.map ofInt, some ((scale : Int) - 127 + emax - fw), vs.any fun v => match v with | .num .. => false | _ => true)
  | 7 => if scale = 255 then (zeros, none, true) else (ix.map fun i => ofInt (half i).toInt, some ((scale : Int) - 141), false)
  | _ =>
    let have_ := operandPlanes code
    let el := fun (i : Nat) (c : Nat) =>
      let plane := fun q => ((planes.getD q []).getD i 0).toNat
      if c < have_ then plane c % modulusOf c else residue c (decodeResidues (List.range have_) plane)
    if bs && scale = 255 then (zeros, none, true)
    else (ix.map el, some (if bs then (scale : Int) - (if code = 8 then 140 else 141) else 0), false)

/-- The keys of `n` bytes of an area, from a row, plane and byte. -/
def Desc.keys (d : Desc) (core base plane row lo n : Nat) : List Nat := scratchKeys core base d.rot (d.base + plane * d.tp + row * d.rp + lo) n

/-- One row of an operand, as the feed reads it from the banks (R210, R276, R280). -/
def State.operandRow (s : State) (core base : Nat) (d : Desc) (code : Nat) (bs : Bool) (k row : Nat) : OperandRow :=
  let planes := operandPlanes code
  let rowBytes := k * operandBits code / 8
  let rows := (List.range planes).map fun q => d.keys core base q row 0 rowBytes
  let scales := operandScales code bs
  let blocks := if bs then k / 32 else 1
  let sk := if scales then scratchKeys core base d.rot (d.base + planes * d.tp + row * blocks) blocks else []
  let data := rows.map s.bytes
  let per := rowBytes / blocks
  let out := (List.range blocks).map fun b =>
    operandBlock code bs (k / blocks) (data.map fun r => (r.drop (b * per)).take per) (if scales then (s.byte (sk.getD b 0)).toNat else 0)
  { elems := out.flatMap (·.1), eps := out.map (·.2.1), nan := out.any (·.2.2), poison := (rows.any s.anyMarked) || s.anyMarked sk }

/-! ## Accumulation (R285) -/

/-- The mask of the rows for which a test holds. -/
def rowMask (f : Nat → Bool) : W64 := (List.range 64).foldl (fun (m : W64) i => if f i then m ||| (1#64 <<< i) else m) 0

def orMasks (a b : Vector W64 4) : Vector W64 4 := Vector.zipWith (· ||| ·) a b

/-- The minimum or maximum over rows of the exponents of one block. -/
def blockExtreme (rows : List OperandRow) (b : Nat) (pick : Int → Int → Int) : Option Int :=
  rows.foldl (fun (m : Option Int) r => match m, r.eps.getD b none with
    | none, e => e
    | some x, some y => some (pick x y)
    | some x, none => some x) none

/-- `mma` into a part from its operand rows: unchecked, it has no check channel (R242). Bits [13:7] of the status accumulate, but under `.z` (R274). -/
def Slot.accumulate (t : Slot) (p : Nat) (z uck : Bool) (a b : List OperandRow) (blocks : Nat) : TileOut :=
  let x := t.part p
  let fresh := z || x.clr
  let cs := if uck then primaryOf p else channelsOf p
  let pairs := (List.range blocks).filterMap fun k =>
    match blockExtreme a k min, blockExtreme b k min, blockExtreme a k max, blockExtreme b k max with
    | some la, some lb, some ha, some hb => some (la + lb, ha + hb)
    | _, _, _, _ => none
  let old := if fresh then none else some x.tag.toInt
  let seen := if fresh then [] else t.erasedAmong cs
  let t := t.see p seen
  let x := t.part p
  let marks : Vector W64 4 :=
    #v[rowMask fun i => (a[i]?.map (·.nan)).getD false, rowMask fun j => (b[j]?.map (·.nan)).getD false,
       rowMask fun i => (a[i]?.map (·.poison)).getD false, rowMask fun j => (b[j]?.map (·.poison)).getD false]
  let finish := fun (t : Slot) (tag : BitVec 16) =>
    let masks := if fresh then marks else orMasks x.masks marks
    let status := (if z then x.status &&& 0x7E else x.shown) ||| (if uck then stUck else 0)
    let t := (t.setPart p { clr := false, tag := tag, masks := masks, status := status }).clearOthers p
    { slot := if fresh then t.mend cs else t,
      stat := ({ clr := false, masks := marks } : Part).markStat ||| (if seen.isEmpty then 0 else stErs),
      seen := seen : TileOut }
  match pairs with
  | [] => if fresh then finish (t.setElems cs fun _ _ => 0) 0 else finish t x.tag
  | (l, h) :: r =>
    match newTag old (r.foldl (fun m e => min m e.1) l) (r.foldl (fun m e => max m e.2) h) with
    | none => { slot := t.modPart p fun x => x.or stXr, stat := stXr ||| (if seen.isEmpty then 0 else stErs), seen := seen }
    | some tn =>
      let per := (a.headD { elems := [], eps := [], nan := false, poison := false }).elems.length / blocks
      let term := fun (i j c k : Nat) =>
        match a[i]?, b[j]? with
        | some ra, some rb =>
          (match ra.eps.getD k none, rb.eps.getD k none with
           | some ea, some eb =>
             let m := modulusOf c
             let sum := (List.range per).foldl (fun (s : Nat) e =>
               (s + (ra.elems.getD (k * per + e) (ofInt 0)) c * (rb.elems.getD (k * per + e) (ofInt 0)) c) % m) 0
             shiftResidue c sum (ea + eb - tn).toNat
           | _, _ => 0)
        | _, _ => 0
      let u := t.setElems cs fun k c =>
        let start := if fresh then 0 else shiftResidue c ((t.elem k).at c) (x.tag.toInt - tn).toNat
        ((List.range blocks).foldl (fun s b => s + term (k / 64) (k % 64) c b) start) % modulusOf c
      finish u (BitVec.ofInt 16 tn)

/-! ## Moves between tiles (R286 to R288) -/

/-- Erasure marks of channels of one slot carried to another. -/
def carryErased (cs : List Nat) (src dst : Slot) : List Nat :=
  (src.erased.filter fun w => cs.contains (w / 512)).foldl setInsert dst.erased

/-- `madd`: `a` is the source slot, the destination's own where `same`. Whatever the sum, the parts that overlap another destination become clear; where the source
is not clear, `UCK` and its erasures come to the destination. -/
def Slot.add (t a : Slot) (p : Nat) (same : Bool) : TileOut :=
  let others := fun (u : Slot) => if same then u else u.clearOthers p
  let xa := a.part p
  let xd := t.part p
  let cs := channelsOf p
  let uck := (xa.shown ||| xd.shown) &&& stUck
  if xa.clr then { slot := others (t.modPart p fun x => x.or uck) }
  else
    let seen := a.erasedIn p ++ (if xd.clr then [] else t.erasedIn p)
    let stat := xa.markStat ||| (if seen.isEmpty then 0 else stErs)
    if xd.clr then
      let u := ((t.setElems cs fun k c => (a.elem k).at c).mend cs).setPart p
        { clr := false, tag := xa.tag, masks := xa.masks, status := xd.shown ||| uck }
      { slot := others ({ u with erased := carryErased cs a u }.see p seen), stat := stat, seen := seen }
    else match newTag (some xd.tag.toInt) xa.tag.toInt xa.tag.toInt with
    | none =>
      let u := { t with erased := carryErased cs a t }
      { slot := others ((u.see p seen).modPart p fun x => x.or (stXr ||| uck)), stat := stXr ||| (if seen.isEmpty then 0 else stErs), seen := seen }
    | some tn =>
      let u := t.setElems cs fun k c =>
        (shiftResidue c ((t.elem k).at c) (xd.tag.toInt - tn).toNat + shiftResidue c ((a.elem k).at c) (xa.tag.toInt - tn).toNat) % modulusOf c
      let u := { u with erased := carryErased cs a u }
      let u := (u.see p seen).modPart p fun x => { x with tag := BitVec.ofInt 16 tn, masks := orMasks xd.masks xa.masks, status := x.status ||| uck }
      { slot := others u, stat := stat, seen := seen }

/-- The erasures that a read of a part meets (R273); a clear part is not read. -/
def Slot.seenIn (t : Slot) (p : Nat) : List Nat := if (t.part p).clr then [] else t.erasedIn p

/-- `mcopy` from another slot. -/
def Slot.copyFrom (t a : Slot) (p : Nat) : TileOut :=
  let cs := channelsOf p
  let seen := a.seenIn p
  let u := ((t.setElems cs fun k c => (a.elem k).at c).mend cs).setPart p (a.part p)
  { slot := (({ u with erased := carryErased cs a u } : Slot).see p seen).clearOthers p,
    stat := (a.part p).markStat ||| (if seen.isEmpty then 0 else stErs), seen := seen }

/-- `mscl`. -/
def Slot.scaleBy (t : Slot) (p : Nat) (c dt : Int) : TileOut :=
  let x := t.part p
  if x.clr then { slot := t }
  else
    let tag := x.tag.toInt + dt
    if tag < -32768 || 32767 < tag then { slot := t.modPart p fun x => x.or stXr, stat := stXr }
    else
      let seen := t.erasedIn p
      let u := t.setElems (channelsOf p) fun k ch => (t.elem k).at ch % modulusOf ch * residue ch c % modulusOf ch
      { slot := ((u.see p seen).modPart p fun x => { x with tag := BitVec.ofInt 16 tag }).clearOthers p,
        stat := if seen.isEmpty then 0 else stErs, seen := seen }

/-! ## Reading elements (R256, R257, R264, R291) -/

/-- What a drain makes of an element. -/
inductive Elem where
  | poison
  | nan
  | value (y : Int)
  deriving DecidableEq, Repr

/-- An element of a part as Flowstone classifies it. -/
def Slot.classifyAt (t : Slot) (p k : Nat) : Int × Outcome :=
  let x := t.part p
  if x.clr then (0, .valid) else classify p (x.status &&& stUck != 0) (t.erasedAt k) fun c => (t.elem k).at c

/-- An element with its marks. -/
def Slot.read (t : Slot) (p k : Nat) : Elem × Outcome :=
  let x := t.part p
  let mark := fun (m n : Nat) => (x.masks.toList.getD m 0).getLsbD n
  let (y, o) := t.classifyAt p k
  (if !x.clr && (mark 2 (k / 64) || mark 3 (k % 64)) then .poison
   else if !x.clr && (mark 0 (k / 64) || mark 1 (k % 64)) then .nan
   else if o == .chk then .poison else .value y, o)

/-- Bits [4:2] of the status for outcomes. -/
def outcomeBits (os : List Outcome) : BitVec 16 :=
  (if os.contains .chk then 16 else 0) ||| (if os.contains .ovf then 8 else 0) |||
    (if os.any fun o => match o with | .corr _ => true | _ => false then 4 else 0)

def fixedOf (os : List Outcome) : List Nat := os.filterMap fun o => match o with | .corr j => some j | _ => none

/-- Rewrites bits [6:1] after a drain or a check. -/
def Part.drained (x : Part) (b : BitVec 16) : Part := { x with status := (x.status &&& ~~~0x7E) ||| (b &&& 0x7E) }

/-! ## Drains (R261 to R267, R289 to R293) -/

/-- The output of a drain to a format: the code of each element and whether it is poison, the scale of each row and block, the residual of each element and
whether it is poison, and the status bits. -/
structure DrainOut where
  elems : List (Nat × Nat × Bool)
  scales : List (Nat × Nat × Nat)
  residuals : List (Nat × Nat × Bool)
  stat : BitVec 16

/-- Element width in bits of an output format. -/
def outBits (f : Nat) : Nat := match f with | 0 => 32 | 1 => 16 | 2 => 16 | 7 => 4 | 9 => 4 | 10 => 32 | _ => 8
/-- The float code of an output format (R110), or none for an integer. -/
def outFloat (f : Nat) : Option Nat := match f with | 0 => some 8 | 1 => some 10 | 2 => some 9 | 3 => some 11 | 4 => some 12 | 5 => some 11 | 6 => some 12 | 7 => some 13 | _ => none
def isMx (f : Nat) : Bool := f == 5 || f == 6 || f == 7

/-- A BF16 residual `w − d` with saturation (R265). -/
def residual (w : Dy) (d : FVal) : Nat × Bool :=
  match d with
  | .inf neg => (bf16.sign (!neg) bf16.maxCode, true)
  | .num _ v =>
    let r := w.sub v
    if r.isZero then (0, false)
    else (bf16.encSat .rne r, bf16.maxCode < (bf16.round .rne (decide (r.n < 0)) r.n.natAbs r.e).code)
  | .nan _ => (0, false)

/-- One MX block of a row (R263, R264, R266): scale code, element codes, residuals, SAT. Elements beyond the largest saturate, under `.inf` too. -/
def drainBlock (rm : DrainRm) (code : Nat) (first : Nat) (ws : List Dy) : Nat × List (Nat × Nat × Bool) × Bool :=
  let q := mxQuant code (fun i neg => rm.pick (first + i) neg) ws
  let F := fmtOf code
  let scale : Int := (q.code : Int) - 127
  let out := (ws.zip q.elems).map fun p =>
    let d := match F.dec p.2 with | .num s v => FVal.num s (v.scale scale) | v => v
    let (r, sat) := residual p.1 d
    (p.2, r, sat)
  (q.code, out, q.clamped)

/-- The result of elements `ks` of a part under an output format. -/
def drainElems (rm : DrainRm) (f : Nat) (inf ef : Bool) (tag : Int) (s : Int) (ks : List Nat) (rd : Nat → Elem) : DrainOut :=
  let w := fun y : Int => (⟨y, tag + s⟩ : Dy)
  if isMx f then
    let code := (outFloat f).getD 11
    let blocks := ((ks.map (· / 32)).eraseDups)
    blocks.foldl (fun (o : DrainOut) b =>
      let first := b * 32
      let es := (List.range 32).map fun i => rd (first + i)
      let place := fun i v (p : Bool) => (first + i, v, p)
      if es.contains .poison then
        { elems := o.elems ++ (List.range 32).map (fun i => place i 0 true), scales := o.scales ++ [(b / 2, b % 2, 255)],
          residuals := o.residuals ++ (List.range 32).map (fun i => (first + i, 0, true)), stat := o.stat ||| stPsn }
      else if es.contains .nan then
        { elems := o.elems ++ (List.range 32).map (fun i => place i 0 false), scales := o.scales ++ [(b / 2, b % 2, 255)],
          residuals := o.residuals ++ (List.range 32).map (fun i => (first + i, 0, false)), stat := o.stat ||| 2 }
      else
        let ws := es.map fun e => match e with | .value y => w y | _ => ⟨0, 0⟩
        let (sc, out, sat) := drainBlock rm code first ws
        { elems := o.elems ++ out.mapIdx (fun i r => place i r.1 false), scales := o.scales ++ [(b / 2, b % 2, sc)],
          residuals := o.residuals ++ out.mapIdx (fun i r => (first + i, r.2.1, false)),
          stat := o.stat ||| (if sat || (ef && out.any (·.2.2)) then 0x20 else 0) }) { elems := [], scales := [], residuals := [], stat := 0 }
  else
    ks.foldl (fun (o : DrainOut) k =>
      match rd k with
      | .poison => { o with elems := o.elems ++ [(k, 0, true)], residuals := o.residuals ++ [(k, 0, true)], stat := o.stat ||| stPsn }
      | .nan =>
        let v := match outFloat f with | some c => (fmtOf c).nan | none => 0
        { o with elems := o.elems ++ [(k, v, false)], residuals := o.residuals ++ [(k, 0, false)], stat := o.stat ||| 2 }
      | .value y =>
        match outFloat f with
        | some c => { o with elems := o.elems ++ [(k, drainFloat rm k c inf (w y), false)] }
        | none =>
          let n := drainInt rm k (outBits f) (w y)
          let (r, sat) := residual (w y) (.num false ⟨n, 0⟩)
          { o with elems := o.elems ++ [(k, (n % 2 ^ outBits f).toNat, false)], residuals := o.residuals ++ [(k, r, false)],
                   stat := o.stat ||| (if sat && ef then 0x20 else 0) })
      { elems := [], scales := [], residuals := [], stat := 0 }

/-- The output of an `.ef` drain exceeds the escalation threshold (R267). -/
def escalates (eft : BitVec 16) (o : DrainOut) : Bool :=
  let limit := eft.toNat % 2 ^ 15
  limit ≤ bf16.infCode && o.residuals.any fun r => !r.2.2 && limit < r.2.1 % 2 ^ 15

/-! ## Raw images (R296) -/

/-- The image of a slot: 41,216 bytes. -/
def Slot.image (t : Slot) : List Byte :=
  ((List.range 10).flatMap fun q => (List.range 4096).map fun k => BitVec.ofNat 8 ((t.elem k).at q)) ++
  ((List.range 7).flatMap fun p =>
    let x := t.part p
    toBytes 2 x.tag.toNat ++ toBytes 2 x.word ++ x.masks.toList.flatMap fun m => toBytes 8 m.toNat) ++ toBytes 4 0

/-- A slot whose live parts have been read whole: the slot, and the channels with erasures met (R273). -/
def Slot.readAll (t : Slot) : Slot × List Nat :=
  (List.range 7).foldl (fun (r : Slot × List Nat) p => let cs := r.1.seenIn p; (r.1.see p cs, r.2 ++ cs)) (t, [])

/-- `NAN` and `PSN` for the masks of every part of a slot. -/
def Slot.markStat (t : Slot) : BitVec 16 := (List.range 7).foldl (fun (b : BitVec 16) p => b ||| (t.part p).markStat) 0

/-- The slot that an image gives; `marked` names the words of eight bytes that are poisoned. -/
def slotOfImage (bs : List Byte) (marked : Nat → Bool) : Slot :=
  let num := fun o n => ofBytes ((bs.drop o).take n)
  let erased := (List.range 5120).filter marked
  let parts : Vector Part 7 := Vector.ofFn fun p =>
    let o := 40960 + 36 * p.val
    let st := BitVec.ofNat 16 (num (o + 2) 2)
    let lost := erased.any fun w => (channelsOf p.val).contains (w / 512)
    { clr := st.getLsbD 12, tag := BitVec.ofNat 16 (num o 2), masks := Vector.ofFn fun i => BitVec.ofNat 64 (num (o + 4 + 8 * i.val) 8),
      status := (st &&& 0x2CFE) ||| (if lost then stErs else 0) }
  { parts := parts,
    elems := (List.range 4096).filterMap fun k =>
      let r : Residues := Vector.ofFn fun c => bs.getD (4096 * c.val + k) 0
      if r = zeroResidues then none else some (k, r),
    erased := erased }

end Sys2Proof.Machine
end

