-- ==== Sys2Proof/Machine/Matrix.lean ====
section
/-! DEFINITION. Matrix instructions (R283 to R297): their issue into the queues (R278), the start of queue heads (R279, R281), their completion (R298), and what a
clk does to running operations and to the power budget (R280 to R282). -/

namespace Sys2Proof.Machine

/-! ## What an instruction touches -/

/-- Slot and part of an accumulator field. -/
def accOf (n : BitVec 8) : Nat × Nat := (n.toNat % 32, partIx (Form.part n))

/-- The parts that a matrix instruction reads or writes. -/
def mxTouch : Instr → List (Nat × Nat)
  | .mzero f => [accOf f.d]
  | .mma f => [accOf f.d]
  | .madd f => [accOf f.d, accOf f.a.num]
  | .mcopy f => [accOf f.d, accOf f.a.num]
  | .mscl f => [accOf f.d]
  | .mdrainS f => [accOf f.a.num]
  | .mdrainR f => [accOf f.a.num]
  | .mfill f => [accOf f.d]
  | .mspill f => [accOf f.a.num]
  | .mchk f => [accOf f.a.num]
  | .mchkFix f => [accOf f.a.num]
  | .mstat f => [accOf f.a.num]
  | _ => []

def isMma : Instr → Bool
  | .mma _ => true
  | _ => false

/-- Instructions that hold the arrays of their channels (R298). -/
def usesArrays : Instr → Bool
  | .mma _ => true | .madd _ => true | .mcopy _ => true | .mscl _ => true
  | _ => false

/-- Instructions that need Flowstone (R279). -/
def usesFlowstone : Instr → Bool
  | .mdrainS _ => true | .mdrainR _ => true | .mchk _ => true | .mchkFix _ => true
  | _ => false

/-- Two instructions touch overlapping parts. -/
def mxMeets (a b : Instr) : Bool :=
  (mxTouch a).any fun x => (mxTouch b).any fun y => x.1 == y.1 && (x.2 == y.2 || (overlaps x.2).contains y.2)

/-- Two `mma` into one part. -/
def sameMma (a b : Instr) : Bool := isMma a && isMma b && mxTouch a == mxTouch b

def mxChannels (i : Instr) : List Nat := (mxTouch i).flatMap fun x => channelsOf x.2

/-! ## Issue (R278) -/

/-- Matrix instructions of a core that have not completed. -/
def State.mxAll (s : State) (core : Nat) : List MxCmd := (s.core core).mxq.toList.flatMap fun q => q

def State.modMxq (s : State) (core q : Nat) (f : List MxCmd → List MxCmd) : State :=
  s.modCore core fun c => { c with mxq := c.mxq.set! q (f (c.mxq.toList.getD q [])) }

/-- The destination that an instruction marks empty at issue (R278). -/
def mxDest (f : Frame) : Instr → Dest
  | .mdrainR _ => .lane f.xd (if f.mf 10 4 = 0 ∨ f.mf 10 4 = 10 then 2 else 1)
  | .mchk _ => .uni f.kd 1
  | .mchkFix _ => .uni f.kd 1
  | .mstat _ => .uni f.kd 1
  | _ => .none

/-- Issue of a matrix instruction with its uniform operands: pairs are read where the instruction names a descriptor. -/
def State.mxIssue (s : State) (instr : Instr) (na nb nc : Nat) : Out :=
  s.issueOnce instr fun i t =>
    let f := i.f
    let (a, ta) := i.x.uniGroup f.ka na
    let (b, tb) := i.x.uniGroup f.kb nb
    let (c, tc) := i.x.uniGroup f.kc nc
    let core := coreOf i.w
    let q := quadOf i.w
    let queue := (t.core core).mxq.toList.getD q []
    if ta || tb || tc then .trap 9 0
    else if 8 ≤ (queue.filter fun m => !m.started).length then .stall .mxFull
    else
      let sr := (match instr with | .mdrainS _ => true | .mdrainR _ => true | _ => false) && f.mf 7 3 == 4
      let (id, t) := t.fresh
      let m : MxCmd :=
        { id := id, w := i.w, instr := instr, ops := #v[a.getD 0 0, a.getD 1 0, b.getD 0 0, b.getD 1 0, c.getD 0 0, c.getD 1 0],
          eft := i.x.mx.eft, seed := i.x.fp.seed.setWidth 32, spwin := i.x.spwin, spbase := i.x.spbase, act := i.act,
          order := (t.core core).mxOrder,
          after := Nat.max i.x.loadMark i.x.relMark }
      let t := (t.modMxq core q fun q => q ++ [m]).modCore core fun c => { c with mxOrder := c.mxOrder + 1 }
      .next (t.modWarp i.w fun x =>
        let y := (mxDest f instr).regs.foldl (fun y r => y.markEmpty r t.clock) x
        if sr then { y with fp := { y.fp with seed := (xs (y.fp.seed.setWidth 32)).setWidth 64 } } else y)

def execMzero (f : Frame) (s : State) : Out := s.mxIssue (.mzero f) 0 0 0
def execMma (f : Frame) (s : State) : Out := s.mxIssue (.mma f) 2 2 0
def execMadd (f : Frame) (s : State) : Out := s.mxIssue (.madd f) 0 0 0
def execMcopy (f : Frame) (s : State) : Out := s.mxIssue (.mcopy f) 0 0 0
def execMscl (f : Frame) (s : State) : Out := s.mxIssue (.mscl f) 0 0 0
def execMdrainS (f : Frame) (s : State) : Out := s.mxIssue (.mdrainS f) 0 2 (if f.bit 5 then 2 else 0)
def execMdrainR (f : Frame) (s : State) : Out := s.mxIssue (.mdrainR f) 0 1 0
def execMfill (f : Frame) (s : State) : Out := s.mxIssue (.mfill f) 0 1 0
def execMspill (f : Frame) (s : State) : Out := s.mxIssue (.mspill f) 0 1 0
def execMchk (f : Frame) (s : State) : Out := s.mxIssue (.mchk f) 0 0 0
def execMchkFix (f : Frame) (s : State) : Out := s.mxIssue (.mchkFix f) 0 0 0
def execMstat (f : Frame) (s : State) : Out := s.mxIssue (.mstat f) 0 0 0

/-- The condition of `mfence` (R297). -/
def State.mxFenced (s : State) (w : Nat) (all : Bool) : Bool :=
  !(s.mxAll (coreOf w)).any fun m => m.w == w && m.owned && (all || (match m.instr with | .mma _ => true | .mfill _ => true | _ => false))

def State.mfence (s : State) (i : Instr) (all : Bool) : Out :=
  s.issueOnce i fun iss t => if t.mxFenced iss.w all then .next t else .suspend t (.matrix all)

def execMfenceAll (f : Frame) (s : State) : Out := s.mfence (.mfenceAll f) true
def execMfenceRd (f : Frame) (s : State) : Out := s.mfence (.mfenceRd f) false

/-! ## Estimates and starts (R279 to R281) -/

/-- Feed bytes of a K-step of an `mma`, and the clk that one takes (R280). -/
def kStep (f : Frame) : Nat × Nat :=
  let b := fun code => operandBits code * operandPlanes code
  let n := 256 * (b (f.immf 28 4) + b (f.immf 24 4)) / 8
  (n, Nat.max 1 ((n + 1023) / 1024))

/-- Row bytes and scale bytes of an operand (R276). -/
def operandArea (code k : Nat) (bs : Bool) : Nat × Nat :=
  (k * operandBits code / 8, if operandScales code bs then 64 * (k / 32) else 0)

/-- Both descriptors of an `mma` are valid (R277). -/
def mmaValid (f : Frame) (m : MxCmd) : Bool :=
  let k := f.immf 0 13
  let ok := fun (d : Desc) code =>
    let (row, scale) := operandArea code k (f.bit 1)
    d.valid (m.spwin * 2048) (operandPlanes code) row scale
  ok (descOf m.ops[0] m.ops[1]) (f.immf 28 4) && ok (descOf m.ops[2] m.ops[3]) (f.immf 24 4)

/-- Bits that differ between the first 32 bytes of neighbouring rows of eight (R281). -/
def State.toggles (s : State) (core : Nat) (m : MxCmd) (d : Desc) : Nat :=
  let row := fun i => d.keys core m.spbase 0 i 0 32
  ((List.range 7).map fun j =>
    ((s.bytes (row (8 * (j + 1)))).zip (s.bytes (row (8 * (j + 1) - 1)))).foldl (fun n p =>
      n + ((List.range 8).filter fun b => (p.1 ^^^ p.2).getLsbD b).length) 0).sum

/-- Channels by mode (R281). -/
def modeChannels (v : Nat) : Nat := match v with | 0 => 10 | 1 => 5 | 2 => 3 | _ => 2

/-- MMA_ESTIMATE (R281): entry `i` of a queue. -/
def execMmaEstimate (core q i : Nat) (s : State) : Out :=
  .next (match ((s.core core).mxq.toList.getD q [])[i]? with
    | none => s
    | some m => match m.instr with
      | .mma f =>
        let t := if mmaValid f m then s.toggles core m (descOf m.ops[0] m.ops[1]) + s.toggles core m (descOf m.ops[2] m.ops[3]) else 0
        let e := Nat.min 255 ((t * modeChannels f.vn * 255 + 35839) / 35840)
        s.modMxq core q fun l => l.map fun n => if n.id == m.id && n.estimate.isNone then { n with estimate := some e } else n
      | _ => s)

/-- `MXBUD.LEVEL` and `MXBUD.LOW` (R282). -/
def Core.level (c : Core) : Nat := bits c.mxbud 32 16
def Core.low (c : Core) : Nat := bits c.mxbud 0 16

/-- A queue head may start (R279); loads that a fence puts before it have read (R369). -/
def State.mxStartable (s : State) (core : Nat) (m : MxCmd) : Bool :=
  let all := s.mxAll core
  s.loadsDone m.w m.after && all.all (fun n => m.order ≤ n.order || !mxMeets m.instr n.instr || (n.started && sameMma m.instr n.instr)) &&
  all.all (fun n => !n.started || !usesArrays n.instr || sameMma m.instr n.instr || !(mxChannels m.instr).any (mxChannels n.instr).contains) &&
  (!isMma m.instr || (match m.estimate with | some e => e ≤ (s.core core).level | none => false)) &&
  (!usesFlowstone m.instr || all.all fun n => !n.started || !usesFlowstone n.instr)

/-- The rank of a head in the order in which heads are taken: in core order, or by estimate below `LOW`. -/
def State.mxRank (s : State) (core : Nat) (m : MxCmd) : Nat :=
  let c := s.core core
  if c.level < c.low then (if isMma m.instr then m.estimate.getD 256 else 0) * 2 ^ 64 + m.order else m.order

def mxHead (q : List MxCmd) : Option MxCmd := q.find? fun m => !m.started

/-- MATRIX_QUEUE_START (R279): the head of a queue starts, unless a head that is taken before it can start. -/
def execMatrixQueueStart (core q : Nat) (s : State) : Out :=
  .next (match mxHead ((s.core core).mxq.toList.getD q []) with
    | none => s
    | some m =>
      let others := (s.core core).mxq.toList.filterMap mxHead
      if !s.mxStartable core m || others.any (fun n => n.id != m.id && s.mxRank core n < s.mxRank core m && s.mxStartable core n) then s
      else
        let left := match m.instr with
          | .mma f => if mmaValid f m then (kStep f).2 * (f.immf 0 13 / 4) else 0
          | _ => 0
        let (begun, s) := s.fresh
        s.modMxq core q fun l => l.map fun n => if n.id == m.id then { n with started := true, begun := begun, left := left } else n)

/-- One clk of a core's running operations: the feed serves them in start order up to 1,024 bytes, each K-step draws its estimate, and the level
rises (R280 to R282). Bank conflicts of the feed are not modelled. -/
def State.tickCore (s : State) (core : Nat) : State :=
  let c := s.core core
  let run := (s.mxAll core).filter fun m => m.started && 0 < m.left
  let sorted := run.foldl (fun (l : List MxCmd) m => (l.filter fun n => n.begun < m.begun) ++ [m] ++ l.filter fun n => m.begun ≤ n.begun) []
  let (level, _, served) := sorted.foldl (fun (r : Nat × Nat × List Nat) m =>
    match m.instr with
    | .mma f =>
      let (n, g) := kStep f
      let u := (n + g - 1) / g
      let e := m.estimate.getD 0
      let draw := if (m.left - 1) % g = 0 then e else 0
      if 1024 < r.2.1 + u then (r.1, 1025, r.2.2)
      else if r.1 < draw then r
      else (r.1 - draw, r.2.1 + u, m.id :: r.2.2)
    | _ => r) (c.level, 0, [])
  let level := Nat.min (bits c.mxbud 16 16) (level + bits c.mxbud 48 10)
  let mxq := c.mxq.map fun q => q.map fun m => if served.contains m.id then { m with left := m.left - 1 } else m
  let bud := putBits c.mxbud 32 16 level
  if bud = c.mxbud && served.isEmpty then s else s.setCore core { c with mxq := mxq, mxbud := bud }

/-! ## Effects -/

def State.slot (s : State) (core n : Nat) : Slot := (s.core core).slots.getD n {}
def State.setSlot (s : State) (core n : Nat) (t : Slot) : State := s.modCore core fun c => { c with slots := c.slots.set n t }

/-- Conditions for `MXSTAT`, erasures for `CONTAIN.ERS`, and corrections for `CONTAIN` and `CCONT` (R300, R301, R327). -/
def State.mxNote (s : State) (core : Nat) (m : MxCmd) (o : TileOut) : State :=
  let s := if m.owned && o.stat != 0 then s.modWarp m.w fun x => { x with mx := { x.mx with stat := x.mx.stat ||| (o.stat &&& 0xFFE).setWidth 64 } } else s
  let s := if o.seen.isEmpty && o.fixed.isEmpty then s else s.modCore core fun c =>
    let v := o.seen.foldl (fun v j => putBits v (40 + j) 1 1) c.contain
    let v := o.fixed.eraseDups.foldl (fun v j => putBits v (4 * j) 4 (Nat.min 15 (bits v (4 * j) 4 + 1))) v
    { c with contain := match o.fixed.getLast? with | some j => putBits v 60 4 j | none => v }
  if o.fixed.isEmpty then s
  else s.modCluster (clusterOf core) fun c =>
    let at_ := 8 * (core % 4)
    { c with ccont := putBits c.ccont at_ 4 (Nat.min 15 (bits c.ccont at_ 4 + 1)) }

/-- Stores an operation's slot and notes what it met. -/
def State.mxPut (s : State) (core n : Nat) (m : MxCmd) (o : TileOut) : State := (s.setSlot core n o.slot).mxNote core m o

/-- An invalid descriptor or image (R277, R296): `part` receives `DSC` where the rule names one. -/
def State.mxInvalid (s : State) (core : Nat) (m : MxCmd) (part : Option (Nat × Nat)) : State :=
  let s := match part with
    | some (n, p) => s.setSlot core n ((s.slot core n).modPart p fun x => x.or stDsc)
    | none => s
  s.mxNote core m { slot := {}, stat := stDsc }

/-- Bytes written by Flowstone: key, byte, and whether it belongs to a poisoned element (R204, R210, R291). -/
def State.flowWrite (s : State) (core : Nat) (ws : List (Nat × Byte × Bool)) : State :=
  let ks := ws.map (·.1)
  let s := (s.drainFor core ks).writeBytes ks (ws.map (·.2.1))
  (wordsOf ks).foldl (fun s w =>
    let here := ws.filter fun x => x.1 / 8 == w
    if here.any (·.2.2) then s.setMark w true
    else if (here.map (·.1)).eraseDups.length = 8 then s.setMark w false else s) s

/-- Bytes at keys, or the poison pattern there. -/
def flowBytes (ks : List Nat) (bs : List Byte) (p : Bool) : List (Nat × Byte × Bool) :=
  (ks.zip (if p then poisonBytes ks else bs)).map fun x => (x.1, x.2, p)

/-- The writes of a `.s` drain's elements (R290, R291). -/
def drainWrites (core base : Nat) (d : Desc) (f : Nat) (o : DrainOut) : List (Nat × Byte × Bool) :=
  let elems := if outBits f = 4 then
      (List.range 2048).flatMap fun b =>
        let lo := o.elems.getD (2 * b) (0, 0, false)
        let hi := o.elems.getD (2 * b + 1) (0, 0, false)
        let ks := d.keys core base 0 (b / 32) (b % 32) 1
        let pat := ((poisonBytes ks).headD 0).toNat
        let v := (if lo.2.2 then pat % 16 else lo.2.1) + 16 * (if hi.2.2 then pat / 16 else hi.2.1)
        ks.map fun k => (k, BitVec.ofNat 8 v, lo.2.2 || hi.2.2)
    else
      let n := outBits f / 8
      o.elems.flatMap fun e => flowBytes (d.keys core base 0 (e.1 / 64) (e.1 % 64 * n) n) (toBytes n e.2.1) e.2.2
  elems ++ o.scales.flatMap fun x => flowBytes (scratchKeys core base d.rot (d.base + d.tp + 2 * x.1 + x.2.1) 1) [BitVec.ofNat 8 x.2.2] false

/-- The output area of kB is valid (R277, R290). -/
def drainValid (f : Nat) (ef : Bool) (d : Desc) (limit : Nat) : Bool :=
  d.valid limit (if f = 11 then 8 else 1) (64 * outBits f / 8) (if isMx f then 128 else 0) &&
    (!ef || ((64 ≤ d.rp || (f != 7 && f != 9)) && 63 * d.rp + 64 ≤ d.tp && d.base + d.tp + 132 ≤ limit))

/-- The rounding mode of a drain. -/
def drainRm (f : Frame) (m : MxCmd) : DrainRm :=
  match f.mf 7 3 with | 0 => .mode .rne | 1 => .mode .rz | 2 => .mode .ru | 3 => .mode .rd | _ => .sr m.seed

/-- A `.s` drain (R290, R291). -/
def State.runDrain (s : State) (core : Nat) (f : Frame) (m : MxCmd) : State :=
  let (n, p) := accOf f.a.num
  let of_ := f.mf 10 4
  let ef := f.bit 5
  let d := descOf m.ops[2] m.ops[3]
  let r := descOf (m.ops[4] &&& 0xFFFFFFFF) m.ops[5]
  let limit := m.spwin * 2048
  if !drainValid of_ ef d limit || (ef && !r.valid limit 1 128 0) then s.mxInvalid core m (some (n, p))
  else
    let t := s.slot core n
    let x := t.part p
    let seen := if x.clr then [] else t.erasedIn p
    let all := List.range 4096
    let reads := all.map fun k => t.read p k
    let rd := fun k => (reads.getD k (.value 0, .valid)).1
    let os := reads.map (·.2)
    let tag := if x.clr then 0 else x.tag.toInt
    let sc := (f.imm.setWidth 8 : BitVec 8).toInt
    let drain := fun g => drainElems (drainRm f m) g (f.bit 6) ef tag sc all rd
    let first := drain of_
    let wide := if of_ = 7 then 5 else 8
    let esc := ef && (of_ == 7 || of_ == 9) && escalates m.eft first
    let out := if esc then drain wide else first
    let stat := out.stat ||| outcomeBits os ||| (if esc then 0x40 else 0)
    let writes := if of_ = 11 then
        all.flatMap fun k => (List.range 8).flatMap fun q =>
          let ks := d.keys core m.spbase q (k / 64) (k % 64) 1
          (match rd k with
           | .poison => flowBytes ks [] true
           | .nan => flowBytes ks [0] false
           | .value y => flowBytes ks [BitVec.ofNat 8 (residue q y)] false)
      else drainWrites core m.spbase d (if esc then wide else of_) out
    let res := if ef then out.residuals.flatMap fun e =>
        flowBytes (r.keys core m.spbase 0 (e.1 / 64) (2 * (e.1 % 64)) 2) (toBytes 2 e.2.1) e.2.2
      else []
    let t := (t.see p seen).modPart p fun x => x.drained stat
    let word := (t.part p).word
    let sw := if ef then flowBytes (scratchKeys core m.spbase d.rot (d.base + d.tp + 128) 4) (toBytes 4 word) false else []
    let s := s.flowWrite core (writes ++ res ++ sw)
    s.mxPut core n m { slot := if f.bit 4 then t.clearPart p else t, stat := (stat &&& 0x27E) ||| (if seen.isEmpty then 0 else stErs), seen := seen,
                       fixed := fixedOf os }

/-- Delivers to the warp that issued, if it has not ended (R302). -/
def State.mxDeliver (s : State) (m : MxCmd) (ps : List Put) : State :=
  if m.owned then s.modWarp m.w fun x => if x.marks.ended then x else ps.foldl (fun x p => x.deliver s.clock p) x else s

/-- A `.r` drain (R292). -/
def State.runDrainRow (s : State) (core : Nat) (f : Frame) (m : MxCmd) : State :=
  let (n, p) := accOf f.a.num
  let of_ := f.mf 10 4
  let row := bits m.ops[2] 0 6
  let t := s.slot core n
  let x := t.part p
  let ks := (List.range 64).map fun j => 64 * row + j
  let reads := ks.map fun k => t.read p k
  let os := reads.map (·.2)
  let seen := if x.clr then [] else (channelsOf p).filter fun c => ks.any fun k => t.erased.contains (accWord c k)
  let tag := if x.clr then 0 else x.tag.toInt
  let out := drainElems (drainRm f m) of_ (f.bit 6) false tag (f.imm.setWidth 8 : BitVec 8).toInt ks fun k => (reads.getD (k - 64 * row) (.value 0, .valid)).1
  let stat := out.stat ||| outcomeBits os
  let col := fun j => out.elems.getD j (0, 0, false)
  let lanes := fun (v : Nat → Nat) (tag : Nat → Bool) (r : Nat) =>
    Put.x r m.act (Vector.ofFn fun l => if tag l.val then poison32 else BitVec.ofNat 32 (v l.val)) (maskOf fun l => tag l.val)
  let puts := if f.xd = 255 then []
    else if of_ = 0 || of_ = 10 then
      [lanes (fun l => (col (2 * l)).2.1) (fun l => (col (2 * l)).2.2) f.xd,
       lanes (fun l => (col (2 * l + 1)).2.1) (fun l => (col (2 * l + 1)).2.2) (f.xd + 1)]
    else [lanes (fun l => (col (2 * l)).2.1 + 65536 * (col (2 * l + 1)).2.1) (fun l => (col (2 * l)).2.2 || (col (2 * l + 1)).2.2) f.xd]
  (s.mxPut core n m { slot := (t.see p seen).modPart p fun x => x.drained stat, stat := (stat &&& 0x27E) ||| (if seen.isEmpty then 0 else stErs),
                      seen := seen, fixed := fixedOf os }).mxDeliver m puts

/-- `mchk` and `mchk.fix` (R294). -/
def State.runCheck (s : State) (core : Nat) (f : Frame) (m : MxCmd) (fix : Bool) : State :=
  let (n, p) := accOf f.a.num
  let t := s.slot core n
  let x := t.part p
  let all := List.range 4096
  let cls := all.map fun k => t.classifyAt p k
  let os := cls.map (·.2)
  let seen := if x.clr then [] else t.erasedIn p
  let count := fun (g : Outcome → Bool) => (os.filter g).length
  let isCorr := fun (o : Outcome) => match o with | .corr _ => true | _ => false
  let stat := outcomeBits os
  let u := (t.see p seen).modPart p fun x => x.drained stat
  let u := if fix && !x.clr then
      let v := u.setElems (List.range 10) fun k c => match cls.getD k (0, .valid) with
        | (y, .corr _) => residue c y
        | _ => (u.elem k).at c
      { v with erased := v.erased.filter fun w =>
          !((List.range 8).all fun e => isCorr (os.getD (w % 512 * 8 + e) .valid)) }.clearOthers p
    else u
  let v := count (· == .chk) * 2 ^ 32 + count (· == .ovf) * 2 ^ 16 + count isCorr
  (s.mxPut core n m { slot := u, stat := stat ||| (if seen.isEmpty then 0 else stErs), seen := seen, fixed := fixedOf os }).mxDeliver m
    [.k f.kd (BitVec.ofNat 64 v) false]

/-- The image of kB is valid (R296). -/
def imageValid (m : MxCmd) : Bool :=
  bits m.ops[2] 0 32 % 8 == 0 && bits m.ops[2] 32 32 == 0 && bits m.ops[2] 0 32 + 41216 ≤ m.spwin * 2048

/-- The effect of a matrix instruction. -/
def State.mxRun (s : State) (core : Nat) (m : MxCmd) : State :=
  match m.instr with
  | .mzero f => let (n, p) := accOf f.d; s.setSlot core n ((s.slot core n).clearPart p)
  | .mma f =>
    let (n, p) := accOf f.d
    if !mmaValid f m then s.mxInvalid core m (some (n, p))
    else
      let k := f.immf 0 13
      let bs := f.bit 1
      let rows := fun (d : Desc) code => (List.range 64).map fun i => s.operandRow core m.spbase d code bs k i
      s.mxPut core n m ((s.slot core n).accumulate p (f.bit 0) (f.vn == 3) (rows (descOf m.ops[0] m.ops[1]) (f.immf 28 4))
        (rows (descOf m.ops[2] m.ops[3]) (f.immf 24 4)) (if bs then k / 32 else 1))
  | .madd f =>
    let (n, p) := accOf f.d
    let (a, _) := accOf f.a.num
    s.mxPut core n m ((s.slot core n).add (s.slot core a) p (a == n))
  | .mcopy f =>
    let (n, p) := accOf f.d
    let (a, _) := accOf f.a.num
    if a = n then s
    else
      let src := (s.slot core a).see p ((s.slot core a).seenIn p)
      (s.setSlot core a src).mxPut core n m ((s.slot core n).copyFrom src p)
  | .mscl f =>
    let (n, p) := accOf f.d
    s.mxPut core n m ((s.slot core n).scaleBy p (f.imm.setWidth 16 : BitVec 16).toInt ((f.imm >>> 16).setWidth 8 : BitVec 8).toInt)
  | .mdrainS f => s.runDrain core f m
  | .mdrainR f => s.runDrainRow core f m
  | .mchk f => s.runCheck core f m false
  | .mchkFix f => s.runCheck core f m true
  | .mstat f =>
    let (n, p) := accOf f.a.num
    let x := (s.slot core n).part p
    let v := if f.vn = 0 then x.statusWord else if x.clr then 0 else x.masks.toList.getD (f.vn - 1) 0
    s.mxDeliver m [.k f.kd v false]
  | .mspill f =>
    let (n, _) := accOf f.a.num
    if !imageValid m then s.mxInvalid core m none
    else
      let (t, seen) := (s.slot core n).readAll
      let ks := scratchKeys core m.spbase 0 (bits m.ops[2] 0 32) 41216
      let s := (s.drainFor core ks).writeBytes ks t.image
      let s := (List.range 5152).foldl (fun s w => s.setMark (ks.getD (8 * w) 0 / 8) (t.erased.contains w)) s
      s.mxPut core n m { slot := t, stat := if seen.isEmpty then 0 else stErs, seen := seen.eraseDups }
  | .mfill f =>
    let (n, _) := accOf f.d
    if !imageValid m then s.mxInvalid core m none
    else
      let ks := scratchKeys core m.spbase 0 (bits m.ops[2] 0 32) 41216
      let t := slotOfImage (s.bytes ks) fun w => s.marked (ks.getD (8 * w) 0)
      s.mxPut core n m { slot := t, stat := t.markStat ||| (if t.erased.isEmpty then 0 else stErs), seen := (t.erased.map (· / 512)).eraseDups }
  | _ => s

/-- Warps in `mfence` whose condition now holds go on (R297). -/
def State.releaseFences (s : State) (core : Nat) : State :=
  (s.warps.filter fun p => coreOf p.1 == core).foldl (fun s p => match p.2.wait with
    | some (.matrix all) => if s.mxFenced p.1 all then s.finishWait p.1 else s
    | _ => s) s

/-- MATRIX_COMPLETE (R279, R298): the oldest started instruction of a queue whose feed is over, once no earlier instruction in core order touches its parts. -/
def execMatrixComplete (core q : Nat) (s : State) : Out :=
  .next (match ((s.core core).mxq.toList.getD q []).find? fun m => m.started with
    | none => s
    | some m =>
      if m.left != 0 || (s.mxAll core).any (fun n => n.order < m.order && mxMeets m.instr n.instr) then s
      else ((s.modMxq core q fun l => l.filter fun n => n.id != m.id).mxRun core m).releaseFences core)

end Sys2Proof.Machine
end

