-- ==== Sys2Proof/Machine/System.lean ====
section
/-! DEFINITION. System registers (R8, R44 to R47, R97, R160, R162, R170, R175, R176, R199, R205, R226, R227, R299 to R301, R311, R426, R476, R497),
the instructions of traps and calls (R171, R172, R177, R178, R181), trap events (R158 to R164), call rings (R183), issue arbitration
(R185 to R190), and register spills (R29, R31). -/

namespace Sys2Proof.Machine

/-! ## Values of system registers -/

def wstat (x : Warp) : W64 :=
  BitVec.ofNat 64 ((x.hw.length + x.sp.length) * 2 ^ 24 + x.log.length * 2 ^ 18 + x.run * 2 ^ 8 + x.spl.toNat * 8 + x.fov.toNat * 4 +
    x.pwb.toNat * 2 + x.psn.toNat)

def TrapRegs.cause (t : TrapRegs) : W64 :=
  BitVec.ofNat 64 (t.act.toNat * 2 ^ 31 + t.tpend.toNat * 2 ^ 30 + t.rlen * 2 ^ 24 + t.vec * 2 ^ 16 + t.code)

def LogState.code : LogState → Nat
  | .pending => 1 | .queued => 2 | .failed => 3

def LogEntry.word (e : LogEntry) : W64 := BitVec.ofNat 64 (e.state.code * 2 ^ 61 + e.code * 2 ^ 56 + e.acc.pc.toNat / 4)

def CopyState.tokens (c : CopyState) : W64 :=
  BitVec.ofNat 64 ((List.range 8).foldl (fun n i => let k := c.cnt.getD i 0; n + k * 2 ^ (8 + 6 * i) + (if k = 0 then 0 else 2 ^ i)) 0)

def CopyState.status (c : CopyState) : W64 :=
  BitVec.ofNat 64 (c.skip.toNat * 2 ^ 32 + c.stl.toNat * 2 ^ 31 + c.sq.toNat * 2 ^ 30 + c.code * 2 ^ 24 + c.flags.toNat)

def gangsWord (ms : List Member) : W64 :=
  BitVec.ofNat 64 ((ms.zipIdx.map fun p => (2 ^ 15 + p.1.arr.toNat * 2 ^ 14 + p.1.ap.toNat * 2 ^ 13 + p.1.gang) * 2 ^ (16 * p.2)).sum)

def gordWord (ms : List Member) : W64 := BitVec.ofNat 64 ((ms.zipIdx.map fun p => p.1.ord * 2 ^ (16 * p.2)).sum)

/-- `SCOPE` (R426), as the warp's die has seen the markings. -/
def State.scopeWord (s : State) (die : Nat) (x : Warp) : W64 :=
  let c := s.scopes.get? x.owner.scope
  BitVec.ofNat 64 ((s.cancelledAt x.owner.scope die).toNat * 2 ^ 32 + ((c.map (·.coop)).getD false).toNat * 2 ^ 17 +
    ((c.map (·.parent.isNone)).getD false).toNat * 2 ^ 16 + x.owner.scope)

/-- `ORIENT` of a die (R476). -/
def orient (die : Nat) : W64 := BitVec.ofNat 64 (8 * die * 2 ^ 16 + 4 * die * 2 ^ 12 + die * 4 + die)

/-- Per-process, per-die, per-core and device-wide registers, as a warp of a process on a core reads them. -/
def State.sharedReg (s : State) (core p n : Nat) : W64 :=
  let die := dieOf core
  let d := s.die die
  let c := s.core core
  let pr := fun (f : Proc → W64) => ((s.proc? p).map f).getD 0
  match n with
  | 0x015 => orient die
  | 0x016 => s.nodeid.setWidth 64
  | 0x017 => s.pkg.grade
  | 0x065 => (s.cluster (clusterOf core)).ccont
  | 0x066 => pr (·.grwin)
  | 0x071 => c.contain
  | 0x072 => c.mxbud
  | 0x073 => c.chmap
  | 0x0A0 => pr (·.detarea)
  | 0x110 => pr (·.callwin)
  | 0x111 => pr (·.ptbase)
  | 0x112 => d.tlbinv
  | 0x113 => d.fltq
  | 0x114 => d.fltres
  | 0x115 => d.migpol
  | 0x116 => d.migfrm
  | 0x117 => pr fun q => ((q.grants.toList.getD die 0).setWidth 64)
  | 0x118 => pr fun q => (((q.grants.toList.getD die 0) >>> 64).setWidth 64)
  | 0x119 => pr fun q => q.ctxarea.toList.getD die 0
  | 0x11A => pr fun q => q.tslice.toList.getD die 0
  | 0x11B => d.errinj
  | 0x11C => d.linkst
  | 0x11D => s.pkg.diest
  | 0x11E => d.pwrctl
  | 0x11F => c.gband
  | 0x120 => pr (·.fjob)
  | _ => 0

/-- The value of a register as a warp reads it (R175). `LANEID` is answered where it is read. -/
def State.sysReg (s : State) (w : Nat) (x : Warp) (n : Nat) : W64 :=
  let core := coreOf w
  let nat := fun (v : Nat) => BitVec.ofNat 64 v
  match n with
  | 0x000 => wstat x
  | 0x001 => nat (x.eprio * 16 + x.prio)
  | 0x002 => nat x.role
  | 0x011 => nat (slotOf w)
  | 0x012 => nat (core % 96)
  | 0x013 => nat (core % 96 / 4)
  | 0x014 => nat (dieOf core)
  | 0x020 => nat s.clock
  | 0x021 => nat (x.trap.arm.toNat * 2 ^ 63 + x.trap.deadline.toNat)
  | 0x022 => nat (x.trap.tvBase.toNat * 256 + x.trap.tvEn.toNat)
  | 0x023 => x.trap.cause
  | 0x024 => nat (x.trap.rprio.toNat * 2 ^ 56 + x.trap.rpc.toNat)
  | 0x025 => x.trap.info
  | 0x026 => nat (x.call.seq.toNat * 2 ^ 16 + x.call.ix.toNat)
  | 0x030 => x.fp.ctl
  | 0x031 => x.fp.seed
  | 0x040 => x.copy.tokens
  | 0x041 => x.copy.status
  | 0x050 => ((x.log.get? 0).map LogEntry.word).getD 0
  | 0x051 => ((x.log.get? 1).map LogEntry.word).getD 0
  | 0x052 => ((x.log.get? 2).map LogEntry.word).getD 0
  | 0x053 => ((x.log.get? 3).map LogEntry.word).getD 0
  | 0x060 => nat (x.lprivBase.toNat * 4096 + x.lprivSize)
  | 0x061 => nat (x.spwin * 2 ^ 11)
  | 0x062 => nat (x.straddle.toNat * 2 ^ 18 + x.cswin * 2 ^ 11)
  | 0x063 => gangsWord x.members
  | 0x064 => gordWord x.members
  | 0x070 => nat (x.mx.eft.toNat * 2 ^ 16 + x.mx.unchk.toNat)
  | 0x074 => x.mx.stat
  | 0x080 => s.scopeWord (dieOf core) x
  | 0x081 => nat (x.owner.task.toNat * 2 ^ 63 + x.owner.priv.toNat * 2 ^ 62 + x.owner.pcls * 2 ^ 59 + x.owner.seq % 2 ^ 48)
  | _ => if 0x090 ≤ n && n ≤ 0x097 then x.pwin.toList.getD (n - 0x090) 0 else s.sharedReg core x.owner.proc n

/-! ## Writes (R8) -/

/-- The writable bits of a stored register take the new value. -/
def stored (old mask v : W64) : W64 := (old &&& ~~~mask) ||| (v &&& mask)

/-- RW and W1C fields of the per-warp registers. -/
def Warp.writeReg (x : Warp) (n : Nat) (v : W64) : Warp :=
  match n with
  | 0x000 => { x with psn := x.psn && !v.getLsbD 0, pwb := x.pwb && !v.getLsbD 1, fov := x.fov && !v.getLsbD 2, spl := x.spl && !v.getLsbD 3 }
  | 0x001 => { x with prio := bits v 0 4 }
  | 0x021 => { x with trap := { x.trap with arm := v.getLsbD 63, deadline := v.setWidth 63 } }
  | 0x022 => { x with trap := { x.trap with tvBase := v.extractLsb' 8 49, tvEn := v.setWidth 4 } }
  | 0x024 => { x with trap := { x.trap with rprio := v.extractLsb' 56 8, rpc := v.setWidth 55 } }
  | 0x030 => { x with fp := { x.fp with ctl := stored (x.fp.ctl &&& ~~~(v &&& 0x1F)) 0x8160 v } }
  | 0x031 => { x with fp := { x.fp with seed := if v.setWidth 32 = 0#32 then 1 else (v.setWidth 32).setWidth 64 } }
  | 0x041 => { x with copy := { x.copy with flags := x.copy.flags &&& ~~~(v.setWidth 6) } }
  | 0x070 => { x with mx := { x.mx with eft := v.extractLsb' 16 16, unchk := v.getLsbD 0 } }
  | 0x074 => { x with mx := { x.mx with stat := x.mx.stat &&& ~~~(v &&& 0xFFE) } }
  | _ => x

/-- A write of a per-die register that privileged warps and the mailbox may write (R396, R397, R406, R452, R487). -/
def State.writeDieReg (s : State) (die n : Nat) (v : W64) : Option State :=
  match n with
  | 0x113 => some ((s.modDie die fun d => { d with fltq := v &&& 0x8000_FFFF_FFFF_F000 }).flushFaults die)
  | 0x114 => some ((s.modDie die fun d => { d with fltres := v &&& 0x8000_0000_FFFF_FFFF }).resolveRecord die (v.setWidth 32) (v.getLsbD 63))
  | 0x115 => some (s.modDie die fun d => { d with migpol := v &&& 0x83FF_00FF_0000_0003 })
  | 0x116 => some (s.modDie die fun d => { d with migfrm := v &&& 0x8000_0FFF_FFFF_F000 })
  | 0x11B =>
    let v := v &&& 0x8000_0FFF_FFFF_FF03
    some (s.modDie die fun d => { d with errinj := if bits v 0 2 = 3 then putBits v 63 1 0 else v })
  | _ => none

/-- A write under the access types; the fields that no warp writes are left as they are, `CALLWIN` among them (R488; log entry 53). -/
def State.writeReg (s : State) (w n : Nat) (v : W64) : State :=
  let die := dieOf (coreOf w)
  match n with
  | 0x072 => s.modCore (coreOf w) fun c => { c with mxbud := stored c.mxbud 0xFFFF v }
  | _ => (s.writeDieReg die n v).getD (s.modWarp w fun x => x.writeReg n v)

/-- The value that `setsr` writes, with its tag: kA, or the lowest-numbered active lane of xA zero-extended (R175). -/
def Issue.srValue (i : Issue) : W64 × Bool :=
  if i.f.au then i.x.uni i.f.ka
  else match firstLane i.act with
  | some l => let (a, t) := i.x.lane i.f.xa; (a[l].setWidth 64, t.getLsbD l.val)
  | none => (0, false)

def execGetsr (f : Frame) (s : State) : Out :=
  s.issueOnce (.getsr f) fun i t =>
    let n := Form.srNum f
    if f.du then .next (i.writeUni t f.kd (s.sysReg i.w i.x n) false)
    else .next (i.writeLane t f.xd (fun l => if n = 0x010 then BitVec.ofNat 32 l.val else (s.sysReg i.w i.x n).setWidth 32) 0)

def execSetsr (f : Frame) (s : State) : Out :=
  s.issueOnce (.setsr f) fun i t =>
    let (v, tag) := i.srValue
    if tag then .trap 9 0 else .next (t.writeReg i.w (Form.srNum f) v)

/-! ## Registers whose writes act (R395, R452) -/

/-- An access or a burst in flight that may use a translation of an address space in a range (R235, R395). -/
def State.usesPage (s : State) (asid : BitVec 16) (va size : Nat) (all : Bool) : Bool :=
  s.flights.any (fun a => s.asid a.proc == asid && (a.space == .global || a.space == .window) &&
    (all || a.todo.any fun l => l.addr < va + size && va < l.addr + a.width)) ||
  s.cores.any fun c => (c.2.loadQ ++ c.2.storeQ).any fun q => s.asid q.proc == asid && !q.grotto && !q.bursts.isEmpty

/-- A write of `TLBINV` waits for every use of the translations, then shoots them down (R395). -/
def execTlbinvWrite (f : Frame) (s : State) : Out :=
  s.issueOnce (.tlbinvWrite f) fun i t =>
    let (v, tag) := i.srValue
    let die := dieOf (coreOf i.w)
    let asid := v.extractLsb' 45 16
    let all := bits v 61 3 = 7
    let size := szBytes (bits v 61 3)
    let va := bits v 0 45 * 4096 / size * size
    if tag then .trap 9 0
    else if t.usesPage asid va size all then .hold (.tlbinv die)
    else .next ((t.modDie die fun d => { d with tlbinv := v }).shootdown asid va size all)

def execErrinjWrite (f : Frame) (s : State) : Out :=
  s.issueOnce (.errinjWrite f) fun i t =>
    let (v, tag) := i.srValue
    if tag then .trap 9 0 else .next ((t.writeDieReg (dieOf (coreOf i.w)) 0x11B v).getD t)

/-! ## Timer, trap return, operand log, poison -/

def State.armTimer (s : State) (w : Nat) (arm : Bool) (deadline : BitVec 63) : State :=
  s.modWarp w fun x => { x with trap := { x.trap with arm := arm, deadline := deadline } }

def execTmsetRel (f : Frame) (s : State) : Out :=
  s.issueOnce (.tmsetRel f) fun i t =>
    let (k, tag) := i.x.uni f.ka
    if !f.bi && tag then .trap 9 0
    else .next (t.armTimer i.w true (BitVec.ofNat 63 t.clock + (if f.bi then f.imm.setWidth 63 else k.setWidth 63)))

def execTmsetAbs (f : Frame) (s : State) : Out :=
  s.issueOnce (.tmsetAbs f) fun i t =>
    let (k, tag) := i.x.uni f.ka
    if tag then .trap 9 0 else .next (t.armTimer i.w true (k.setWidth 63))

def execTmsetOff (f : Frame) (s : State) : Out :=
  s.issueOnce (.tmsetOff f) fun i t => .next (t.modWarp i.w fun x => { x with trap := { x.trap with arm := false } })

/-- `trapret` (R178). -/
def execTrapret (f : Frame) (s : State) : Out :=
  s.issueOnce (.trapret f) fun i t =>
    if !i.x.trap.act then .trap 0x0F 0
    else .done (((t.returnTrap i.w).modWarp i.w fun x => { x with kept := [] }).freeSlot i.w)

/-- `oplog.retry` (R171): an entry that is pending or failed is queued. -/
def execOplogRetry (f : Frame) (s : State) : Out :=
  s.issueOnce (.oplogRetry f) fun i t =>
    let e := f.mf 0 2
    match i.x.log.get? e with
    | some l =>
      if l.state == .queued then .next t
      else
        let (n, t) := t.fresh
        .next (t.modWarp i.w fun x => { x with log := x.log.set e (l.resolved false n) })
    | none => .next t

/-- `oplog.kill` (R171): an entry that is pending or failed completes with poison; its access is not performed. It waits for entries of the pools where the
destination lies in the spill region (R29, R35). -/
def execOplogKill (f : Frame) (s : State) : Out :=
  s.issueOnce (.oplogKill f) fun i t =>
    let e := f.mf 0 2
    match i.x.log.get? e with
    | some l =>
      if l.state == .queued then .next t
      else
        let (u, room) := t.placeRegs i.w l.acc.dest.regs
        if !room then .hold (.binding (l.acc.dest.regs.all isLaneReg) (i.x.unplaced l.acc.dest.regs).length)
        else .next ((u.modWarp i.w fun x => { x with log := x.log.erase e }).poisonFinish l.acc false)
    | none => .next t

def execPsnclr (f : Frame) (s : State) : Out :=
  s.issueOnce (.psnclr f) fun i t => .next (t.modWarp i.w fun x => { x with psn := false })

/-- Clears the poison tags of a register, and of words that fail SECDED, in lanes (R172). -/
def Warp.clearTags (x : Warp) (r : Reg) (m : Mask) : Warp :=
  match r with
  | .x n => match x.x.get? n with
    | some q => { x with x := x.x.set n { q with tag := q.tag &&& ~~~m } }
    | none => x
  | .k n => match x.k.get? n with
    | some q => { x with k := x.k.set n { q with tag := false } }
    | none => x

/-- `psnclr.reg` (R172): on an unbound register nothing; on an empty one it waits. -/
def execPsnclrReg (f : Frame) (s : State) : Out :=
  s.issueOnce (.psnclrReg f) fun i t =>
    let r := if f.du then Reg.k f.kd else Reg.x f.xd
    .next (t.modWarp i.w fun x => x.clearTags r i.act)

/-! ## Calls (R180, R181) -/

/-- `syscall` (R181). -/
def execSyscall (f : Frame) (s : State) : Out :=
  s.issueOnce (.syscall f) fun i t =>
    let (a, ta) := i.x.lane f.xa
    let hb := f.bit 0
    let (kb, tb) := if hb then i.x.uni f.kb else (0, false)
    if i.x.call.call.isSome then .hold .call
    else if i.x.logBusy then .hold .oplog
    else if !t.releaseLanded i.w then .hold (.arrival false)
    else
      let n := f.immf 0 15
      let seq := i.x.call.seq + 1
      let tags := ta &&& i.act
      let args := (List.finRange 32).flatMap fun l =>
        toBytes 4 (if i.act.getLsbD l.val then (if tags.getLsbD l.val then poison32 else a[l]).toNat else 0)
      let flags := hb.toNat + (if i.x.trap.act then 4 else 0) + (if tb then 16 else 0)
      let record := callRecord n flags i.act seq i.x.owner.scope i.w t.nodeid (if tb then poison64 else kb) args tags i.e.pc 0 0
      let t := (t.cleanSlices i.w 5).modWarp i.w fun x =>
        let x := if f.xd = 255 then x else x.markEmpty (.x f.xd) t.clock
        { x with call := { x.call with seq := seq, call := some (f.xd, i.act, seq) } }
      .next (t.post i.w { half := 0, record := some (record, seq, n) })

/-- SYSCALL_REPLY (R181): `STATUS` holds the number of the outstanding call. An ended warp receives nothing (R127). -/
def execSyscallReply (w : Nat) (s : State) : Out :=
  .next (match s.warp? w with
    | none => s
    | some x => match x.call.call with
      | none => s
      | some (d, m, seq) =>
        match s.readSlot x 384 8, s.slotKeys x 256 128 0 with
        | some st, some ks =>
          if st % 2 ^ 32 != seq.toNat then s
          else if x.marks.ended then (s.setWarp w { x with call := { x.call with call := none } }).reap w
          else
            let (s, room) := (s.useSlot x 256 136).placeRegs w (if d = 255 then [] else [.x d])
            if !room then s else
            let x := (s.warp? w).getD x
            let bs := s.bytes ks
            let vals : Lanes W32 := Vector.ofFn fun l => BitVec.ofNat 32 (ofBytes ((bs.drop (4 * l.val)).take 4))
            let y := { x with call := { x.call with call := none } }
            let y := y.deliver s.clock (.x d m vals (if st / 2 ^ 32 % 2 = 1 then m else 0))
            (s.setWarp w y).acquireFor w 5
        | _, _ => s)

/-- EXCEPTION_REPLY (R164): the reply's `ACTION` ends, redirects or resumes a warp that a report has stopped. -/
def execExceptionReply (w : Nat) (s : State) : Out :=
  .next (match s.warp? w with
    | none => s
    | some x => match x.call.report with
      | none => s
      | some rpc =>
        match s.readSlot x 896 8, s.readSlot x 768 8 with
        | some st, some pc =>
          if st % 2 ^ 32 != x.call.reportSeq.toNat then s
          else
            let s := s.useSlot x 896 8
            let y := { x with call := { x.call with report := none } }
            let go := fun (pc : BitVec 57) => match x.hw with
              | e :: _ => s.setWarp w (y.replaceHead [{ e with pc := s.land w x pc }])
              | [] => s.setWarp w y
            (match st / 2 ^ 33 % 4 with
             | 1 => go (wordPc (BitVec.ofNat 57 pc))
             | 2 => go rpc
             | _ => (s.setWarp w y).endWarp w false)
        | _, _ => s)

/-- The ring of a notice: the process that consumes it and the ring's address. Where no device runtime is named any more, the host ring takes its notices. -/
def State.noticeRing (s : State) (n : Notice) : Option (Nat × Nat) :=
  match s.runtime with
  | some r => if n.runtime then some (r.1, r.2.toNat) else (s.proc? n.proc).map fun p => (n.proc, p.hostRing.toNat)
  | none => (s.proc? n.proc).map fun p => (n.proc, p.hostRing.toNat)

/-- TAIL, HEAD and the number of entries of a call ring. -/
def State.callRing (s : State) (p va : Nat) : Option (Nat × Nat × Nat) :=
  match s.readVirt p va 4, s.readVirt p (va + 4) 4, s.readVirt p (va + 8) 4 with
  | some t, some h, some g => some (t, h, 2 ^ Nat.min g 16)
  | _, _, _ => none

def State.ringFull (s : State) (n : Notice) : Bool :=
  match s.noticeRing n with
  | some (p, va) => match s.callRing p va with
    | some (t, h, k) => k ≤ (t + 2 ^ 32 - h) % 2 ^ 32
    | none => false
  | none => false

/-- CALL_RING_NOTICE (R183): the notice is written, then TAIL rises by one; the host is notified by vector 64 + p. Notices of one ring are written in
order. -/
def execCallRingNotice (k : Nat) (s : State) : Out :=
  .next (match s.notices[k]? with
    | none => s
    | some n =>
      if s.ringFull n || (s.notices.take k).any fun m => s.noticeRing m == s.noticeRing n then s
      else
        let ring := s.noticeRing n
        let since := fun (m : Notice) => if s.noticeRing m == ring then { m with since := s.clock } else m
        let s := { s with notices := (s.notices.eraseIdx k).map since }
        match s.noticeRing n with
        | none => s
        | some (p, va) => match s.callRing p va with
          | none => s
          | some (t, _, size) =>
            let body := toBytes 4 n.proc ++ toBytes 4 n.ix.toNat ++ toBytes 4 n.seq.toNat ++
              toBytes 4 (n.num.toNat + n.exc.toNat * 2 ^ 16 + n.redir.toNat * 2 ^ 17)
            let s := ((s.useVirt p va 12).storeVirt p (va + 64 + 16 * (t % size)) body).storeVirt p va (toBytes 4 ((t + 1) % 2 ^ 32))
            if n.runtime && s.runtime.isSome then s else s.raise (64 + n.proc))

/-- REDIRECTION (R183): a notice that the device runtime's full ring has held for 2^20 clk goes to the host ring. -/
def execRedirection (k : Nat) (s : State) : Out :=
  .next (match s.notices[k]? with
    | none => s
    | some n => if n.runtime && s.runtime.isSome && s.ringFull n && n.since + 2 ^ 20 ≤ s.clock then
        { s with notices := s.notices.set k { n with runtime := false, redir := true } } else s)

/-! ## Boundary traps and the timer (R159, R163, R176, R184) -/

/-- TIMER (R176): `ARM` is cleared and the trap is pending; under a running handler the fire is held in `TPEND`. -/
def execTimer (w : Nat) (s : State) : Out :=
  .next (match s.warp? w with
    | none => s
    | some x =>
      let t := x.trap
      if t.arm && t.deadline.toNat ≤ s.clock && !x.marks.ended then
        s.setWarp w { x with trap := { t with arm := false, fired := t.fired.orElse fun _ => some (t.deadline.setWidth 64),
                                              tpend := t.tpend || t.act } }
      else s)

/-- A suspension that a boundary trap, a halt or a kill ends (R137, R159). -/
def Wait.suspended : Wait → Bool
  | .waitRegs | .waitSt | .waitAll => true
  | .sleep _ => true
  | .watch _ => true
  | _ => false

/-- A trap or a halt that ends a suspension ends a read of its watch that still waits for a log entry (R137; log entry 68). -/
def Warp.dropWatch (x : Warp) : Warp :=
  { x with fifth := x.fifth.filter fun a => match a.instr with | .waitaddr _ => false | _ => true }

/-- The head instruction would issue: it is fetched, passes its checks, and waits for nothing. -/
def State.headReady (s : State) (w : Nat) (x : Warp) : Bool :=
  match x.hw with
  | [] => false
  | e :: _ => match s.fetch w x e.pc with
    | .ok i => (match i.shape with
      | (sh, some f) => (s.gate w x sh f (x.active f e)).isNone
      | _ => false)
    | _ => false

/-- The warp is at a boundary: its run counter is 0 and its head would issue, or it is suspended (R159). -/
def State.atBoundary (s : State) (w : Nat) (x : Warp) : Bool :=
  x.call.report.isNone && !x.marks.ended && !x.marks.halted &&
  (match x.wait with
   | some q => q.suspended
   | none => x.run == 0 && s.headReady w x)

/-- BOUNDARY_TRAP (R159, R184). -/
def execBoundaryTrap (w : Nat) (s : State) : Out :=
  .next (match s.warp? w with
    | none => s
    | some x => match x.hw, x.dueTrap with
      | e :: _, some (code, info, y) => if s.atBoundary w x then (s.setWarp w y.dropWatch).takeTrap w code info e.pc else s
      | _, _ => s)

/-! ## Issue arbitration (R185 to R190) -/

/-- The priority that a warp has by its software priority at the start of the clk and its age (R188, R45, R215). -/
def Warp.effective (x : Warp) : Nat := Nat.min 15 (x.aprio + x.age / 4096)

/-- The first address of the next run, up to EOR or the 24th instruction, whose word cannot be read, with the code of the fault; a page at another node is one
that fails at once (R190, R508). -/
def State.runFault (s : State) (w : Nat) (x : Warp) : Nat → BitVec 57 → Option (BitVec 57 × Nat)
  | 0, _ => none
  | n + 1, pc =>
    let pc := s.land w x pc
    match s.codeWalk w x pc.toNat with
    | .fault c => some (pc, c)
    | .leaf e _ =>
      if pteTier e = 3 then some (pc, 7)
      else match s.codeFault (coreOf w) (leafKey e pc.toNat) with
      | some c => some (pc, c)
      | none =>
        let word := s.codeAt (coreOf w) (leafKey e pc.toNat)
        if word.getLsbD 2 then none else State.runFault s w x n (pc + BitVec.ofNat 57 (lenBytes word))

/-- The fault that keeps the run of a warp's head from becoming resident. -/
def State.headFault (s : State) (w : Nat) (x : Warp) : Option (BitVec 57 × Nat) := x.hw.head?.bind fun e => s.runFault w x 24 e.pc

/-- The addresses and lines of code that the next run needs, up to EOR or the 24th instruction; a word that does not translate ends the search. -/
def State.runSpots (s : State) (w : Nat) (x : Warp) : Nat → BitVec 57 → List (Nat × Nat)
  | 0, _ => []
  | n + 1, pc =>
    let pc := s.land w x pc
    match s.codeWalk w x pc.toNat, s.codeWord w x pc.toNat with
    | .leaf e _, some word =>
      let spot := (pc.toNat, leafKey e pc.toNat / 128)
      if word.getLsbD 2 then [spot] else spot :: State.runSpots s w x n (pc + BitVec.ofNat 57 (lenBytes word))
    | _, _ => []

/-- The lines of code that the next run needs. -/
def State.runLines (s : State) (w : Nat) (x : Warp) (n : Nat) (pc : BitVec 57) : List Nat := (s.runSpots w x n pc).map (·.2)

/-- A line of the next run that the instruction cache does not hold. -/
def State.missingLine (s : State) (w : Nat) (x : Warp) : Option Nat :=
  x.hw.head?.bind fun e => (s.runLines w x 24 e.pc).find? fun l => (s.codeFault (coreOf w) (l * 128)).isNone &&
    !(s.core (coreOf w)).icache.any fun c => c.line == l

/-- Every core that a `preempt` has chosen is free of other processes, or holds a warp of one that its save has not met yet (R432). -/
def State.coresClear (s : State) (w : Nat) (x : Warp) : Bool :=
  let foreign := fun (c : Nat) => s.warps.filter fun p => coreOf p.1 == c && p.2.owner.proc != x.owner.proc
  match s.taking.get? w with
  | none => true
  | some cs => cs.all (fun c => (foreign c).isEmpty && s.transit.all fun t => coreOf t.target != c || t.warp.owner.proc == x.owner.proc) ||
    cs.any fun c => (foreign c).any fun p => !p.2.marks.save && !p.2.marks.ended

/-- The condition of a wait holds, where it can be told without issuing the instruction again. -/
def State.waitEnds (s : State) (w : Nat) (x : Warp) : Wait → Bool
  | .regs rs => rs.all fun r => !x.isEmpty r
  | .binding b n => s.hasRoom w b n
  | .refill r => !x.isSpilled r
  | .oplog => !x.logBusy
  | .pages es => es.any fun e => (x.log.get? e).isNone
  | .fifth => false
  | .access .. => false
  | .flush .. => false
  | .pool _ => true
  | .tlbinv _ => true
  | .queue _ => true
  | .token wt => !x.tokenPending wt
  | .waitRegs | .waitSt | .waitAll => false
  | .sleep _ => false
  | .watch _ => false
  | .fence .. => false
  | .migw => s.moveReady w x
  | .call => x.call.call.isNone
  | .barrier .. => false
  | .arrival _ => s.releaseLanded w
  | .ring .. => false
  | .commit _ => false
  | .matrix _ => false
  | .mxFull => true
  | .fetch _ => false
  | .preempt => s.coresClear w x

/-- The head instruction would wait for a register or a token (R33, R34, R63). -/
def State.headWaits (s : State) (w : Nat) (x : Warp) : Bool :=
  match x.hw with
  | [] => false
  | e :: _ => match s.fetch w x e.pc with
    | .ok i => (match i.shape with
      | (sh, some f) => x.tokenPending f.wt || (match emptySource sh f x with | some (_, src) => !src.ep | none => (sh.writes f).any x.isEmpty)
      | _ => false)
    | _ => false

/-- A warp that issues its head as soon as the code of its run is resident. -/
def State.wantsRun (s : State) (w : Nat) (x : Warp) : Bool :=
  !s.headWaits w x && !x.marks.ended && x.fifth.isNone && !((x.marks.halted || x.marks.save) && x.run == 0) && x.call.report.isNone && !x.hw.isEmpty && !x.moveDue &&
  (match x.wait with | some q => s.waitEnds w x q | none => true)

/-- A warp that may take part in arbitration (R186). -/
def State.eligible (s : State) (w : Nat) (x : Warp) : Bool := s.wantsRun w x && (s.missingLine w x).isNone && (s.headFault w x).isNone

/-- A warp holds its quadrant's issue slot. -/
def State.holdsSlot (s : State) (w : Nat) : Bool := (((s.core (coreOf w)).quads.toList.getD (quadOf w) {}).holder) == some w

/-- The fetch of a run that cannot become resident faults before the warp takes part in arbitration (R158, R190). -/
def State.fetchAhead (s : State) (w : Nat) (x : Warp) : State :=
  match x.hw.head?, s.headFault w x with
  | some e, some (pc, c) => if x.wait.isNone && x.run == 0 && s.wantsRun w x && !s.holdsSlot w then s.fetchFault w x pc e.pc c else s
  | _, _ => s

/-- The lines of the runs that hold the issue slots of a core, and of those of its eligible warps: they stay resident until the run ends (R190). -/
def State.heldLines (s : State) (core : Nat) : List Nat :=
  (s.warps.filter fun p => coreOf p.1 == core).flatMap fun p =>
    if s.holdsSlot p.1 || s.eligible p.1 p.2 then
      p.2.hw.head?.elim [] fun e => s.runLines p.1 p.2 24 e.pc
    else []

/-- A line enters a cache of 64 sets of 8 ways, in place of the oldest line of a full set that no running run holds (R190; log entry 48). -/
def icacheInsert (held : List Nat) (n : CodeLine) (c : List CodeLine) : List CodeLine :=
  let set := c.filter fun l => l.line % 64 == n.line % 64
  if set.length < 8 then n :: c
  else match (set.filter fun l => !held.contains l.line).getLast? with
  | some v => n :: c.filter fun l => l.line != v.line
  | none => c

/-- The process and the address for which a core fetches a line. -/
def State.fetcher (s : State) (core line : Nat) : Nat × Nat :=
  (s.warps.findSome? fun p => if coreOf p.1 != core then none else p.2.hw.head?.bind fun e =>
    ((s.runSpots p.1 p.2 24 e.pc).find? fun q => q.2 == line).map fun q => (p.2.owner.proc, q.1)).getD (0, 0)

/-- Brings a line that the cache does not hold, and that its home can give, into a core's instruction cache; the home counts the request (R405), of a process
at an address, and finds an error in the line (R402). -/
def State.fillCode (s : State) (core line p va : Nat) : State :=
  if ((s.core core).icache.any fun l => l.line == line) || (s.codeFault core (line * 128)).isSome then s
  else
    let n : CodeLine := { line := line, data := s.bytes ((span (line * 128) 128).map s.redirect) }
    let held := s.heldLines core
    ((s.modCore core fun c => { c with icache := icacheInsert held n c.icache }).errorFound (s.redirect (line * 128))).sampleRequest (line * 128) p va core

/-- ICACHE_FILL (R190): a miss fills its line and the next. -/
def execIcacheFill (core line : Nat) (s : State) : Out :=
  .next (
    if (s.core core).icache.any fun l => l.line == line then s
    else
      let (p, va) := s.fetcher core line
      (s.fillCode core line p va).fillCode core (line + 1) p (va + 128))

/-- The eligible warps of a quadrant; those that have yielded stand back where another is eligible (R130),
and contend where none is (log entry 80). -/
def State.contenders (s : State) (core q : Nat) : Tbl Warp :=
  let es := (s.quadWarps core q).filter fun p => s.eligible p.1 p.2
  let es' := es.filter fun p => !p.2.yielded
  if es'.isEmpty then es else es'

/-- ISSUE_ARBITRATION (R187). A warp that has yielded has stood back once another warp was eligible (R130). -/
def execIssueArbitration (core q : Nat) (s : State) : Out :=
  .next (
    let c := s.core core
    let quad := c.quads.toList.getD q {}
    let able := (s.quadWarps core q).filter fun p => s.eligible p.1 p.2
    let es := s.contenders core q
    if quad.holder.isSome || es.isEmpty || 4 ≤ q then s
    else
      let top := (es.map fun p => p.2.effective).foldl Nat.max 0
      let es := es.filter fun p => p.2.effective == top
      let old := (es.map fun p => p.2.age).foldl Nat.max 0
      let es := es.filter fun p => p.2.age == old
      let order := (List.range 16).map fun i => warpKey core (16 * q + (quad.ptr + i) % 16)
      match order.find? fun w => es.any fun p => p.1 == w with
      | none => s
      | some w =>
        let s := s.setCore core { c with quads := c.quads.set! q { holder := some w, ptr := (w % 16 + 1) % 16 } }
        let s := { s with warps := s.warps.map fun (p : Nat × Warp) =>
          (p.1, if coreOf p.1 == core && quadOf p.1 == q && (able.any fun e => e.1 != p.1) then { p.2 with yielded := false } else p.2) }
        s.modWarp w fun x => { x with age := 0, eprio := x.prio, wait := none })

/-- AGEING_RAISE (R188): `EPRIO` follows the software priority and the age. -/
def execAgeingRaise (w : Nat) (s : State) : Out := .next (s.modWarp w fun x => { x with eprio := x.effective })

/-- FRONTIER_MOVE (R38). -/
def execFrontierMove (w : Nat) (s : State) : Out :=
  .next (match s.warp? w with
    | some x => if x.moveDue then (s.setWarp w { x.moveEntry with kept := [] }).freeSlot w else s
    | none => s)

/-! ## Register spills and refills (R29, R31) -/

/-- The registers that a warp's head instruction reads or writes. -/
def State.headNames (s : State) (w : Nat) (x : Warp) : List Reg :=
  match x.hw with
  | [] => []
  | e :: _ => match s.fetch w x e.pc with
    | .ok i => (match i.shape with
      | (sh, some f) => (sh.reads f).map (·.1) ++ sh.writes f
      | _ => [])
    | _ => []

/-- A warp of a quadrant that waits for entries of a pool and has none to take. -/
def State.spillFor (s : State) (core q : Nat) (lanePool : Bool) : Option (Nat × Warp) :=
  (s.quadWarps core q).find? fun p => match p.2.wait with
    | some (.binding b n) => b == lanePool && !s.hasRoom p.1 lanePool n
    | some (.refill r) => isLaneReg r == lanePool && !s.hasRoom p.1 lanePool 1
    | _ => false

/-- REGISTER_SPILL (R29): the victim binding goes to the spill region. -/
def execRegisterSpill (core q : Nat) (lanePool : Bool) (s : State) : Out :=
  .next (match s.spillFor core q lanePool with
    | none => s
    | some (w, x) => s.spillOne core q lanePool w (s.headNames w x))

/-- REGISTER_REFILL (R31): a spilled register returns to an entry of its pool. -/
def execRegisterRefill (w : Nat) (r : Reg) (s : State) : Out :=
  .next (match s.warp? w with
    | none => s
    | some x =>
      if !x.isSpilled r || !s.hasRoom w (isLaneReg r) 1 then s
      else s.setWarp w { x.setSpilled r false s.clock with wait := if x.wait == some (.refill r) then none else x.wait })

end Sys2Proof.Machine
end

