-- ==== Sys2Proof/Machine/ClusterSync.lean ====
section
/-! DEFINITION. Gang barriers (R310 to R320) and stage rings (R321 to R326). -/

namespace Sys2Proof.Machine

/-! ## Arrivals (R314, R317) -/

/-- The path condition of `.mx` (R317). -/
def State.pathReady (s : State) (w : Nat) (x : Warp) : Bool :=
  s.fenceReady w 3 2 && (x.role != 1 || s.mxFenced w true)

/-- What an arrival, a put or a free waits for before it acts: the path condition under `.mx`, the operand log, the release at `.cl`. `kill` says that the
wait is a kill point, as in `barsync` (R430). -/
def State.releaseWait (s : State) (w : Nat) (x : Warp) (mx kill : Bool) : Option Wait :=
  if mx && !s.pathReady w x then some (.arrival kill)
  else if x.logBusy then some .oplog
  else if !s.releaseLanded w then some (.arrival kill)
  else none

/-- The gang of a member, with its membership. -/
def State.memberGang (s : State) (w : Nat) (x : Warp) (g : Nat) : Option (Member × Nat × Gang) :=
  (x.member? g).bind fun m => x.owner.ensemble.bind fun e => (s.gang? (clusterOf (coreOf w)) e g).map fun q => (m, e, q)

/-- The warp has already arrived in the phase that is open. -/
def arrived (m : Member) (q : Gang) : Bool := m.arr && m.ap == q.ph

/-- The arrival, without the check of completion. Slice stores of the warp reach their homes with the release (R208, R314). -/
def State.arrive (s : State) (w ens : Nat) (q : Gang) : State :=
  ((s.cleanSlices w 2).modGang (clusterOf (coreOf w)) ens q.num fun q => { q with arrv := q.arrv + 1 }).modWarp w fun x =>
    x.modMember q.num fun m => { m with arr := true, ap := q.ph }

/-- The warp suspends on its pending arrival. -/
def State.barrierWait (s : State) (i : Issue) (g : Nat) : State :=
  (s.hold i.w (.barrier g (some i.f.xd) i.act)).modWarp i.w fun x => { x with run := 0, waitLen := i.f.form.bytes }

/-- A membership with a reissued wait noted as issued (R461). -/
def State.reissued (s : State) (w g : Nat) : State := s.modWarp w fun x => x.modMember g fun m => { m with again := none }

/-- The wait of a member ends at issue: the phase of its arrival has completed (R316). -/
def State.phaseOver (s : State) (i : Issue) (g : Nat) (q : Gang) : State :=
  let s := (s.reissued i.w g).modWarp i.w fun x => x.modMember g fun m => { m with arr := false }
  (i.writePred s i.f.xd (fun _ => q.lres) 0).acquireFor i.w 2

/-- `barsync` (R314 to R316). One that a save has suspended after its arrival only waits when it issues again (R461); one whose arrival completes the phase is at
no kill point (R462). -/
def execBarsync (f : Frame) (s : State) : Out :=
  s.issueOnce (.barsync f) fun i t =>
    let g := f.xa
    match t.memberGang i.w i.x g with
    | none => .next (i.writePred t f.xd (fun _ => false) 0)
    | some (m, ens, q) =>
      if arrived m q then .done ((t.reissued i.w g).barrierWait i g)
      else if m.arr && m.again == some i.e.pc then .next (t.phaseOver i g q)
      else match t.releaseWait i.w i.x (f.bit 0) true with
      | some wt => .hold wt
      | none => .done (((t.arrive i.w ens q).barrierWait i g).checkGang (clusterOf (coreOf i.w)) ens g i.x.straddle (some i.w))

def execBararr (f : Frame) (s : State) : Out :=
  s.issueOnce (.bararr f) fun i t =>
    let g := f.xa
    match t.memberGang i.w i.x g with
    | none => .next t
    | some (m, ens, q) =>
      if arrived m q then .next t
      else match t.releaseWait i.w i.x (f.bit 0) false with
      | some wt => .hold wt
      | none => .next ((t.arrive i.w ens q).checkGang (clusterOf (coreOf i.w)) ens g i.x.straddle (some i.w))

def execBarwait (f : Frame) (s : State) : Out :=
  s.issueOnce (.barwait f) fun i t =>
    let g := f.xa
    match t.memberGang i.w i.x g with
    | none => .next (i.writePred t f.xd (fun _ => false) 0)
    | some (m, _, q) =>
      if !m.arr then .next (i.writePred t f.xd (fun _ => false) 0)
      else if q.ph == m.ap then .done ((t.reissued i.w g).barrierWait i g)
      else .next (t.phaseOver i g q)

/-- PAIR_PHASE_MESSAGE (R319): the phase that the partner of a half has completed, or has seen to its end, arrives, once. -/
def execPairPhaseMessage (cluster g : Nat) (s : State) : Out :=
  .next (match (s.cluster cluster).gangs.find? fun q => q.num == g && q.rph == q.ph &&
      (match s.gang? (partner cluster) q.ensemble g with
       | some o => if o.ph == q.ph then o.sent else o.ahead
       | none => false) with
    | none => s
    | some q =>
      let cxl := match s.gang? (partner cluster) q.ensemble g with | some o => if o.ph == q.ph then o.cxl else !o.lres | none => false
      (s.modGang cluster q.ensemble g fun q => { q with rph := !q.rph, rcxl := cxl }).checkGang cluster q.ensemble g true none)

/-! ## Stage rings -/

/-- The cluster that holds the rings of a warp's ensemble: in a pair, half 0's (R321, R326). -/
def ringHome (cluster : Nat) (straddle : Bool) : Nat := if straddle then Nat.min cluster (partner cluster) else cluster

def State.ring? (s : State) (w : Nat) (x : Warp) (num : Nat) : Option Ring :=
  x.owner.ensemble.bind fun e =>
    (s.cluster (ringHome (clusterOf (coreOf w)) x.straddle)).rings.find? fun r => r.ensemble == e && r.num == num

/-- Slot and lap of an item (R323). -/
def Ring.place (r : Ring) (item : W32) : Nat × Nat := (item.toNat % r.n, item.toNat / r.n)
def Ring.slot (r : Ring) (j : Nat) : RSlot := r.slots.getD j {}
/-- Offset of a slot. -/
def Ring.offset (r : Ring) (j : Nat) : W64 := ((r.base + BitVec.ofNat 32 j * r.sp : W32)).setWidth 64

/-- `.e` is ready when the slot is empty in the item's lap; `.f` when it is full in it (R323). -/
def Ring.ready (r : Ring) (full : Bool) (item : W32) : Bool :=
  let (j, lap) := r.place item
  let q := r.slot j
  if full then q.full && q.ph != (lap % 2 == 1) else !q.full && q.ph == (lap % 2 == 1)

/-- `rwait` is ready: the warp acquires at `.cl` and D takes the offset of the item's slot (R323). -/
def State.giveSlot (s : State) (w : Nat) (r : Ring) (item : W32) (kd : Nat) : State :=
  (s.modWarp w fun x => x.putUni kd (r.offset (r.place item).1) false s.clock).acquireFor w 2

/-- `rwait` (R323): it suspends at its place until its slot is ready. -/
def State.rwait (s : State) (i : Instr) (full : Bool) : Out :=
  s.issueOnce i fun iss t =>
    let (k, tag) := iss.x.uni iss.f.kb
    if tag then .trap 9 0
    else match t.ring? iss.w iss.x iss.f.xa with
    | none => .next (iss.writeUni t iss.f.kd 0 false)
    | some r =>
      if r.ready full (k.setWidth 32) then .next (t.giveSlot iss.w r (k.setWidth 32) iss.f.kd)
      else .suspend t (.ring iss.f.xa full (k.setWidth 32) iss.f.kd)

def execRwaitE (f : Frame) (s : State) : Out := s.rwait (.rwaitE f) false
def execRwaitF (f : Frame) (s : State) : Out := s.rwait (.rwaitF f) true

/-- A ring operation is released and sets out for the ring (R324, R326); it waits first as R317 and R166 state. -/
def State.ringSend (s : State) (i : Instr) (mx : Bool) (tagged : Issue → Bool) (op : Issue → RingOp) : Out :=
  s.issueOnce i fun iss t =>
    if tagged iss then .trap 9 0
    else match t.ring? iss.w iss.x iss.f.xa, iss.x.owner.ensemble with
    | some _, some e => (match t.releaseWait iss.w iss.x mx false with
      | some wt => .hold wt
      | none => .next ((t.cleanSlices iss.w 2).modCluster (ringHome (clusterOf (coreOf iss.w)) iss.x.straddle) fun c =>
          { c with msgs := c.msgs ++ [{ ensemble := e, num := iss.f.xa, op := op iss, w := iss.w }] }))
    | _, _ => .next t

/-- The item that kB names. -/
def Issue.item (i : Issue) : W32 := (i.x.uni i.f.kb).1.setWidth 32
def Issue.kbTagged (i : Issue) : Bool := (i.x.uni i.f.kb).2

def execRput (f : Frame) (s : State) : Out := s.ringSend (.rput f) (f.bit 0) Issue.kbTagged fun i => .put i.item
def execRfree (f : Frame) (s : State) : Out := s.ringSend (.rfree f) (f.bit 0) Issue.kbTagged fun i => .free i.item
def execRfreeInit (f : Frame) (s : State) : Out :=
  s.ringSend (.rfreeInit f) false (fun i => (i.x.uniGroup i.f.kb 2).2) fun i => .init (i.x.uni i.f.kb).1 (i.x.uni (i.f.kb + 1)).1

/-- `rget` (R325). -/
def execRget (f : Frame) (s : State) : Out :=
  s.issueOnce (.rget f) fun i t =>
    if f.vn = 2 && i.kbTagged then .trap 9 0
    else match t.ring? i.w i.x f.xa with
    | none => .next (i.writeUni t f.kd 0 false)
    | some r =>
      let err := if r.err then 1 else 0
      let v : Nat := match f.vn with
        | 0 => err * 2 ^ 31 + r.ccnt * 2 ^ 20 + r.pcnt * 2 ^ 8 + r.n
        | 1 => r.sp.toNat * 2 ^ 32 + r.base.toNat
        | _ =>
          let (j, _) := r.place i.item
          let q := r.slot j
          (if q.full then 2 ^ 31 else 0) + (if q.ph then 2 ^ 30 else 0) + err * 2 ^ 29 + q.frees * 2 ^ 16 + j * 2 ^ 10 + q.puts
      .next (i.writeUni t f.kd (BitVec.ofNat 64 v) false)

/-- The configuration of a valid `rfree.init` record (R322). -/
def ringConfig (r : Ring) (b b1 : W64) : Option Ring :=
  let sp := bits b 32 32
  let base := bits b 0 32
  let ccnt := bits b1 20 10
  let pcnt := bits b1 8 10
  let n := bits b1 0 7
  if sp % 16 = 0 && 16 ≤ sp && base % 16 = 0 && bits b1 30 34 = 0 && bits b1 18 2 = 0 && bits b1 7 1 = 0 &&
      1 ≤ ccnt && ccnt ≤ 512 && 1 ≤ pcnt && pcnt ≤ 512 && 1 ≤ n && n ≤ 64 then
    some { r with base := BitVec.ofNat 32 base, sp := BitVec.ofNat 32 sp, n := n, pcnt := pcnt, ccnt := ccnt, err := false,
                  slots := List.replicate n {} }
  else none

/-- What an operation does to its ring (R322, R324). -/
def Ring.apply (r : Ring) (op : RingOp) : Ring :=
  match op with
  | .init b b1 => (ringConfig r b b1).getD { r with err := true }
  | .put item =>
    if !r.ready false item then { r with err := true }
    else
      let j := (r.place item).1
      let q := r.slot j
      let q := if q.puts + 1 = r.pcnt then { q with puts := 0, full := true, ph := !q.ph } else { q with puts := q.puts + 1 }
      { r with slots := r.slots.set j q }
  | .free item =>
    if !r.ready true item then { r with err := true }
    else
      let j := (r.place item).1
      let q := r.slot j
      let q := if q.frees + 1 = r.ccnt then { q with frees := 0, full := false } else { q with frees := q.frees + 1 }
      { r with slots := r.slots.set j q }

/-- Waits on rings whose slots are ready at the end of a clk (R323, R326), once there is an entry of the pool for their destination (R29). A kill comes first
(R430). -/
def State.endRingWaits (s : State) : State :=
  s.warps.foldl (fun s p => match p.2.wait with
    | some (.ring num full item kd) => (match s.ring? p.1 p.2 num with
      | some r =>
        if r.ready full item && !s.killDue p.1 p.2 then
          let (t, room) := s.placeRegs p.1 [.k kd]
          if room then (t.giveSlot p.1 r item kd).finishWait p.1 else t
        else s
      | none => s)
    | _ => s) s

/-- RING_UPDATE (R326): an operation takes effect in its ring, in the order in which operations on one ring were released, and within a clk in that of R309.
Readiness is checked at the end of the clk. -/
def execRingUpdate (cluster k : Nat) (s : State) : Out :=
  .next (
    let c := s.cluster cluster
    match c.msgs[k]? with
    | none => s
    | some m =>
      let mine := fun (e num : Nat) => e == m.ensemble && num == m.num
      let rank := arrivalRank s.clock cluster (coreOf m.w)
      if (c.msgs.take k).any (fun n => mine n.ensemble n.num) || !c.rings.all fun r => !mine r.ensemble r.num || mayServe r.served s.clock rank then s
      else s.setCluster cluster { c with msgs := c.msgs.eraseIdx k,
                                         rings := c.rings.map fun r => if mine r.ensemble r.num then { r.apply m.op with served := (s.clock, rank) } else r })

end Sys2Proof.Machine
end

