-- ==== Sys2Proof/Machine/CrossLane.lean ====
section
/-! DEFINITION. Predicates (R138 to R141) and cross-lane operations (R142 to R150), opcodes 0x0A0 to 0x0A8. -/

namespace Sys2Proof.Machine

/-! ## Predicates -/

/-- `pset` (R139): NOT inverts; a tagged lane receives false (R138). -/
def execPset (f : Frame) (s : State) : Out :=
  s.issueOnce (.pset f) fun i t =>
    let zero : Opr := { val := fun _ => 0, tag := 0 }
    let a := i.x.oprA f false false
    let b := if f.vn = 0 then i.x.oprB f false false else zero
    let p := fun l : Fin 32 => match f.vn with
      | 0 => (a.val l).getLsbD ((b.val l).toNat % 32)
      | 1 => (a.val l).getLsbD l.val
      | _ => (a.val l).setWidth 32 != (0 : W32)
    .next (i.writePred t f.xd (fun l => p l != f.bit 0) (a.tag ||| b.tag))

/-- `plop` (R140). -/
def execPlop (f : Frame) (s : State) : Out :=
  s.issueOnce (.plop f) fun i t =>
    let p := fun (n : Nat) (l : Fin 32) => ((i.x.pred n).getLsbD l.val).toNat
    .next (i.writePred t f.xd (fun l => f.bit (4 * p f.xa l + 2 * p f.xb l + p (f.mf 8 3) l)) 0)

/-- The predicates of a lane as a byte; bit 7 is 1 (R141). -/
def packPreds (x : Warp) (l : Fin 32) : W32 :=
  BitVec.ofNat 32 (((List.range 8).map fun n => ((x.pred n).getLsbD l.val).toNat * 2 ^ n).sum)

def execPmov (f : Frame) (s : State) : Out :=
  s.issueOnce (.pmov f) fun i t =>
    if f.vn = 0 then .next (i.writeLane t f.xd (packPreds i.x) 0)
    else
      let (a, ta) := i.x.lane f.xa
      .next ((List.range 7).foldl (fun t n => if f.bit n then i.writePred t n (fun l => a[l].getLsbD n) ta else t) t)

/-! ## Cross-lane operations -/

/-- A result of a cross-lane operation in its destination: the active lanes, or one uniform register under DU, poisoned when any lane's
would be (R142). -/
def Issue.cross (i : Issue) (s : State) (du : Bool) (v : Fin 32 → W32) (t : Mask) : State :=
  if du then match firstLane i.act with
    | some l => i.produceUni s i.f.kd ((v l).setWidth 64) (t &&& i.act != 0)
    | none => s
  else i.produceLane s i.f.xd v t

/-- The source lane of a shuffle (R143). -/
def shflSource (mode w s l : Nat) : Nat :=
  let base := l - l % w
  let o := l - base
  match mode with
  | 0 => base + s % w
  | 1 => base + (o + s) % w
  | 2 => base + (o ^^^ s % w)
  | _ => base + (w - 1 - o)

def execShfl (f : Frame) (s : State) : Out :=
  s.issueOnce (.shfl f) fun i t =>
    let (a, ta) := i.x.lane f.xa
    let b : Opr := if f.vn = 3 then { val := fun _ => 0, tag := 0 } else i.x.oprB f false false
    let src := fun l : Fin 32 => Fin.ofNat 32 (shflSource f.vn (2 ^ f.mf 3 3) ((b.val l).toNat % 256) l.val)
    let ok := fun l : Fin 32 => i.act.getLsbD (src l).val
    let tag := maskOf fun l => (ok l && ta.getLsbD (src l).val) || b.tag.getLsbD l.val
    let t := i.writePred t (f.mf 0 3) ok b.tag
    .next (i.produceLane t f.xd (fun l => if ok l then a[src l] else 0) tag)

/-- The lanes of a mask as a number. -/
def countOf (m : Mask) : Nat := (lanesOf m).length

def execVote (f : Frame) (s : State) : Out :=
  s.issueOnce (.vote f) fun i t =>
    let p := i.x.pred f.xa
    let held := i.act &&& (if f.bit 6 then ~~~p else p)
    let c := countOf held
    let n := countOf i.act
    .next (match f.vn with
      | 0 => i.writePred t f.xd (fun _ => f.mf 0 6 ≤ c) 0
      | 1 => i.writePred t f.xd (fun _ => c == n) 0
      | 2 => i.writePred t f.xd (fun _ => c == n || c == 0) 0
      | 3 => i.cross t f.du (fun _ => held) 0
      | _ => i.cross t f.du (fun _ => BitVec.ofNat 32 c) 0)

/-- `combine` of R145, and the flags of its rounding. -/
def combine (v : Nat) (unsigned : Bool) (rm : Rm) (fz : Bool) (x y : W32) : W32 × Exc :=
  let lt := fun a b : W32 => if unsigned then decide (a.toNat < b.toNat) else decide (a.toInt < b.toInt)
  let ofF := fun r : Nat × Exc => (BitVec.ofNat 32 r.1, r.2)
  match v with
  | 0 => (x + y, {})
  | 1 => (if lt y x then y else x, {})
  | 2 => (if lt x y then y else x, {})
  | 3 => (x &&& y, {})
  | 4 => (x ||| y, {})
  | 5 => (x ^^^ y, {})
  | 6 => ofF (f32.sum rm fz false [f32.decFz fz x.toNat, f32.decFz fz y.toNat])
  | _ => ofF (f32.minMax fz true false x.toNat y.toNat)

/-- The exclusive identity (R145). -/
def identity (v : Nat) (unsigned : Bool) : W32 :=
  match v with
  | 1 => if unsigned then 0xFFFFFFFF else 0x7FFFFFFF
  | 2 => if unsigned then 0 else 0x80000000
  | 3 => 0xFFFFFFFF
  | 6 => 0x80000000
  | 7 => 0xFF800000
  | _ => 0

/-- Operand A of `redux` and `scan`: NA and AA in the FP forms. -/
def Issue.crossA (i : Issue) : (Fin 32 → W32) × Mask :=
  let (a, t) := i.x.lane i.f.xa
  (fun l => if 6 ≤ i.f.vn then signMods 0x80000000 (i.f.bit 7) (i.f.bit 6) a[l] else a[l], t)

def Issue.combine (i : Issue) : W32 → W32 → W32 × Exc :=
  Machine.combine i.f.vn (i.f.bit 0) (i.x.rm (i.f.mf 0 3)) i.x.fz

/-- One level of the tree of R146: neighbours meet; an absent value gives way. -/
def pairUp (g : W32 → W32 → W32 × Exc) : List (Option W32) → List (Option W32) × Exc
  | a :: b :: r =>
    let (t, e) := pairUp g r
    match a, b with
    | some x, some y => let (z, e') := g x y; (some z :: t, e.or e')
    | none, _ => (b :: t, e)
    | _, none => (a :: t, e)
  | l => (l, {})

/-- The tree over 32 lanes: its root and its flags. -/
def tree (g : W32 → W32 → W32 × Exc) (n : Nat) (vs : List (Option W32)) : List (Option W32) × Exc :=
  match n with
  | 0 => (vs, {})
  | n + 1 => let (vs, e) := pairUp g vs; let (r, e') := tree g n vs; (r, e.or e')

def execRedux (f : Frame) (s : State) : Out :=
  s.issueOnce (.redux f) fun i t =>
    let (a, ta) := i.crossA
    let (r, e) := tree i.combine 5 ((List.finRange 32).map fun l => if i.act.getLsbD l.val then some (a l) else none)
    let v := ((r.head?.bind id).getD 0)
    let tag := if i.tainted ta then allLanes else 0
    .next (i.raise (i.cross t f.du (fun _ => v) tag) tag fun _ => e)

/-- What `scan` carries from lane to lane: the accumulator, whether a tagged value has entered it, and the results so far. -/
structure Scan where
  acc : Option W32
  tagged : Bool := false
  out : Tbl (W32 × Bool × Exc × Bool) := []

/-- One lane of `scan` (R147): its result and whether it is poisoned, the flags of its rounding and whether they are dropped:
where the rounding takes in a tagged value, its own too (log entry 82). -/
def Scan.lane (exc : Bool) (g : W32 → W32 → W32 × Exc) (a : Fin 32 → W32) (t : Mask) (c : Scan) (l : Fin 32) : Scan :=
  let (acc, e) := match c.acc with
    | some y => g y (a l)
    | none => (a l, {})
  let tagged := c.tagged || t.getLsbD l.val
  let r := if exc then (c.acc.getD 0, c.tagged) else (acc, tagged)
  { acc := some acc, tagged := tagged, out := c.out ++ [(l.val, r.1, r.2, e, tagged)] }

def execScan (f : Frame) (s : State) : Out :=
  s.issueOnce (.scan f) fun i t =>
    let (a, ta) := i.crossA
    let exc := f.bit 4
    let start : Scan := { acc := if exc then some (identity f.vn (f.bit 0)) else none }
    let c := (lanesOf i.act).foldl (Scan.lane exc i.combine a ta) start
    let get := fun l : Fin 32 => c.out.getD l.val (0, false, {}, false)
    let t := i.produceLane t f.xd (fun l => (get l).1) (maskOf fun l => (get l).2.1)
    .next (i.raise t (maskOf fun l => (get l).2.2.2) fun l => (get l).2.2.1)

/-- The peers of a lane (R148). -/
def peers (act : Mask) (a : Fin 32 → W64) (l : Fin 32) : Mask := act &&& maskOf fun k => a k == a l

def execMatchLanes (f : Frame) (s : State) : Out :=
  s.issueOnce (.matchLanes f) fun i t =>
    let a := i.x.laneOpr f.xa (f.bit 0)
    let p := peers i.act a.val
    let tag := if i.tainted a.tag then allLanes else 0
    .next (match f.vn with
      | 0 => i.cross t false (fun l => ((firstLane (p l)).map fun k => BitVec.ofNat 32 k.val).getD 0) tag
      | 1 => i.cross t false p tag
      | 2 => i.cross t false (fun l => BitVec.ofNat 32 (countOf (p l))) tag
      | _ => i.cross t f.du (fun l => if p l == i.act then 1 else 0) tag)

/-- The live lanes: every frontier entry, spilled ones too (R149). -/
def Warp.live (x : Warp) : Mask := (x.hw ++ x.sp).foldl (fun (m : Mask) e => m ||| e.mask) 0

def execLanes (f : Frame) (s : State) : Out :=
  s.issueOnce (.lanes f) fun i t =>
    .next (match f.vn with
      | 0 => i.cross t f.du (fun _ => i.act) 0
      | 1 => i.cross t f.du (fun _ => i.x.live) 0
      | 2 => i.cross t false (fun l => BitVec.ofNat 32 (countOf (i.act &&& ((1#32 <<< l.val) - 1)))) 0
      | _ => i.cross t f.du (fun _ => BitVec.ofNat 32 (countOf i.act)) 0)

end Sys2Proof.Machine
end

