-- ==== Sys2Proof/Machine/Scopes.lean ====
section
/-! DEFINITION. Cancel scopes: creation and marking (R425 to R429, R440, R441), kill points (R182, R430, R431), and `cchk` (R442). -/

namespace Sys2Proof.Machine

/-! ## Marking -/

/-- A scope lies at or below another (R428); the walk takes at most 64 steps (R425). -/
def State.under (s : State) (top : Nat) : Nat → Nat → Bool
  | 0, _ => false
  | fuel + 1, n => n == top || match (s.scopes.get? n).bind (·.parent) with
    | some p => State.under s top fuel p
    | none => false

/-- The scopes of a subtree. -/
def State.subtree (s : State) (n : Nat) : List Nat := s.scopes.keys.filter (s.under n 65)

/-- Marked scopes with nothing left complete, the deepest first (R427). -/
def State.settleScopes (s : State) (ns : List Nat) : State :=
  (List.range 64).reverse.foldl (fun s d => (ns.filter fun n => ((s.scopes.get? n).map (·.depth)) == some d).foldl State.settleScope s) s

/-- The marking of R428: the named scope alone as ENDING, or its subtree as CANCELLED. No die has seen it yet; one that has seen an earlier marking goes on
accepting nothing. -/
def State.markScope (s : State) (n : Nat) (ending : Bool) : State :=
  let ns := if ending then [n] else s.subtree n
  let g := s.generation + 1
  let s := ns.foldl (fun s m => s.modScope m fun c =>
    if c.state == .cancelled then c
    else { c with state := if ending then .ending else .cancelled, gen := g, seen := [], told := c.told ++ c.seen }) { s with generation := g }
  s.settleScopes ns

/-! ## Instructions (R440 to R442) -/

/-- `scnew` (R440, R460). -/
def execScnew (f : Frame) (s : State) : Out :=
  s.issueOnce (.scnew f) fun i t =>
    let (k, tag) := i.x.uni f.kb
    if tag then .trap 9 0
    else
      let parent := i.x.owner.scope
      .next (match t.scopes.get? parent, t.scopes.free 0 65536 with
        | some p, some n =>
          if p.state == .live && p.depth < 63 && k.toNat % 8 = 0 then
            let c : Scope := { proc := i.x.owner.proc, parent := some parent, depth := p.depth + 1, coop := f.vn == 1, ack := k,
                               gen := t.generation }
            i.produceUni ({ t with scopes := t.scopes.set n c }.enterScope parent 1) f.kd (BitVec.ofNat 64 n) false
          else i.produceUni t f.kd (BitVec.allOnes 64) false
        | _, _ => i.produceUni t f.kd (BitVec.allOnes 64) false)

/-- `cancel` and `cancel.end` (R441): result 0 arrives once the marking has reached every die. -/
def State.cancelOp (s : State) (i : Instr) (ending : Bool) : Out :=
  s.issueOnce i fun iss t =>
    let (k, tag) := iss.x.uni iss.f.ka
    let n := k.toNat
    if tag then .trap 9 0
    else if 65536 ≤ n then .trap 2 0
    else
      let answer := fun (t : State) (v : W64) (m : Option Nat) =>
        let (id, t) := t.fresh
        t.produce iss.w [.k iss.f.kd] { id := id, puts := [.k iss.f.kd v false], marking := m }
      .next (match t.scopes.get? n with
        | none => answer t 2 none
        | some c =>
          if c.proc != iss.x.owner.proc || c.parent.isNone then answer t 2 none
          else if c.state == .cancelled || (ending && c.state == .ending) then answer t 1 none
          else answer (t.markScope n ending) 0 (some n))

def execCancel (f : Frame) (s : State) : Out := s.cancelOp (.cancel f) false
def execCancelEnd (f : Frame) (s : State) : Out := s.cancelOp (.cancelEnd f) true

/-! ## Kill points -/

/-- A warp of a cancelled scope is at a kill point (R430). One that a save has stopped is saved first (R444); a halted warp does not issue (R184). -/
def State.atKillPoint (s : State) (w : Nat) (x : Warp) : Bool :=
  let eager := !(((s.scopes.get? x.owner.scope).map (·.coop)).getD false)
  s.cancelledAt x.owner.scope (dieOf (coreOf w)) && !x.marks.ended && !x.hw.isEmpty && !x.marks.stopped &&
  (x.call.report.isSome || (match x.wait with
    | some q => x.killableWait q
    | none => s.tokenWait w x || (eager && x.run == 0 && !x.marks.halted && s.headReady w x)))

/-- The warp ends at a kill point (R431): an outstanding call is flagged cancelled and its reply discarded (R182). -/
def State.kill (s : State) (w : Nat) : State :=
  match s.warp? w with
  | none => s
  | some x =>
    let s := s.setWarp w { x with call := { x.call with call := none, report := none } }
    let s := if x.call.call.isSome then s.post w { half := 0, record := none } else s
    { s with taking := s.taking.erase w }.endWarp w true

/-- KILL_POINT (R430, R431). -/
def execKillPoint (w : Nat) (s : State) : Out :=
  .next (match s.warp? w with
    | some x => if s.atKillPoint w x then s.kill w else s
    | none => s)

/-- `cchk` (R442): a kill point when `SCOPE.CXL` is 1. -/
def execCchk (f : Frame) (s : State) : Out :=
  s.issueOnce (.cchk f) fun i t =>
    if t.cancelledAt i.x.owner.scope (dieOf (coreOf i.w)) then .done (t.kill i.w) else .next t

def execCchkT (f : Frame) (s : State) : Out :=
  s.issueOnce (.cchkT f) fun i t =>
    .next (i.writePred t f.xd (fun _ => t.cancelledAt i.x.owner.scope (dieOf (coreOf i.w))) 0)

/-! ## The marking at a die (R428, R429) -/

/-- A task record is discarded: its scope's discard count, its successor with CXL, its live count (R424, R429). -/
def State.discardTask (s : State) (die : Nat) (r : TaskRec) : State :=
  ((s.modScope r.scope fun c => { c with discards := c.discards + 1 }).joinTask die r.proc r.words[3] true).leaveScope r.scope

/-- The scope of a saved context. -/
def State.savedScope (s : State) (c : Saved) : Nat :=
  match c.ensemble.bind s.ensembles.get? with
  | some e => e.scope
  | none => ((c.warps.head?).map fun w => w.2.owner.scope).getD 0

/-- A saved context of a cancelled scope is discarded (R429): a task's join block and count, or an ensemble's warps, killed. -/
def State.discardSaved (s : State) (c : Saved) : State :=
  let s := { s with saved := s.saved.filter fun q => q.id != c.id }
  match c.ensemble, c.warps with
  | some e, ws => (match s.ensembles.get? e with
    | some q => ({ s with ensembles := s.ensembles.set e { q with live := q.live - ws.length, killed := true } }).modScope q.scope fun c =>
        { c with count := c.count - ws.length }
    | none => s)
  | none, (_, x) :: _ => (s.joinTask c.die c.proc x.owner.succ true).leaveScope x.owner.scope
  | none, [] => s

/-- A launch record is dropped with a code (R417). -/
def State.dropLaunch (s : State) (p : Nat) (r : BitVec 512) (counted : Bool) (code : Nat) : State :=
  let done := (r.extractLsb' 320 64).toNat
  let s := if done = 0 then s else s.storeVirt p done (toBytes 8 (0xFFFF_FFFF_FFFF_FF00 + code))
  if counted then s.leaveScope (r.extractLsb' 128 16).toNat else s

/-- The launch records of a scope that are queued or wait for clusters are dropped with code 6. -/
def State.dropLaunches (s : State) (n : Nat) : State :=
  match (s.scopes.get? n).bind fun c => (s.proc? c.proc).map (c.proc, ·) with
  | none => s
  | some (p, pr) =>
    let mine := fun (r : BitVec 512) => (r.extractLsb' 128 16).toNat == n
    let s := s.modProc p fun q => { q with queue := q.queue.filter fun d => !mine d.record, placing := q.placing.filter fun r => !mine r }
    let s := (pr.placing.filter mine).foldl (fun s r => s.dropLaunch p r true 6) s
    (pr.queue.filter fun d => mine d.record).foldl (fun s d => s.dropLaunch p d.record d.counted 6) s

/-- What the arrival of a CANCELLED marking does to the queued and saved work of one scope on a die (R429); launch queues see it with die 0. -/
def State.cancelOn (s : State) (die n : Nat) : State :=
  let dead := ((s.die die).pools ++ (s.die die).owed).filter fun r => r.scope == n
  let s := s.modDie die fun d => { d with pools := d.pools.filter (fun r => r.scope != n), owed := d.owed.filter fun r => r.scope != n }
  let s := dead.foldl (fun s r => s.discardTask die r) s
  let s := (s.saved.filter fun c => c.die == die && s.savedScope c == n).foldl State.discardSaved s
  if die = 0 then s.dropLaunches n else s

/-- MARKING_ARRIVAL (R428): a die sees the marking of a scope, and of the scopes below it. -/
def execMarkingArrival (die scope : Nat) (s : State) : Out :=
  .next (
    let ns := (s.subtree scope).filter fun n => match s.scopes.get? n with
      | some c => c.state != .live && !c.seen.contains die
      | none => false
    let s := ns.foldl (fun s n => s.modScope n fun c => { c with seen := c.seen ++ [die] }) s
    let s := ns.foldl (fun s n => if s.cancelledAt n die then s.cancelOn die n else s) s
    s.settleScopes ns)

end Sys2Proof.Machine
end

