-- ==== Sys2Proof/Machine/Launch.lean ====
section
/-! DEFINITION. Launches and tasks: entry descriptors (R77), deposits (R416, R423, R437 to R439), validation (R417), placement and admission (R419 to R421),
the end of an ensemble (R418), and dispatch (R423). -/

namespace Sys2Proof.Machine

/-! ## Entry descriptors (R77) -/

/-- A gang record: gang, role, first role index, members, ordinal of the first. -/
structure GangRec where
  gang : Nat
  role : Nat
  first : Nat
  count : Nat
  ord : Nat
  deriving DecidableEq, Repr

structure Kernel where
  entry : Nat
  lregs : Nat
  eprio : Nat
  uregs : Nat
  kind : Nat
  flags : Nat
  mprio : Nat
  xprio : Nat
  scratch : Nat
  cshared : Nat
  counts : List Nat
  moff : Nat
  xoff : Nat
  pwsz : List Nat
  gangs : List GangRec
  deriving DecidableEq, Repr

/-- A field of bytes. -/
def field (bs : List Byte) (lo n : Nat) : Nat := ofBytes ((bs.drop lo).take n)

def gangRec (bs : List Byte) : GangRec :=
  { gang := field bs 0 1, role := field bs 1 1, first := field bs 2 2, count := field bs 4 2, ord := field bs 6 2 }

/-- The bytes of a process's memory that may be read. -/
def State.virtBytes (s : State) (p va n : Nat) : Option (List Byte) :=
  if 2 ^ 57 < va + n then none else (s.virtKeys p va n 0).map s.bytes

/-- The descriptor at an address, with its gang records, where both can be read. -/
def State.readKernel (s : State) (p va : Nat) : Option Kernel :=
  (s.virtBytes p va 64).bind fun bs =>
    let n := field bs 60 2
    let recs := if n = 0 then some [] else s.virtBytes p (Config.gangSection p va + field bs 56 4) (8 * n)
    recs.map fun gs =>
      { entry := field bs 0 8, lregs := field bs 8 1, eprio := field bs 9 1, uregs := field bs 10 2, kind := field bs 12 1, flags := field bs 13 1,
        mprio := field bs 14 1, xprio := field bs 15 1, scratch := field bs 16 4, cshared := field bs 20 4,
        counts := [field bs 24 2, field bs 26 2, field bs 28 2], moff := field bs 32 4, xoff := field bs 36 4,
        pwsz := (List.range 8).map fun i => field bs (40 + 2 * i) 2, gangs := (List.range n).map fun i => gangRec (gs.drop (8 * i)) }

def Kernel.straddle (k : Kernel) : Bool := k.flags % 2 = 1
/-- Warps per cluster of a role: 0 vector, 1 matrix, 2 transfer. -/
def Kernel.warps (k : Kernel) (role : Nat) : Nat := k.counts.getD role 0
def Kernel.total (k : Kernel) : Nat := k.counts.sum

/-- The gangs of a warp, with its ordinals in half 0. -/
def Kernel.memberships (k : Kernel) (role i : Nat) : List GangRec :=
  k.gangs.filter fun g => g.role == role && g.first ≤ i && i < g.first + g.count

/-- Members of a gang per cluster. -/
def Kernel.members (k : Kernel) (g : Nat) : Nat := ((k.gangs.filter fun r => r.gang == g).map (·.count)).sum

/-- Every field lies in its range (R77, R310, R311). -/
def Kernel.inRange (k : Kernel) : Bool :=
  1 ≤ k.lregs && k.uregs ≤ 1024 && k.flags ≤ 1 && k.scratch ≤ 262144 && k.cshared ≤ (if k.straddle then 1048576 else 524288) &&
  k.counts.all (· ≤ 256) && k.gangs.all (fun g => g.role ≤ 2 && g.first + g.count ≤ k.warps g.role && g.ord + g.count ≤ 512) &&
  (List.range 3).all fun r => (List.range (k.warps r)).all fun i => (k.memberships r i).length ≤ 4

/-- The entry point of a role and its block priority. -/
def Kernel.entryOf (k : Kernel) (role : Nat) : BitVec 57 × BitVec 8 :=
  let at_ := fun (off : Nat) => BitVec.ofNat 57 k.entry + (BitVec.ofNat 32 off).signExtend 57
  match role with
  | 0 => (at_ 0, BitVec.ofNat 8 k.eprio)
  | 1 => (at_ k.moff, BitVec.ofNat 8 k.mprio)
  | _ => (at_ k.xoff, BitVec.ofNat 8 k.xprio)

/-! ## Launch records (R415) -/

def recField (r : BitVec 512) (lo n : Nat) : Nat := (r.toNat >>> (8 * lo)) % 2 ^ (8 * n)

def recDesc (r : BitVec 512) : Nat := recField r 0 8
def recWtab (r : BitVec 512) : Nat := recField r 8 8
def recScope (r : BitVec 512) : Nat := recField r 16 2
def recPrio (r : BitVec 512) (role : Nat) : Nat := recField r 18 2 / 16 ^ role % 16
def recClus (r : BitVec 512) : Nat := recField r 20 2
def recPriv (r : BitVec 512) : Bool := recField r 22 1 % 2 = 1
def recStr (r : BitVec 512) : Bool := recField r 22 1 / 2 % 2 = 1
def recPcls (r : BitVec 512) : Nat := recField r 23 1 % 8
def recLpsize (r : BitVec 512) : Nat := recField r 24 2 % 2048
def recLpbase (r : BitVec 512) : Nat := recField r 32 8
def recDone (r : BitVec 512) : Nat := recField r 40 8
def recDoneVal (r : BitVec 512) : W64 := BitVec.ofNat 64 (recField r 48 8)

/-- A window-table entry as `PWIN` holds it: bits [46:45] are RES0 (R205, R8). -/
def windowWord (v : W64) : W64 := putBits v 45 2 0

/-- The window table: eight entries, or nothing where it cannot be read (R415). -/
def State.windows (s : State) (p wtab : Nat) : Option (Vector W64 8) :=
  if wtab = 0 then some (Vector.replicate 8 0)
  else (s.virtBytes p wtab 64).map fun bs => Vector.ofFn fun i => windowWord (BitVec.ofNat 64 (field bs (8 * i.val) 8))

/-! ## Deposits (R416, R439) -/

/-- A record enters the launch queue of 16 entries, or nothing of it is kept. -/
def State.depositLaunch (s : State) (p : Nat) (r : BitVec 512) (after : List Nat) : Option State :=
  (s.proc? p).bind fun q =>
    if 16 ≤ q.queue.length + q.placing.length then none
    else
      let counted := match s.scopes.get? (recScope r) with
        | some c => c.proc == p
        | none => false
      let s := s.modProc p fun q => { q with queue := q.queue ++ [{ record := r, counted := counted, after := after }] }
      some (if counted then s.enterScope (recScope r) 1 else s)

/-- The status with which the device completes a request of the host to a deposit page (R416): 0 successful, 1 retry, 2 unsupported request. -/
def State.complete (s : State) (status : Nat) : State := { s with pkg := { s.pkg with completion := status } }

/-- LAUNCH_DEPOSIT (R416, R492): a Deferrable Memory Write of the host to the deposit address of a process slot; a full queue, and a device that is not ready,
answer retry and keep nothing. -/
def execLaunchDeposit (p : Nat) (r : BitVec 512) (s : State) : Out :=
  .next (
    if !s.pkg.ready then s.complete 1
    else if (s.proc? p).isNone then s.complete 2
    else match s.depositLaunch p r [] with
    | some t => t.complete 0
    | none => s.complete 1)

/-- The record of a group of eight uniform registers (R437). -/
def Issue.record (i : Issue) : BitVec 512 × Bool :=
  let (vs, tag) := i.x.uniGroup i.f.ka 8
  (BitVec.ofNat 512 ((vs.zipIdx.map fun p => p.1.toNat * 2 ^ (64 * p.2)).sum), tag)

def execLaunch (f : Frame) (s : State) : Out :=
  s.issueOnce (.launch f) fun i t =>
    let (r, tag) := i.record
    if tag then .trap 9 0
    else .next (match t.depositLaunch i.x.owner.proc r (t.writesOwed i.w) with
      | some t => i.writePred t f.xd (fun _ => true) 0
      | none => i.writePred t f.xd (fun _ => false) 0)

/-! ## Task deposits (R423, R438) -/

/-- A task record with its TILE.x moved and fields of its own filled in. -/
def taskRec (p scope pcls i : Nat) (r : BitVec 512) (after : List Nat) : TaskRec :=
  let ws : Vector W64 8 := Vector.ofFn fun j => r.extractLsb' (64 * j.val) 64
  let w2 := putBits (putBits ws[2] 0 16 (bits ws[2] 0 16 + i)) 48 16 scope
  { words := (ws.set 2 w2).set 4 (putBits ws[4] 0 3 pcls), proc := p, scope := scope, after := after }

/-- `spawn` and `spawnx` (R438): all or nothing. -/
def State.spawnOp (s : State) (i : Instr) (own : Bool) (n : Nat) : Out :=
  s.issueOnce i fun iss t =>
    let (r, tag) := iss.record
    let p := iss.x.owner.proc
    let die := dieOf (coreOf iss.w)
    let scope := if own then iss.x.owner.scope else recField r 22 2
    let pcls := if own then iss.x.owner.pcls else recField r 32 1 % 8
    if tag then .trap 9 0
    else if !t.liveAt p scope die || (recField r 33 1 % 2 = 1 && !iss.x.owner.priv) then .next (iss.writePred t iss.f.xd (fun _ => false) 0)
    else if !t.poolTakes die p pcls n then .hold (.pool n)
    else
      let t' := (List.range n).foldl (fun (u : State) k => u.depositTask die (taskRec p scope pcls k r (t.writesOwed iss.w))) t
      .next (iss.writePred t' iss.f.xd (fun _ => true) 0)

def execSpawn (f : Frame) (s : State) : Out := s.spawnOp (.spawn f) true 1
def execSpawnx (f : Frame) (s : State) : Out := s.spawnOp (.spawnx f) false (f.immf 0 8 + 1)

/-! ## Placement (R419 to R421) -/

/-- A cluster exists at the device's grade, no retirement of it is scheduled, and no `preempt` has chosen a core of it (R327, R432, R496). -/
def State.clusterFree (s : State) (cl : Nat) : Bool :=
  cl < 96 && cl % 24 < s.cpd && !(s.cluster cl).ccont.getLsbD 35 && (List.range 4).all fun c => !s.chosen (coreIn cl c)

/-- Such a cluster of a die that runs (R495). -/
def State.clusterOpen (s : State) (cl : Nat) : Bool :=
  s.clusterFree cl && s.dieRuns (cl / 24)

/-- A cluster wholly granted to a process. -/
def State.holdsCluster (s : State) (p cl : Nat) : Bool := (List.range 4).all fun c => s.granted p (coreIn cl c)

/-- The units that a launch takes: clusters, or the pairs of R479, half 0 first. -/
def placeUnits (straddle : Bool) : List (List Nat) :=
  if straddle then (List.range 48).map fun u => let c := u / 24 * 48 + u % 24; [c, c + 24] else (List.range 96).map fun c => [c]

/-- What every warp of a placement has in common. -/
structure Plan where
  id : Nat
  proc : Nat
  rec_ : BitVec 512
  kernel : Kernel
  windows : Vector W64 8
  seq : Nat

/-- The call slots of a process that warps own, admitted, on the move or saved (R179). -/
def State.usedSlots (s : State) (p : Nat) : List Nat :=
  ((s.warps.map fun w => w.2) ++ (s.transit.map fun t => t.warp) ++ s.saved.flatMap fun c => c.warps.map fun w => w.2).filterMap
    fun (x : Warp) => if x.owner.proc = p then some x.call.ix.toNat else none

/-- A call slot for the `n`-th admission: that of the configuration, or the lowest free one where another warp owns it (log entry 12). -/
def State.newSlot (s : State) (p n : Nat) : BitVec 16 :=
  let used := s.usedSlots p
  let c := Config.callSlot n
  if used.contains c.toNat then BitVec.ofNat 16 (((List.range (used.length + 1)).find? fun i => !used.contains i).getD 0) else c

/-- A warp as admission leaves it (R22, R421). -/
def State.newWarp (s : State) (w : Nat) (owner : Owner) (role prio : Nat) (k : Kernel) (pc : BitVec 57) (bprio : BitVec 8) : Warp × State :=
  let (n, s) := s.fresh
  let x : Warp := { owner := owner, role := role, prio := prio, aprio := prio, eprio := prio, lregs := k.lregs, uregs := k.uregs, hw := [],
                    call := { ix := s.newSlot owner.proc n } }
  ({ x with hw := [{ prio := bprio, pc := s.land w x (wordPc pc), mask := allLanes }] }, s)

/-- Admits one warp of an ensemble to its core, where a quadrant takes it. -/
def State.admitEnsembleWarp (s : State) (pl : Plan) (cl ix half spbase csbase role i : Nat) : Option State :=
  let k := pl.kernel
  let r := pl.rec_
  let core := coreIn cl (i % 4)
  (s.admitSlot core).map fun w =>
    let owner : Owner := { proc := pl.proc, ensemble := some pl.id, clusterIx := ix, priv := recPriv r, pcls := recPcls r, seq := pl.seq, scope := recScope r }
    let (pc, bp) := k.entryOf role
    let (x, s) := s.newWarp w owner role (recPrio r role) k pc bp
    let g := ix * k.total + ((k.counts.take role).sum + i)
    let step := (recLpsize r * 2048 + 4095) / 4096 * 4096
    let h := if k.straddle then 2 else 1
    let x := { x with
      pwin := pl.windows, lprivBase := BitVec.ofNat 45 ((recLpbase r + g * step) / 4096), lprivSize := recLpsize r,
      spwin := roundScratch k.scratch / 2048, spbase := spbase, cswin := (k.cshared + 8192 * h - 1) / (8192 * h), csbase := csbase,
      straddle := k.straddle,
      members := (k.memberships role i).map fun q => { gang := q.gang, ord := q.ord + (i - q.first) + half * k.members q.gang } }
    let x := if 0 < k.uregs then x.putUni 0 (BitVec.ofNat 64 (ix * 65536 + i)) false s.clock else x
    (s.setWarp w x).l1Trim core

/-- One half or cluster of a unit: its allocations, rings, gangs and warps, where it has room (R419). -/
def State.placeCluster (s : State) (pl : Plan) (cl ix half csbase : Nat) : Option State :=
  let k := pl.kernel
  let cores := (List.range 4).map (coreIn cl)
  let slice := (k.cshared + 8192 * (if k.straddle then 2 else 1) - 1) / (8192 * (if k.straddle then 2 else 1)) * 2048
  let gangs := if k.gangs.isEmpty then 0 else (k.gangs.map (·.gang)).foldl Nat.max 0 + 1
  let c := s.cluster cl
  let matrix := fun (core : Nat) => s.warps.any fun w => coreOf w.1 == core && w.2.role == 1
  if !s.clusterOpen cl || !s.holdsCluster pl.proc cl || 4 ≤ (c.csAlloc[0]).length || 256 < c.gangs.length + gangs ||
      (0 < k.warps 1 && cores.any fun core => matrix core || !(s.mxAll core).isEmpty) then none
  else
    let scratch := roundScratch k.scratch
    let s := cores.foldl (fun (s : Option State) core => s.bind fun s =>
      (placeAlloc (s.core core).spAlloc scratch (2 ^ 18)).map fun base =>
        (s.modCore core fun c => { c with
          spAlloc := c.spAlloc ++ [{ ensemble := some pl.id, warp := none, base := base, size := scratch }], icache := [],
          slots := if 0 < k.warps 1 then [] else c.slots, slotOwner := if 0 < k.warps 1 then some pl.id else c.slotOwner }).zero
          (scratchKey core base) scratch) (some s)
    let s := s.map fun s => cores.foldl (fun s core => s.zero (sliceKey core csbase) slice) s
    let s := s.map fun s => s.modCluster cl fun c => { c with
      csAlloc := c.csAlloc.map fun l => l ++ [{ ensemble := some pl.id, warp := none, base := csbase, size := slice }],
      gangs := c.gangs ++ (List.range gangs).map (fun g => { ensemble := pl.id, num := g, memb := k.members g }),
      rings := if k.straddle && half = 1 then c.rings else c.rings ++ (List.range 32).map fun n => { ensemble := pl.id, num := n } }
    (List.range 3).foldl (fun (s : Option State) role => (List.range (k.warps role)).foldl (fun (s : Option State) i => s.bind fun s =>
      let spbase := (((s.core (coreIn cl (i % 4))).spAlloc.find? fun a => a.ensemble == some pl.id).map (·.base)).getD 0
      s.admitEnsembleWarp pl cl ix half spbase csbase role i) s) s

/-- One unit of a launch, the halves of a pair with a common base in the cluster-shared slices. -/
def State.placeUnit (s : State) (pl : Plan) (unit : List Nat) (ix : Nat) : Option State :=
  let h := if pl.kernel.straddle then 2 else 1
  let slice := (pl.kernel.cshared + 8192 * h - 1) / (8192 * h) * 2048
  let allocs := unit.flatMap fun cl => (s.cluster cl).csAlloc[0]
  (placeAlloc allocs slice (2 ^ 17)).bind fun base =>
    unit.zipIdx.foldl (fun (s : Option State) p => s.bind fun s => s.placeCluster pl p.1 (ix + p.2) p.2 base) (some s)

/-- The clusters of a launch in ascending order, where enough of them fit. -/
def State.placeAll (s : State) (pl : Plan) : Option (List Nat × State) :=
  let (cls, t) := (placeUnits pl.kernel.straddle).foldl (fun (r : List Nat × State) u =>
    if recClus pl.rec_ * u.length ≤ r.1.length then r
    else match r.2.placeUnit pl u r.1.length with
      | some t => (r.1 ++ u, t)
      | none => r) ([], s)
  if cls.length = recClus pl.rec_ * (if pl.kernel.straddle then 2 else 1) then some (cls, t) else none

/-! ## Validation (R417) -/

/-- The refusal of a record, in the order of the table; none where it is valid. -/
def State.refusal (s : State) (p : Nat) (r : BitVec 512) : Option Nat :=
  match s.readKernel p (recDesc r) with
  | none => some 1
  | some k =>
    let own := (placeUnits k.straddle).filter fun u => u.all fun cl => cl % 24 < s.cpd && s.holdsCluster p cl
    let perCore := fun (c : Nat) => (k.counts.map fun n => (n + 3 - c) / 4).sum
    if k.kind != 0 || !k.inRange || k.straddle != recStr r then some 1
    else if (List.range 4).any (fun c => 64 < perCore c) || recClus r = 0 || own.length < recClus r then some 2
    else match s.windows p (recWtab r) with
    | none => some 3
    | some ws =>
      if (List.range 8).any fun i =>
          k.pwsz.getD i 0 != 0 && (!(ws.toList.getD i 0).getLsbD 63 || bits (ws.toList.getD i 0) 47 16 < k.pwsz.getD i 0) then some 3
      else if recPriv r && !((s.proc? p).map (·.priv)).getD false then some 4
      else match s.scopes.get? (recScope r) with
      | none => some 5
      | some c => if c.proc != p then some 5 else if c.state != .live then some 6 else none

/-- LAUNCH_VALIDATION (R417): the oldest record that has not been validated, once the writes before it have performed. -/
def execLaunchValidation (p : Nat) (s : State) : Out :=
  .next (match (s.proc? p).bind fun q => q.queue.head? with
    | none => s
    | some d =>
      if !s.performedBefore d.after then s
      else
        let s := s.modProc p fun q => { q with queue := q.queue.tail }
        let s := (s.useVirt p (recDesc d.record) 64).useVirt p (recWtab d.record) (if recWtab d.record = 0 then 0 else 64)
        match s.refusal p d.record with
        | some code => s.dropLaunch p d.record d.counted code
        | none =>
          let s := s.modProc p fun q => { q with placing := q.placing ++ [d.record] }
          if d.counted then s else s.enterScope (recScope d.record) 1)

/-- The first record of a class that waits for clusters. -/
def Proc.firstOf (q : Proc) (cls : Nat) : Option (BitVec 512) := q.placing.find? fun r => recPcls r == cls

/-- A scope is marked CANCELLED (R428). -/
def State.scopeCancelled (s : State) (n : Nat) : Bool := (s.scopes.get? n).any fun c => c.state == .cancelled

/-- The state after the placement of a record, where it fits. A saved cluster instance of the process goes first (R463), and a record of a cancelled scope is not
placed any more (R475). -/
def State.place (s : State) (p : Nat) (r : BitVec 512) : Option State :=
  if (s.saved.any fun c => c.proc == p && !c.task) || s.scopeCancelled (recScope r) then none
  else (s.readKernel p (recDesc r)).bind fun k => (s.windows p (recWtab r)).bind fun ws =>
    let (id, t) := s.fresh
    (t.placeAll { id := id, proc := p, rec_ := r, kernel := k, windows := ws, seq := s.workSeq }).map fun (cls, t) =>
      let e : Ensemble :=
        { proc := p, scope := recScope r, pcls := recPcls r, clusters := cls, straddle := k.straddle, done := BitVec.ofNat 64 (recDone r),
          doneVal := recDoneVal r, scratch := roundScratch k.scratch, seq := s.workSeq, live := cls.length * k.total,
          matrix := 0 < k.warps 1 }
      { t with workSeq := s.workSeq + 1, ensembles := t.ensembles.set id e }

/-- LAUNCH_PLACEMENT (R419): the first record of a class of a process, unless one of a higher class fits; it is dropped where its scope has been cancelled
(R429, R475). -/
def execLaunchPlacement (p cls : Nat) (s : State) : Out :=
  .next (match (s.proc? p).bind fun q => q.firstOf cls with
    | none => s
    | some r =>
      if s.scopeCancelled (recScope r) then (s.modProc p fun q => { q with placing := q.placing.erase r }).dropLaunch p r true 6
      else if s.procs.any fun q => (List.range 8).any fun c => cls < c && (match q.2.firstOf c with
        | some r => (s.place q.1 r).isSome
        | none => false) then s
      else match s.place p r with
      | some t => t.modProc p fun q => { q with placing := q.placing.erase r }
      | none => s)

/-! ## The end of an ensemble (R418) -/

/-- Every warp of the ensemble has ended, with its copies, its matrix instructions and its held updates. -/
def State.ensembleOver (s : State) (e : Nat) (q : Ensemble) : Bool :=
  let cores := q.clusters.flatMap fun cl => (List.range 4).map (coreIn cl)
  q.live = 0 && s.cores.all (fun c => !(c.2.loadQ ++ c.2.storeQ).any fun d => d.ensemble == some e) &&
  cores.all (fun c => (s.core c).slotOwner != some e || (s.mxAll c).isEmpty) && !s.held.any fun h => h.ensemble == e

/-- Frees what a cluster holds for an ensemble. -/
def State.leaveCluster (s : State) (e cl : Nat) : State :=
  let mine := fun (a : Alloc) => a.ensemble == some e
  let s := (List.range 4).foldl (fun s c => ((s.freeScratch (coreIn cl c) mine).freeShared (coreIn cl c) e).modCore (coreIn cl c) fun k =>
    if k.slotOwner == some e then { k with slotOwner := none, slots := [] } else k) s
  s.modCluster cl fun c => { c with
    gangs := c.gangs.filter fun g => g.ensemble != e,
    rings := c.rings.filter fun r => r.ensemble != e, msgs := c.msgs.filter fun m => m.ensemble != e }

/-- ENSEMBLE_END (R418): DONE is written, its clusters are freed, and its scope's count falls. -/
def execEnsembleEnd (e : Nat) (s : State) : Out :=
  .next (match s.ensembles.get? e with
    | none => s
    | some q =>
      if !s.ensembleOver e q then s
      else
        let v : W64 := if q.killed then 0xFFFF_FFFF_FFFF_FF06 else q.doneVal
        let s := if q.done = 0 then s else s.storeVirt q.proc q.done.toNat (toBytes 8 v.toNat)
        let s := q.clusters.foldl (fun s cl => s.leaveCluster e cl) s
        ({ s with ensembles := s.ensembles.erase e } : State).leaveScope q.scope)

/-! ## Dispatch (R423) -/

/-- A record of a scope that is not the process's, or is FREE or CANCELLED here, is discarded. -/
def State.discards (s : State) (die : Nat) (r : TaskRec) : Bool :=
  match s.scopes.get? r.scope with
  | some c => c.proc != r.proc || s.cancelledAt r.scope die
  | none => true

/-- A descriptor that a task can have: readable, of kind 1, with registers. -/
def State.taskKernel (s : State) (r : TaskRec) : Option Kernel :=
  (s.readKernel r.proc r.words[0].toNat).filter fun k => k.kind == 1 && k.lregs != 0

/-- Admits a task record to the lowest-numbered core of a die that takes it (R420 to R423). -/
def State.admitTask (s : State) (die : Nat) (r : TaskRec) (k : Kernel) : Option State :=
  let size := roundScratch k.scratch
  let fits := fun (c : Nat) => let core := die * 96 + c
    if s.coreExists die c && s.granted r.proc core && !s.chosen core && s.dieRuns die then
      (s.admitSlot core).bind fun w => (placeAlloc (s.core core).spAlloc size (2 ^ 18)).map fun b => (w, b)
    else none
  ((List.range 96).findSome? fits).map fun (w, base) =>
    let core := coreOf w
    let ws := r.words
    let owner : Owner := { proc := r.proc, ensemble := none, task := true, priv := ws[4].getLsbD 8 && ((s.proc? r.proc).map (·.priv)).getD false,
                           pcls := r.pcls, seq := s.workSeq, scope := r.scope, succ := ws[3] }
    let (x, s) := s.newWarp w owner 0 (bits ws[4] 16 4) k (BitVec.ofNat 57 k.entry) (BitVec.ofNat 8 k.eprio)
    let x := { x with lprivBase := ws[5].extractLsb' 12 45, lprivSize := bits ws[4] 32 16 % 2048, spwin := size / 2048, spbase := base }
    let x := if 0 < k.uregs then x.putUni 0 ws[1] false s.clock else x
    let x := if 1 < k.uregs then x.putUni 1 (BitVec.ofNat 64 (bits ws[2] 0 48)) false s.clock else x
    let s := (s.modCore core fun c => { c with spAlloc := c.spAlloc ++ [{ ensemble := none, warp := some w, base := base, size := size }] }).zero
      (scratchKey core base) size
    (({ s with workSeq := s.workSeq + 1 }.setWarp w x).l1Trim core).acquireFor w 4

/-- The record that a process's pools on a die serve next: the highest nonempty class, first in first out. A record enters its pool once the writes before
it have performed (R438). -/
def State.nextTask (s : State) (die p : Nat) : Option TaskRec :=
  let mine := (s.die die).pools.filter fun r => r.proc == p && s.performedBefore r.after
  let top := (mine.map (·.pcls)).foldl Nat.max 0
  mine.find? fun r => r.pcls == top

/-- Removes the first record equal to one. -/
def State.dropTask (s : State) (die : Nat) (r : TaskRec) : State := s.modDie die fun d => { d with pools := d.pools.erase r }

/-- What dispatch does with a record now: it is discarded, forwarded to the next die, or admitted; saved task warps of its class go first. -/
def State.dispatch (s : State) (die : Nat) (r : TaskRec) : Option State :=
  let grants := fun (d : Nat) => match s.proc? r.proc with
    | some q => q.grants.toList.getD d 0 != 0
    | none => false
  if s.discards die r then some ((s.dropTask die r).discardTask die r)
  else if !grants die then
    if (List.range 4).any grants && s.poolTakes ((die + 1) % 4) r.proc r.pcls 1 then some ((s.dropTask die r).poolTask ((die + 1) % 4) r) else none
  else if s.saved.any fun c => c.task && c.proc == r.proc && c.pcls == r.pcls then none
  else match s.taskKernel r with
  | none => some ((s.dropTask die r).discardTask die r)
  | some k => (s.dropTask die r).admitTask die r k

/-- TASK_DISPATCH (R423): among the processes, the highest class that can be served. -/
def execTaskDispatch (die : Nat) (s : State) : Out :=
  let heads := s.procs.filterMap fun p => s.nextTask die p.1
  let best := heads.foldl (fun (b : Option (Nat × State)) r => match s.dispatch die r with
    | none => b
    | some t => match b with
      | none => some (r.pcls, t)
      | some (c, _) => if c < r.pcls then some (r.pcls, t) else b) none
  .next ((best.map (·.2)).getD s)

/-- A deposit that found no room enters its pool as soon as there is some (R423). -/
def State.takeOwed (s : State) (die : Nat) : State :=
  match (s.die die).owed with
  | r :: rs => if s.poolTakes die r.proc r.pcls 1 then (s.modDie die fun d => { d with owed := rs }).poolTask die r else s
  | [] => s

end Sys2Proof.Machine
end

