-- ==== Sys2Proof/Machine/Preempt.lean ====
section
/-! DEFINITION. Pre-emption: the choice of cores (R432, R443), saves (R433, R436, R444, R461), restores (R434, R463), and time slices (R435, R436). -/

namespace Sys2Proof.Machine

/-! ## What a save takes -/

/-- The clusters of a warp's cluster instance, half 0 first. -/
def instanceOf (core : Nat) (straddle : Bool) : List Nat :=
  let cl := clusterOf core
  if straddle then [Nat.min cl (partner cl), Nat.max cl (partner cl)] else [cl]

/-- The warps of an ensemble in the clusters of an instance. -/
def State.instanceWarps (s : State) (e : Nat) (cls : List Nat) : Tbl Warp := cls.flatMap fun cl => s.ensembleWarps cl e

/-- The place of a core in an instance: its number in the cluster, and 4 more in half 1. -/
def placeOf (cls : List Nat) (core : Nat) : Nat := core % 4 + 4 * (cls.findIdx fun c => c == clusterOf core)

/-- The core of an instance at a place. -/
def coreAt (cls : List Nat) (place : Nat) : Nat := coreIn (cls.getD (place / 4) 0) (place % 4)

/-- A core's part of a saved instance (R433): its allocations with their marks, and the slots that are not clear. -/
def State.saveCore (s : State) (e : Nat) (cls : List Nat) (core : Nat) : SavedCore :=
  let find := fun (as : List Alloc) => (as.find? fun a => a.ensemble == some e).elim (0, 0) fun a => (a.base, a.size)
  let (b, n) := find (s.core core).spAlloc
  let (c, m) := find ((s.cluster (clusterOf core)).csAlloc.toList.getD (core % 4) [])
  let marks := fun (lo n : Nat) => (s.marks.filter fun w => lo / 8 ≤ w && w < (lo + n) / 8).map fun w => w - lo / 8
  let own := (s.core core).slotOwner == some e
  { place := placeOf cls core, scratch := Mem.image s.mem (scratchKey core b) n, scratchMarks := marks (scratchKey core b) n, scratchSize := n,
    shared := Mem.image s.mem (sliceKey core c) m, sharedMarks := marks (sliceKey core c) m, sharedSize := m,
    slots := if own then (s.core core).slots.filter fun t => slotBytes t.2 != 0 else [], slotOwner := if own then some e else none }

/-- What is left of a time at a save, and the time at which it ends after a restore (R137). -/
def shiftTimes (f : Nat → Nat) : Wait → Wait
  | .sleep t => .sleep (f t)
  | .watch q => .watch { q with deadline := q.deadline.map f }
  | q => q

/-- A save suspends a `barsync` or a `detcommit` whose arrival counts already (R461). -/
def Warp.noteArrival (x : Warp) : Warp :=
  match x.wait, x.hw.head? with
  | some (.barrier g _ _), some e => x.modMember g fun m => { m with again := some e.pc }
  | some (.commit g), some e => x.modMember g fun m => { m with again := some e.pc }
  | _, _ => x

/-- A warp as its context holds it: suspensions with their remaining times; every other wait is at its instruction (R137, R461). -/
def State.packWarp (s : State) (x : Warp) : Warp :=
  let x := x.noteArrival
  { x with kept := [], age := 0, yielded := false, wait := (x.wait.filter Wait.kept).map (shiftTimes fun t => t - s.clock),
           marks := { x.marks with save := false, stopped := false } }

/-- A warp of a context at its new slot. -/
def State.unpackWarp (s : State) (w : Nat) (x : Warp) : Warp :=
  { x.rehome w with aprio := x.prio, eprio := x.prio, wait := (x.rehome w).wait.map (shiftTimes (· + s.clock)) }

/-- The context of a cluster instance. -/
def State.saveInstance (s : State) (id e : Nat) (cls : List Nat) : Saved :=
  let ws := s.instanceWarps e cls
  let cores := cls.flatMap fun cl => (List.range 4).map (coreIn cl)
  let o := (ws.head?.map fun w => (w.2.owner.proc, w.2.owner.pcls)).getD (0, 0)
  { id := id, proc := o.1, task := false, ensemble := some e, clusters := cls, die := cls.headD 0 / 24, pcls := o.2,
    warps := ws.map fun w => (placeOf cls (coreOf w.1), s.packWarp w.2), cores := cores.map (s.saveCore e cls),
    gangs := cls.map fun cl => (s.cluster cl).gangs.filter fun g => g.ensemble == e,
    rings := cls.map fun cl => (s.cluster cl).rings.filter fun r => r.ensemble == e }

/-- The context of a task warp, with its scratchpad allocation. -/
def State.saveTask (s : State) (id w : Nat) (x : Warp) : Saved :=
  let core := coreOf w
  let n := x.spwin * 2048
  let lo := scratchKey core x.spbase
  { id := id, proc := x.owner.proc, task := true, ensemble := none, clusters := [], die := dieOf core, pcls := x.owner.pcls,
    warps := [(0, s.packWarp x)],
    cores := [{ place := 0, scratch := Mem.image s.mem lo n, scratchMarks := (s.marks.filter fun m => lo / 8 ≤ m && m < (lo + n) / 8).map fun m => m - lo / 8,
                scratchSize := n, shared := [], sharedMarks := [], sharedSize := 0, slots := [], slotOwner := none }] }

/-- The unit that a warp is saved in: its instance, or itself. -/
inductive Unit_ where
  | inst (e : Nat) (cls : List Nat)
  | task (w : Nat)
  deriving DecidableEq, Repr

def unitOf (w : Nat) (x : Warp) : Unit_ :=
  match x.owner.ensemble with
  | some e => .inst e (instanceOf (coreOf w) x.straddle)
  | none => .task w

/-- The warp of a slot, or the one that is on its way to it (R213). -/
def State.warpTo? (s : State) (w : Nat) : Option Warp :=
  (s.warp? w).orElse fun _ => (s.transit.find? fun t => t.target == w).map (·.warp)

/-- The context of a unit as it stands. -/
def State.contextOf (s : State) (u : Unit_) : Saved :=
  match u with
  | .inst e cls => s.saveInstance 0 e cls
  | .task w => match s.warpTo? w with
    | some x => s.saveTask 0 w x
    | none => { id := 0, proc := 0, task := true, ensemble := none, clusters := [], die := 0, pcls := 0, warps := [] }

/-- Units whose save is being made. -/
def Saving.unit (v : Saving) : Unit_ :=
  match v.ensemble with
  | some e => .inst e v.clusters
  | none => .task (v.warps.headD 0)

/-- The context areas of a process hold what is saved there already, the saves that are being made, and these units too (R436, R443). -/
def State.savesFit (s : State) (p die : Nat) (us : List Unit_) : Bool :=
  let area := ((s.proc? p).map fun q => (q.ctxarea.toList.getD die 0).getLsbD 63).getD false
  let made := (s.saving.filter fun v => v.proc == p).map Saving.unit
  let new := us.filter fun u => !made.contains u
  area && s.ctxUsed p die + ((made ++ new).map fun u => (s.contextOf u).bytesOn die).sum ≤ s.ctxSize p die

/-! ## Starting a save -/

/-- Step 1 of R433: a warp stops at its run boundary, one that waits or is stopped by a report at once. A halt delays it (R184); a wait that keeps the issue
slot goes on in its run (R278). -/
def Warp.stops (x : Warp) : Bool :=
  !x.marks.ended && !x.marks.halted && (x.call.report.isSome || x.run == 0 || (x.wait.isSome && x.wait != some .mxFull))

/-- A save asks a warp to stop (R433); it stops where nothing else comes first (R184). -/
def State.askStop (s : State) (w : Nat) : State := s.modWarp w fun x => { x with marks := { x.marks with save := true } }

/-- A save stops a warp where it can; one that is at a kill point ends (R444, R184). -/
def State.stopWarp (s : State) (w : Nat) : State :=
  match s.warp? w with
  | none => s
  | some x =>
    if x.marks.stopped then s
    else if s.atKillPoint w x then s.kill w
    else s.setWarp w { x with marks := { x.marks with save := true, stopped := x.stops } }

/-- Asks the warps of a unit to stop, once (R444); a warp on its way stops where it arrives (R435). `move` allows the move of R432. -/
def State.startSave (s : State) (move : Bool) (u : Unit_) : State :=
  let mark := fun (s : State) (ws : List Nat) => ws.foldl State.askStop s
  if s.saving.any fun v => v.unit == u then s
  else
    let (id, s) := s.fresh
    match u with
    | .inst e cls =>
      let ws := s.instanceWarps e cls
      let v : Saving := { id := id, proc := (ws.head?.map fun w => w.2.owner.proc).getD 0, warps := ws.keys, ensemble := some e, clusters := cls }
      mark { s with saving := s.saving ++ [v] } ws.keys
    | .task w => match s.warpTo? w with
      | none => s
      | some x =>
        let v : Saving := { id := id, proc := x.owner.proc, warps := [w], ensemble := none, clusters := [],
                            move := move && x.role != 1 && x.spwin == 0 }
        mark { s with
          saving := s.saving ++ [v]
          transit := s.transit.map fun t => if t.target == w then { t with warp := { t.warp with marks := { t.warp.marks with save := true } } } else t } [w]

/-- Warps of other processes on a core, those that are on their way to it among them. -/
def State.foreign (s : State) (p core : Nat) : Tbl Warp :=
  (s.warps ++ (s.transit.map fun t => (t.target, t.warp))).filter fun w => coreOf w.1 == core && w.2.owner.proc != p

/-- The units of the warps of other processes on a core. -/
def State.foreignUnits (s : State) (p core : Nat) : List Unit_ :=
  (((s.foreign p core).filter fun w => (s.warp? w.1).isSome && !w.2.marks.ended).map fun w => unitOf w.1 w.2).eraseDups

/-! ## `preempt` (R432, R443) -/

/-- A core moves to a process: its grant bit there, and nowhere else. -/
def State.moveGrant (s : State) (p core : Nat) : State :=
  let bit : BitVec 96 := 1#96 <<< (core % 96)
  { s with procs := s.procs.map fun (q : Nat × Proc) =>
      (q.1, { q.2 with grants := Vector.ofFn fun d =>
        if d.val = dieOf core then (if q.1 = p then q.2.grants[d] ||| bit else q.2.grants[d] &&& ~~~bit) else q.2.grants[d] }) }

/-- Chosen cores that no warp of another process holds any more pass to the chooser's process. -/
def State.grantFreed (s : State) : State :=
  s.taking.foldl (fun s t => match s.warp? t.1 with
    | none => s
    | some x => (t.2.filter fun c => !s.granted x.owner.proc c && (s.foreign x.owner.proc c).isEmpty).foldl (fun s c => s.moveGrant x.owner.proc c) s) s

/-- Whether `preempt` may take a core: every warp of another process there can be saved, and none straddles into a die for which it names 0 (R443). -/
def State.takeable (s : State) (p : Nat) (named : Nat → Nat) (us : List Unit_) (core : Nat) : Bool :=
  let new := s.foreignUnits p core
  new.all fun u =>
    let q := (s.contextOf u).proc
    let dies := match u with
      | .inst _ cls => cls.map (· / 24)
      | .task w => [dieOf (coreOf w)]
    dies.all fun d => named d != 0 && s.savesFit q d ((us ++ new).filter fun v => (s.contextOf v).proc == q).eraseDups

/-- The cores that `preempt` chooses, die by die from the highest core downward. -/
def State.chooseCores (s : State) (w p : Nat) (named : Nat → Nat) : List Nat :=
  ((List.range 4).foldl (fun (r : List Nat × List Unit_) d =>
    let found := (List.range 96).reverse.foldl (fun (r : Nat × List Nat × List Unit_) c =>
      let core := d * 96 + c
      if named d ≤ r.1 || !s.coreExists d c || s.granted p core || !s.dieRuns d || core == coreOf w || s.chosen core ||
          !s.takeable p named r.2.2 core then r
      else (r.1 + 1, r.2.1 ++ [core], (r.2.2 ++ s.foreignUnits p core).eraseDups)) (0, r.1, r.2)
    found.2) ([], [])).1

/-- The warps of other processes on chosen cores are moved or saved. -/
def State.clearCores (s : State) (p : Nat) (cores : List Nat) : State :=
  cores.foldl (fun s c => (s.foreignUnits p c).foldl (fun s u => s.startSave true u) s) s

def execPreempt (f : Frame) (s : State) : Out :=
  s.issueOnce (.preempt f) fun i t =>
    let (k, tag) := i.x.uni f.ka
    let p := i.x.owner.proc
    let named := fun d => bits k (8 * d) 8
    if tag then .trap 9 0
    else if (List.range 8).any fun d => if d < 4 then 96 < named d else named d != 0 then .trap 2 0
    else match s.taking.get? i.w with
    | none =>
      let cores := t.chooseCores i.w p named
      if cores.isEmpty then .next (i.produceUni t f.kd 0 false)
      else
        let t := (({ t with taking := t.taking.set i.w cores }).clearCores p cores).grantFreed
        .done ((t.hold i.w .preempt).modWarp i.w fun x => { i.x with wait := x.wait, waitLen := f.form.bytes, kept := [] })
    | some cores =>
      let t := (t.clearCores p cores).grantFreed
      if cores.all (t.granted p) then
        let n := fun d => (cores.filter fun c => dieOf c == d).length
        .next (i.produceUni { t with taking := t.taking.erase i.w } f.kd (BitVec.ofNat 64 (n 0 + n 1 * 2 ^ 8 + n 2 * 2 ^ 16 + n 3 * 2 ^ 24)) false)
      else .done ((t.hold i.w .preempt).modWarp i.w fun x => { i.x with wait := x.wait, waitLen := f.form.bytes, kept := [] })

/-! ## PREEMPTION_SAVE (R433) -/

/-- Empty registers are held by logged faults, or by the reply of a call, which the context carries (R35, R182). -/
def Warp.heldEmpty (x : Warp) : Bool :=
  let owed := (x.log.flatMap fun e => Dest.regs e.2.acc.dest) ++ (x.fifth.elim [] fun a => Dest.regs a.dest) ++
    (x.call.call.elim [] fun c => [Reg.x c.1])
  (x.x.all fun r => !r.2.empty || owed.contains (.x r.1)) && x.k.all fun r => !r.2.empty || owed.contains (.k r.1)

/-- Steps 1, 2 and 4 hold for a warp. -/
def State.saveReady (s : State) (w : Nat) (x : Warp) : Bool :=
  x.marks.stopped && x.heldEmpty && x.results.isEmpty && x.call.posts.isEmpty && s.releaseLanded w && (s.commandsOf w).isEmpty && s.mxFenced w true &&
  (s.core (coreOf w)).wbuf.all (fun b => b.w != w) &&
  (match x.wait with
   | some (.access ..) => false
   | some (.flush ..) => false
   | _ => true)

/-- Step 5 for a cluster instance. -/
def State.freeInstance (s : State) (e : Nat) (cls : List Nat) : State :=
  let ws := (s.instanceWarps e cls).keys
  let s := ws.foldl (fun s w => let t := (s.freeSlot w).dropSlices (coreOf w) fun l => l.w == w; { t with warps := t.warps.erase w, taking := t.taking.erase w }) s
  cls.foldl (fun s cl => s.leaveCluster e cl) s

/-- Step 5 for a task warp. -/
def State.freeTask (s : State) (w : Nat) : State :=
  let s := (s.freeSlot w).dropSlices (coreOf w) fun l => l.w == w
  { s.freeScratch (coreOf w) (fun a => a.warp == some w) with warps := s.warps.erase w, taking := s.taking.erase w }

/-- A save ends: its context lies in the areas of its dies (R433), and the scope of an ensemble counts its saved warps (R425). One whose scope has been
cancelled is discarded (R444). -/
def State.keepSaved (s : State) (id : Nat) (c : Saved) : State :=
  let s := (List.range 4).foldl (fun (s : State) d => if c.bytesOn d = 0 then s else s.fillArea c.proc d (s.ctxUsed c.proc d) (c.bytesOn d)) s
  let s := ({ s with saving := s.saving.filter fun v => v.id != id, saved := s.saved ++ [c] } : State)
  let s := if c.ensemble.isSome then s.enterScope (s.savedScope c) c.warps.length else s
  if s.cancelledAt (s.savedScope c) c.die then s.discardSaved c else s

def State.endSaving (s : State) (id : Nat) : State := { s with saving := s.saving.filter fun v => v.id != id }

/-- The slot to which R432 moves a task warp: the lowest free slot of a core of its process on its die that is not chosen. -/
def State.refuge (s : State) (w : Nat) (x : Warp) : Option Nat :=
  let die := dieOf (coreOf w)
  (List.range 96).findSome? fun c =>
    let core := die * 96 + c
    if s.coreExists die c && s.granted x.owner.proc core && !s.chosen core && core != coreOf w && s.spillUsed core + 256 ≤ 2 ^ 17 then
      ((List.range 4).find? (s.admits core)).bind fun q => (s.freeSlots core q).head?
    else none

/-- Something of a cluster instance is still under way on its clusters: ring operations, and copies and matrix instructions of warps that have ended
(R237, R302). -/
def State.instanceBusy (s : State) (e : Nat) (cls : List Nat) : Bool :=
  cls.any (fun cl => (s.cluster cl).msgs.any fun m => m.ensemble == e) ||
  (cls.flatMap fun cl => (List.range 4).map (coreIn cl)).any fun core =>
    (s.commands core).any (fun c => c.ensemble == some e) || ((s.core core).slotOwner == some e && !(s.mxAll core).isEmpty)

/-- PREEMPTION_SAVE (R433): the save of this number completes, once each of its warps has stopped and drained; a task warp that may move, moves. -/
def execPreemptionSave (k : Nat) (s : State) : Out :=
  .next (match s.saving.find? fun v => v.id == k with
    | none => s
    | some v => match v.ensemble with
      | some e =>
        let ws := s.instanceWarps e v.clusters
        let late := ws.filter fun w => !w.2.marks.stopped && (!w.2.marks.save || w.2.stops)
        if ws.isEmpty then (s.endSaving k).grantFreed
        else if s.transit.any fun t => t.warp.owner.ensemble == some e && v.clusters.contains (clusterOf (coreOf t.target)) then s
        else if !late.isEmpty then late.foldl (fun s w => s.stopWarp w.1) s
        else if !ws.all (fun w => s.saveReady w.1 w.2) || s.instanceBusy e v.clusters then s
        else
          let (id, s) := s.fresh
          let s := (v.clusters.flatMap fun cl => (List.range 4).map (coreIn cl)).foldl State.drainAll s
          (((s.freeInstance e v.clusters).keepSaved k (s.saveInstance id e v.clusters))).grantFreed
      | none =>
        let w := v.warps.headD 0
        match s.warp? w with
        | none => if s.transit.any fun t => t.target == w then s else (s.endSaving k).grantFreed
        | some x =>
          if !x.marks.save || x.owner.ensemble.isSome then s.endSaving k
          else if x.marks.ended then s
          else if !x.marks.stopped then s.stopWarp w
          else match (if v.move then s.refuge w x else none) with
            | some slot =>
              if !s.moveReady w x then s
              else
                let s := match s.taking.get? w with
                  | some cs => { s with taking := (s.taking.erase w).set slot cs }
                  | none => s
                ((((s.freeSlot w).sendWarp w slot 0)).endSaving k).grantFreed
            | none =>
              if !s.saveReady w x then s
              else
                let (id, s) := s.fresh
                let s := s.drainAll (coreOf w)
                ((s.freeTask w).keepSaved k (s.saveTask id w x)).grantFreed)

/-! ## RESTORE (R434, R463) -/

/-- Bytes and marks of an allocation put back. -/
def State.putImage (s : State) (lo size : Nat) (img : List Host.Cell) (marks : List Nat) : State :=
  let s := s.zero lo size
  let s := img.foldl (fun s c => s.writeBytes [lo + c.1] [c.2]) s
  marks.foldl (fun s m => s.setMark (lo / 8 + m) true) s

/-- A slot as `mfill` gives it back (R296). -/
def Slot.refilled (t : Slot) : Slot :=
  { t with parts := Vector.ofFn fun p =>
      let x := t.parts[p]
      let lost := t.erased.any fun w => (channelsOf p.val).contains (w / 512)
      { x with status := (x.status &&& 0x2CFE) ||| (if lost then stErs else 0) } }

/-- A warp of a context bound at a slot (R35), with an acquire at `.dv` (R385), where the spill region holds what the pools do not (R30) and every register that
is empty for another reason than a logged fault has an entry. -/
def State.bindWarp (s : State) (w : Nat) (x : Warp) : Option State :=
  let y := s.bindAll (coreOf w) (quadOf w) (s.unpackWarp w x) false
  let t := s.setWarp w y
  if 2 ^ 17 < t.spillUsed (coreOf w) || !y.bindOk then none else some ((t.l1Trim (coreOf w)).acquireFor w 4)

/-- A die on which contexts may be restored: it runs, or is being re-admitted (R495). -/
def State.dieTakesBack (s : State) (d : Nat) : Bool := s.dieRuns d || s.dieState d == 5

/-- A cluster takes its half of a saved instance, where it has room (R419). -/
def State.restoreHalf (s : State) (c : Saved) (e cl half base : Nat) : Option State :=
  let parts := c.cores.filter fun k => k.place / 4 == half
  let cores := (List.range 4).map (coreIn cl)
  let matrix := ((s.ensembles.get? e).map (·.matrix)).getD false
  let gangs := c.gangs.getD half []
  let u := s.cluster cl
  if !(s.clusterFree cl && s.dieTakesBack (cl / 24)) || !s.holdsCluster c.proc cl || 4 ≤ (u.csAlloc[0]).length || 256 < u.gangs.length + gangs.length ||
      (matrix && (s.warps.any (fun w => cores.contains (coreOf w.1) && w.2.role == 1) || cores.any fun core => !(s.mxAll core).isEmpty)) then none
  else
    let s := parts.foldl (fun (s : Option State) k => s.bind fun s =>
      let core := coreIn cl (k.place % 4)
      (placeAlloc (s.core core).spAlloc k.scratchSize (2 ^ 18)).map fun b =>
        let s := s.modCore core fun q => { q with
          spAlloc := q.spAlloc ++ [{ ensemble := some e, warp := none, base := b, size := k.scratchSize }],
          slots := if k.slotOwner.isSome then k.slots.map (fun (t : Nat × Slot) => (t.1, t.2.refilled)) else q.slots,
          slotOwner := k.slotOwner.orElse fun _ => q.slotOwner }
        (s.putImage (scratchKey core b) k.scratchSize k.scratch k.scratchMarks).putImage (sliceKey core base) k.sharedSize k.shared k.sharedMarks)
      (some s)
    let s := s.map fun s => s.modCluster cl fun q => { q with
      csAlloc := q.csAlloc.mapIdx fun i l =>
        l ++ [{ ensemble := some e, warp := none, base := base, size := ((parts.find? fun k => k.place % 4 == i).map (·.sharedSize)).getD 0 }],
      gangs := q.gangs ++ gangs, rings := q.rings ++ c.rings.getD half [] }
    (c.warps.filter fun w => w.1 / 4 == half).foldl (fun (s : Option State) p => s.bind fun s =>
      let core := coreIn cl (p.1 % 4)
      (s.admitSlot core).bind fun w =>
        let sp := (((s.core core).spAlloc.find? fun a => a.ensemble == some e).map (·.base)).getD 0
        s.bindWarp w { p.2 with spbase := sp, csbase := base }) s

/-- A saved instance on the clusters of a unit. -/
def State.restoreInstance (s : State) (c : Saved) (e : Nat) (unit : List Nat) : Option State :=
  let size := (c.cores.map (·.sharedSize)).foldl Nat.max 0
  let ix := (c.warps.head?.map fun w => w.2.owner.clusterIx - w.1 / 4).getD 0
  (placeAlloc (unit.flatMap fun cl => (s.cluster cl).csAlloc[0]) size (2 ^ 17)).bind fun base =>
    (unit.zipIdx.foldl (fun (s : Option State) u => s.bind fun s => s.restoreHalf c e u.1 u.2 base) (some s)).map fun s =>
      match s.ensembles.get? e with
      | some q => ({ s with ensembles := s.ensembles.set e { q with clusters := q.clusters.mapIdx fun i cl => if i < ix then cl else unit.getD (i - ix) cl } }).modScope q.scope
          fun n => { n with count := n.count - c.warps.length }
      | none => s

/-- A saved task warp on a core. -/
def State.restoreTask (s : State) (c : Saved) (x : Warp) (core : Nat) : Option State :=
  let n := x.spwin * 2048
  if !s.coreExists (dieOf core) (core % 96) || !s.dieTakesBack (dieOf core) || !s.granted c.proc core || s.chosen core then none
  else (s.admitSlot core).bind fun w => (placeAlloc (s.core core).spAlloc n (2 ^ 18)).bind fun b =>
    let s := s.modCore core fun q => { q with spAlloc := q.spAlloc ++ [{ ensemble := none, warp := some w, base := b, size := n }] }
    let k := c.cores.head?
    let s := s.putImage (scratchKey core b) n (k.elim [] (·.scratch)) (k.elim [] (·.scratchMarks))
    s.bindWarp w { x with spbase := b }

/-- The state after the restore of a context: at the lowest clusters that take an instance, in the order of the saves; at the named core for a task warp. -/
def State.restoreAt (s : State) (c : Saved) (place : List Nat) : Option State :=
  let t := { s with saved := s.saved.filter fun q => q.id != c.id }
  match c.ensemble, c.warps, place with
  | some e, _, _ =>
    if (s.saved.find? fun q => q.proc == c.proc && !q.task).map (·.id) != some c.id then none
    else ((placeUnits (c.clusters.length == 2)).find? fun u => (t.restoreInstance c e u).isSome).bind fun u =>
      if u == place then t.restoreInstance c e u else none
  | none, (_, x) :: _, [core] => t.restoreTask c x core
  | none, _, _ => none

/-- RESTORE (R434, R463). -/
def execRestore (k : Nat) (place : List Nat) (s : State) : Out :=
  .next (((s.saved.find? fun c => c.id == k).bind fun c => s.restoreAt c place).getD s)

/-! ## TIME_SLICE_EXPIRY (R435, R436) -/

/-- The units of a process with a warp on a die, or on its way there. -/
def State.unitsOn (s : State) (p die : Nat) : List Unit_ :=
  (((s.warps ++ s.transit.map fun t => (t.target, t.warp)).filter fun w => w.2.owner.proc == p && dieOf (coreOf w.1) == die && !w.2.marks.ended).map fun w => unitOf w.1 w.2).eraseDups

/-- A unit that straddles into a die where the save of the process's units cannot be made. -/
def State.straddlesOut (s : State) (p die : Nat) : Unit_ → Bool
  | .inst _ cls => cls.any fun cl => cl / 24 != die && !s.savesFit p (cl / 24) (s.unitsOn p (cl / 24))
  | .task _ => false

def execTimeSliceExpiry (p die : Nat) (s : State) : Out :=
  .next (match s.proc? p with
    | none => s
    | some q =>
      let v := q.tslice.toList.getD die 0
      if !v.getLsbD 63 || s.clock < bits v 0 62 || 4 ≤ die then s
      else
        let us := (s.unitsOn p die).filter fun u => !s.straddlesOut p die u
        if !s.savesFit p die us then
          (s.modProc p fun q => { q with tslice := q.tslice.set! die ((v &&& ~~~(1#64 <<< 63)) ||| (1#64 <<< 62)) }).raise (64 + p)
        else
          let s := us.foldl (fun s u => s.startSave false u) s
          s.modProc p fun q => { q with tslice := q.tslice.set! die (v &&& ~~~(1#64 <<< 63)), grants := q.grants.set! die 0 })

end Sys2Proof.Machine
end

