-- ==== Sys2Proof/Machine/Package.lean ====
section
/-! DEFINITION. The package: the mailbox and its commands (R485 to R488), warm reset of a die (R494, R495), module resets, training and links
(R482 to R484, R490 to R493, R496, R497), attestation and keys (R490, R491), wear and power (R243, R244, R498 to R502), and the host's own accesses. -/

namespace Sys2Proof.Machine

/-! ## The mailbox (R486) -/

/-- The management plane answers the mailbox: die 0 has booted and the host link is up (R492). -/
def State.mailboxUp (s : State) : Bool := s.pkg.booted.getLsbD 0 && bits (s.die 0).linkst 16 2 == 2

/-- The response block, BUSY and the vector of a finished command. -/
def State.respond (s : State) (status : Nat) (payload : List Byte) : State :=
  match s.pkg.command with
  | none => s
  | some (_, seq, _) =>
    let block := toBytes 4 status ++ toBytes 4 seq.toNat ++ toBytes 4 payload.length ++ toBytes 4 0 ++ payload
    ({ (s.writeBytes (span (barKey 0x1000) block.length) block) with pkg := { s.pkg with busy := false, command := none } }).raise 0

/-- Runs a latched command. Commands other than reads answer 6 until the device is ready (R486, R492). -/
def State.mailbox (s : State) (opc : Nat) (always : Bool) (f : List Byte → State → State) : Out :=
  .next (match s.pkg.command with
    | none => s
    | some (o, _, b) => if o != opc then s else if !s.pkg.ready && !always then s.respond 6 [] else f b s)

/-- DOORBELL (R486): a doorbell is ignored while a command runs; an unknown OPC is answered at once. -/
def execDoorbell (seq : W32) (s : State) : Out :=
  .next (if s.pkg.busy || !s.mailboxUp then s
    else
      let block := s.bytes (span (barKey 0) 4096)
      let opc := field block 0 4
      let len := field block 8 4
      let s := { s with pkg := { s.pkg with busy := true, lastSeq := seq,
                                            command := some (opc, BitVec.ofNat 32 (field block 4 4), (block.drop 16).take (Nat.min len 4080)) } }
      if opc = 0 || 9 < opc then s.respond 1 [] else if 4080 < len then s.respond 2 [] else s)

/-! ## Process commands (R487, R488) -/

def word64 (b : List Byte) (lo : Nat) : W64 := BitVec.ofNat 64 (field b lo 8)

/-- PCREATE. -/
def execPcreate (s : State) : Out :=
  s.mailbox 1 false fun b s =>
    let p := field b 0 2
    let fjob := word64 b 40 &&& 0x8000_0000_FFFF_FFFF
    let grwin := word64 b 16 &&& 0x3FF_01FF_0000
    if 1024 ≤ p || 512 < bits grwin 32 10 + bits grwin 16 9 then s.respond 2 []
    else if (s.proc? p).isSome then s.respond 3 []
    else match s.scopes.free 0 65536 with
    | none => s.respond 4 []
    | some n =>
      if fjob.getLsbD 63 && s.procs.any fun q => q.2.fjob.getLsbD 63 && q.2.fjob.setWidth 32 == (fjob.setWidth 32 : W32) then s.respond 2 []
      else
        let q : Proc :=
          { priv := field b 2 1 % 2 = 1, pasid := BitVec.ofNat 20 (field b 4 4), ptbase := word64 b 8 &&& 0xFFFF_CFFF_FFFF_F000, grwin := grwin,
            detarea := word64 b 24 &&& 0x8000_01FF_01FF_0000, callwin := word64 b 32 &&& 0x7FFF_FFFF_FFFF, fjob := fjob,
            hostRing := word64 b 48, ctxarea := Vector.ofFn fun d => word64 b (64 + 8 * d.val) &&& 0x81FF_FFFF_FFFF_FFFF, root := n }
        let c : Scope := { proc := p, parent := none, depth := 0, coop := false, gen := s.generation }
        (({ s with procs := s.procs.set p q, scopes := s.scopes.set n c } : State).pinCalls p).respond 0 (toBytes 2 n)

/-- Nothing of a process is counted any more (R425, R487). -/
def State.processOver (s : State) (p : Nat) : Bool := s.scopes.all fun c => c.2.proc != p || (c.2.parent.isNone && c.2.count = 0)

/-- Everything of a process is freed. -/
def State.dropProcess (s : State) (p : Nat) : State :=
  { s with procs := s.procs.erase p, scopes := s.scopes.filter (fun c => c.2.proc != p),
           dies := s.dies.map fun (d : Nat × Die) => (d.1, { d.2 with pools := d.2.pools.filter (fun r => r.proc != p), owed := d.2.owed.filter fun r => r.proc != p }),
           runtime := s.runtime.filter fun r => r.1 != p }

/-- PDESTROY: it runs until the process's last live count reaches 0. -/
def execPdestroy (s : State) : Out :=
  s.mailbox 2 false fun b s =>
    let p := field b 0 2
    match s.proc? p with
    | none => s.respond 3 []
    | some q =>
      let s := if q.ending then s
        else
          let s := s.modProc p fun q => { q with ending := true }
          let children := (s.scopes.filter fun c => c.2.parent == some q.root).map (·.1)
          let s := children.foldl (fun s n => s.markScope n false) s
          let s := s.modProc p fun q => { q with queue := [], placing := [] }
          let s := q.placing.foldl (fun s r => s.dropLaunch p r true 6) s
          q.queue.foldl (fun s d => s.dropLaunch p d.record d.counted 6) s
      if s.processOver p then (s.dropProcess p).respond 0 [] else s

/-- The cores of a die that exist at the grade. -/
def State.coreMask (s : State) : BitVec 96 := BitVec.ofNat 96 (2 ^ (4 * s.cpd) - 1)

/-- GRANT: a core granted to another process is not taken. -/
def execGrant (s : State) : Out :=
  s.mailbox 3 false fun b s =>
    let p := field b 0 2
    let d := field b 2 1
    match s.proc? p with
    | none => s.respond 3 []
    | some _ =>
      if 4 ≤ d then s.respond 2 []
      else
        let want : BitVec 96 := BitVec.ofNat 96 (field b 8 8 + field b 16 4 * 2 ^ 64)
        let others := (s.procs.filter fun q => q.1 != p).foldl (fun (m : BitVec 96) q => m ||| q.2.grants.toList.getD d 0) 0
        let set := want &&& ~~~others &&& s.coreMask
        let s := s.modProc p fun q => { q with grants := q.grants.set! d set }
        s.respond (if set = want then 0 else 5) (toBytes 8 (set.toNat % 2 ^ 64) ++ toBytes 8 (set.toNat / 2 ^ 64))

/-- SLICE: arms or disarms, and clears REF. -/
def execSlice (s : State) : Out :=
  s.mailbox 4 false fun b s =>
    let p := field b 0 2
    let d := field b 2 1
    match s.proc? p with
    | none => s.respond 3 []
    | some _ =>
      if 4 ≤ d then s.respond 2 []
      else (s.modProc p fun q => { q with tslice := q.tslice.set! d (word64 b 8 &&& 0xBFFF_FFFF_FFFF_FFFF) }).respond 0 []

/-- SETRT. -/
def execSetrt (s : State) : Out :=
  s.mailbox 5 false fun b s =>
    let p := field b 0 2
    if p = 0xFFFF then ({ s with runtime := none }).respond 0 []
    else match s.proc? p with
    | none => s.respond 3 []
    | some q => if !q.priv then s.respond 2 [] else ({ s with runtime := some (p, word64 b 8) }).respond 0 []

/-! ## Register commands (R487) -/

/-- REFILL and CAP of a core, with LEVEL clamped to the new CAP (R502). -/
def Core.setBudget (c : Core) (refill cap : Nat) : Core :=
  { c with mxbud := putBits (putBits (putBits c.mxbud 48 10 refill) 16 16 cap) 32 16 (Nat.min (bits c.mxbud 32 16) cap) }

/-- WREG. -/
def execWreg (s : State) : Out :=
  s.mailbox 7 false fun b s =>
    let d := field b 2 1
    let n := field b 4 2
    let c := field b 6 2
    let v := word64 b 8
    if 4 ≤ d then s.respond 2 []
    else match s.writeDieReg d n v with
    | some t => t.respond 0 []
    | none =>
      if n = 0x11E then
        (s.modDie d fun x => { x with pwrctl := putBits (putBits x.pwrctl 63 1 (bits v 63 1)) 32 16 (bits v 32 16) }).respond 0 []
      else if n = 0x72 && (s.die d).pwrctl.getLsbD 63 && s.coreExists d c then
        (s.modCore (d * 96 + c) fun x => x.setBudget (bits v 48 10) (bits v 16 16)).respond 0 []
      else s.respond 2 []

/-- A register of a core, a cluster, a die or the device, as RREG names it. -/
def State.readableReg (s : State) (d c n : Nat) : Option W64 :=
  if 4 ≤ d then none
  else if n = 0x20 then some (BitVec.ofNat 64 s.clock)
  else if [0x15, 0x16, 0x17, 0x112, 0x113, 0x114, 0x115, 0x116, 0x11B, 0x11C, 0x11D, 0x11E].contains n then some (s.sharedReg (d * 96) 0 n)
  else if [0x65, 0x71, 0x72, 0x73, 0x11F].contains n && s.coreExists d c then some (s.sharedReg (d * 96 + c) 0 n)
  else none

/-- RREG. -/
def execRreg (s : State) : Out :=
  s.mailbox 8 true fun b s => match s.readableReg (field b 2 1) (field b 6 2) (field b 4 2) with
    | some v => s.respond 0 (toBytes 8 v.toNat)
    | none => s.respond 2 []

/-- The memory out of service (R483): the tier, the first address and the size of each range. -/
def State.rangesOut (s : State) : List (Nat × Nat × Nat) :=
  s.pkg.outOfService ++ ((List.range 4).filter fun d => bits (s.die d).linkst 8 2 == 3).map fun d => (1, d / 2 * 2 ^ 40 + d % 2 * 256, 2 ^ 40)

/-- MEMMAP: as many ranges as the block holds. -/
def execMemmap (s : State) : Out :=
  s.mailbox 9 true fun _ s =>
    let rs := s.rangesOut.take 254
    s.respond 0 (toBytes 4 rs.length ++ rs.flatMap fun r =>
      toBytes 8 r.2.1 ++ toBytes 1 r.1 ++ toBytes 1 (homeDie r.1 r.2.1) ++ toBytes 6 (r.2.2 / 4096))

/-! ## Warm reset of one die (R494, R495) -/

/-- A page has a line that is homed on a die. -/
def touchesDie (d key : Nat) : Bool := (List.range 4).any fun i => keyDie (key + 256 * i) == d

/-- The migration slots of any engine with a side on a die abort with a reason. -/
def State.abortTouching (s : State) (p : MigSlot → Bool) (reason : Nat) : State :=
  s.dies.foldl (fun s e => e.2.slots.foldl (fun s m => if p m.2 then s.abortSlot e.1 m.1 reason else s) s) s

/-- Step 1 for one process: its work on the die is saved; what cannot be saved ends, and its ensembles complete with code 6; its grants are set aside. -/
def State.quiesceProcess (s : State) (d p : Nat) : State :=
  let us := s.unitsOn p d
  let fits := s.savesFit p d us
  let (keep, lost) := us.partition fun u => fits && !s.straddlesOut p d u
  let s := keep.foldl (fun s u => s.startSave false u) s
  let s := lost.foldl (fun s u => match u with
    | .task w => s.endWarp w false
    | .inst e cls =>
      let s := match s.ensembles.get? e with
        | some q => { s with ensembles := s.ensembles.set e { q with killed := true } }
        | none => s
      (((s.instanceWarps e cls).filter fun w => dieOf (coreOf w.1) == d).map (·.1)).foldl (fun s w => s.endWarp w false) s) s
  s.modProc p fun q => { q with grantsHeld := q.grantsHeld.set! d (q.grants.toList.getD d 0), grants := q.grants.set! d 0 }

/-- Step 1: the records that a process's pools on a die hold spill to the context area (R495). -/
def State.spillPools (s : State) (d p : Nat) : State :=
  let n := ((List.range 8).map fun c => Nat.min (s.poolCap d) (s.poolLength d p c)).sum
  if n = 0 then s else s.fillArea p d (s.ctxUsed p d) (64 * n)

/-- DIERST: step 1 begins. The response follows the end of the reset, or its refusal. -/
def execDierst (s : State) : Out :=
  s.mailbox 6 false fun b s =>
    let d := field b 2 1
    if 4 ≤ d then s.respond 2 []
    else if (List.range 4).any fun e => 1 ≤ s.dieState e && s.dieState e ≤ 5 then s
    else if !s.dieRuns d then s.respond 6 []
    else
      let s := s.procs.keys.foldl (fun s p => s.spillPools d p) s
      let s := ((s.setDieState d 1).modDie d fun x => { x with quiesceSince := s.clock }).raise 0
      let s := s.procs.keys.foldl (fun s p => s.quiesceProcess d p) s
      s.abortTouching (fun m => touchesDie d m.src || touchesDie d m.dst) 4

/-- Step 1 is done: the cores of the die are empty, and no slot, window or accepted request has anything left there. -/
def State.quiesced (s : State) (d : Nat) : Bool :=
  s.warps.all (fun w => dieOf (coreOf w.1) != d) && s.transit.all (fun t => dieOf (coreOf t.target) != d) &&
  s.cores.all (fun c => dieOf c.1 != d || (c.2.loadQ.isEmpty && c.2.storeQ.isEmpty && (s.mxAll c.1).isEmpty)) &&
  s.dies.all (fun e => e.2.slots.all fun m => !touchesDie d m.2.src && !touchesDie d m.2.dst) && s.held.all (fun h => keyDie (s.redirect h.key) != d) &&
  s.flights.all fun a => a.todo.all fun l => l.keys.all fun k => keyDie (s.redirect k) != d || s.portHolds a.core a.issuedAt (s.redirect k)

/-- The grants of a die return (R495). -/
def State.returnGrants (s : State) (d : Nat) : State :=
  { s with procs := s.procs.map fun (q : Nat × Proc) =>
      (q.1, { q.2 with grants := q.2.grants.set! d (q.2.grantsHeld.toList.getD d 0), grantsHeld := q.2.grantsHeld.set! d 0 }) }

/-- WARM_RESET_REFUSAL: a window with entries on the die has stayed open for 2^24 clk. -/
def execWarmResetRefusal (die : Nat) (s : State) : Out :=
  .next (if s.dieState die = 1 && (s.held.any fun h => keyDie (s.redirect h.key) == die) && (s.die die).quiesceSince + 2 ^ 24 ≤ s.clock then
    (((s.setDieState die 6).returnGrants die).raise 0).respond 0 [6]
  else s)

/-- What a die loses in reset: its Grotto, L1s, TLBs with the cache of its walker, accumulators and arbitration pointers (R187, R394, R495). -/
def State.clearDie (s : State) (d : Nat) : State :=
  { s.zero (grottoKey d 0) (2 ^ 25) with
    cores := s.cores.map fun (c : Nat × Core) =>
      (c.1, if dieOf c.1 = d then { c.2 with quads := ({} : Core).quads, l1 := [], slices := [], tlb := [], slots := [], slotOwner := none } else c.2),
    clusters := s.clusters.map fun (c : Nat × Cluster) => (c.1, if c.1 / 24 = d then { c.2 with tlb := [] } else c.2),
    dies := s.dies.map fun (x : Nat × Die) => (x.1, if x.1 = d then { x.2 with walks := [] } else x.2) }

/-- DIE_WRITE_BACK: a quiesced die writes its dirty lines back; then it is in reset. -/
def execDieWriteBack (die : Nat) (s : State) : Out :=
  .next (if 4 ≤ die then s
    else if s.dieState die = 1 && s.quiesced die then (s.setDieState die 2).raise 0
    else if s.dieState die = 2 then ((s.setDieState die 3).clearDie die).raise 0
    else s)

/-- DIE_RETRAINING. -/
def execDieRetraining (die : Nat) (s : State) : Out := .next (if die < 4 && s.dieState die = 3 then (s.setDieState die 4).raise 0 else s)

/-- DIE_READMISSION: the homes of the die answer again, the grants return, and what was answered with code 6 is queued; then the die runs. -/
def execDieReadmission (die : Nat) (s : State) : Out :=
  .next (if 4 ≤ die then s
    else if s.dieState die = 4 then
      let s := ((s.setDieState die 5).returnGrants die).raise 0
      let s := s.resolveLogs (fun e => e.code == 6 && e.state == .pending && !e.remote) false
      let s := s.resolveCopies (fun c => c.code == 6 && !c.remote) false
      { s with warps := s.warps.map fun (w : Nat × Warp) => (w.1, match w.2.wait with
          | some (.fetch va) =>
            if s.dies.any fun d => d.2.faults.any fun r => r.waiters.contains (.fetch w.1) && r.covers (s.asid w.2.owner.proc) va then w.2 else { w.2 with wait := none }
          | _ => w.2) }
    else if s.dieState die = 5 then ((s.setDieState die 0).raise 0).respond 0 [0]
    else s)

/-! ## Wear (R243, R244, R498 to R501) -/

/-- Positions of a die that are in use, ascending (R496). -/
def State.positions (s : State) (d : Nat) : List Nat := (List.range 24).filter fun p => !s.pkg.gone.contains (24 * d + p)

/-- The physical cluster, and the physical core, of a logical one. -/
def State.physCluster (s : State) (cl : Nat) : Nat := cl / 24 * 24 + (s.positions (cl / 24)).getD (cl % 24) (cl % 24)
def State.physCore (s : State) (core : Nat) : Nat := coreIn (s.physCluster (clusterOf core)) (core % 4)

/-- A change of the wear record. -/
def State.modWear (s : State) (f : Wear → Wear) : State := { s with pkg := { s.pkg with wear := { f s.pkg.wear with seq := s.pkg.wear.seq + 1 } } }

/-- `CCONT.SPARE` and `WORN` of a core (R327). -/
def State.spareOf (s : State) (core : Nat) : Nat := bits (s.cluster (clusterOf core)).ccont (8 * (core % 4) + 6) 2
def State.setWorn (s : State) (core : Nat) (on : Bool) : State :=
  s.modCluster (clusterOf core) fun c => { c with ccont := putBits c.ccont (8 * (core % 4) + 5) 1 on.toNat }

/-- The logical channel that an array serves. -/
def channelOf (chmap : W64) (a : Nat) : Option Nat := (List.range 10).find? fun n => bits chmap (4 * n) 4 == a

/-- The spares that a map names (R243). -/
def sparesIn (map : W64) : Nat := (if bits map 40 4 = 15 then 0 else 1) + (if bits map 44 4 = 15 then 0 else 1)

/-- The map after a worn array is replaced by the first spare (R499). -/
def replaceArray (chmap : W64) (a n : Nat) : W64 :=
  let m := putBits chmap (4 * n) 4 (bits chmap 40 4)
  putBits (putBits (putBits m 40 4 (bits chmap 44 4)) 44 4 15) (48 + a) 1 1

/-- Clusters of a die that no retirement is scheduled for. -/
def State.surviving (s : State) (d : Nat) : List Nat :=
  ((List.range s.cpd).map (24 * d + ·)).filter fun cl => !(s.cluster cl).ccont.getLsbD 35

/-- A cluster's retirement is scheduled (R327, R499). -/
def State.retireCluster (s : State) (cl : Nat) : State :=
  let s := s.modCluster cl fun c => { c with ccont := putBits c.ccont 35 1 1 }
  let q := s.physCluster cl
  s.modWear fun w => { w with retired := setInsert w.retired q,
                              flags := (List.range 4).foldl (fun (t : Tbl Nat) i => t.set (coreIn q i) (t.getD (coreIn q i) 0 ||| 2)) w.flags }

/-- Spares of a cluster. -/
def State.sparesOf (s : State) (cl : Nat) : Nat := ((List.range 4).map fun i => s.spareOf (coreIn cl i)).sum

/-- The cluster of a die that is retired with a worn one: the fewest spares, the highest physical position on ties. -/
def State.weakest (s : State) (d : Nat) : Option Nat :=
  (s.surviving d).foldl (fun (b : Option Nat) cl => match b with
    | none => some cl
    | some c => if s.sparesOf cl ≤ s.sparesOf c then some cl else some c) none

/-- The pending grade falls to what the dies can reach. -/
def State.lowerGrade (s : State) (d : Nat) : State :=
  let n := Nat.min 7 (24 - (s.surviving d).length)
  if bits s.pkg.grade 9 3 < n then { s with pkg := { s.pkg with grade := putBits s.pkg.grade 9 3 n } } else s

/-- ARRAY_WORN (R499): a spare takes the channel as soon as `CHMAP` may change, beside the changes that wait already (R244); without one the cluster is retired,
and the other dies follow. -/
def State.arrayWorn (s : State) (core a : Nat) : State :=
  let c := s.core core
  match channelOf c.chmap a with
  | none => s
  | some n =>
    let map := c.chmapNext.getD c.chmap
    if (channelOf map a).isNone then s
    else
      let s := s.setWorn core true
      if 0 < sparesIn map then
        let s := s.modCore core fun c => { c with chmapNext := some (replaceArray map a n) }
        (s.modWear fun w => { w with flags := w.flags.set (s.physCore core) (w.flags.getD (s.physCore core) 0 ||| 1) }).raise 0
      else if (s.cluster (clusterOf core)).ccont.getLsbD 35 then s
      else
        let d := dieOf core
        let s := s.retireCluster (clusterOf core)
        let left := (s.surviving d).length
        let s := ((List.range 4).filter fun e => e != d && s.pkg.booted.getLsbD e && left < (s.surviving e).length).foldl (fun s e =>
          match s.weakest e with
          | some cl => s.retireCluster cl
          | none => s) s
        (s.lowerGrade d).raise 0

/-- What a sample notes of the counts of `CONTAIN` that have reached 15: the window of 2^30 clk, and how many windows in a row (R499). -/
def Core.noteFull (c : Core) (clock : Nat) : Core :=
  let w := clock / 2 ^ 30
  { c with full := (List.range 10).foldl (fun (t : Tbl (Nat × Nat)) n =>
      if bits c.contain (4 * n) 4 != 15 then t
      else match t.get? n with
      | some (v, k) => if v = w then t else t.set n (w, if v + 1 = w then k + 1 else 1)
      | none => t.set n (w, 1)) c.full }

/-- GUARD_BAND_SAMPLE (R498, R499): the worst margin of a core; `worn` names an array that the sample finds worn. -/
def execGuardBandSample (core : Nat) (margin : BitVec 8) (worn : Option (Fin 12)) (s : State) : Out :=
  .next (if !s.coreExists (dieOf core) (core % 96) then s
    else
      let c := s.core core
      let offs := bits c.gband 0 6
      let rise := margin.toNat < 8 && offs < 63
      let s := s.modCore core fun c => { c.noteFull s.clock with gband := putBits (putBits c.gband 16 8 margin.toNat) 0 6 (if rise then offs + 1 else offs) }
      let s := if rise then (s.modWear fun w => { w with offs := w.offs.set (s.physCore core) (offs + 1) }).raise 0 else s
      match worn with
      | none => s
      | some a =>
        let full := match channelOf c.chmap a.val with
          | some n => 3 ≤ (((s.core core).full.get? n).map (·.2)).getD 0
          | none => false
        if (margin.toNat < 8 && offs = 63) || full then s.arrayWorn core a.val else s)

/-- The map of a core changes (R244, R499). -/
def State.changeMap (s : State) (core : Nat) : State :=
  match (s.core core).chmapNext with
  | none => s
  | some m =>
    let s := (s.modCore core fun c => { c with chmap := m, chmapNext := none }).setWorn core false
    let s := s.modCluster (clusterOf core) fun c => { c with ccont := putBits c.ccont (8 * (core % 4) + 6) 2 (sparesIn m) }
    let q := s.physCore core
    (s.modWear fun w => { w with chmap := w.chmap.set q m, flags := w.flags.set q (w.flags.getD q 0 &&& 2) }).raise 0

/-- CHMAP_CHANGE (R244): while no matrix-role warp is admitted on the core and no saved accumulator context of the core awaits restore. -/
def execChmapChange (core : Nat) (s : State) : Out :=
  .next (if (s.warps.any fun w => coreOf w.1 == core && w.2.role == 1) ||
      (s.saved.any fun c => c.cores.any fun k => !k.slots.isEmpty && coreAt c.clusters k.place == core) then s
    else s.changeMap core)

/-- HBM_LANE_REPAIR (R500): a spare lane is shifted in, or the channel is flagged for service where none is left; nothing that a program can read changes. -/
def execHbmLaneRepair (channel : Nat) (s : State) : Out :=
  .next (if 512 ≤ channel then s
    else if Config.hbmSpares channel ≤ s.pkg.wear.lanes.getD channel 0 then
      ({ s with pkg := { s.pkg with service := setInsert s.pkg.service channel } } : State).raise 0
    else (s.modWear fun w => { w with lanes := w.lanes.set channel (Nat.min 255 (w.lanes.getD channel 0 + 1)) }).raise 0)

/-- LENEO_LANE_REPAIR (R478). -/
def execLeneoLaneRepair (die port : Nat) (s : State) : Out :=
  .next (if 4 ≤ die || 3 ≤ port then s
    else { s with pkg := { s.pkg with repairs := s.pkg.repairs.set (3 * die + port) (s.pkg.repairs.getD (3 * die + port) 0 + 1) } })

/-- A slice pair of a die may be retired: it is not yet, its bit-8 partners are not, and fewer than 32 pairs of the die are (R339, R500). -/
def State.mayRetire (s : State) (die slice : Nat) : Bool :=
  let mine := (s.pkg.wear.slices.filter fun p => p.1 == die).map (·.2)
  die < 4 && slice < 512 && !mine.contains slice && !mine.contains (slice ^^^ 256) && mine.length < 64

/-- The wear record as flash holds it, up to its signature (R501). -/
def State.wearBytes (s : State) : List Byte :=
  let w := s.pkg.wear
  let core := fun (q : Nat) => toBytes 1 (w.offs.getD q 0) ++ toBytes 1 (w.flags.getD q 0) ++ toBytes 6 0 ++ toBytes 8 (w.chmap.getD q ({} : Core).chmap).toNat
  let pairs := fun (d : Nat) => toBytes 32 (((w.slices.filter fun p => p.1 == d && p.2 % 2 == 0).map fun p => 2 ^ (p.2 / 2)).foldl (· ||| ·) 0)
  (List.range 16).map (Config.wearHeader w.serial w.seq) ++ (List.range 384).flatMap core ++ (List.range 4).flatMap pairs ++
    (List.range 512).flatMap (fun c => toBytes 1 (w.lanes.getD c 0)) ++
    (List.range 4).map (Config.wearGrade (bits s.pkg.grade 0 3) (bits s.pkg.grade 9 3))

/-- Bytes 0 to 7,187 of the wear record, with the signature over the rest (R501). -/
def State.wearRecord (s : State) : List Byte := s.wearBytes ++ (List.range 384).map (Config.wearSignature s.wearBytes)

/-! ## Power (R502) -/

/-- REFILL after one adjustment. -/
def adjustRefill (refill pwr diew : Nat) : Nat :=
  if diew < pwr then (if refill ≤ 64 then refill else Nat.max 64 (refill - 16))
  else if pwr * 100 < diew * 95 && refill < 320 then Nat.min 320 (refill + 16) else refill

/-- POWER_BUDGET_ADJUST. -/
def execPowerBudgetAdjust (die : Nat) (pwr : BitVec 16) (s : State) : Out :=
  .next (if 4 ≤ die then s
    else
      let s := s.modDie die fun d => { d with pwrctl := putBits d.pwrctl 0 16 pwr.toNat }
      let v := (s.die die).pwrctl
      if v.getLsbD 63 then s
      else (List.range (4 * s.cpd)).foldl (fun s c =>
        let x := s.core (die * 96 + c)
        let r := adjustRefill (bits x.mxbud 48 10) pwr.toNat (bits v 32 16)
        if r = bits x.mxbud 48 10 then s else s.setCore (die * 96 + c) (x.setBudget r (bits x.mxbud 16 16))) s)

/-! ## Module resets (R484, R490, R496 to R498) -/

/-- The bytes of host memory (R364). -/
def isHost (k : Nat) : Bool := 2 ^ 65 ≤ k && k < 2 ^ 66

/-- What the wear record gives the cores and clusters of the new grade. -/
def State.loadWear (s : State) : State :=
  let w := s.pkg.wear
  (List.range 4).foldl (fun s d => (List.range (4 * s.cpd)).foldl (fun s c =>
    let core := d * 96 + c
    let q := s.physCore core
    let map := w.chmap.getD q ({} : Core).chmap
    let offs := w.offs.getD q 0
    if offs = 0 && map = ({} : Core).chmap then s
    else
      let spares := sparesIn map
      (s.modCore core fun x => { x with chmap := map, gband := BitVec.ofNat 64 (255 * 2 ^ 16 + offs) }).modCluster (clusterOf core) fun x =>
        { x with ccont := putBits x.ccont (8 * (core % 4) + 6) 2 spares }) s) s

/-- A reset of the whole module: waiting replacements and the pending grade take effect, retired clusters and slices are out of use, and the links train
anew. Host memory and the wear record are not the device's volatile state. -/
def State.moduleReset (s : State) (booted : BitVec 4) : State :=
  let s := s.cores.keys.foldl State.changeMap s
  let n := Nat.min 4 (bits s.pkg.grade 9 3)
  let grade := putBits (putBits (putBits 0 9 3 (bits s.pkg.grade 9 3)) 4 5 (24 - n)) 0 3 n
  let diest := (List.range 4).foldl (fun v d => if booted.getLsbD d then v else putBits v (3 * d) 3 7) (0 : W64)
  let r : State := { State.reset with
    mem := s.mem.filter (fun c => isHost c.1), marks := s.marks.filter (fun m => isHost (8 * m)), nodeid := s.nodeid, agenda := s.agenda, cur := s.cur,
    draws := s.draws, nextId := s.nextId,
    dies := (List.range 4).filterMap fun d =>
      let l := (s.pkg.wear.slices.filter fun p => p.1 == d).map (·.2)
      if l.isEmpty then none else some (d, { retired := l }),
    pkg := { wear := s.pkg.wear, msix := s.pkg.msix, messages := s.pkg.messages, service := s.pkg.service, booted := booted, diest := diest, grade := grade, gone := s.pkg.wear.retired } }
  r.loadWear

/-- COLD_RESET (R490): `ok` names the dies whose firmware checks. -/
def execColdReset (ok : BitVec 4) (s : State) : Out := .next (s.moduleReset ok)

/-- WARM_MODULE_RESET (R497, R498). The firmware that was checked at the last cold reset runs on, and `CLOCK` counts on (R176). -/
def execWarmModuleReset (s : State) : Out := .next { s.moduleReset s.pkg.booted with clock := s.clock, halvings := s.clock / 2 ^ 20 }

/-- The budget of a core after a function-level reset: `LEVEL` and `LOW` have their reset values, `LEVEL` no more than `CAP`, which with `REFILL` is the management
plane's (R282, R484, R502). -/
def flrBudget (v : W64) : W64 := putBits (putBits v 32 16 (Nat.min 0x1000 (bits v 16 16))) 0 16 0

/-- FUNCTION_LEVEL_RESET (R484): a cold reset of the data and control planes, and of the function's MSI-X table (log entry 72). The management plane, with its links,
its registers and its wear record, runs on. -/
def execFunctionLevelReset (s : State) : Out :=
  .next { State.reset with
    mem := s.mem.filter (fun c => isHost c.1 || barKey 0 ≤ c.1), marks := s.marks.filter (fun m => isHost (8 * m)), nodeid := s.nodeid,
    routes := s.routes, agenda := s.agenda, cur := s.cur, draws := s.draws, nextId := s.nextId, pkg := { s.pkg with table := [], pending := [] },
    cores := s.cores.map fun (c : Nat × Core) =>
      (c.1, { chmap := c.2.chmap, chmapNext := c.2.chmapNext, contain := c.2.contain, mxbud := flrBudget c.2.mxbud, gband := c.2.gband, full := c.2.full }),
    clusters := s.clusters.map fun (c : Nat × Cluster) => (c.1, { ccont := c.2.ccont }),
    dies := s.dies.map fun (d : Nat × Die) =>
      (d.1, { linkst := d.2.linkst, pwrctl := d.2.pwrctl, retired := d.2.retired, quiesceSince := d.2.quiesceSince }) }

/-! ## Links (R482, R483, R489, R492, R493) -/

/-- The place of a link's code in `LINKST`; nothing where the die has no such link (R493). -/
def linkBit (die : Nat) (l : Link) (port : Nat) : Option Nat :=
  match l with
  | .hbm => if port < 4 then some (2 * port) else none
  | .lp => if port = 0 then some 8 else none
  | .len => if port < 3 then some (10 + 2 * port) else none
  | .pci => if die = 0 && port = 0 then some 16 else none
  | .cxl => if port = 0 then some 18 else none
  | .eth => if port = 0 then some 20 else none
  | .ual => if port < 4 then some (22 + 2 * port) else none

/-- The step in which a link trains (R492). -/
def linkRank : Link → Nat
  | .pci => 1 | .hbm => 3 | .lp => 4 | .len => 5 | .cxl => 7 | .ual => 8 | .eth => 9

/-- Every link of a die with its port. -/
def allLinks : List (Link × Nat) :=
  [(.pci, 0), (.hbm, 0), (.hbm, 1), (.hbm, 2), (.hbm, 3), (.lp, 0), (.len, 0), (.len, 1), (.len, 2), (.cxl, 0), (.ual, 0), (.ual, 1), (.ual, 2), (.ual, 3),
   (.eth, 0)]

/-- Every link of an earlier step has come up or failed, on each die that is present. -/
def State.trainedBefore (s : State) (rank : Nat) : Bool :=
  (List.range 4).all fun d => !s.pkg.booted.getLsbD d || allLinks.all fun l => rank ≤ linkRank l.1 || match linkBit d l.1 l.2 with
    | some b => 2 ≤ bits (s.die d).linkst b 2
    | none => true

def State.setLink (s : State) (die b v : Nat) : State := s.modDie die fun d => { d with linkst := putBits d.linkst b 2 v }

/-- The module reaches a grade: no die has lost more than four clusters (R496). -/
def State.gradeReached (s : State) : Bool := bits s.pkg.grade 9 3 ≤ 4

/-- What the L1s hold of memory that is out of service goes, dirty or clean (R483). -/
def State.dropDead (s : State) : State :=
  { s with cores := s.cores.map fun (c : Nat × Core) =>
      (c.1, { c.2 with l1 := [], slices := c.2.slices.filter fun l => s.homeFault (s.redirect l.key) != some 8 }) }

/-- Memory leaves service: its lines are gone, the migrations that meet it abort, and the host is told (R483). -/
def State.leaveService (s : State) (tier base size : Nat) : State :=
  let s := { s with pkg := { s.pkg with outOfService := s.pkg.outOfService ++ [(tier, base, size)] } }
  let s := (s.dropDead.zero (tierKey tier base) size).abortTouching (fun m => s.sideDown m.src m.size || s.sideDown m.dst m.size) 2
  s.raise 0

/-- What the failure of a link does: memory of a stack or of a die's channels leaves service, a CXL port's migrations abort. -/
def State.linkFailed (s : State) (die : Nat) (l : Link) (port v : Nat) : State :=
  let aborted := fun (s : State) => s.abortTouching (fun m => s.sideDown m.src m.size || s.sideDown m.dst m.size) 2
  match l with
  | .hbm => if v = 3 then (Config.hbmRanges die port).foldl (fun s r => s.leaveService 0 r.1 r.2) s else s
  | .lp =>
    if v = 3 then
      let mine := fun (k : Nat) => isGlobal k && keyTier k == 1 && keyDie k == die
      (aborted { s with mem := s.mem.filter (fun c => !mine c.1), marks := s.marks.filter fun m => !mine (8 * m) }.dropDead).raise 0
    else s
  | .cxl => if v = 2 then s else aborted s
  | _ => s

/-- The link is a CXL port that has been declared lost: it does not come back (R482). -/
def State.portLost (s : State) (die : Nat) (l : Link) : Bool := l == .cxl && s.pkg.cxlLost.contains die

/-- LINK_TRAINING (R492): a link that has not come up yet takes a code, in the order of the table; the device is ready after step 6. -/
def execLinkTraining (die : Nat) (link : Link) (port : Nat) (state : BitVec 2) (s : State) : Out :=
  .next (match linkBit die link port with
    | none => s
    | some b =>
      if 4 ≤ die || !s.pkg.booted.getLsbD die || 2 ≤ bits (s.die die).linkst b 2 || state = 0 || !s.trainedBefore (linkRank link) ||
          (6 < linkRank link && !s.pkg.ready) || s.portLost die link then s
      else
        let s := ((s.setLink die b state.toNat).linkFailed die link port state.toNat).raise 0
        if !s.pkg.ready && s.trainedBefore 6 && s.gradeReached then ({ s with pkg := { s.pkg with ready := true } }).raise 0 else s)

/-- LINK_STATE_CHANGE (R489, R493): a trained link goes down, fails, or comes up. -/
def execLinkStateChange (die : Nat) (link : Link) (port : Nat) (state : BitVec 2) (s : State) : Out :=
  .next (match linkBit die link port with
    | none => s
    | some b =>
      let old := bits (s.die die).linkst b 2
      if 4 ≤ die || !s.pkg.booted.getLsbD die || !s.pkg.ready || old = state.toNat || (old = 3 && (link == .hbm || link == .lp)) || s.portLost die link then s
      else ((s.setLink die b state.toNat).linkFailed die link port state.toNat).raise 0)

/-- The dirty lines that belong to a lost port are discarded (R482). -/
def State.dropPort (s : State) (die : Nat) : State :=
  let mine := fun (k : Nat) => isGlobal k && keyTier k == 2 && keyDie k == die
  { s with pkg := { s.pkg with cxlLost := setInsert s.pkg.cxlLost die },
           cores := s.cores.map fun (c : Nat × Core) => (c.1, { c.2 with slices := c.2.slices.filter fun l => !mine (s.redirect l.key) }) }

/-- CXL_PORT_DOWN (R482); `lost` says that the management plane declares the port lost. -/
def execCxlPortDown (die : Nat) (lost : Bool) (s : State) : Out :=
  .next (if 4 ≤ die then s
    else
      let s := (s.setLink die 18 0).linkFailed die .cxl 0 0
      (if lost then s.dropPort die else s).raise 0)

/-- CXL_PORT_RETRAIN (R482): the port is up again, unless it has been declared lost. -/
def execCxlPortRetrain (die : Nat) (s : State) : Out :=
  .next (if 4 ≤ die || s.cxlCode die = 2 || s.pkg.cxlLost.contains die then s else (s.setLink die 18 2).raise 0)

/-- MEMORY_OUT_OF_SERVICE (R483): a channel's range of the HBM4E or LPDDR6 tier. -/
def execMemoryOutOfService (tier base size : Nat) (s : State) : Out := .next (if 2 ≤ tier then s else s.leaveService tier base size)

/-! ## Attestation and keys (R490, R491) -/

/-- An answer of the responder: a code and what follows it. Nothing answers unless die 0 has booted. -/
def State.spdmAnswer (s : State) (next : Spdm) (ws : List W64) : State :=
  if s.pkg.booted.getLsbD 0 then { s with pkg := { s.pkg with spdm := next, spdmOut := ws } } else s

/-- The answer to a message that the state of the exchange does not take. -/
def State.spdmError (s : State) : State := s.spdmAnswer s.pkg.spdm [0x7F]

/-- Values of an answer that the manual does not give (log entry 15). -/
def State.spdmDraw (s : State) (n : Nat) : List W64 × State :=
  ((List.range n).map fun i => Config.spdmValue (s.draws + i), { s with draws := s.draws + n })

/-- An answer with free values behind its code. -/
def State.spdmFree (s : State) (ok : Bool) (next : Spdm) (code : W64) (n : Nat) : Out :=
  .next (if !ok then s.spdmError else let (ws, s) := s.spdmDraw n; s.spdmAnswer next (code :: ws))

/-- The algorithms have been agreed. -/
def Spdm.agreed : Spdm → Bool
  | .negotiated | .digests | .exchanged | .secured => true
  | _ => false

def execGetVersion (s : State) : Out := .next (s.spdmAnswer .version [0x04, 0x12, 0x13])
/-- The capabilities word: the messages of R490 and their sessions, and nothing else (R19; log entry 51). -/
def spdmCaps (v : W64) : W64 := 0x206 ||| (v &&& 0xD8)

def execGetCapabilities (s : State) : Out :=
  .next (if s.pkg.spdm != .version then s.spdmError
    else let (ws, s) := s.spdmDraw 1; s.spdmAnswer .capabilities (0x61 :: ws.map spdmCaps))

/-- RSASSA-3072 and SHA-256 are selected, and no other algorithm (R19, R490; log entry 51). -/
def execNegotiateAlgorithms (s : State) : Out :=
  .next (if s.pkg.spdm != .capabilities then s.spdmError else s.spdmAnswer .negotiated [0x63, 4, 1])
def execGetDigests (s : State) : Out := s.spdmFree s.pkg.spdm.agreed (if s.pkg.spdm == .negotiated then .digests else s.pkg.spdm) 0x01 4
def execGetCertificate (s : State) : Out := s.spdmFree s.pkg.spdm.agreed s.pkg.spdm 0x02 1
def execChallenge (s : State) : Out := s.spdmFree s.pkg.spdm.agreed s.pkg.spdm 0x03 1

/-- GET_MEASUREMENTS: block 1 the firmware of each die, block 2 the digest of the wear record, block 3 `GRADE` and the digests of the channel maps. -/
def execGetMeasurements (s : State) : Out :=
  .next (if !s.pkg.spdm.agreed then s.spdmError
    else
      let words := fun (f : Nat → W64) => (List.range 4).map f
      let fw := (List.range 4).flatMap fun d => words (Config.firmwareDigest d)
      let wear := words (Config.digest s.wearRecord)
      let maps := (List.range 4).flatMap fun d => words (Config.digest ((List.range (4 * s.cpd)).flatMap fun c => toBytes 8 (s.core (d * 96 + c)).chmap.toNat))
      s.spdmAnswer s.pkg.spdm ([0x60, 1] ++ fw ++ [2] ++ wear ++ [3, s.pkg.grade] ++ maps))

def execKeyExchange (s : State) : Out := s.spdmFree (s.pkg.spdm == .negotiated || s.pkg.spdm == .digests) .exchanged 0x64 1

/-- FINISH: the session is secured where the exchange verifies. -/
def execFinish (ok : Bool) (s : State) : Out :=
  .next (if s.pkg.spdm != .exchanged then s.spdmError
    else if ok then s.spdmAnswer .secured [0x65] else s.spdmAnswer .negotiated [0x7F])

/-- KEY_SLOT_LOAD (R491): only over a secured session; slot 0 is plaintext. -/
def execKeySlotLoad (slot : Nat) (procs : List Nat) (s : State) : Out :=
  .next (if s.pkg.spdm != .secured || slot = 0 || 2048 ≤ slot then s
    else { s with pkg := { s.pkg with keySlots := s.pkg.keySlots.set slot procs } })

/-- KEY_SLOT_UNLOAD (R491). -/
def execKeySlotUnload (slot : Nat) (s : State) : Out :=
  .next (if s.pkg.spdm != .secured then s else { s with pkg := { s.pkg with keySlots := s.pkg.keySlots.erase slot } })

/-! ## The host's own accesses (R183, R364, R485, R486) -/

/-- A byte of BAR0 as the host reads it (R486): the two blocks, DOORBELL as last written (log entry 76), BUSY, and the mirrors. -/
def State.bar0 (s : State) (o : Nat) : Byte :=
  let word := fun (v lo : Nat) => BitVec.ofNat 8 (v / 256 ^ (o - lo))
  if o < 0x2000 then s.byte (barKey o)
  else if o < 0x2004 then word s.pkg.lastSeq.toNat 0x2000
  else if o < 0x2008 then word s.pkg.busy.toNat 0x2004
  else if 0x3000 ≤ o && o < 0x3008 then word s.pkg.diest.toNat 0x3000
  else if 0x3008 ≤ o && o < 0x3010 then word s.pkg.grade.toNat 0x3008
  else if 0x3010 ≤ o && o < 0x3030 then word (s.die ((o - 0x3010) / 8)).linkst.toNat (o / 8 * 8)
  else 0

/-- The host's read returns bytes. -/
def State.giveRead (s : State) (bs : List Byte) : State := { s with pkg := { s.pkg with read := bs } }

/-- The host writes an entry of the MSI-X table: a pending one that is no longer masked sends its message (R485; log entry 72). -/
def Pkg.setEntry (p : Pkg) (n : Nat) (e : MsixEntry) : Pkg :=
  let p := { p with table := p.table.set n e }
  if e.masked || !p.pending.contains n then p else { p with pending := setErase p.pending n, messages := p.messages ++ [(e.addr, e.data)] }

/-- HOST_ACCESS: host memory, device memory through a process's mapping, the command block, and the MSI-X table; every other offset of BAR0 discards writes. The
homes of device memory count the request (R405). A write to a deposit page that is no deposit is discarded, and answered as unsupported (R416, R485). -/
def execHostAccess (a : HostAcc) (s : State) : Out :=
  .next (match a with
    | .writeHost iova data => if 2 ^ 64 < iova + data.length then s else (s.writeBytes (span (hostKey iova) data.length) data).clearFull (span (hostKey iova) data.length)
    | .writeGlobal p va data => (match s.virtKeys p va.toNat data.length 1 with
      | some ks => if ks.any fun k => s.lockedLine k || (s.homeFault k).isSome then s else s.storeVirt p va.toNat data
      | none => s)
    | .readGlobal p va n => (match s.virtKeys p va.toNat n 0 with
      | some ks => if ks.any fun k => (s.homeFault k).isSome then s else (s.useVirt p va.toNat n).giveRead (s.bytes ks)
      | none => s)
    | .writeDeposit p _ _ => if p < 1024 then s.complete 2 else s
    | .writeCommand o data => if s.mailboxUp && o + data.length ≤ 4096 then s.writeBytes (span (barKey o) data.length) data else s
    | .readBar0 o n => s.giveRead ((span o n).map s.bar0)
    | .writeMsix e addr data masked => if e < 1088 then { s with pkg := s.pkg.setEntry e { addr := addr, data := data, masked := masked } } else s
    | .readMsix n =>
      if n < 1088 then
        let e := s.pkg.table.getD n {}
        s.giveRead (toBytes 8 e.addr.toNat ++ toBytes 4 e.data.toNat ++ toBytes 4 e.masked.toNat)
      else s
    | .readPending => s.giveRead (toBytes 136 ((s.pkg.pending.map fun v => 2 ^ v).foldl (· ||| ·) 0)))

end Sys2Proof.Machine
end

