-- ==== Sys2Proof/Machine/SfuTables.lean ====
section
/-! DEFINITION. The samples of the special-function tables (R152, R153): each function at the ends and the middle of its 128 intervals, rounded to
nearest even at 32 fraction bits. Sample `k` lies at the `k`-th half interval; a row holds sixteen samples of nine hexadecimal digits, the first leftmost. -/

namespace Sys2Proof.Machine

/-- Sample `k` of a table of rows. -/
def sample (rows : List Nat) (k : Nat) : Nat := rows.getD (k / 16) 0 >>> (36 * (15 - k % 16)) % 2 ^ 36

/-- 1/u on [1, 2]. -/
def rcpRows : List Nat :=
  [0x1000000000ff00ff010fe03f8100fd08e5500fc0fc0fc0fb1885650fa232cf20f92fb2210f83e0f840f74e3fc20f6603d980f57403d60f4898d600f3a0d52d0f2b9d6480f1d48bcf,
   0x0f0f0f0f10f00f00f00ef2eb7200ee500ee50ed7303b60ec9791190ebbdb2a60eae564040ea0ea0ea0e93965200e865ac7b0e79372e20e6c2b4480e5f36cb00e525982b0e45932d8,
   0x0e38e38e40e2c4a6880e1fc780e0e135a9c90e070381c0dfac1f740dee95c4d0de27eb2c0dd67c8a60dca8f1590dbeb61ef0db2f171e0da740da70d9ba42570d901b2030d84a598f,
   0x0d79435e50d6df43fd0d62b80d60d578e97c0d4c77b030d417328a0d3680d370d2ba083b0d20d20d20d161543e0d0b69fcc0d00d00d00cf6474a90cebcf8bb0ce168a770cd712753,
   0x0cccccccd0cc29786c0cb8727c00cae5d85f0ca4587e70c9a633fd0c907da4f0c86a78900c7ce0c7d0c73293d80c6980c6a0c5fe74030c565c87b0c4ce07b00c4372f850c3a13de6,
   0x0c30c30c30c27806140c1e4bbd60c152500c0c0c0c0c10c0300c030bfa02fe80bf112a8b0be82fa0c0bdf59c910bd6910470bcdd535e0bc52640c0bbc8408d0bb3ee7220bab65610,
   0x0ba2e8ba30b9a7862a0b92143fa0b89bc36d0b81702e00b79300b80b70fbb5a0b68d31340b60b60b60b58a48550b509e68b0b48a39d40b40b40b40b38cf9b00b30f63530b2927c2a,
   0x0b21642c80b19ab5c40b11fd3b80b0a59b420b02c0b030afb321a10af3addc70aec33e1f0ae4c415d0add5e6320ad602b580aceb0f890ac7691840ac02b00b0ab8f69e30ab1cbdd4,
   0x0aaaaaaab0aa392f360a9c84a480a957fab50a8e83f570a87917090a80a80a80a79c7b170a72f05390a6c21df70a655c4390a5e9f6ed0a57eb5030a513fd6c0a4a9cf1e0a4402910,
   0x0a3d70a3d0a36e71a30a3065e400a29ecf160a237c32b0a1d139850a16b312f0a105a9330a0a0a0a10a03c168809fd809fe09f747a1509f1165e709eaecc8d09e4cad2409deb06c9,
   0x09d89d89e09d2921c409cc8e16109c69169b09c09c09c09baade8e09b4c6f9f09aee72fd09a90e7d909a33cd67099d722db0997ae76b0991f1a51098c3bac709868c80a0980e4156,
   0x097b425ed0975a7510097012e02096a850090964fda6c095f7cc73095a0256809548e498094f2094f0949b92de094458094093efd1c50939a85c4093459be7092f113840929cebf5,
   0x092492492091f5bcb9091a2b3c5091500915090fdbc09090abcc020905a386309009009008fb823ee08f67a1e408f1779da08ec7ab3908e78356d08e2917e108dda520208d8be340,
   0x08d3dcb0908cf008cf08ca29c0408c55841d08c08c08c08bbc50c908b70344a08b246a8808ad8f2fc08a8dcd2008a42f870089f8746a089ae408a089645c4f0891ac73b088d180cd,
   0x0888888890883fddf0087f78088087af6fd608767ab5f0872032ac086d905440869222b20864b8a7e086053c34085bf3761085797b91085340853084eedd35084a9f9c8084655d9c,
   0x084210842083dcf94e08399305208355ace4083126e98082cf75040828cbfbf0824a4e61082082082081c635bc081848da90814327e4081020408080c121b3080808081080402010,
   0x080000000000000000000000000000000000000000000000000000000000000000000000000000000000000000000000000000000000000000000000000000000000000000000000]

/-- 1/sqrt(u) on [1, 2] and [2, 4]. -/
def rsqRows : List Nat :=
  [0x1000000000ff017d840fe05ec450fd0d3ddb0fc1764410fb2451d20fa33f9410f9464d9c0f85b42470f772caf60f68cdbaf0f5a968c60f4c866d70f3e9cac90f30d89c80f2339944,
   0x0f15beef00f08680bd0efb344dc0eee231b70ee133df50ed4660740ec7b90470ebb2c4ba0eaebf5490ea2719a30e96429a70e8a31d660e7e3ed190e726912b0e66b02300e5b138e4,
   0x0e4f92e2e0e442db1c0e38e38e40e2db40dd0e229ec880e17a35840e0cc15970e01f86a70df7482b80decb03f10de2304970dd7c7f0d0dcd76dd30dc33cb850db9192dc0daf0beab,
   0x0da5149e10d9b32f850d9166ab70d87af6b10d7e0cec30d747ee560d6b050e80d619f20f0d584cd740d4f0ded80d45e220d0d3cc92fc0d33c2da10d2acee090d21ed0570d191d0bd,
   0x0d105eb800d07b1cf80cff1618b0cf68b5b10cee115f20ce5a7ee70cdd4ed360cd505d960cccccccd0cc4a37ad0cbc89b180cb47f3fe0cac83f5c0ca497a3c0c9cba1b40c94eb2e9,
   0x0c8d2ab0b0c85787540c7dd450e0c763e18b0c6eb5a2b0c673ac570c5fcd5830c586d3300c511a2e60c49d423a0c429aec80c3b6e63a0c344e63f0c2d3ac930c26336f80c1f3833d,
   0x0c1848f350c11658c00c0a8ddc30c03c1c2f0bfd011f90bf64bd200befa1bac0be902baa0be26eb320bdbe58600bd5671580bcef34460bc889f5e0bc22b0d80bbbd66f40bb58bff9,
   0x0baf4ba350ba9153fa0ba2e8ba30b9cc5f8f0b96ace230b909d5cc0b8a974fa0b849aa250b7ea73ca0b78bd0690b72dbe8b0b6d03cbc0b673498f0b616e3990b5bb09760b55fb9c8,
   0x0b504f3340b450fc070b39f19780b2ef41580b24169bd0b19589010b0eb95bd0b04386c90af9d533a0aef8f25f0ae565bc00adb5871b0ad166c630ac7903bf0abdd45870ab432a44,
   0x0aaaaaaab0aa13bfa00a97e62340a8ea8ba10a85835480a7c758b50a737ef9a0a6a9f3cd0a61d5f4a0a5922c2f0a50854bd0a47fd3570a3f8a27f0a372bcd70a2ee1d1e0a26abe34,
   0x0a1e89b120a167aed00a0e7f4a00a06967ce09fec03bf09f6fc3f409ef4a40409e7a9f9d09e01b28709d89d89e09d130dd309c9d4e3009c2895d109bb4e0e609b422bb309ad07291,
   0x09a5fb1e9099efe637099810c09099131fff098a61ec90983a0528097cecfeb097647bf3096fb062f096926b9e0962aa94c095c3bc550955da1e0094f8572509493d9670943025f5,
   0x093cd3a2d0936b137709309af49092a90b23092492492091e9f92d0918b86960912dca7a090d0c290090746c9a09018c66308fbdcdc108f63809208f09dcbf08eb0e03808e5888f8,
   0x08e00d50208da9c26008d534f2808cfd797308ca83f6808c539f3008bff970008bac251308b5947ab08b06fd1108ab5439608a64199108a137d60089c36d6908973e81608924ebda,
   0x088d6772b0888888890883b1e76087ee377e087a1d22e08755ed1e0870a86e7086bf9e2a08675318c0862b3fb7085e1c75c08598c730085503dec085082a4e084c08b1b084795f1a,
   0x08432a517083ec5be3083a682540836117440831c1990082d7881a0829361c90824fa5860820c5240081c966e908186e27508144c3df081030a23080c1b44308080c142080403028,
   0x080000000000000000000000000000000000000000000000000000000000000000000000000000000000000000000000000000000000000000000000000000000000000000000000]

/-- sqrt(u) on [1, 2] and [2, 4]. -/
def sqrtRows : List Nat :=
  [0x100000000100ff807f101fe03f6102fb8d4e103f81f63104f3bd04105ee68f0106e825db107e0f66b108d8dd3b109cfdcd910ac5f7c710bbb307b10caf896110da304d910e95a53a,
   0x10f876cce110785dd7111687a8b11257c518113463fa311433ec4611520cd131160ce413116f83346117e2bca4118cc821d119b5859911a9dc8f711b854e0f11c6c16b311d5224ab,
   0x11e3779b911f1c179a120000000120e3349a121c5b70e122a788fc12388ac001246921ad12548eb91126280b34127068219127e451bc128c17b931299e011212a79e3a312b5524ae,
   0x12c2fc59512d09c7b512de32c6612ebbf4fb12f9422c21306bb70613142b30b132191812132eee757133c4221413498c97b1356cdebd13640630413713577a137e5bd41138b7957a,
   0x13988e14113a59a1ae13b29d7d613bf984cb13cc8a99b13d97474f13e655ef013f32f180140000000140cc8b6d1419894c2142641cf51432f24fb143f9adc4144c3b83e1458d4555,
   0x1465655f11471eeaf7147e7054b148aea5cc14975cd5714a3c7cc914b02b4f814bc876ba14c8dc2e414d529a4514e16fdad14edaede714f9e6bbc1506177f5151241357151e63ea4,
   0x152a7fa9d1536948011542a278d154ea99fb155aaa0031566a3a5b1572969b9157e82ece158a68a4b159647cde15a22073515adf29f915b9be5d515c583b6f15d142b6e15dcfb674,
   0x15e8add2315f45a01d160000000160b9fd691617398f31622cd338162e5acd11639e26541645640571650dfb6c165c558281667c571a16732f8d1167e93ddc1689f26c716954b41d,
   0x16a09e66816b733bfe16cdb2bbb16e41b9c016fa6ea161710ac0b61726d4183173ce70501752e50db1768ce6d4177ea35d617946416f17aa10d1917bfa9c4217d52f24517eaa126f,
   0x18000000018154be27182a85008183fab8b51854bfb361869c1a86187eb199118938fb3818a85c24f18bd171a018d1c0be818e6593d718fae0c16190f5773e1923bd7e2193813089,
   0x194c583ae19608d3c41974b23351988c7460199ccc99a19b0c253119c4a896a19d87f87e19ec474a21a00000001a13a9cba1a2744ce91a3ad12a21a4e4efee1a61be6d01a751f944,
   0x1a88729401a9bb78af1aaeee97a1ac217d7e1ad5336961ae8416941afb41f431b0e3526a1b211b1c71b33f3f151b46bfc061b597ea481b6c30b831b7ed615a1b916ed691ba3fb146,
   0x1bb67ae861bc8ee6b31bdb55b551bedb0df01c00000001c12432ff1c247a8601c36a61931c48c60021c5ada5141c6ce322a1c7ee08a11c90d29d31ca2b97141cb4951b51cc665b03,
   0x1cd82b4461ce9e5ec31cfb95bba1d0d3ac681d1ed52071d3064dcd1d41ea0ea1d5364c8d1d64d51e11d763b20d1d8796e361d98e877b1daa2fefb1dbb6d5ce1dcca0d0d1dddca5ca,
   0x1deeea1171e00000001e110c3911e220ecd11e3307cc51e43f746f1e54dd4ce1e65b9edf1e768d39a1e87573f71e98180ea1ea8cfb641eb97e4561eca23caa1edac054d1eeb53f24,
   0x1efbdeb151f0c60a031f1cd9ccf1f2d4a4561f3db21751f4e115051f5e67fdd1f6eb62d21f7efbeb91f8f394611f9f6e4991faf9b02e1fbfbf7ec1fcfdbc9a1fdfefeff1feffbfe0,
   0x200000000000000000000000000000000000000000000000000000000000000000000000000000000000000000000000000000000000000000000000000000000000000000000000]

/-- 2^u on [0, 1]. -/
def ex2Rows : List Nat :=
  [0x100000000100b1afa610163daa0102168144102c9a3e71037d42e1104315e87104e5f72f1059b0d3110650a0e410706b29e107bd42b71087451871092bdf66109e3ecac10a9c79b2,
   0x10b5586d010c0f145e10cc922b710d83b23410e3ec32d10efa55fe10fb66b0011073028d111301d01111edbab6112abdc071136a814f11429aaeb114e95935115a98c8a1166a4547,
   0x1172b83c8117ed4869118af938911972658311a35beb711af99f8111bbe084011c82f95311d48731711e0e75eb11ed5023011f9c184412063b8861212be358121f49918122bdda28,
   0x12387a6e712451ffb81251ce4fb125e85712126b4565e12780e3421284dfe1f1291ba759129e9df5212ab8a66d12b87fd0e12c57e39712d285a6e12df961f612ecafa9412f9d24ac,
   0x1306fe0a3131432edf132170fc5132eb83bb133c08b2613496266e1356c55f9136431a2e1371a7374137f26232138cae6d0139a401b713a7db34e13b57fbff13c32dc3113d0e544f,
   0x13dea64c113ec70df213fa4504b140822c3614160a21f1423fb2711431f5d95143ffa3f8144e08606145c2042a146a41ed214786d6691486a2b5c1494e1e1914a32af0d14b17dea7,
   0x14bfdad5314ce41b8114dcb29a014eb2d81e14f9b276a1508417f41516daa2d15257de8415342b56a1542e2f4f1551a4ca6156070ddf156f4736b157e27dbe158d12d49159c08280,
   0x15ab07dd515ba11fbb15c9268a615d84590a15e76f15b15f6a320e1605e1b9716152ae6d16247eb041633dd1d216434634d1652b9fec1662388251671c1c71168155d451690f4b1a,
   0x16a09e66816b052fa716c01275116cfdcddd16dfb23c616ef9298616ff7df95170f7466f171f75e8f172f8286f173f9a48a174fbd35d175feb564177024b1b1780694fe1790b938b,
   0x17a11473f17b17b09717c1ed01317d26a63017e2f336d17f3878491804275441814d2add18258999518364c1ec18471a4621857f417a1868d99b41879cad93188ac7d99189bd0a48,
   0x18ace542318be05bad18cf3216b18e06a5e118f1ae9911902fed0319145b0b91925c353b193737b0d1948b82b6195a44cbd196bdd9a7197d829fe198f33e4819a0f170d19b2bb4d5,
   0x19c49182a19d67419519e86319e19fa5e8d01a0c667b61a1e7aed91a309bec51a42c98041a5503b241a674a8af1a799e1331a8bfe53c1a9e6b5581ab0e52131ac36bbfd1ad5ff3a4,
   0x1ae89f9961afb4ce621b0e072991b20ce6ca1b33a2b851b468415b1b59728de1b6c6e29f1b7f76f301b928cf221ba5b030a1bb8e0b7a1bcc1e9051bdf69c3f1bf2c25bd1c0628614,
   0x1c199bdd81c2d1cda01c40ab6001c54477901c67f12e51c7ba88991c8f6d9401ca3405751cb720dcf1ccb0f2e71cdf0b5561cf3155b61d072d4a01d1b532b11d2f870811d43c8ead,
   0x1d5818dd01d6c76e861d80e316d1d955d7201da9e603e1dbe7cd641dd321f301de7d56421dfc973381e11676b21e264614f1e3b333b11e502ee791e65392461e7a51fbc1e8f7977d,
   0x1ea4afa2a1eb9f48681ecf482d91ee4aaa221efa1bee61f0f9c1cb1f252b3771f3ac948e1f50765b71f66327991f7bfdada1f91d80221fa7c181a1fbdba3691fd3c22b91fe9d96b3,
   0x200000000000000000000000000000000000000000000000000000000000000000000000000000000000000000000000000000000000000000000000000000000000000000000000]

/-- log2(u) on [1, 2]. -/
def lg2Rows : List Nat :=
  [0x000000000001709c47002dfca170044d8c46005b9e5a100724d8ef0088e68eb009f6984a00b5d69bb00cc2dfe200e26fd5d00f89c4c2010eb38a00124b5b7e013aa2fdd01507b836,
   0x01663f6fb017beee9701918a16e01a7111df01bc8424101d1e34e301e72ec1101fc66a0f02118b11a02269c369023b9a32f02508529602655d3c5027a228db028ed53f302a375721,
   0x02b80347402cc7edf602e0e85aa02f53fd900309857a0031db95d00331dba0f0345ec6460359ebc5b036dd9e2f0381b6d9c039582c7903a93dc9803bce7fc703d0817cf03e40a672,
   0x03f782d72040aeae89041e42b6f04318a5d50444c1f6b0457e99db046b016ca047e097db049101eac04a3eacd704b6c43f104c98e58e04dc4933b04eef4e830501918ec05141f3fb,
   0x05269e12f05390e204054b6f7f1055dc246d0570068e805823c6d1059463f9205a67d49205b88873605ca858df05dc74aea05ee55eb106002958c0611ef0cf0623a71cc0635519cf,
   0x0646eea2406587e415066a008e4067b759d6068cdd82a069e3851c06af861e606c0c6fc006d1fafdd06e32237006f43cba807054a9b107164beb5072740bdb073829249074905320,
   0x0759d4f81076a98888077b4ff51078bfb4f4079c9aa8807ad2e11f07bdb59cd07ce3159f07dea15a307ef05ae407ff5e66a080fab93c081fed45d0830238d008404e79408506e1a8,
   0x08608280708708bbaa088089d8b08907ce9d08a064fd508b04222508c01467c08cfdbdc808df988f508ef4a8ed08fef1e98090e8eade091e20ea1092da8ac6093d2602c094c98fb4,
   0x095c01a3a096b6009b097ab43af0989fe45109993e35609a87419309b79ffdb09c6c1f0109d5d9fd509e4e832509f3ec9bd0a02e746a0a11d83f50a20bf9260a2f9d4c50a3e71797,
   0x0a4d3c25e0a5bfd5df0a6ab52da0a7963a0d0a8808c380a96a4a170aa5374650ab3c0bdc0ac2411350ad0b85260adf268660aed8bba80afbe7fa10b0a3b5020b1885c7b0b26c76bc,
   0x0b35004720b433064b0b5157cf30b5f769130b6d8cb540b7b9a45e0b899f4d90b979bd690ba58feb20bb37b9590bc15edff0bcf39d450bdd0c7ca0bead6e2d0bf89910c0c0653103,
   0x0c1404eae0c21aeaa60c2f505860c3ce9fe40c4a7ba580c58055790c65871da0c73010110c80730b00c8ddd4490c9b3fb6d0ca89a6ac0cb5ed6950cc338bb70cd07c69e0cddb87d6,
   0x0ceaecfeb0cf819f660d053f6d20d125d6b70d1f73f9c0d2c832090d398ae810d468b58c0d53847ac0d60765650d6d60f390d7a445a90d87209360d93f5a600da0c39a50dad8a784,
   0x0dba4a47b0dc7031040dd3b4d9d0de05fac00ded038e60df9a088a0e0636a240e12c5e2b0e1f4e5170e2bcff5e0e384ad750e44befd00e512c6e50e5d933260e69f35060e764ccf7,
   0x0e829fb690e8eec0ce0e9b31d940ea77122b0eb3a9f020ebfdc4850ecc083220ed82db450ee44cd5a0ef0659cc0efc781040f088436d0f148a1700f2089b750f2c831e40f3876524,
   0x0f446359b0f504a3af0f5c2afc60f6805a440f73da38e0f7fa8c050f8b7140f0f9733c0c0fa2f045e0faea6d670fba577870fc60231e0fd1a708c0fdd4602e0fe8df2640ff47278b,
   0x100000000000000000000000000000000000000000000000000000000000000000000000000000000000000000000000000000000000000000000000000000000000000000000000]

/-- sin(pi u/2) on [0, 1]. -/
def sinRows : List Nat :=
  [0x000000000001921f10003243a40004b64daf00648557e007da4dcc0096c32bb00afe006900c8fb2f900e21468900fb2b73d011440135012d52093014661179015f6d00b01787586a,
   0x01917a6bc01aa7b72401c3785c801dc70ecc01f564e57020e5408f02273e19e024022daa0259020dd0271db762028aaed6202a37bf0b02bc4288902d50260a02edbb3bd03066cdd1,
   0x031f170790337b97e603505404b0368e65de0381704d50399f196603b269fcb03cad943c03e33f2f603fb9b8360413ee039042c3673f04447498b045ca835e0474d10fd048ceeeaf,
   0x04a5018bb04bd08b6c04d50430c04ecf3be80504d7250051cae29505347890a054c362030563e69d7057b89cde05931f77505aaa75f705c2214c405d98d03d05f0ea4c4060838ec1,
   0x061f78a9b0636a94bb064dca98f0664dc585067bde50f0692d049f06a9b20ae06c0835b206d74402806edf3c8c070492760071b1fd2607319ba65074805ba4075e5dd6e0774a3c52,
   0x078ad74e007a0f83ac07b70654c07cd0165907e2e937007f8bd930080e7e43a08242b1350839c3cc9084f483a10864b826b087a135d9088f59aa108a48ad7a08b9a6b1f08cead050,
   0x08e39d9cd08f87845e090d3ccca0921eafdd093682a67094b0393b095f6d9300973c071f0987fbfe7099c2006809b02c58809c420c2f09d7fd14909ebc11c609ff6ca9a0a12ff8bc,
   0x0a26799280a39da8dd0a4d224dd0a6050a2f0a73655df0a86604fb0a99414950aac081c50abeb49a40ad1469530ae3bddf30af61a4ac0b085baa90b1a81d190b2c8c9300b3e7bc25,
   0x0b504f3340b6206b9e0b73a22a70b85215990b96841bf0ba7ca46d0bb8f3af80bca002ba0bdaef9130bebc1b660bfc7671b0c0d0d99e0c1d870600c2de28d70c3e2007e0c4e3f4d2,
   0x0c5e403590c6e229990c7de651f0c8d8b37f0c9d1124d0cac77f240cbbbf7a60ccae79770cd9f02400ce8d8faf0cf7a1f790d064af560d14d3d020d233c6410d31848d80d3fac295,
   0x0d4db31480d5b992c90d695e4f10d77025a20d84852c10d91e6a380d9f269f80dac44ff50db941a290dc61c6940dd2d533a0ddf6be250debe05630df83270b0e04621340e106f1fd,
   0x0e1c5978c0e28210090e33c59a40e3f472910e4aa590a0e55e0b4d0e60f87a00e6becc4c0e76bd7a20e816a7f60e8bf3ba20e96591070ea09a68a0eaab7a970eb4b0b9e0ebe85816,
   0x0ec835e7a0ed1c1d4b0edb293120ee46be5a0eed89db60ef682fbf0eff573110f08066510f10908280f18f57440f21352590f294f8240f31447620f3913edb0f40bdd5a0f48421b1,
   0x0f4fa0ab60f56d97470f5dec6470f64d969e0f6ba073b0f72417130f78bc51f0f7f110600f853f7dd0f8b47aa00f91297bc0f96e4e480f9c79d630fa1e84300fa7301d80fac5158c,
   0x0fb14be800fb61fbf00fbaccd1d0fbf5314f0fc3b27d40fc7eaffd0fcbfc9260fcfe72ad0fd3aabf80fd7474720fdabcb8d0fde0b0bf0fe1323870fe4323680fe70afeb0fe9bc8a1,
   0x0fec46d1f0feea9d000ff0e57e60ff2f9d790ff4e6d680ff6ac7660ff84ab2c0ff9c187c0ffb10f1c0ffc38ed70ffd397800ffe128f00ffec43040fff4e5a20fffb10b50fffec42c,
   0x100000000000000000000000000000000000000000000000000000000000000000000000000000000000000000000000000000000000000000000000000000000000000000000000]

/-- tanh(u) by binades from 2^-4 to 2^4. -/
def tanhRows : List Nat :=
  [0x00ffaaccc0107a291c010f99d380117908e0011f86bd601277c5dc012f716b1013765e19013f59bd401474cfa3014f3f949015731887015f22d1f0167136d2016f035630176f2893,
   0x017ee10240186cebda018ebbb750196a7eb9019e9356801a67df4401ae67c1001b650b8f01be38d8301c6201b001ce067d901d5ebfc101ddd092a01e5b43d901ed96f9201f578c17,
   0x01fd5992c020d18417021cd2e73022c89663023c3ba0b024be9791025b92d1d026b378da027ad78f6028a72b9f029a08f0702a99a16102b9260e402c8acbc902d82e04b02e7a9ca8,
   0x02f71ff200306905f70315faf7303255f9dc0334be37d034416aa5035368da60362b4ad30371fa083038138d11039070ed9039fa243d03aeccb9f03bdf036603cd0c9fd03dc21dcf,
   0x03eb2fd4d04093592104271d13d0444e599f04628e67a048016c3a049d7df8704bac354104d7e628404f4e5ca70511c1940052e78e20054b0b1580567779360583bdc48059fdd15a,
   0x05bbd4f7a05d7a4df505f34c458060ecaa72062a1f85306454a64b06604acec067b2050a0695ca7b906b048e5006ca9b26506e4c0dd106feb9aae071885356073223264074b932b3,
   0x0764d4f5d0796ccb7107c80846907f885bf408284379808574009a08857a3f008b2f122a08dfa3f56090b922ee0936bb7ba09611fbb5098abeff509b39988909dbafc5e0a0302524,
   0x0a2991f2b0a4f5f9450a746c4ae0a98b94e20abc47f880adf19c510b01304d50b228d47d0b433285c0b6321f1d0b825d8dc0ba0e77110bbec1c720bdbeecd80bf870d260c144a332,
   0x0c2f7d5a90c63fae360c95fd9b80cc59a31d0cf2e5add0d1df54c30d46de5e20d6db62c70d9291ddb0db5865f70dd6a85250df60bf8f0e13c52950e2fe740c0e4a8519a0e63b1036,
   0x0e7b7cbc30e91f96c70ea737a320ebb475450ece37d7f0ee017ea40ef0f5aca0f00dea750f0fdfcbf0f1e057860f2b5b79f0f37ed1160f43c4f670f4eed5c90f596ff6f0f6355fcf,
   0x0f6ca82f10f7db1e100f8cca6fc0f9a28f040fa5feb610fb077d960fb9bbb590fc1ed5f90fc92c1300fcf939710fd53c9a60fda3d06c0fdea84d70fe28fab50fe60266e0fe90e07d,
   0x0febbe8890fee1e8310ff0375830ff21153a0ff3b3caf0ff5253a00ff66b5bf0ff78b4130ff8896320ff969b5a0ffa2fb6a0ffade7b70ffb78bd40ffc00e3b0ffc790e70ffce31d6,
   0x0ffd40b840ffddc3e80ffe556200ffeb3bc30ffefd3910fff367570fff630940fff85c120fffa0cb30fffb5da40fffc640e0fffd306d0fffdcf980fffe4b8e0fffeac180fffef748,
   0x0ffff31d60ffff5f700ffff82f40ffff9e9d0ffffb4280ffffc4ef0ffffd2000ffffdc2d0ffffe4190ffffea450ffffef140fffff2d20fffff5bc0fffff8020fffff9c60fffffb27,
   0x0fffffc390fffffdb60fffffe9c0ffffff280ffffff7d0ffffffb10ffffffd00ffffffe30ffffffee0fffffff50fffffff90fffffffc0fffffffe0ffffffff0ffffffff0ffffffff,
   0x100000000100000000100000000100000000100000000100000000100000000100000000100000000100000000100000000100000000100000000100000000100000000100000000,
   0x100000000000000000000000000000000000000000000000000000000000000000000000000000000000000000000000000000000000000000000000000000000000000000000000]

/-- sigm(u) by binades from 2^-4 to 2^4. -/
def sigmRows : List Nat :=
  [0x083ffaab30841fa2740843f99b10845f90660847f868f0849f7c29084bf712f084df659d084ff596f0851f4ca20853f3f310855f31190857f22550859f12e1085bf02ba085def1db,
   0x085fee0410861ecde70863ebaca0865ea6e60867e92360869e7cb7086be6665086de4f3b086fe37370871e1e530873e048c0875de9de0877dce450879db1be087bd9443087dd75d2,
   0x087fd56660883d148e0887cce9c088bc8470088fc35eb0893be2ee0897b8b59089bb2f0d089facdea08a3a67d208a79fca508ab98c4408af9168f08b389b6908b781ab108bb79449,
   0x08bf7081208c3675ed08c75ddbb08cb53f5d08cf49ab408d33efa208d733e0808db285c708df1c6c208e3100d808e7033ed08eaf5fe008eee849508f2da1ed08f6cb7c908fabc60b,
   0x08feacc9609068c20b090e6973a091644b32091e1dd050925f4bc8092dc968e09359bc6d093d6bc7b0945395d0094d047830954cd0b1095c930720964565e5096c170260973d4e54,
   0x097b8ff900983482fc098afd7b90992afcee099a5f1be09a20b55309a9b46d309b15a56909b8fd04109c09c68809c83876d09cfd121f09d7665d009def81b309e6864fe09ee10ee7,
   0x09f597ea70a049ac900a138e89f0a2272ccf0a314733d0a400b61d0a4ebefc40a5d61aa10a6bf31420a7a72e540a88e0ca00a973c7100aa5858ac0ab3bbc9b0ac1dee240acfee8ad,
   0x0addea7bd0aebd26fa0af9a622c0b07655390b150fc290b22a53250b30256760b3d902850b4ae53dd0b58247280b654d9320b72606e90b7f5cd570b8c429ab0b99119320ba5c9959,
   0x0bb26a7af0bcb665b80be4042340bfc42dfa0c1421bcc0c2ba004d0c42bd1f80c59789150c6fd1fab0c85c91770c9b5dbdd0cb08fddb0cc55f7fa0cd9ccc440cedd7e2f0d0181292,
   0x0d14c8f950d27afca30d3a362570d4c5ca710d5e23fc40d6f8ce280d809826b0d9146a3e0da19942e0db190f8e0dc12ec6e0dd073b880ddf60e390dedf766c0dfc386930e0a25199,
   0x0e17bead40e31fd71b0e4afecdc0e62cd18f0e7972d6f0e8efaa610ea36f2f10eb6db1630ec948eee0edac32fc0eeb542930efb05fc70f09e294b0f17f3a060f25428cd0f31d881b,
   0x0f3dbe5e20f48fcb630f539bd190f5da3aa20f671bec00f700bf520f787ad650f806f53a0f87efe600f8f02bc30f95adbd00f9bf688b0fa1e27b40fa776ae50facb7fb70fb1aafe8,
   0x0fb6541780fbed8f080fc66537e0fcd147820fd2ff5b10fd83becb0fdcdddad0fe0f6afd0fe4960980fe7c9cb90fea9e4d30fed1e8360fef5426c0ff147d5a0ff3013370ff48703e,
   0x0ff5df4440ff70f4180ff81bac20ff908a9d0ff9d9e570ffa929d00ffb35ae00ffbc5a090ffc44b190ffcb4dad0ffd17db50ffd6f3db0ffdbc5ea0ffe0071e0ffe3c8730ffe718eb,
   0x0ffea05c20ffeee1f40fff2ab100fff59de20fff7e9c80fff9b3ab0fffb184a0fffc2e090fffd065a0fffdaed20fffe32070fffe98370fffee7cc0ffff25c70ffff560c0ffff7ba4,
   0x0ffff98eb0ffffafb80ffffc17a0ffffcf4f0ffffda140ffffe2770ffffe9000ffffee160fffff20d0fffff5230fffff78a0fffff9690fffffade0fffffc010fffffce30fffffd93,
   0x0fffffe1d000000000000000000000000000000000000000000000000000000000000000000000000000000000000000000000000000000000000000000000000000000000000000]

/-- erf(u) by binades from 2^-4 to 2^4. -/
def erfRows : List Nat :=
  [0x01207d48101297ae8a013277f4e013b746850144703e8014d6b731015666017015f5fe550168591a20171519b8017a49650018340724018c36bec01952c461019e2103e01a714f3c,
   0x01b00811501b8fa58101c1ebc3b01cadc4fc01d3cbf7e01dcbab7c01e5a88b001ee956d201f78159f02006c4cf02095641e02123f346021b2720102240e00a022cf3d1c0235d88f2,
   0x023ebc34702508025902623f82c0273fa29c0285aff86029760cc902a90c84602bab2fe002cc5417c02ddefb0002ef85a55030115d660312a02200324246720335a284d03471a5a5,
   0x03588bc700369f6aa6037b5ae42038cb8541039e0eda203af5e56803c0a6a9703d1e7b3703e32155103f4536f204057de290416a09090427bb5a60438ce2190449d8c7b045adb2eb,
   0x046bd5389048dafbe104af676c404d0fb5a604f26aa2e0513b46360534d7bd00555d3d400576a7d05059752dd705b7d42a305d82ae9605f8565130618559bd0638280730657ccd4f,
   0x0677434ae06968ab2906b5a259906d48991b06f33fb090711c41020730160e5074e350d5076c2073a0789d7abd07a75a24c07c4a751c07e1beaa507fe9faa4081b49d1c0837bca56,
   0x0853f7ae1088bc498508c2ad2ff08f8ae5a8092dc54460961ef5ff09952a65c09c77454209f8cb6e70a292e3c70a589b89d0a87126520ab4921e90ae11a4760b0caab040b3743682,
   0x0b60e4bad0b898f2fa0bb14387c0bd802bc60bfdcdfd70c22a6af90c468e6a40c6986f600c8b924a90cacb28cc0cccea0c90cec3b4330d0aa8d0b0d28357a60d44e42860d60b7e39,
   0x0d7bb3d3a0daf317e70ddf787df0e0ca58ea0e36d69410e5e2a5a40e82c05960ea4b87ce0ec432ecc0ee14fdb00efc2f5470f14f11540f2bb461e0f4097e320f53b98770f653666c,
   0x0f752aab90f83b17ef0f90e4f890f9cde1210fa7b49db0fb17f4010fba536cd0fc24565b0fc9683c00fcfcdd470fd586ec50fdaa320d0fdf30f780fe33de790fe6d66500fea05eb7,
   0x0fecd70a10ff183f960ff5210c70ff7e67340ffa023b00ffb99c0a0ffccb07a0ffdadefb0ffe5547a0ffecfbc60fff28a5e0fff68b3e0fff967d80fffb6f740fffcdd210fffddc79,
   0x0fffe8d620ffff07010ffff59f60ffff921b0ffffb7d00ffffd0ef0ffffe18b0ffffec710fffff3880fffff81d0fffffb0c0fffffcea0fffffe180fffffed40ffffff490ffffff92,
   0x0ffffffbe0ffffffe90fffffff80fffffffd0ffffffff100000000100000000100000000100000000100000000100000000100000000100000000100000000100000000100000000,
   0x100000000100000000100000000100000000100000000100000000100000000100000000100000000100000000100000000100000000100000000100000000100000000100000000,
   0x100000000100000000100000000100000000100000000100000000100000000100000000100000000100000000100000000100000000100000000100000000100000000100000000,
   0x100000000100000000100000000100000000100000000100000000100000000100000000100000000100000000100000000100000000100000000100000000100000000100000000,
   0x100000000000000000000000000000000000000000000000000000000000000000000000000000000000000000000000000000000000000000000000000000000000000000000000]

/-- 2/π at 64 fraction bits (R153). -/
def twoOverPi : Nat := 11743562013128004906
/-- 2/√π at 64 fraction bits (R152). -/
def twoOverSqrtPi : Nat := 20814921713516466459

end Sys2Proof.Machine
end

