-- ==== Sys2Proof/Machine/Sfu.lean ====
section
/-! DEFINITION. The special functions (R151 to R157), opcodes 0x0C0 to 0x0C9: table, exact quadratic, exact reconstruction, one rounding. -/

namespace Sys2Proof.Machine

/-- What a function of a nonzero number gives: a fixed code and its flags, or an exact value with the sign that a zero of it takes, and whether
the exact value of the function is zero. -/
inductive SVal where
  | code (c : Nat) (e : Exc)
  | val (v : Dy) (neg : Bool) (zero : Bool)

/-- Steps 1 to 4 of R152 at a place: the interval, and the 16 fraction bits of the offset, in one number. -/
def quad (rows : List Nat) (z : Nat) : Dy :=
  let i := z / 65536
  let t : Int := z % 65536
  let f0 : Int := sample rows (2 * i)
  let fm : Int := sample rows (2 * i + 1)
  let f1 : Int := sample rows (2 * i + 2)
  ⟨f0 * 2 ^ 32 + (4 * fm - 3 * f0 - f1) * t * 2 ^ 16 + (2 * f0 - 4 * fm + 2 * f1) * t * t, -64⟩

/-- `v × 2^k`, truncated. -/
def place (v : Dy) (k : Int) : Nat := ((v.scale k).toInt .rd).toNat

/-- The exact value `v / d` with a sticky bit below 64 further bits, which one rounding to FP32 does not distinguish from it. -/
def overDen (v : Dy) (d : Nat) : Dy :=
  let m := v.n.natAbs * 2 ^ 64
  let q : Int := m / d * 2 + (if m % d = 0 then 0 else 1)
  ⟨if v.n < 0 then -q else q, v.e - 65⟩

def Dy.pow (v : Dy) : Nat → Dy
  | 0 => ⟨1, 0⟩
  | n + 1 => v.mul (Dy.pow v n)

/-- `Σ c × x^i` over coefficients and exponents. -/
def series (x : Dy) (cs : List (Int × Nat)) : Dy := cs.foldl (fun (a : Dy) c => a.add ((⟨c.1, 0⟩ : Dy).mul (x.pow c.2))) ⟨0, 0⟩

def invalid : SVal := .code f32.nan { nv := true }
def one32 : Nat := 0x3F800000
def big (v : Dy) (n : Nat) : Bool := !v.lt ⟨n, 0⟩

/-- `rcp` of a nonzero number. -/
def rcpOf (s : Bool) (v : Dy) : SVal :=
  let e := v.log2
  let p := (quad rcpRows (place ((v.scale (-e)).sub ⟨1, 0⟩) 23)).scale (-e)
  .val (if s then p.neg else p) s false

/-- `rsq` and `sqrt`: the exponent made even, and the table of `u` in [1, 4). -/
def rootOf (rows : List Nat) (inverse : Bool) (s : Bool) (v : Dy) : SVal :=
  if s then invalid
  else
    let e := v.log2 - v.log2 % 2
    let u := v.scale (-e)
    let z := if u.lt ⟨2, 0⟩ then place (u.sub ⟨1, 0⟩) 22 else 64 * 65536 + place (u.sub ⟨2, 0⟩) 21
    .val ((quad rows z).scale (if inverse then -(e / 2) else e / 2)) false false

def ex2Of (s : Bool) (v : Dy) : SVal :=
  let x := if s then v.neg else v
  if !s && big v 128 then .code f32.infCode { of_ := true, nx := true }
  else if s && (⟨150, 0⟩ : Dy).lt v then .code 0 { uf := true, nx := true }
  else
    let n := x.toInt .rd
    .val ((quad ex2Rows (place (x.sub ⟨n, 0⟩) 23)).scale n) false false

def lg2Of (s : Bool) (v : Dy) : SVal :=
  if s then invalid
  else
    let e := v.log2
    .val ((⟨e, 0⟩ : Dy).add (quad lg2Rows (place ((v.scale (-e)).sub ⟨1, 0⟩) 23))) false (v.isInt 1)

/-- `sin` and `cos` of `|x|` with the sign that `sin` applies last. -/
def sinOf (cos : Bool) (s : Bool) (v : Dy) : SVal :=
  if big v (2 ^ 20) then invalid
  else if !cos && v.lt ⟨1, -11⟩ then .val (if s then v.neg else v) s false
  else
    let r : Dy := v.mul ⟨twoOverPi, -64⟩
    let n := r.toInt .rd
    let k := if cos then n + 1 else n
    let f := r.sub ⟨n, 0⟩
    let p := quad sinRows (place (if k % 2 = 0 then f else (⟨1, 0⟩ : Dy).sub f) 23)
    let neg := decide (2 ≤ k % 4) != (!cos && s)
    .val (if neg then p.neg else p) neg false

/-- The table value of `tanh`, `sigm` and `erf` for `|x|` from 2^−4: sixteen intervals per binade. -/
def binade (rows : List Nat) (v : Dy) : Dy :=
  let b := v.log2
  quad rows ((b + 4).toNat * 16 * 65536 + place ((v.scale (-b)).sub ⟨1, 0⟩) 20)

def small (v : Dy) : Bool := v.lt ⟨1, -4⟩

def tanhOf (s : Bool) (v : Dy) : SVal :=
  if big v 9 then .code (f32.sign s one32) {}
  else
    let p := if small v then overDen (series v [(15, 1), (-5, 3), (2, 5)]) 15 else binade tanhRows v
    .val (if s then p.neg else p) s false

/-- `sigm`; from −16 down its exact value is nonzero and its result +0 (R154, R156). -/
def sigmOf (s : Bool) (v : Dy) : SVal :=
  if big v 16 then (if s then .code 0 { uf := true, nx := true } else .code one32 {})
  else if small v then .val (overDen (series (if s then v.neg else v) [(240, 0), (120, 1), (-10, 3), (1, 5)]) 480) false false
  else
    let p := binade sigmRows v
    .val (if s then (⟨1, 0⟩ : Dy).sub p else p) false false

def erfOf (s : Bool) (v : Dy) : SVal :=
  if big v 4 then .code (f32.sign s one32) {}
  else
    let p := if small v then overDen ((series v [(210, 1), (-70, 3), (21, 5), (-5, 7)]).mul ⟨twoOverSqrtPi, -64⟩) 210 else binade erfRows v
    .val (if s then p.neg else p) s false

/-- Results of one function at −∞, −0, +0, +∞ (R154), and its values elsewhere. -/
structure Sfn where
  ninf : Nat × Exc
  nzero : Nat × Exc
  pzero : Nat × Exc
  pinf : Nat × Exc
  of_ : Bool → Dy → SVal

/-- One lane of a special function (R154, R156). -/
def Sfn.eval (g : Sfn) (fz : Bool) (a : W32) : Nat × Exc :=
  match f32.decFz fz a.toNat with
  | .nan sig => (f32.nan, { nv := sig })
  | .inf s => if s then g.ninf else g.pinf
  | .num s v =>
    if v.isZero then (if s then g.nzero else g.pzero)
    else match g.of_ s v.abs with
    | .code c e => (c, e)
    | .val r neg zero =>
      if r.isZero then (f32.sign neg 0, { uf := !zero, nx := !zero })
      else
        let (c, e) := f32.enc .rne fz r
        if e.of_ then (c, { of_ := true, nx := true })
        else
          let low := c % 2 ^ 31 < 2 ^ 23
          (c, { uf := low, nx := low })

def ninf32 : Nat := 0xFF800000
def nan32 : Nat × Exc := (f32.nan, { nv := true })
def sfRcp : Sfn := ⟨(0x80000000, {}), (ninf32, { dz := true }), (f32.infCode, { dz := true }), (0, {}), rcpOf⟩
def sfRsq : Sfn := ⟨nan32, (ninf32, { dz := true }), (f32.infCode, { dz := true }), (0, {}), rootOf rsqRows true⟩
def sfSqrt : Sfn := ⟨nan32, (0x80000000, {}), (0, {}), (f32.infCode, {}), rootOf sqrtRows false⟩
def sfEx2 : Sfn := ⟨(0, {}), (one32, {}), (one32, {}), (f32.infCode, {}), ex2Of⟩
def sfLg2 : Sfn := ⟨nan32, (ninf32, { dz := true }), (ninf32, { dz := true }), (f32.infCode, {}), lg2Of⟩
def sfSin : Sfn := ⟨nan32, (0x80000000, {}), (0, {}), nan32, sinOf false⟩
def sfCos : Sfn := ⟨nan32, (one32, {}), (one32, {}), nan32, sinOf true⟩
def sfTanh : Sfn := ⟨(0xBF800000, {}), (0x80000000, {}), (0, {}), (one32, {}), tanhOf⟩
def sfSigm : Sfn := ⟨(0, {}), (0x3F000000, {}), (0x3F000000, {}), (one32, {}), sigmOf⟩
def sfErf : Sfn := ⟨(0xBF800000, {}), (0x80000000, {}), (0, {}), (one32, {}), erfOf⟩

/-- A special function in the active lanes: a producer; a tagged A poisons its lane (R151). -/
def State.special (s : State) (i : Instr) (g : Sfn) : Out :=
  s.issueOnce i fun iss t =>
    let (a, ta) := iss.fa false
    let r := fun l : Fin 32 => g.eval iss.x.fz (a l)
    .next (iss.raise (iss.produceLane t iss.f.xd (fun l => BitVec.ofNat 32 (r l).1) ta) ta fun l => (r l).2)

def execRcp (f : Frame) (s : State) : Out := s.special (.rcp f) sfRcp
def execRsq (f : Frame) (s : State) : Out := s.special (.rsq f) sfRsq
def execSqrt (f : Frame) (s : State) : Out := s.special (.sqrt f) sfSqrt
def execEx2 (f : Frame) (s : State) : Out := s.special (.ex2 f) sfEx2
def execLg2 (f : Frame) (s : State) : Out := s.special (.lg2 f) sfLg2
def execSin (f : Frame) (s : State) : Out := s.special (.sin f) sfSin
def execCos (f : Frame) (s : State) : Out := s.special (.cos f) sfCos
def execTanh (f : Frame) (s : State) : Out := s.special (.tanh f) sfTanh
def execSigm (f : Frame) (s : State) : Out := s.special (.sigm f) sfSigm
def execErf (f : Frame) (s : State) : Out := s.special (.erf f) sfErf

end Sys2Proof.Machine
end

