-- ==== Sys2Proof/Machine/Dispatch.lean ====
section
/-! DEFINITION. One arm for each operation and event, each one call of its meaning. -/

namespace Sys2Proof.Machine

def exec (i : Instr) (s : State) : Host.Outcome State Fault Refusal :=
  match i with
  | .iadd f => Sys2Proof.Machine.execIadd f s
  | .isub f => Sys2Proof.Machine.execIsub f s
  | .iaddc f => Sys2Proof.Machine.execIaddc f s
  | .isubb f => Sys2Proof.Machine.execIsubb f s
  | .ineg f => Sys2Proof.Machine.execIneg f s
  | .iabs f => Sys2Proof.Machine.execIabs f s
  | .imin f => Sys2Proof.Machine.execImin f s
  | .imax f => Sys2Proof.Machine.execImax f s
  | .imul f => Sys2Proof.Machine.execImul f s
  | .imulhi f => Sys2Proof.Machine.execImulhi f s
  | .imad f => Sys2Proof.Machine.execImad f s
  | .imadw f => Sys2Proof.Machine.execImadw f s
  | .isad f => Sys2Proof.Machine.execIsad f s
  | .dot4 f => Sys2Proof.Machine.execDot4 f s
  | .dot8 f => Sys2Proof.Machine.execDot8 f s
  | .shl f => Sys2Proof.Machine.execShl f s
  | .shr f => Sys2Proof.Machine.execShr f s
  | .sar f => Sys2Proof.Machine.execSar f s
  | .shf f => Sys2Proof.Machine.execShf f s
  | .rot f => Sys2Proof.Machine.execRot f s
  | .and f => Sys2Proof.Machine.execAnd f s
  | .or f => Sys2Proof.Machine.execOr f s
  | .xor f => Sys2Proof.Machine.execXor f s
  | .lop3 f => Sys2Proof.Machine.execLop3 f s
  | .popc f => Sys2Proof.Machine.execPopc f s
  | .clz f => Sys2Proof.Machine.execClz f s
  | .ctz f => Sys2Proof.Machine.execCtz f s
  | .brev f => Sys2Proof.Machine.execBrev f s
  | .bfx f => Sys2Proof.Machine.execBfx f s
  | .bfi f => Sys2Proof.Machine.execBfi f s
  | .prmt f => Sys2Proof.Machine.execPrmt f s
  | .icmp f => Sys2Proof.Machine.execIcmp f s
  | .icmp64 f => Sys2Proof.Machine.execIcmp64 f s
  | .isel f => Sys2Proof.Machine.execIsel f s
  | .mov f => Sys2Proof.Machine.execMov f s
  | .movi f => Sys2Proof.Machine.execMovi f s
  | .lea f => Sys2Proof.Machine.execLea f s
  | .iadd64 f => Sys2Proof.Machine.execIadd64 f s
  | .sext f => Sys2Proof.Machine.execSext f s
  | .zext f => Sys2Proof.Machine.execZext f s
  | .clampi f => Sys2Proof.Machine.execClampi f s
  | .fadd f => Sys2Proof.Machine.execFadd f s
  | .fsub f => Sys2Proof.Machine.execFsub f s
  | .fmul f => Sys2Proof.Machine.execFmul f s
  | .fma f => Sys2Proof.Machine.execFma f s
  | .fmin f => Sys2Proof.Machine.execFmin f s
  | .fmax f => Sys2Proof.Machine.execFmax f s
  | .fcmp f => Sys2Proof.Machine.execFcmp f s
  | .frnd f => Sys2Proof.Machine.execFrnd f s
  | .fclass f => Sys2Proof.Machine.execFclass f s
  | .hadd2 f => Sys2Proof.Machine.execHadd2 f s
  | .hmul2 f => Sys2Proof.Machine.execHmul2 f s
  | .hfma2 f => Sys2Proof.Machine.execHfma2 f s
  | .hmnx2 f => Sys2Proof.Machine.execHmnx2 f s
  | .bfma2 f => Sys2Proof.Machine.execBfma2 f s
  | .cvt f => Sys2Proof.Machine.execCvt f s
  | .cvtsr f => Sys2Proof.Machine.execCvtsr f s
  | .cvtpk f => Sys2Proof.Machine.execCvtpk f s
  | .cvtmx f => Sys2Proof.Machine.execCvtmx f s
  | .bra f => Sys2Proof.Machine.execBra f s
  | .brx f => Sys2Proof.Machine.execBrx f s
  | .call f => Sys2Proof.Machine.execCall f s
  | .callx f => Sys2Proof.Machine.execCallx f s
  | .ret f => Sys2Proof.Machine.execRet f s
  | .exit f => Sys2Proof.Machine.execExit f s
  | .nop f => Sys2Proof.Machine.execNop f s
  | .yield f => Sys2Proof.Machine.execYield f s
  | .setprio f => Sys2Proof.Machine.execSetprio f s
  | .brk f => Sys2Proof.Machine.execBrk f s
  | .waitRegs f => Sys2Proof.Machine.execWaitRegs f s
  | .waitSt f => Sys2Proof.Machine.execWaitSt f s
  | .waitAll f => Sys2Proof.Machine.execWaitAll f s
  | .sleep f => Sys2Proof.Machine.execSleep f s
  | .waitaddr f => Sys2Proof.Machine.execWaitaddr f s
  | .pset f => Sys2Proof.Machine.execPset f s
  | .plop f => Sys2Proof.Machine.execPlop f s
  | .pmov f => Sys2Proof.Machine.execPmov f s
  | .shfl f => Sys2Proof.Machine.execShfl f s
  | .vote f => Sys2Proof.Machine.execVote f s
  | .redux f => Sys2Proof.Machine.execRedux f s
  | .scan f => Sys2Proof.Machine.execScan f s
  | .matchLanes f => Sys2Proof.Machine.execMatchLanes f s
  | .lanes f => Sys2Proof.Machine.execLanes f s
  | .rcp f => Sys2Proof.Machine.execRcp f s
  | .rsq f => Sys2Proof.Machine.execRsq f s
  | .sqrt f => Sys2Proof.Machine.execSqrt f s
  | .ex2 f => Sys2Proof.Machine.execEx2 f s
  | .lg2 f => Sys2Proof.Machine.execLg2 f s
  | .sin f => Sys2Proof.Machine.execSin f s
  | .cos f => Sys2Proof.Machine.execCos f s
  | .tanh f => Sys2Proof.Machine.execTanh f s
  | .sigm f => Sys2Proof.Machine.execSigm f s
  | .erf f => Sys2Proof.Machine.execErf f s
  | .syscall f => Sys2Proof.Machine.execSyscall f s
  | .tmsetRel f => Sys2Proof.Machine.execTmsetRel f s
  | .tmsetAbs f => Sys2Proof.Machine.execTmsetAbs f s
  | .tmsetOff f => Sys2Proof.Machine.execTmsetOff f s
  | .trapret f => Sys2Proof.Machine.execTrapret f s
  | .oplogRetry f => Sys2Proof.Machine.execOplogRetry f s
  | .oplogKill f => Sys2Proof.Machine.execOplogKill f s
  | .psnclr f => Sys2Proof.Machine.execPsnclr f s
  | .psnclrReg f => Sys2Proof.Machine.execPsnclrReg f s
  | .getsr f => Sys2Proof.Machine.execGetsr f s
  | .setsr f => Sys2Proof.Machine.execSetsr f s
  | .tlbinvWrite f => Sys2Proof.Machine.execTlbinvWrite f s
  | .fltresRetry die id => Sys2Proof.Machine.execFltresRetry die id s
  | .fltresGiveup die id => Sys2Proof.Machine.execFltresGiveup die id s
  | .errinjWrite f => Sys2Proof.Machine.execErrinjWrite f s
  | .nodeqSt f => Sys2Proof.Machine.execNodeqSt f s
  | .nodeqMap f => Sys2Proof.Machine.execNodeqMap f s
  | .ldl f => Sys2Proof.Machine.execLdl f s
  | .stl f => Sys2Proof.Machine.execStl f s
  | .lds f => Sys2Proof.Machine.execLds f s
  | .sts f => Sys2Proof.Machine.execSts f s
  | .ldp f => Sys2Proof.Machine.execLdp f s
  | .ldc f => Sys2Proof.Machine.execLdc f s
  | .stc f => Sys2Proof.Machine.execStc f s
  | .ldo f => Sys2Proof.Machine.execLdo f s
  | .sto f => Sys2Proof.Machine.execSto f s
  | .ldg f => Sys2Proof.Machine.execLdg f s
  | .stg f => Sys2Proof.Machine.execStg f s
  | .prfg f => Sys2Proof.Machine.execPrfg f s
  | .ldh f => Sys2Proof.Machine.execLdh f s
  | .sth f => Sys2Proof.Machine.execSth f s
  | .fenceAr f => Sys2Proof.Machine.execFenceAr f s
  | .fenceAcq f => Sys2Proof.Machine.execFenceAcq f s
  | .fenceRel f => Sys2Proof.Machine.execFenceRel f s
  | .fencePath f => Sys2Proof.Machine.execFencePath f s
  | .migw f => Sys2Proof.Machine.execMigw f s
  | .atoms f => Sys2Proof.Machine.execAtoms f s
  | .atomc f => Sys2Proof.Machine.execAtomc f s
  | .atomo f => Sys2Proof.Machine.execAtomo f s
  | .atomg f => Sys2Proof.Machine.execAtomg f s
  | .redg f => Sys2Proof.Machine.execRedg f s
  | .redgDet f => Sys2Proof.Machine.execRedgDet f s
  | .atomh f => Sys2Proof.Machine.execAtomh f s
  | .detcommit f => Sys2Proof.Machine.execDetcommit f s
  | .cpy f => Sys2Proof.Machine.execCpy f s
  | .cpyt f => Sys2Proof.Machine.execCpyt f s
  | .cpym f => Sys2Proof.Machine.execCpym f s
  | .cpyr f => Sys2Proof.Machine.execCpyr f s
  | .cpyq f => Sys2Proof.Machine.execCpyq f s
  | .cpyx f => Sys2Proof.Machine.execCpyx f s
  | .mzero f => Sys2Proof.Machine.execMzero f s
  | .mma f => Sys2Proof.Machine.execMma f s
  | .madd f => Sys2Proof.Machine.execMadd f s
  | .mcopy f => Sys2Proof.Machine.execMcopy f s
  | .mscl f => Sys2Proof.Machine.execMscl f s
  | .mdrainS f => Sys2Proof.Machine.execMdrainS f s
  | .mdrainR f => Sys2Proof.Machine.execMdrainR f s
  | .mfill f => Sys2Proof.Machine.execMfill f s
  | .mspill f => Sys2Proof.Machine.execMspill f s
  | .mchk f => Sys2Proof.Machine.execMchk f s
  | .mchkFix f => Sys2Proof.Machine.execMchkFix f s
  | .mfenceAll f => Sys2Proof.Machine.execMfenceAll f s
  | .mfenceRd f => Sys2Proof.Machine.execMfenceRd f s
  | .mstat f => Sys2Proof.Machine.execMstat f s
  | .barsync f => Sys2Proof.Machine.execBarsync f s
  | .bararr f => Sys2Proof.Machine.execBararr f s
  | .barwait f => Sys2Proof.Machine.execBarwait f s
  | .rwaitE f => Sys2Proof.Machine.execRwaitE f s
  | .rwaitF f => Sys2Proof.Machine.execRwaitF f s
  | .rput f => Sys2Proof.Machine.execRput f s
  | .rget f => Sys2Proof.Machine.execRget f s
  | .rfree f => Sys2Proof.Machine.execRfree f s
  | .rfreeInit f => Sys2Proof.Machine.execRfreeInit f s
  | .spawn f => Sys2Proof.Machine.execSpawn f s
  | .spawnx f => Sys2Proof.Machine.execSpawnx f s
  | .launch f => Sys2Proof.Machine.execLaunch f s
  | .scnew f => Sys2Proof.Machine.execScnew f s
  | .cancel f => Sys2Proof.Machine.execCancel f s
  | .cancelEnd f => Sys2Proof.Machine.execCancelEnd f s
  | .cchk f => Sys2Proof.Machine.execCchk f s
  | .cchkT f => Sys2Proof.Machine.execCchkT f s
  | .preempt f => Sys2Proof.Machine.execPreempt f s
  | .pmig f => Sys2Proof.Machine.execPmig f s
  | .pstat f => Sys2Proof.Machine.execPstat f s
  | .phot f => Sys2Proof.Machine.execPhot f s
  | .pabort f => Sys2Proof.Machine.execPabort f s
  | .issueArbitration core q => Sys2Proof.Machine.execIssueArbitration core q s
  | .ageingRaise w => Sys2Proof.Machine.execAgeingRaise w s
  | .producerResult w k => Sys2Proof.Machine.execProducerResult w k s
  | .registerSpill core q lanePool => Sys2Proof.Machine.execRegisterSpill core q lanePool s
  | .registerRefill w r => Sys2Proof.Machine.execRegisterRefill w r s
  | .frontierMove w => Sys2Proof.Machine.execFrontierMove w s
  | .icacheFill core line => Sys2Proof.Machine.execIcacheFill core line s
  | .boundaryTrap w => Sys2Proof.Machine.execBoundaryTrap w s
  | .timer w => Sys2Proof.Machine.execTimer w s
  | .exceptionReply w => Sys2Proof.Machine.execExceptionReply w s
  | .fifthFaultRetry w => Sys2Proof.Machine.execFifthFaultRetry w s
  | .replay w e => Sys2Proof.Machine.execReplay w e s
  | .syscallReply w => Sys2Proof.Machine.execSyscallReply w s
  | .callRingNotice k => Sys2Proof.Machine.execCallRingNotice k s
  | .redirection k => Sys2Proof.Machine.execRedirection k s
  | .waitaddrEvaluation w => Sys2Proof.Machine.execWaitaddrEvaluation w s
  | .waitaddrDeadline w => Sys2Proof.Machine.execWaitaddrDeadline w s
  | .waitaddrPeriodic w => Sys2Proof.Machine.execWaitaddrPeriodic w s
  | .sleepExpiry w => Sys2Proof.Machine.execSleepExpiry w s
  | .fenceComplete w => Sys2Proof.Machine.execFenceComplete w s
  | .migwArrival k => Sys2Proof.Machine.execMigwArrival k s
  | .writeBufferDrain core => Sys2Proof.Machine.execWriteBufferDrain core s
  | .commandStart core store => Sys2Proof.Machine.execCommandStart core store s
  | .burstTranslation core store => Sys2Proof.Machine.execBurstTranslation core store s
  | .burstComplete core store k => Sys2Proof.Machine.execBurstComplete core store k s
  | .commandRelease core store k => Sys2Proof.Machine.execCommandRelease core store k s
  | .mmaEstimate core q ix => Sys2Proof.Machine.execMmaEstimate core q ix s
  | .matrixQueueStart core q => Sys2Proof.Machine.execMatrixQueueStart core q s
  | .matrixComplete core q => Sys2Proof.Machine.execMatrixComplete core q s
  | .pairPhaseMessage cluster g => Sys2Proof.Machine.execPairPhaseMessage cluster g s
  | .ringUpdate cluster k => Sys2Proof.Machine.execRingUpdate cluster k s
  | .detUpdateArrival k => Sys2Proof.Machine.execDetUpdateArrival k s
  | .windowFold cluster g => Sys2Proof.Machine.execWindowFold cluster g s
  | .homeAccess k => Sys2Proof.Machine.execHomeAccess k s
  | .hotnessHalving => Sys2Proof.Machine.execHotnessHalving s
  | .remoteScopeFlush core => Sys2Proof.Machine.execRemoteScopeFlush core s
  | .hostCompletion k ok => Sys2Proof.Machine.execHostCompletion k ok s
  | .pageWalk core asid va => Sys2Proof.Machine.execPageWalk core asid va s
  | .lineCopy die slot => Sys2Proof.Machine.execLineCopy die slot s
  | .lineFlip die slot line => Sys2Proof.Machine.execLineFlip die slot line s
  | .lineCopyBack die slot => Sys2Proof.Machine.execLineCopyBack die slot s
  | .migrationRingRoom die slot => Sys2Proof.Machine.execMigrationRingRoom die slot s
  | .launchDeposit p r => Sys2Proof.Machine.execLaunchDeposit p r s
  | .launchValidation p => Sys2Proof.Machine.execLaunchValidation p s
  | .launchPlacement p cls => Sys2Proof.Machine.execLaunchPlacement p cls s
  | .ensembleEnd e => Sys2Proof.Machine.execEnsembleEnd e s
  | .taskDispatch die => Sys2Proof.Machine.execTaskDispatch die s
  | .markingArrival die scope => Sys2Proof.Machine.execMarkingArrival die scope s
  | .killPoint w => Sys2Proof.Machine.execKillPoint w s
  | .preemptionSave k => Sys2Proof.Machine.execPreemptionSave k s
  | .restore k at_ => Sys2Proof.Machine.execRestore k at_ s
  | .timeSliceExpiry p die => Sys2Proof.Machine.execTimeSliceExpiry p die s
  | .pcreate => Sys2Proof.Machine.execPcreate s
  | .pdestroy => Sys2Proof.Machine.execPdestroy s
  | .grant => Sys2Proof.Machine.execGrant s
  | .slice => Sys2Proof.Machine.execSlice s
  | .setrt => Sys2Proof.Machine.execSetrt s
  | .dierst => Sys2Proof.Machine.execDierst s
  | .wreg => Sys2Proof.Machine.execWreg s
  | .rreg => Sys2Proof.Machine.execRreg s
  | .memmap => Sys2Proof.Machine.execMemmap s
  | .warmResetRefusal die => Sys2Proof.Machine.execWarmResetRefusal die s
  | .dieWriteBack die => Sys2Proof.Machine.execDieWriteBack die s
  | .dieRetraining die => Sys2Proof.Machine.execDieRetraining die s
  | .dieReadmission die => Sys2Proof.Machine.execDieReadmission die s
  | .coldReset ok => Sys2Proof.Machine.execColdReset ok s
  | .functionLevelReset => Sys2Proof.Machine.execFunctionLevelReset s
  | .linkTraining die link port state => Sys2Proof.Machine.execLinkTraining die link port state s
  | .getVersion => Sys2Proof.Machine.execGetVersion s
  | .getCapabilities => Sys2Proof.Machine.execGetCapabilities s
  | .negotiateAlgorithms => Sys2Proof.Machine.execNegotiateAlgorithms s
  | .getDigests => Sys2Proof.Machine.execGetDigests s
  | .getCertificate => Sys2Proof.Machine.execGetCertificate s
  | .challenge => Sys2Proof.Machine.execChallenge s
  | .getMeasurements => Sys2Proof.Machine.execGetMeasurements s
  | .keyExchange => Sys2Proof.Machine.execKeyExchange s
  | .finish ok => Sys2Proof.Machine.execFinish ok s
  | .keySlotLoad slot procs => Sys2Proof.Machine.execKeySlotLoad slot procs s
  | .keySlotUnload slot => Sys2Proof.Machine.execKeySlotUnload slot s
  | .cxlPortDown die lost => Sys2Proof.Machine.execCxlPortDown die lost s
  | .memoryOutOfService tier base size => Sys2Proof.Machine.execMemoryOutOfService tier base size s
  | .hbmLaneRepair channel => Sys2Proof.Machine.execHbmLaneRepair channel s
  | .leneoLaneRepair die port => Sys2Proof.Machine.execLeneoLaneRepair die port s
  | .guardBandSample core margin worn => Sys2Proof.Machine.execGuardBandSample core margin worn s
  | .chmapChange core => Sys2Proof.Machine.execChmapChange core s
  | .powerBudgetAdjust die pwr => Sys2Proof.Machine.execPowerBudgetAdjust die pwr s
  | .remoteRequest r => Sys2Proof.Machine.execRemoteRequest r s
  | .nodeUnreachable k => Sys2Proof.Machine.execNodeUnreachable k s
  | .cxlPortRetrain die => Sys2Proof.Machine.execCxlPortRetrain die s
  | .linkStateChange die link port state => Sys2Proof.Machine.execLinkStateChange die link port state s
  | .warmModuleReset => Sys2Proof.Machine.execWarmModuleReset s
  | .hostAccess a => Sys2Proof.Machine.execHostAccess a s
  | .doorbell seq => Sys2Proof.Machine.execDoorbell seq s
  | .remoteFaultResolution k giveup => Sys2Proof.Machine.execRemoteFaultResolution k giveup s

end Sys2Proof.Machine
end

