-- ==== Sys2Proof/Machine/Next.lean ====
section
/-! DEFINITION. What the machine does next: the inputs of the agenda, the turn of the current warp, the events that may occur, and the passing of time.
An order in which enabled events occur is the model's own choice (log entry 19): the agenda can bring any of them at any time. -/

namespace Sys2Proof.Machine

/-- The next action: an operation or event to execute in a state, or a state already reached. -/
inductive Next where
  | run (i : Instr) (s : State)
  | state (s : State)

/-! ## The turn of a warp (R184, R185) -/

/-- The head instruction of a warp that holds its issue slot, after the decode checks (R67). -/
def State.issueHead (s : State) (w : Nat) : Next :=
  match s.warp? w with
  | none => .state s
  | some x =>
    match x.hw with
    | [] => .state s
    | e :: _ =>
      match s.fetch w x e.pc with
      | .ok i => .run i (s.cacheCode w x e.pc)
      | .trap code info => .state (s.takeTrap w code info e.pc)
      | .pad => .state (s.setWarp w (x.replaceHead [{ e with pc := s.land w x e.pc }]))
      | .fault c => .state (s.fetchFault w x e.pc e.pc c)

/-- The matrix queue of a warp's quadrant has room (R278). -/
def State.mxRoom (s : State) (w : Nat) : Bool :=
  (((s.core (coreOf w)).mxq.toList.getD (quadOf w) []).filter fun m => !m.started).length < 8

/-- What comes before the issue of a head that takes no precise trap (R184): a halt, a kill point, the timer, a boundary trap, a save. -/
def State.beforeIssue (s : State) (w : Nat) (x : Warp) : Option Next :=
  if x.marks.halted && x.run == 0 then some (.state (s.freeSlot w))
  else if s.atKillPoint w x then some (.run (.killPoint w) s)
  else if s.timerDue x then some (.run (.timer w) s)
  else if x.dueTrap.isSome && s.atBoundary w x then some (.run (.boundaryTrap w) s)
  else if x.marks.save && x.run == 0 then some (.state (s.freeSlot w))
  else none

/-- What a warp does where it holds its slot and does not wait. A wait for a matrix queue ends when the queue has room. -/
def State.turnOf (s : State) (w : Nat) : Option Next :=
  match s.warp? w with
  | none => none
  | some x =>
    if !s.holdsSlot w || x.marks.ended then none
    else match x.wait with
      | none => some (if x.moveDue then .run (.frontierMove w) s else (s.beforeIssue w x).getD (s.issueHead w))
      | some .mxFull => if s.mxRoom w then some (.state (s.setWarp w { x with wait := none })) else none
      | some _ => none

/-! ## Time -/

/-- The start of a clk: priorities follow `PRIO` and the age (R45, R188), and a warp that waits in arbitration while another holds its quadrant's slot
ages (R187). -/
def State.beginClk (s : State) : State :=
  { s with warps := s.warps.map fun (p : Nat × Warp) =>
      let h := ((s.core (coreOf p.1)).quads.toList.getD (quadOf p.1) {}).holder
      let x := { p.2 with aprio := p.2.prio }
      let x := { x with eprio := x.effective }
      (p.1, if h.isSome && h != some p.1 && s.eligible p.1 p.2 then { x with age := x.age + 1 } else x) }

/-- The watches whose deadline is the clk that ends (R136, R137). -/
def State.dueWatches (s : State) : List Nat :=
  (s.warps.filter fun (p : Nat × Warp) => match p.2.wait with
    | some (.watch q) => q.deadline == some s.clock && !s.interrupted p.1 p.2
    | _ => false).map fun p => p.1

/-- The end of a clk: the matrix arrays, the checks that follow all events of the clk (R315, R326), watches at their deadline, what homes have still to see to, and
hotness (R405). -/
def State.endClk (s : State) : State :=
  let s := ((s.cores.keys.foldl State.tickCore s).checkDue).endRingWaits
  let s := (s.dueWatches.foldl State.evalWatch s).homeWork
  ({ s with clock := s.clock + 1, ports := [] } : State).halve

/-- One clk in which the current warp does not issue. -/
def State.tick (s : State) : State := s.beginClk.endClk

def State.ticks : Nat → State → State
  | 0, s => s
  | n + 1, s => State.ticks n s.tick

/-! ## Inputs -/

/-- What an input does, other than an event. -/
def State.input (s : State) : Input → State
  | .clk n => s.ticks n
  | .focus w => { s with cur := w }
  | .event _ => s
  | .badLane w n lane => s.modWarp w fun x => match x.x.get? n with
    | some r => { x with x := x.x.set n { r with bad := r.bad ||| (1#32 <<< lane) } }
    | none => x
  | .badUniform w n => s.modWarp w fun x => match x.k.get? n with
    | some r => { x with k := x.k.set n { r with bad := true } }
    | none => x
  | .badWord key => s.breakWords [key / 8]
  | .badAcc core slot word =>
    if word < 5120 then s.setSlot core slot { s.slot core slot with erased := setInsert (s.slot core slot).erased word } else s
  | .evictL1 core => s.modCore core fun c => { c with l1 := [] }
  | .evictTlb core => s.modCore core fun c => { c with tlb := [] }
  | .halt w on => s.modWarp w fun x =>
    { x with marks := { x.marks with halted := on },
             wait := if on && (x.wait.map Wait.suspended).getD false then none else x.wait,
             fifth := if on then x.dropWatch.fifth else x.fifth }
  | .route n entry => { s with routes := match entry with
    | some p => if n < 768 * 1024 then s.routes.set n p else s.routes
    | none => s.routes.erase n }
  | .clearContain core =>
    (s.modCore core fun c => { c with contain := ({} : Core).contain }).modCluster (clusterOf core) fun c =>
      { c with ccont := putBits c.ccont (8 * (core % 4)) 4 0 }
  | .retirePair die slice => if s.mayRetire die slice then (s.modWear fun w => { w with slices := w.slices ++ [(die, slice / 2 * 2), (die, slice / 2 * 2 + 1)] }).raise 0 else s

/-! ## Events that may occur -/

/-- Events of warps. -/
def State.warpEvents (s : State) : List Instr :=
  s.warps.flatMap fun (w, x) =>
    (if x.eprio != x.effective then [.ageingRaise w] else []) ++
    (if s.timerDue x then [.timer w] else []) ++
    (if s.atKillPoint w x then [.killPoint w] else []) ++
    (if x.dueTrap.isSome then [.boundaryTrap w] else []) ++
    x.results.map (fun r => .producerResult w r.id) ++
    (if x.moveDue then [.frontierMove w] else []) ++
    (if x.fifth.isSome then [.fifthFaultRetry w] else []) ++
    (x.log.filter fun e => e.2.state == .queued).map (fun e => .replay w e.1) ++
    (if x.call.call.isSome then [.syscallReply w] else []) ++
    (if x.call.report.isSome then [.exceptionReply w] else []) ++
    (match x.wait with
     | some (.fence ..) => [.fenceComplete w]
     | some (.sleep _) => [.sleepExpiry w]
     | some (.refill r) => [.registerRefill w r, .registerSpill (coreOf w) (quadOf w) (isLaneReg r)]
     | some (.binding b _) => [.registerSpill (coreOf w) (quadOf w) b]
     | some (.flush cs _ _) => cs.map .remoteScopeFlush
     | _ => []) ++
    (match if x.marks.ended then none else s.missingLine w x with
     | some l => [.icacheFill (coreOf w) l]
     | none => [])

/-- The evaluations of watches: they come after the writes of a clk, so that a condition that becomes true in the clk of the deadline counts (R137). -/
def State.watchEvents (s : State) : List Instr :=
  s.warps.flatMap fun (w, x) => match x.wait with
    | some (.watch q) => if q.lastEval = s.clock then [] else [.waitaddrEvaluation w, .waitaddrDeadline w, .waitaddrPeriodic w]
    | _ => []

/-- Events of accesses, moves, notices and requests. -/
def State.flightEvents (s : State) : List Instr :=
  s.flights.map (fun a => match a.space, a.op with
    | .host, _ => .hostCompletion a.id true
    | _, .det .. => .detUpdateArrival a.id
    | _, _ => .homeAccess a.id) ++
  s.flights.map (fun a => .nodeUnreachable a.id) ++ s.transit.map (fun t => .migwArrival t.id) ++
  (List.range s.notices.length).flatMap fun k => [.callRingNotice k, .redirection k]

/-- Events of cores: copies, matrix queues, write buffers, channel maps. -/
def State.coreEvents (s : State) : List Instr :=
  s.cores.flatMap fun (c, x) =>
    ([false, true].flatMap fun store =>
      let q := s.queue c store
      if q.isEmpty then []
      else [.commandStart c store, .burstTranslation c store] ++ (List.range (flyingBursts q).length).map (.burstComplete c store) ++
        (List.range q.length).map (.commandRelease c store)) ++
    ((List.range 4).flatMap fun q =>
      let l := x.mxq.toList.getD q []
      if l.isEmpty then []
      else (List.range l.length).map (.mmaEstimate c q) ++ [.matrixQueueStart c q, .matrixComplete c q]) ++
    (if x.wbuf.isEmpty && x.csbuf.isEmpty then [] else [.writeBufferDrain c]) ++ (if x.chmapNext.isSome then [.chmapChange c] else [])

/-- Events of clusters. -/
def State.clusterEvents (s : State) : List Instr :=
  s.clusters.flatMap fun (c, x) =>
    (List.range x.msgs.length).map (.ringUpdate c) ++ x.gangs.flatMap fun g => [.pairPhaseMessage c g.num, .windowFold c g.num]

/-- Events of dies: migration, and the steps of a warm reset. -/
def State.dieEvents (s : State) : List Instr :=
  s.dies.flatMap (fun (d, x) =>
    x.slots.flatMap fun (n, m) =>
      [.lineCopy d n] ++ m.locked.map (.lineFlip d n) ++ [.lineCopyBack d n, .migrationRingRoom d n]) ++
  (List.range 4).flatMap (fun d => match s.dieState d with
    | 1 => [.dieWriteBack d, .warmResetRefusal d]
    | 2 => [.dieWriteBack d]
    | 3 => [.dieRetraining d]
    | 4 => [.dieReadmission d]
    | 5 => [.dieReadmission d]
    | _ => []) ++
  (if s.halvings < s.clock / 2 ^ 20 && !s.hotness.isEmpty then [.hotnessHalving] else [])

/-- The mailbox command that is running. -/
def State.commandEvent (s : State) : List Instr :=
  match s.pkg.command with
  | none => []
  | some (o, _, _) => match o with
    | 1 => [.pcreate] | 2 => [.pdestroy] | 3 => [.grant] | 4 => [.slice] | 5 => [.setrt] | 6 => [.dierst] | 7 => [.wreg] | 8 => [.rreg] | 9 => [.memmap]
    | _ => []

/-- Events of the control plane. -/
def State.controlEvents (s : State) : List Instr :=
  s.scopes.flatMap (fun (n, c) => if c.state == .live then [] else ((List.range 4).filter fun d => !c.seen.contains d).map fun d => .markingArrival d n) ++
  s.commandEvent ++
  s.procs.flatMap (fun (p, q) =>
    (if q.queue.isEmpty then [] else [.launchValidation p]) ++
    ((List.range 8).reverse.filter fun c => (q.firstOf c).isSome).map (.launchPlacement p) ++
    ((List.range 4).filter fun d => (q.tslice.toList.getD d 0).getLsbD 63).map (.timeSliceExpiry p)) ++
  s.saving.map (fun v => .preemptionSave v.id) ++
  s.saved.flatMap (fun c =>
    if c.task then (List.range 384).map fun k => .restore c.id [k] else (placeUnits (c.clusters.length == 2)).map fun u => .restore c.id u) ++
  (s.dies.filter fun d => !d.2.pools.isEmpty).map (fun d => .taskDispatch d.1) ++
  (s.ensembles.filter fun e => e.2.live = 0).map fun e => .ensembleEnd e.1

/-- What goes on without an event of its own: waits that end (R133, R137), runs whose fetch faults (R190), poison that waits for an entry of a pool (R35), writes
to call slots that accesses held back (R181), records that a full fault queue held (R396), and requests of other nodes that nothing holds back any more (R507). -/
def State.silent (s : State) : List State :=
  s.warps.filterMap (fun (w, x) =>
    let ends := fun (v : Nat) => if s.waitOver w x v && !s.interrupted w x then some (s.finishWait w) else none
    match x.wait with
    | some .waitRegs => ends 0
    | some .waitSt => ends 1
    | some .waitAll => ends 2
    | _ => none) ++
  s.warps.map (fun p => s.fetchAhead p.1 p.2) ++
  s.warps.flatMap (fun p => (p.2.log.filter fun e => e.2.state == .pending && e.2.code == 4 && !e.2.remote).map fun e => s.setEntry e.1 e.2.acc 4 0 false) ++
  (s.warps.filter fun p => p.2.marks.ended || !p.2.call.posts.isEmpty).map (fun p => s.reap p.1) ++ s.dies.map (fun d => s.takeOwed d.1) ++
  s.dies.map (fun d => s.flushFaults d.1) ++ (s.incoming.filter fun k => s.incomingReady k.1).map fun k => s.serveIncoming k.1

/-- The first of a list after a number, or the first of all. -/
def after (k : Nat) (l : List Nat) : Option Nat := (l.find? fun n => k < n).orElse fun _ => l.head?

/-- Another warp whose turn it can be. -/
def State.nextHolder (s : State) : Option Nat := after s.cur (s.warps.keys.filter fun w => w != s.cur && (s.turnOf w).isSome)

/-- The quadrants in which a warp may win the slot, by number. -/
def State.openQuads (s : State) : List Nat :=
  ((s.warps.map fun p => p.1 / 16).eraseDups).filter fun k =>
    (((s.core (k / 4)).quads.toList.getD (k % 4) {}).holder).isNone && !(s.contenders (k / 4) (k % 4)).isEmpty

end Sys2Proof.Machine
end

