-- ==== Sys2Proof/Machine/Precise.lean ====
section
/-! DEFINITION. Precise traps come first: a precise trap of the head instruction before a halt, a kill point and boundary traps of the same clk (R184). -/

namespace Sys2Proof.Machine

/-- A breakpoint traps after its instruction (R132, R159). -/
def isBreakpoint : Instr → Bool
  | .brk _ => true
  | _ => false

/-- A trap has been entered or reported between two states of a warp. -/
def Warp.trapped (x y : Warp) : Bool := (y.trap.act && !x.trap.act) || (y.call.report.isSome && x.call.report.isNone)

/-- The head instruction of a warp, issued now, takes a precise trap. -/
def State.headTraps (s : State) (w : Nat) (x : Warp) : Bool :=
  match x.hw with
  | [] => false
  | e :: _ => match s.fetch w x e.pc with
    | .trap .. => true
    | .ok i => !isBreakpoint i && (match exec i { s with cur := w } with
      | .next t => (t.warp? w).elim false x.trapped
      | _ => false)
    | _ => false

/-- A precise trap of its head comes before a halt, a kill point or a boundary trap of a warp that is about to issue (R184). -/
def State.trapsFirst (s : State) (w : Nat) : Bool :=
  match s.warp? w with
  | some x => x.wait.isNone && !x.moveDue && s.holdsSlot w && s.headTraps w x
  | none => false

/-- The turn of a warp, precise traps first. -/
def State.turn (s : State) (w : Nat) : Option Next :=
  match s.warp? w, s.turnOf w with
  | some x, some n => some (if x.wait.isNone && !x.moveDue && (s.beforeIssue w x).isSome && s.headTraps w x then s.issueHead w else n)
  | _, n => n

/-- A trap of a warp that a save stops comes before the save (R184). -/
def State.trapBefore (s : State) (w : Nat) : Bool :=
  s.trapsFirst w || match s.warp? w with
    | some x => !x.marks.stopped && x.dueTrap.isSome && s.atBoundary w x
    | none => false

/-- The warps that a save takes. -/
def State.savingWarps (s : State) (v : Saving) : List Nat :=
  match v.ensemble with
  | some e => (s.instanceWarps e v.clusters).keys
  | none => v.warps

/-- An event that may not come yet in a clk: a precise trap comes before a kill point, that before a boundary trap, and all of them before a save (R184). -/
def State.barred (s : State) (i : Instr) : Bool :=
  match i with
  | .killPoint w => s.trapsFirst w
  | .boundaryTrap w => s.trapsFirst w || (s.warp? w).any (s.atKillPoint w)
  | .preemptionSave k => (s.saving.find? fun v => v.id == k).any fun v => (s.savingWarps v).any s.trapBefore
  | _ => false

end Sys2Proof.Machine
end

