-- ==== Sys2Proof/Machine/Step.lean ====
section
/-! DEFINITION. One step of the machine, and the state in which it fetches a given instruction. -/

namespace Sys2Proof.Machine

/-- The state after the first of a list of events that changes anything. -/
def State.firstChange (s : State) (is : List Instr) : Option State :=
  is.findSome? fun i => if s.barred i then none else match exec i s with
    | .next t => if t = s then none else some t
    | _ => none

/-- The state after an event that is enabled. -/
def State.someEvent (s : State) : Option State :=
  (s.firstChange s.warpEvents).orElse fun _ => (s.firstChange s.flightEvents).orElse fun _ => (s.firstChange s.coreEvents).orElse fun _ =>
    (s.firstChange s.clusterEvents).orElse fun _ => (s.firstChange s.dieEvents).orElse fun _ => (s.firstChange s.controlEvents).orElse fun _ =>
      (s.silent.find? fun t => t ≠ s).orElse fun _ => s.firstChange s.watchEvents

/-- What happens while the current warp cannot issue: an event, the turn of another warp, an arbitration (R185), or a clk. -/
def State.progress (s : State) : State :=
  match s.someEvent with
  | some t => t
  | none => match s.nextHolder with
    | some w => { s with cur := w }
    | none => match after (s.cur / 16) s.openQuads with
      | some k => (match exec (.issueArbitration (k / 4) (k % 4)) s with
        | .next t => t
        | _ => s.tick)
      | none => s.tick

/-- An event: an operation without an encoding. -/
def isEvent (i : Instr) : Bool := i.frame?.isNone

/-- An issued instruction takes a clk (R185). -/
def issueClk (i : Instr) (o : Out) : Out :=
  match o with
  | .next t => if isEvent i then .next t else .next t.endClk
  | r => r

/-- The state in which an action is executed: an instruction issues in a clk of its own (R187, R188). -/
def clkOf (i : Instr) (s : State) : State := if isEvent i then s else s.beginClk

/-- One step: the first input of the agenda; otherwise the current warp issues; otherwise the machine goes on by itself. -/
def step (s : State) : Host.Outcome State Fault Refusal :=
  match s.agenda with
  | .event i :: r => if isEvent i && !s.barred i then exec i { s with agenda := r } else .next { s with agenda := r }
  | a :: r => .next (State.input { s with agenda := r } a)
  | [] => match s.turn s.cur with
    | some (.run i t) => issueClk i (exec i (clkOf i t))
    | some (.state t) => .next t
    | none => .next s.progress

/-! ## The instruction that step fetches -/

/-- A table entry of the next level, and the leaf of a 4 KiB page that permits everything, at frames of tier 0 (R391). -/
def tableEntry (frame : Nat) : Nat := 2 ^ 63 + 7 * 2 ^ 58 + frame * 2 ^ 12
def leafEntry (frame : Nat) : Nat := 2 ^ 63 + frame * 2 ^ 12 + 0xE00

/-- The role in which the checks of R67 let an instruction issue: the first that does, with `MXCTL.UNCHK` set. -/
def roleFor (nbits w : Nat) : Nat :=
  let x := fun (role : Nat) => ({ owner := { proc := 0, ensemble := none, priv := true }, role := role, prio := 8, eprio := 8, lregs := 255, uregs := 1024,
                                  hw := [], mx := { unchk := true } } : Warp)
  let word := fun (i : Nat) => BitVec.ofNat 32 (w % 2 ^ nbits / 2 ^ (32 * i))
  ((List.range 3).find? fun r => match checkWords 0 (x r) (word 0) (word 1) (word 2) (word 3) with
    | .ok _ => true
    | _ => false).getD 0

/-- `s` with an instruction at address 0 of process 0, whose tables map that page, and a privileged warp of that process at that address that holds its
issue slot, in slot 0 of core 0 (log entry 20). -/
def State.withFetchWord (s : State) (nbits w : Nat) : State :=
  let x : Warp := { owner := { proc := 0, ensemble := none, task := true, priv := true }, role := roleFor nbits w, prio := 8, aprio := 8, eprio := 8, lregs := 255,
                    uregs := 1024, hw := [{ prio := 8, pc := 0, mask := allLanes }], mx := { unchk := true } }
  let p : Proc := { priv := true, ptbase := BitVec.ofNat 64 (1 * 2 ^ 12) }
  let t := (s.writeNat (1 * 4096) 8 (tableEntry 2)).writeNat (2 * 4096) 8 (tableEntry 3)
  let t := (t.writeNat (3 * 4096) 8 (tableEntry 4)).writeNat (4 * 4096) 8 (tableEntry 5)
  let t := (t.writeNat (5 * 4096) 8 (leafEntry 6)).writeNat (6 * 4096) 16 (w % 2 ^ nbits)
  let t := t.modCore 0 fun c => { c with quads := c.quads.set 0 { holder := some 0 }, tlb := [], icache := [] }
  let t := t.modCluster 0 fun c => { c with tlb := [] }
  { t with warps := t.warps.set 0 x, procs := t.procs.set 0 p, agenda := [], cur := 0, uses := [], ports := [], pkg := { t.pkg with diest := 0, outOfService := [] },
           dies := t.dies.map fun (d : Nat × Die) => (d.1, { d.2 with slots := [], walks := [], quiesceSince := 0 }) }

end Sys2Proof.Machine
end

