-- ==== Sys2Proof/Safety.lean ====
section
/-! DEFINITION. The terms in which statements speak of an issued instruction: when it is ready, what it changes, and what its destination then holds. -/

namespace Sys2Proof.Machine

/-- A step that answers a next state. -/
def Goes : Host.Outcome State Fault Refusal → Bool
  | .next _ => true
  | _ => false

/-- The warp whose turn it is holds a head entry and is ready to issue `i`: no wait, trap or shortage of R63, R33, R34, R31 and R29 applies. -/
structure Ready (i : Instr) (s : State) (x : Warp) (e : Entry) (sh : Shape) (f : Frame) : Prop where
  warp : s.warp? s.cur = some x
  head : x.hw.head? = some e
  form : i.shape = (sh, some f)
  legal : WellFormed i = true
  gate : s.gate s.cur x sh f (x.active f e) = none

/-- The warp after its sources were read and its last-use registers released (R25, R26, R29). -/
def Warp.opened (x : Warp) (e : Entry) (sh : Shape) (f : Frame) (stamp : Nat) : Warp :=
  { ((x.readAll sh f (x.active f e) e.pc stamp).releaseAll (sh.releases f)) with wait := none }

/-- The state in which the body of a ready instruction acts. -/
def State.opened (s : State) (x : Warp) (e : Entry) (sh : Shape) (f : Frame) : State := s.setWarp s.cur (x.opened e sh f s.clock)

/-- What the body of a ready instruction sees. -/
def State.sees (s : State) (x : Warp) (e : Entry) (sh : Shape) (f : Frame) : Issue :=
  { w := s.cur, f := f, sh := sh, e := e, act := x.active f e, x := x }

/-! ## Registers -/

/-- A binding but for the stamp of its last access (R29). -/
def LReg.plain (r : LReg) : LReg := { r with stamp := 0 }
def UReg.plain (r : UReg) : UReg := { r with stamp := 0 }

/-- What a warp holds of a register number. -/
def Warp.lbind (x : Warp) (n : Nat) : Option LReg := (x.x.get? n).map LReg.plain
def Warp.ubind (x : Warp) (n : Nat) : Option UReg := (x.k.get? n).map UReg.plain

/-- The instruction releases the register by a last-use mark (R25). -/
def frees (sh : Shape) (f : Frame) (r : Reg) : Bool := (sh.releases f).any (·.1 == r)

/-- Lane register `n` of `y` holds new values in the lanes of a mask, poison and a tag where `t` says so (R24, R84); in its other lanes it holds what it
held in `x`, or poison where it was unbound or released. `xz` holds nothing (R21). -/
def LaneHolds (x y : Warp) (sh : Shape) (f : Frame) (act : Mask) (n : Nat) (v : Fin 32 → W32) (t : Mask) : Prop :=
  n ≠ 255 → ∃ r, y.x.get? n = some r ∧ r.empty = false ∧ r.spilled = false ∧ ∀ l : Fin 32,
    let old := if frees sh f (.x n) then none else x.x.get? n
    if act.getLsbD l.val then
      r.val[l] = (if t.getLsbD l.val then poison32 else v l) ∧ r.tag.getLsbD l.val = t.getLsbD l.val ∧ r.bad.getLsbD l.val = false
    else match old with
      | some o => r.val[l] = o.val[l] ∧ r.tag.getLsbD l.val = o.tag.getLsbD l.val ∧ r.bad.getLsbD l.val = o.bad.getLsbD l.val
      | none => r.val[l] = poison32 ∧ r.tag.getLsbD l.val = true ∧ r.bad.getLsbD l.val = false

/-- Uniform register `n` of `y` holds a new value, or poison with its tag (R26, R84). -/
def UniHolds (y : Warp) (n : Nat) (v : W64) (t : Bool) : Prop :=
  ∃ r, y.k.get? n = some r ∧ r.val = (if t then poison64 else v) ∧ r.tag = t ∧ r.bad = false ∧ r.empty = false ∧ r.spilled = false

/-- The destination that DU selects holds a result, in one lane register, in an even pair (R81) or, of lane 0's operands, in a uniform register (R82, R83).
`pair` says that the type is 64 bits wide; `uniform` is how a result is extended to 64 bits (R80). -/
def DestHolds (x y : Warp) (sh : Shape) (f : Frame) (act : Mask) (du pair : Bool) (v : Fin 32 → W64) (t : Mask) (uniform : W64 → W64) : Prop :=
  if du then UniHolds y f.kd (uniform (v 0)) (t.getLsbD 0)
  else LaneHolds x y sh f act f.xd (fun l => (v l).setWidth 32) t ∧
    (pair → f.xd ≠ 255 → LaneHolds x y sh f act (f.xd + 1) (fun l => (v l >>> 32).setWidth 32) t)

/-- Predicate `n` of `y` holds new bits in the lanes of a mask, false where `t` says that a source was poisoned (R84); the other lanes and the other predicates
are unchanged, and `p7` is never written (R21). -/
def PredHolds (x y : Warp) (act : Mask) (n : Nat) (v : Fin 32 → Bool) (t : Mask) : Prop :=
  ∀ m : Nat, m < 7 → ∀ l : Fin 32,
    (y.pred m).getLsbD l.val =
      (if m = n ∧ act.getLsbD l.val then v l && !t.getLsbD l.val else (x.pred m).getLsbD l.val)

/-- A 64-bit extension `w` of an exact integer result `r` in an integer type: the value clamped to the type, or the one value of the type that is
congruent to it (R80). -/
def FitsType (v : Nat) (sat : Bool) (r : Int) (w : W64) : Prop :=
  tyMin v ≤ w.toInt ∧ w.toInt ≤ tyMax v ∧ if sat then w.toInt = satI r (tyMin v) (tyMax v) else (w.toInt - r) % 2 ^ tyWidth v = 0

/-! ## What an instruction leaves unchanged -/

/-- The parts of a warp that an instruction on registers does not touch: all but its registers, frontier, run counter and wait, and the flag and pending trap
of poison (R26). -/
def Warp.still (x : Warp) : Warp :=
  { x with x := [], k := [], kept := [], hw := [], run := 0, wait := none, psn := false, trap := { x.trap with poison := none } }

/-- Only the current warp and the holders of issue slots differ (and the number that the model gives to the next request): memory, every other warp and
every other unit are the same. -/
structure OnlyWarp (s t : State) : Prop where
  others : ∀ w, w ≠ s.cur → t.warp? w = s.warp? w
  cores : ∀ c, ∃ q, t.core c = { s.core c with quads := q }
  rest : t = { s with warps := t.warps, cores := t.cores, nextId := t.nextId }

/-- Registers that the instruction does not name as destination keep their binding, or are unbound where it released them (R25). -/
structure KeepsRegs (x y : Warp) (sh : Shape) (f : Frame) : Prop where
  lanes : ∀ n, Reg.x n ∉ sh.writes f → y.lbind n = if frees sh f (.x n) then none else x.lbind n
  unis : ∀ n, Reg.k n ∉ sh.writes f → y.ubind n = if frees sh f (.k n) then none else x.ubind n

/-- The flag and the pending trap of poison change only where an active lane read an unbound register or a word that fails correction (R26, R27). -/
def Unflawed (x y : Warp) (sh : Shape) (f : Frame) (act : Mask) : Prop :=
  (act = 0 ∨ ∀ p ∈ sh.reads f, x.readFlaws p.1 act = (false, false)) → y.psn = x.psn ∧ y.trap.poison = x.trap.poison

/-- The head entry has passed the instruction with its priority kept (R36, R51), and the run counter has counted it (R40). -/
structure Moved (s : State) (x y : Warp) (e : Entry) (f : Frame) : Prop where
  pc : y.hw = (x.replaceHead [{ e with pc := s.land s.cur x (e.pc + BitVec.ofNat 57 f.form.bytes) }]).hw
  run : y.run = if f.eor then 0 else x.run + 1
  wait : y.wait = none

/-- An instruction on registers has issued and retired: `y` is the warp after it. -/
structure Passes (s t : State) (x y : Warp) (e : Entry) (sh : Shape) (f : Frame) : Prop where
  warp : t.warp? s.cur = some y
  moved : Moved s x y e f
  only : OnlyWarp s t
  regs : KeepsRegs x y sh f
  flaws : Unflawed x y sh f (x.active f e)

/-- The same, but that a table walk may have left its entries in the cache of a die's walker, and used the lines of the tables (R394). -/
structure WalksOnly (s t : State) : Prop where
  others : ∀ w, w ≠ s.cur → t.warp? w = s.warp? w
  cores : ∀ c, ∃ q, t.core c = { s.core c with quads := q }
  dies : ∀ d, ∃ ws, t.die d = { s.die d with walks := ws }
  rest : t = { s with warps := t.warps, cores := t.cores, dies := t.dies, uses := t.uses, nextId := t.nextId }

/-- An instruction that walked a table has issued and retired. -/
structure PassesWalking (s t : State) (x y : Warp) (e : Entry) (sh : Shape) (f : Frame) : Prop where
  warp : t.warp? s.cur = some y
  moved : Moved s x y e f
  only : WalksOnly s t
  regs : KeepsRegs x y sh f
  flaws : Unflawed x y sh f (x.active f e)

/-! ## Instructions with one result -/

/-- The poisoned lanes of the first `n` operands (R84). -/
def Taint (n : Nat) (a b c : Opr) : Mask := (if 1 ≤ n then a.tag else 0) ||| (if 2 ≤ n then b.tag else 0) ||| (if 3 ≤ n then c.tag else 0)

/-- A ready `i` with an active lane completes: it passes, nothing of its warp but registers and flow changes, and its destination holds a result that meets
`P` in every lane, poisoned where `taint` says. `pair` and `u` are as in `DestHolds`. -/
def Yields (i : Instr) (f : Frame) (pair : Bool) (u : W64 → W64) (taint : Warp → Mask) (P : Warp → Fin 32 → W64 → Prop) : Prop :=
  ∀ s x e sh, Ready i s x e sh f → x.active f e ≠ 0 →
    ∃ t y r, exec i s = .next t ∧ Passes s t x y e sh f ∧ y.still = x.still ∧ (∀ l, P x l (r l)) ∧
      DestHolds x y sh f (x.active f e) f.du pair r (taint x) u

/-- A ready `i` with an active lane that computes one function of its operands completes, its result poisoned where one of its first `n` operands is. -/
def Computes (i : Instr) (f : Frame) (n : Nat) (wa wb wc signed pair : Bool) (u : W64 → W64) (P : W64 → W64 → W64 → W64 → Prop) : Prop :=
  Yields i f pair u (fun x => Taint n (x.oprA f wa signed) (x.oprB f wb signed) (x.oprC f wc signed))
    fun x l r => P ((x.oprA f wa signed).val l) ((x.oprB f wb signed).val l) ((x.oprC f wc signed).val l) r

/-- The same for a predicate result: only predicate `n` changes beside registers and flow. -/
def YieldsPred (i : Instr) (f : Frame) (n : Nat) (taint : Warp → Mask) (P : Warp → Fin 32 → Bool) : Prop :=
  ∀ s x e sh, Ready i s x e sh f → x.active f e ≠ 0 →
    ∃ t y, exec i s = .next t ∧ Passes s t x y e sh f ∧ y.still = { x.still with preds := y.preds } ∧
      PredHolds x y (x.active f e) n (P x) (taint x)

/-! ## Floating-point results -/

/-- The flags of `FPCTL` hold what they held, and the exceptions of every active, unpoisoned lane (R97, R98); its other bits are unchanged. -/
def FlagsHold (x y : Warp) (act t : Mask) (e : Fin 32 → Exc) : Prop :=
  ∀ k : Nat, k < 64 → y.fp.ctl.getLsbD k = (x.fp.ctl.getLsbD k || (lanesOf (act &&& ~~~t)).any fun l => (e l).bits.getLsbD k)

/-- A ready floating-point `i` with an active lane completes: lane results in a register or a pair, their exceptions in `FPCTL`, and `SRSEED` moved on by
`seed`. -/
def YieldsFloat (i : Instr) (f : Frame) (pair : Bool) (seed : W64 → W64) (taint : Warp → Mask → Mask) (r : Warp → Mask → Fin 32 → W64 × Exc) : Prop :=
  ∀ s x e sh, Ready i s x e sh f → x.active f e ≠ 0 →
    ∃ t y, exec i s = .next t ∧ Passes s t x y e sh f ∧ y.still = { x.still with fp := y.fp } ∧ y.fp.seed = seed x.fp.seed ∧
      DestHolds x y sh f (x.active f e) false pair (fun l => (r x (x.active f e) l).1) (taint x (x.active f e)) id ∧
      FlagsHold x y (x.active f e) (taint x (x.active f e)) fun l => (r x (x.active f e) l).2

/-! ## Producers (R32) -/

/-- Lane register `n` is empty and waits for new values in the lanes of a mask; `xz` waits for nothing. -/
def LaneWaits (x y : Warp) (act : Mask) (n : Nat) (v : Fin 32 → W32) (t : Mask) : Prop :=
  if n = 255 then y.results = x.results
  else y.isEmpty (.x n) = true ∧ ∃ id val, y.results = x.results ++ [{ id := id, puts := [.x n act val t] }] ∧
    ∀ l : Fin 32, act.getLsbD l.val = true → val[l] = if t.getLsbD l.val then poison32 else v l

/-- Uniform register `n` is empty and waits for a new value. -/
def UniWaits (x y : Warp) (n : Nat) (v : W64) (t : Bool) : Prop :=
  y.isEmpty (.k n) = true ∧ ∃ id, y.results = x.results ++ [{ id := id, puts := [.k n (if t then poison64 else v) t] }]

/-- A ready producer with an active lane completes: its result waits for its lane register, or, under `du`, the result of its lowest active lane waits for its
uniform register, poisoned where any active lane's is (R142). -/
def YieldsLate (i : Instr) (f : Frame) (du : Bool) (taint : Warp → Mask → Mask) (r : Warp → Mask → Fin 32 → W32) (e : Warp → Mask → Fin 32 → Exc)
    (quiet : Warp → Mask → Mask) : Prop :=
  ∀ s x en sh, Ready i s x en sh f → x.active f en ≠ 0 →
    let act := x.active f en
    ∃ t y, exec i s = .next t ∧ Passes s t x y en sh f ∧ y.still = { x.still with fp := y.fp, results := y.results } ∧ y.fp.seed = x.fp.seed ∧
      (if du then ∃ l : Fin 32, firstLane act = some l ∧ UniWaits x y f.kd ((r x act l).setWidth 64) ((taint x act) &&& act != 0)
        else LaneWaits x y act f.xd (r x act) (taint x act)) ∧
      FlagsHold x y act (quiet x act) (e x act)

/-! ## Control flow and traps -/

/-- Every lane of a mask stands in the frontier of `y` at an address, at a priority that is at least the given one. -/
def StandsAt (y : Warp) (l : Fin 32) (pc : BitVec 57) (prio : BitVec 8) : Prop :=
  ∃ a ∈ y.hw, a.pc = pc ∧ a.mask.getLsbD l.val = true ∧ prio ≤ a.prio

/-- The head entry has given way (R120): active lanes stand at their targets, the other lanes of the head at the address that follows, the other entries are
still there, and no lane came from elsewhere. -/
structure Splits (s : State) (x y : Warp) (e : Entry) (f : Frame) (target : Fin 32 → BitVec 57 × BitVec 8) (fprio : BitVec 8) : Prop where
  taken : ∀ l : Fin 32, (x.active f e).getLsbD l.val = true → StandsAt y l (s.land s.cur x (target l).1) (target l).2
  others : ∀ l : Fin 32, e.mask.getLsbD l.val = true → (x.active f e).getLsbD l.val = false →
    StandsAt y l (s.land s.cur x (e.pc + BitVec.ofNat 57 f.form.bytes)) fprio
  kept : ∀ a ∈ x.hw.tail, ∃ b ∈ y.hw, b.pc = a.pc ∧ a.prio ≤ b.prio ∧ ∀ l : Fin 32, a.mask.getLsbD l.val = true → b.mask.getLsbD l.val = true
  whence : ∀ b ∈ y.hw, ∀ l : Fin 32, b.mask.getLsbD l.val = true →
    e.mask.getLsbD l.val = true ∨ ∃ a ∈ x.hw.tail, a.pc = b.pc ∧ a.mask.getLsbD l.val = true

/-- An instruction has issued and retired, and what its frontier became is said apart. -/
structure Retires (s t : State) (x y : Warp) (e : Entry) (sh : Shape) (f : Frame) : Prop where
  warp : t.warp? s.cur = some y
  run : y.run = if f.eor then 0 else x.run + 1
  wait : y.wait = none
  only : OnlyWarp s t
  regs : KeepsRegs x y sh f
  flaws : Unflawed x y sh f (x.active f e)

/-- A warp has entered its handler (R161): what the trap registers hold, no handler's run has begun, and the head entry stands at the vector's address at
priority 255. `q` is the warp, and `e` its head, at the trap. -/
structure Entered (s : State) (q y : Warp) (e : Entry) (code : Nat) (info : W64) (rpc : BitVec 57) : Prop where
  trap : y.trap =
    { q.trap with
      act := true, vec := trapVector code, code := code, rlen := q.run, info := info, rprio := e.prio
      tpend := q.trap.tpend || q.trap.fired.isSome, rpc := BitVec.ofNat 55 (rpc.toNat / 4) }
  run : y.run = 0
  wait : y.wait = none
  hw : y.hw = (q.replaceHead
    [{ prio := 255, pc := s.land s.cur q (BitVec.ofNat 57 (q.trap.tvBase.toNat * 256 + 64 * trapVector code)), mask := e.mask }]).hw

/-- The vector of a code is enabled and no handler runs (R160, R161). -/
def Warp.takes (x : Warp) (code : Nat) : Bool := x.trap.tvEn.getLsbD (trapVector code) && !x.trap.act

/-! ## Accesses to memory (R194 to R211, R305, R343 to R353) -/

/-- The warp has gone past an instruction that has retired, and waits as it says. -/
structure Gone (t : State) (w : Nat) (x y : Warp) (e : Entry) (f : Frame) (wait : Option Wait) : Prop where
  hw : y.hw = (x.replaceHead [{ e with pc := t.land w x (e.pc + BitVec.ofNat 57 f.form.bytes) }]).hw
  run : y.run = if f.eor then 0 else x.run + 1
  wait : y.wait = wait

/-- Bytes of a width code, and the lane registers of its value (R194). -/
def memBytes (v : Nat) : Nat := ([4, 8, 16, 2, 2, 1, 1] : List Nat).getD v 0
def memRegs (v : Nat) : Nat := ([1, 2, 4, 1, 1, 1, 1] : List Nat).getD v 0

/-- The value of a group of `count` lane registers from `n` in a lane, the first the lowest, and the lanes in which one of them is tagged (R81). -/
def Warp.datum (x : Warp) (n count : Nat) (l : Fin 32) : Nat :=
  ((List.range count).map fun k => ((x.lane (if n = 255 then 255 else n + k)).1[l]).toNat * 2 ^ (32 * k)).sum
def Warp.soiled (x : Warp) (n count : Nat) : Mask :=
  ((List.range count).map fun k => (x.lane (if n = 255 then 255 else n + k)).2).foldl (· ||| ·) 0

/-- Register `i` of a loaded value under its width code (R194), in a lane register and in a uniform register (R346). -/
def loadedWord (v i : Nat) (bs : List Byte) : W32 :=
  match v with
  | 4 => (BitVec.ofNat 16 (ofBytes bs)).signExtend 32
  | 6 => (BitVec.ofNat 8 (ofBytes bs)).signExtend 32
  | _ => BitVec.ofNat 32 (ofBytes bs / 2 ^ (32 * i))
def loadedUni (v i : Nat) (bs : List Byte) : W64 :=
  match v with
  | 4 => (BitVec.ofNat 16 (ofBytes bs)).signExtend 64
  | 6 => (BitVec.ofNat 8 (ofBytes bs)).signExtend 64
  | _ => BitVec.ofNat 64 (ofBytes bs / 2 ^ (64 * i))

/-- What a load has read is on its way to its destination: in each lane of a mask the words of the bytes that it got, or poison where it got none. `psn` says
that it met a poisoned word (R32, R196). -/
def LoadWaits (x y : Warp) (dest : Dest) (v : Nat) (act : Mask) (got : Fin 32 → Option (List Byte)) (psn : Bool) (pc : BitVec 57) : Prop :=
  ∃ (id : Nat) (ps : List Put),
    y.results = x.results ++ (if ps = [] ∧ psn = false then [] else [{ id := id, puts := ps, psn := psn, pc := pc }]) ∧
    match dest with
    | .none => ps = []
    | .lane n count =>
      if n = 255 then ps = []
      else
        let ns := (List.range count).filter fun i => n + i != 255
        ∃ (vs : Nat → Lanes W32) (ts : Nat → Mask), ps = ns.map (fun i => .x (n + i) act (vs i) (ts i)) ∧
          ∀ i ∈ ns, ∀ l : Fin 32, act.getLsbD l.val = true →
            match got l with
            | some bs => (vs i)[l] = loadedWord v i bs ∧ (ts i).getLsbD l.val = false
            | none => (vs i)[l] = poison32 ∧ (ts i).getLsbD l.val = true
    | .uni n count =>
      ps = (List.range count).map fun i => match got 0 with
        | some bs => .k (n + i) (loadedUni v i bs) false
        | none => .k (n + i) poison64 true

/-- The memory instructions but `ldp`, `prfg`, `redg.det` and `waitaddr`, each with what it asks for: its space (R364), what it does (R207, R352), its width,
its destination, the address and the operand data of each lane (R199, R202, R305, R343, R346), and its order and scope (R207, R308, R345). -/
def memForms (x : Warp) (f : Frame) : List (Instr × MemForm) :=
  let v := f.vn
  let a := x.lane f.xa
  let near := fun (o : W32) (l : Fin 32) => ((a.1[l] + o).toNat, a.2.getLsbD l.val)
  let k := x.uni f.kb
  let far := fun l : Fin 32 => ((k.1 + (a.1[l].setWidth 64 <<< f.mf 4 3) + f.imm.signExtend 64).toNat, k.2 || a.2.getLsbD l.val)
  let e20 : W32 := (f.imm.setWidth 20).signExtend 32
  let ld : Dest := .lane f.xd (memRegs v)
  let ldu : Dest := if f.du then .uni f.kd (if v = 2 then 2 else 1) else ld
  let st := fun (n : Nat) (l : Fin 32) => (toBytes (memBytes v) (x.datum n (memRegs v) l), ([] : List Byte), (x.soiled n (memRegs v)).getLsbD l.val)
  let aw := 4 * (v + 1)
  let ad : Dest := .lane f.xd (v + 1)
  let aop := f.mf 0 4
  let cas := aop = 9
  let at2 := fun (n c : Nat) (l : Fin 32) => (toBytes aw (x.datum n (v + 1) l), if cas then toBytes aw (x.datum c (v + 1) l) else [],
    (x.soiled n (v + 1) ||| if cas then x.soiled c (v + 1) else 0).getLsbD l.val)
  let atg := fun (n : Nat) => at2 n (if n = 255 then 255 else n + v + 1)
  let ord := f.mf 7 2
  let scope := f.mf 11 3
  [(.ldl f, { space := .slice, op := .load v, width := memBytes v, dest := ld, addr := near f.imm }),
   (.stl f, { space := .slice, op := .store, width := memBytes v, addr := near f.imm, data := st f.xb }),
   (.lds f, { space := .scratch, op := .load v, width := memBytes v, dest := ld, addr := near e20, rot := f.mf 4 3 }),
   (.sts f, { space := .scratch, op := .store, width := memBytes v, addr := near e20, data := st f.xb, rot := f.mf 4 3 }),
   (.atoms f, { space := .scratch, op := .atomic aop, width := aw, dest := ad, addr := near e20, data := at2 f.xb f.xc, ord := ord, scope := 1,
                rot := f.mf 4 3 }),
   (.ldc f, { space := .cluster, op := .load v, width := memBytes v, dest := ld, addr := near e20 }),
   (.stc f, { space := .cluster, op := .store, width := memBytes v, addr := near e20, data := st f.xb }),
   (.atomc f, { space := .cluster, op := .atomic aop, width := aw, dest := ad, addr := near e20, data := at2 f.xb f.xc, ord := ord,
                scope := if x.straddle then 4 else 2 }),
   (.ldo f, { space := .grotto, op := .load v, width := memBytes v, dest := ldu, addr := near f.imm, once := f.du, ord := ord, scope := scope,
              rp := f.bit 9 }),
   (.sto f, { space := .grotto, op := .store, width := memBytes v, addr := near f.imm, data := st f.xb, ord := ord, scope := scope }),
   (.atomo f, { space := .grotto, op := .atomic aop, width := aw, dest := ad, addr := near f.imm, data := atg f.xb, ord := ord, scope := scope }),
   (.ldg f, { space := .global, op := .load v, width := memBytes v, dest := ldu, addr := far, once := f.du, ord := ord, scope := scope, rp := f.bit 9,
              cp := f.mf 0 2 }),
   (.stg f, { space := .global, op := .store, width := memBytes v, addr := far, data := st f.xc, ord := ord, scope := scope }),
   (.atomg f, { space := .global, op := .atomic aop, width := aw, dest := ad, addr := far, data := atg f.xc, ord := ord, scope := scope, rp := f.bit 9 }),
   (.redg f, { space := .global, op := .atomic aop, width := aw, addr := far, data := atg f.xc, ord := ord, scope := scope }),
   (.ldh f, { space := .host, op := .load v, width := memBytes v, dest := ldu, addr := far, once := f.du, ord := ord, scope := scope, rp := f.bit 9 }),
   (.sth f, { space := .host, op := .store, width := memBytes v, addr := far, data := st f.xc, ord := ord, scope := scope }),
   (.atomh f, { space := .host, op := .atomic aop, width := aw, dest := ad, addr := far, data := atg f.xc, ord := ord, scope := scope })]

/-- No lane of an access whose address is untagged is misaligned (R196). -/
def Aligned (lanes : List (Fin 32)) (m : MemForm) : Prop := ∀ l ∈ lanes, (m.addr l).2 = false → (m.addr l).1 % m.width = 0

/-- The lanes that an access has, and the access itself. -/
def lanesFor (m : MemForm) (act : Mask) : List (Fin 32) := if m.once then [0] else lanesOf act

/-- An access of the current warp has set out: a flight more, nothing written; the warp has gone past the instruction, its destination is empty. -/
structure SetsOut (s t : State) (x y : Warp) (e : Entry) (sh : Shape) (f : Frame) (a : Access) (wait : Option Wait) : Prop where
  warp : t.warp? s.cur = some y
  gone : Gone t s.cur x y e f wait
  regs : KeepsRegs x y sh f
  empty : ∀ r ∈ sh.writes f, y.isEmpty r = true
  flaws : Unflawed x y sh f (x.active f e)
  others : ∀ w, w ≠ s.cur → t.warp? w = s.warp? w
  flies : a ∈ t.flights
  fewer : ∀ b ∈ t.flights, b = a ∨ b ∈ s.flights
  kept : ∀ b ∈ s.flights, b ∈ t.flights
  cores : ∀ c, ∃ q tlb, t.core c = { s.core c with quads := q, tlb := tlb } ∧ (c ≠ coreOf s.cur → t.core c = s.core c)
  clusters : ∀ c, ∃ tlb, t.cluster c = { s.cluster c with tlb := tlb }
  dies : ∀ d, ∃ ws, t.die d = { s.die d with walks := ws }
  rest : t = { s with warps := t.warps, cores := t.cores, clusters := t.clusters, dies := t.dies, flights := t.flights, uses := t.uses,
                      nextId := s.nextId + 1 }

/-- The L1 of a core holds the line of no lane of an access (R348). -/
def State.misses (s : State) (core p : Nat) (ls : List LaneAcc) : Prop := ∀ l ∈ ls, s.l1Line? core (s.asid p) l.addr = none

/-- The L1 of a core has room for this many lines more (R192). -/
def State.l1Takes (s : State) (core n : Nat) : Prop := (s.core core).l1.length + (s.core core).slices.length + n ≤ s.l1Room core

/-- Nothing moves, and nothing is injected: no migration slot is in use, automatic promotion is off everywhere, no error injection is armed. -/
structure Quiet (s : State) : Prop where
  slots : ∀ d ∈ s.dies, d.2.slots = []
  promote : ∀ d, (s.die d).migpol.getLsbD 63 = false
  inject : ∀ d, (s.die d).errinj.getLsbD 63 = false

/-- What a home's performing of lanes may change beside memory: the counts of requests, the caches of the access's core, the buffer of a cluster-shared slice and
its place in the order of R309, the words served in this clk (R362), promotion records. -/
structure AtHome (s u : State) (core : Nat) : Prop where
  cores : ∀ c, ∃ l1 cb sv, u.core c = { s.core c with l1 := l1, csbuf := cb, served := sv } ∧ (c ≠ core → l1 = (s.core c).l1)
  rest : u = { s with mem := u.mem, marks := u.marks, cores := u.cores, hotness := u.hotness, samples := u.samples, promotions := u.promotions,
                      ports := u.ports }

/-- Lanes store: each byte of the lanes' keys holds what the last of the lanes stored there, the poison pattern where its data was tagged (R196, R349); every other
byte, and the mark of every other word, is as before. A tagged lane marks its words; whole words of clean data lose their marks (R204). -/
structure Stores (v w : State) (ls : List LaneAcc) : Prop where
  bytes : ∀ k, w.byte k = match ls.reverse.find? fun l => l.keys.contains k with
    | some l => if l.tag then BitVec.ofNat 8 (0x7FA0DEAD / 256 ^ (k % 4)) else l.data.getD (l.keys.idxOf k) 0
    | none => v.byte k
  marks : ∀ q, (∀ l ∈ ls, ∀ k ∈ l.keys, k / 8 ≠ q) → (q ∈ w.marks ↔ q ∈ v.marks)
  soiled : ∀ l ∈ ls, l.tag = true → ∀ k ∈ l.keys, (∀ m ∈ ls, m.lane ≠ l.lane → ∀ j ∈ m.keys, j / 8 ≠ k / 8) → k / 8 ∈ w.marks
  cleared : ∀ l ∈ ls, l.tag = false → ∀ q, (∀ k, k / 8 = q → k ∈ l.keys) → (∀ m ∈ ls, m.tag = true → ∀ j ∈ m.keys, j / 8 ≠ q) → q ∉ w.marks

/-- Lanes perform an atomic one after another (R207): each reads what the lanes before it left and writes the new value; a lane with a tagged operand or a
marked word writes nothing. `v n` are the bytes of memory before the lane at place `n`. -/
def Atomics (aop width : Nat) (ls : List LaneAcc) (marked : LaneAcc → Bool) (v : Nat → Nat → Byte) : Prop :=
  ∀ (n : Nat) (l : LaneAcc), ls[n]? = some l →
    let old := ofBytes (l.keys.map (v n))
    v (n + 1) = if l.tag || marked l then v n
      else fun k => if l.keys.contains k then (toBytes width (atomicNew aop width old (ofBytes l.data) (ofBytes l.new))).getD (l.keys.idxOf k) 0 else v n k

/-! ## Matrix instructions (R270 to R302) -/

/-- One queue of a core holds one matrix instruction, the core's only one, which has started and whose feed is over; no warp waits in `mfence`, nothing of its write
buffer is left, and no word of an accumulator is erased. -/
structure LastOp (s : State) (core q : Nat) (m : MxCmd) : Prop where
  queue : (s.core core).mxq.toList.getD q [] = [m]
  others : ∀ r, r ≠ q → (s.core core).mxq.toList.getD r [] = []
  started : m.started = true ∧ m.left = 0 ∧ m.owned = true
  calm : ∀ p ∈ s.warps, ∀ all, p.2.wait ≠ some (.matrix all)
  drained : (s.core core).wbuf = []
  whole : ∀ n, (s.slot core n).erased = []

/-- The residues of channels of a part are those of an integer for each element and channel; every other channel, and every part that neither is the part nor
overlaps it, is as before; the parts that overlap it are clear (R272). -/
structure PartTakes (t u : Slot) (p : Nat) (cs : List Nat) (value : Nat → Nat → Int) : Prop where
  elems : ∀ k, k < 4096 → ∀ c ∈ cs, ((u.elem k).at c : Int) = value k c % (modulusOf c : Int)
  rest : ∀ k, k < 4096 → ∀ c, c < 10 → c ∉ cs → (u.elem k).at c = (t.elem k).at c
  clear : ∀ q ∈ overlaps p, u.part q = {}
  parts : ∀ q, q < 7 → q ≠ p → q ∉ overlaps p → u.part q = t.part q

/-- Element `e` of a row of an integer operand (R275, R276). -/
def intElement (code : Nat) (row : List Byte) (e : Nat) : Int :=
  match code with
  | 0 =>
    let n := (row.getD (e / 2) 0).toNat / 16 ^ (e % 2) % 16
    if n < 8 then n else (n : Int) - 16
  | 1 => (row.getD e 0).toInt
  | 2 => (row.getD e 0).toNat
  | _ =>
    let n := (row.getD (2 * e) 0).toNat + 256 * (row.getD (2 * e + 1) 0).toNat
    if n < 2 ^ 15 then n else (n : Int) - 2 ^ 16

/-! ## The mailbox and its dies (R485 to R502) -/

/-- The response of R486: its block, BUSY and the vector of a finished command. -/
structure Answered (s t : State) (seq : W32) (status : Nat) (payload : List Byte) : Prop where
  code : ofBytes ((span (barKey 0x1000) 4).map t.byte) = status
  number : ofBytes ((span (barKey 0x1004) 4).map t.byte) = seq.toNat
  size : ofBytes ((span (barKey 0x1008) 4).map t.byte) = payload.length
  data : (span (barKey 0x1010) payload.length).map t.byte = payload
  memory : ∀ k, k ∉ span (barKey 0x1000) (16 + payload.length) → t.byte k = s.byte k
  busy : t.pkg.busy = false
  command : t.pkg.command = none
  vector : t.pkg.msix.getLast? = some 0
  warps : t.warps = s.warps

/-- Nothing volatile is left: no work, no process, no translation and no request (R484, R490). -/
structure Bare (t : State) : Prop where
  work : t.warps = [] ∧ t.ensembles = [] ∧ t.saved = [] ∧ t.saving = [] ∧ t.transit = [] ∧ t.taking = [] ∧ t.flights = [] ∧ t.held = []
  procs : t.procs = [] ∧ t.scopes = [] ∧ t.notices = [] ∧ t.runtime = none ∧ t.incoming = []
  cores : ∀ c, (t.core c).wbuf = [] ∧ (t.core c).csbuf = [] ∧ (t.core c).tlb = [] ∧ (t.core c).icache = [] ∧ (t.core c).l1 = [] ∧ (t.core c).slices = [] ∧
    (t.core c).loadQ = [] ∧ (t.core c).storeQ = [] ∧ (t.core c).spAlloc = [] ∧ (t.core c).slots = []
  clusters : ∀ c, (t.cluster c).gangs = [] ∧ (t.cluster c).rings = [] ∧ (t.cluster c).msgs = [] ∧ (t.cluster c).tlb = []
  dies : ∀ d, (t.die d).slots = [] ∧ (t.die d).pools = [] ∧ (t.die d).faults = [] ∧ (t.die d).migpol = ({} : Die).migpol ∧ (t.die d).migfrm = 0 ∧ (t.die d).fltq = 0 ∧
    (t.die d).errinj = 0 ∧ (t.die d).tlbinv = 0 ∧ (t.die d).walks = []

/-! ## Fences, watches, moves -/

/-- The current warp suspends at an instruction, which has done what it does at issue: its run has ended (R42). -/
def Suspends (s t : State) (x y : Warp) (f : Frame) (wt : Wait) : Prop :=
  t.warp? s.cur = some y ∧ y.wait = some wt ∧ y.hw = x.hw ∧ y.run = 0 ∧ y.waitLen = f.form.bytes

/-- An instruction that waits at issue has no effect (R68). -/
def HeldAt (s t : State) (x : Warp) (f : Frame) (wt : Wait) : Prop :=
  ∃ y, t.warp? s.cur = some y ∧ y.wait = some wt ∧ y.hw = x.hw ∧ y.run = x.run ∧ y.preds = x.preds ∧ y.waitLen = f.form.bytes ∧
    t = { s with warps := t.warps, cores := t.cores } ∧ (∀ w, w ≠ s.cur → t.warp? w = s.warp? w) ∧ ∀ c, ∃ q, t.core c = { s.core c with quads := q }

/-- The L1 holds no dirty line of the slice of a warp: its stores there have reached their homes (R200, R208). -/
def State.sliceClean (s : State) (w : Nat) : Prop := ∀ l ∈ (s.core (coreOf w)).slices, ¬ (l.w = w ∧ l.dirty = true)

/-- What a fence of a kind waits for has been performed at its scope: a release, the warp's writes and the rings that it has set up, and at `.cl` or wider stores of
its core that it may have read early; a path fence, its writes to the scratchpad and, at `.cl`, to slices; an acquire waits for nothing (R208, R209, R211, R322,
R368, R372, R510). -/
def FenceHolds (s : State) (w kind scope : Nat) : Prop :=
  let mine := fun a : Access => a.w = w ∧ a.writes = true
  let slices := scope ≤ 1 ∨ ∀ c ∈ s.cores, ∀ b ∈ c.2.csbuf, b.w ≠ w
  match kind with
  | 1 => True
  | 3 => (∀ b ∈ (s.core (coreOf w)).wbuf, b.w ≠ w) ∧ (∀ a ∈ s.flights, mine a → a.space ≠ .scratch ∧ (scope = 1 ∨ a.space ≠ .cluster)) ∧
    (scope = 1 ∨ ∀ c ∈ s.cores, ∀ b ∈ c.2.csbuf, b.w ≠ w)
  | _ =>
    (scope = 0 ∨ (∀ a ∈ s.flights, mine a → scope = 1 ∧ (s.early a = true ∨ s.accepted a = true)) ∧
      ∀ c ∈ s.clusters, ∀ m ∈ c.2.msgs, m.w = w → ∀ b b1, m.op ≠ .init b b1) ∧ slices ∧
    (scope ≤ 1 ∨ ∀ x, s.warp? w = some x → ∀ a ∈ s.flights, a.core = coreOf w → a.w ≠ w → a.id < Nat.min s.nextId x.sawMark → s.early a = false)

/-- A core after an acquire action at a scope (R208): at `.cl` or wider its clean L1 lines are gone. -/
def Core.acquired (c : Core) (scope : Nat) : Core := { c with l1 := if 2 ≤ scope then [] else c.l1 }

/-- A suspended instruction has completed: the warp has gone past it and waits no more. -/
structure Completed (t : State) (w : Nat) (x y : Warp) : Prop where
  warp : t.warp? w = some y
  hw : ∀ e r, x.hw = e :: r → y.hw = (x.replaceHead [{ e with pc := t.land w x (e.pc + BitVec.ofNat 57 x.waitLen) }]).hw
  run : y.run = 0
  wait : y.wait = none

/-- A watch ends, or goes on (R136): `met` says that the word meets the condition, `late` that CLOCK has come to the deadline. -/
def WatchGoesOn (t : State) (w : Nat) (x y : Warp) (q : Watch) (now : Nat) (met late : Bool) : Prop :=
  if met || late then Completed t w x y ∧ PredHolds x y q.acc.act q.pd (fun _ => met) 0
  else t.warp? w = some y ∧ y.wait = some (.watch { q with lastEval := now, faulted := false, entry := none, far := false, sent := none }) ∧ y.hw = x.hw ∧ y.preds = x.preds

/-! ## Barriers and rings (R310 to R326) -/

/-- The condition of the path that `.mx` adds: what the warp wrote has reached its banks and slices, and its matrix instructions have completed (R317). -/
def PathHolds (s : State) (x : Warp) : Prop :=
  FenceHolds s s.cur 3 2 ∧ (x.role = 1 → ∀ m ∈ s.mxAll (coreOf s.cur), ¬ (m.w = s.cur ∧ m.owned = true))

/-- The operand log is free (R166). -/
def LogFree (x : Warp) : Prop := x.log = [] ∧ x.fifth = none

/-- The condition of a release at `.cl`, and under `.mx` of the path too (R208, R317). -/
def MayRelease (s : State) (x : Warp) (mx : Bool) : Prop :=
  LogFree x ∧ (∀ a ∈ s.flights, a.w ≠ s.cur) ∧ FenceHolds s s.cur 2 2 ∧ (mx = true → PathHolds s x)

/-- An instruction that carries a release waits: for the path under `.mx`, then for the operand log, then for its accesses; `kill` says that the wait is a kill
point (R166, R317, R430). -/
def WaitsToRelease (i : Instr) (s : State) (x : Warp) (f : Frame) (mx kill : Bool) : Prop :=
  (¬ LogFree x → (mx = true → PathHolds s x) → ∃ t, exec i s = .next t ∧ HeldAt s t x f .oplog) ∧
  ((mx = true ∧ ¬ PathHolds s x) ∨ (LogFree x ∧ ¬ MayRelease s x mx) → ∃ t, exec i s = .next t ∧ HeldAt s t x f (.arrival kill))

/-- No marking has reached the die of a warp of its scope: nobody is about to be killed (R430). -/
def State.unmarked (s : State) : Prop := ∀ p ∈ s.warps, s.cancelledAt p.2.owner.scope (dieOf (coreOf p.1)) = false

/-- The warp is a member of gang `g` of an ensemble that runs in one cluster, which holds the gang once; no half of it is ahead (R319). -/
structure InGang (s : State) (x : Warp) (g ens : Nat) (m : Member) (q : Gang) : Prop where
  member : x.members = [m]
  of_ : m.gang = g ∧ q.num = g ∧ q.ensemble = ens ∧ q.ahead = false
  owner : x.owner.ensemble = some ens
  gang : (s.cluster (clusterOf (coreOf s.cur))).gangs = [q]
  alone : x.straddle = false
  keys : (s.warps.map (·.1)).Nodup

/-- A gang after the phase has completed (R315). -/
def Gang.opened (q : Gang) (res : Bool) : Gang := { q with lres := res, cxl := false, rcxl := false, arrv := 0, ph := !q.ph, sent := false, due := false }

/-- The warps that wait for gang `g` in a cluster go on with the result (R316). -/
def Freed (s t : State) (cl ens g : Nat) (res : Bool) : Prop :=
  ∀ (w : Nat) (x : Warp) (pd : Option Nat) (act : Mask), w ≠ s.cur → s.warp? w = some x → clusterOf (coreOf w) = cl → x.owner.ensemble = some ens →
    x.wait = some (.barrier g pd act) → ∃ y, Completed t w x y ∧ (t.core (coreOf w)).l1 = [] ∧ ∀ n, pd = some n → PredHolds x y act n (fun _ => res) 0

/-! ## Copies (R216 to R237) -/

/-- A command has ended: its entry is gone, its token counts one less, its warp's copy state is as `f` makes it, and no other command of the warp is stalled. -/
structure CommandEnds (s t : State) (core : Nat) (store : Bool) (c : Cmd) (x y : Warp) (f : CopyState → CopyState) : Prop where
  queue : t.queue core store = (s.queue core store).filter fun d => d.id != c.id
  other : t.queue core (!store) = s.queue core (!store)
  warp : t.warp? c.w = some y
  state :
    let z := f { x.copy with cnt := match c.token with | some k => x.copy.cnt.set k (x.copy.cnt.getD k 0 - 1) | none => x.copy.cnt }
    y = { x with copy := { z with stl := false, sq := false, code := z.failCode } }

/-- The command of a warp that has not ended and whose kill does not fall in this clk; no command is stalled. -/
structure Plain (s : State) (core : Nat) (c : Cmd) (x : Warp) : Prop where
  owned : c.owned = true
  warp : s.warp? c.w = some x
  lives : x.marks.ended = false
  posts : x.call.posts = []
  flows : x.copy.stl = false
  spared : s.killNow c.w = false
  others : ∀ d ∈ s.commands core, d.state ≠ .stalled

/-! ## Scopes and work (R415 to R431) -/

/-- A warp of an ensemble that belongs to no gang has been killed (R431): its slot is free where nothing of it is outstanding, and its ensemble has one warp fewer and reports the kill;
otherwise it has stopped, without its operand log and its tokens. -/
def KilledAt (s t : State) (w : Nat) (x : Warp) : Prop :=
  t.mem = s.mem ∧ (∀ v, v ≠ w → t.warp? v = s.warp? v) ∧
    if (∀ a ∈ s.flights, a.w = w → a.entry ≠ none) ∧ x.results = [] ∧ x.call.call = none ∧ x.call.posts = [] then
      t.warp? w = none ∧ ∀ e q, x.owner.ensemble = some e → s.ensembles.get? e = some q → t.ensembles.get? e = some { q with live := q.live - 1, killed := true }
    else ∃ y, t.warp? w = some y ∧ y.hw = [] ∧ y.sp = [] ∧ y.wait = none ∧ y.log = [] ∧ y.fifth = none ∧ y.copy.cnt = [] ∧ y.marks.ended = true ∧ y.marks.killed = true

/-- The state after a context has been kept: no byte of memory differs but those of the context area of its process on a die (R433). -/
def OnlyArea (s t : State) (p die n : Nat) : Prop :=
  ∀ k, t.byte k = s.byte k ∨ ∃ q i pte place, s.proc? p = some q ∧ i < n ∧
    s.walk p (((q.ctxarea.toList.getD die 0).toNat / 2 ^ 12 % 2 ^ 45 * 4096 + s.ctxUsed p die + i) % 2 ^ 57) = .leaf pte place ∧
    s.redirect (leafKey pte (((q.ctxarea.toList.getD die 0).toNat / 2 ^ 12 % 2 ^ 45 * 4096 + s.ctxUsed p die + i) % 2 ^ 57)) = k

/-- The rows of R417 for a launch record: the descriptor, the size of the work, the windows, the privilege, and the scope. -/
def Refuses (s : State) (p : Nat) (r : BitVec 512) : Nat → Prop
  | 1 => ∀ k, s.readKernel p (recDesc r) = some k → k.kind ≠ 0 ∨ k.inRange = false ∨ k.straddle ≠ recStr r
  | 2 => ∀ k, s.readKernel p (recDesc r) = some k → recClus r = 0 ∨ (∃ c, c < 4 ∧ 64 < (k.counts.map fun n => (n + 3 - c) / 4).sum) ∨
      ((placeUnits k.straddle).filter fun u => u.all fun cl => cl % 24 < s.cpd && s.holdsCluster p cl).length < recClus r
  | 3 => ∀ k ws, s.readKernel p (recDesc r) = some k → s.windows p (recWtab r) = some ws →
      ∃ i, i < 8 ∧ k.pwsz.getD i 0 ≠ 0 ∧ ((ws.toList.getD i 0).toNat < 2 ^ 63 ∨ (ws.toList.getD i 0).toNat / 2 ^ 47 % 2 ^ 16 < k.pwsz.getD i 0)
  | 4 => recPriv r = true ∧ ∀ q, s.proc? p = some q → q.priv = false
  | 5 => ∀ c, s.scopes.get? (recScope r) = some c → c.proc ≠ p
  | 6 => ∀ c, s.scopes.get? (recScope r) = some c → c.state ≠ .live
  | _ => False

end Sys2Proof.Machine
end

