-- ==== Sys2Proof/Certificates/Slice0/Obligations.lean ====
section
/-! DEFINITION. What the manual's rules say of the machine, as statements about the model. -/

open Sys2Proof Sys2Proof.Machine

/-! ## Integer instructions (R79 to R96) -/

/-- R80, R88: the result of an arithmetic instruction is the exact one, clamped or reduced to its type. -/
def Obligations.IntegerArithmetic : Prop :=
  ∀ (f : Frame) (i : Instr) (sat : Bool) (n : Nat) (g : Int → Int → Int → Int),
    (i, sat, n, g) ∈ ([(.iadd f, f.bit 0, 2, fun a b _ => a + b), (.isub f, f.bit 0, 2, fun a b _ => a - b), (.ineg f, f.bit 0, 1, fun a _ _ => -a),
      (.iabs f, f.bit 0, 1, fun a _ _ => |a|), (.imin f, false, 2, fun a b _ => min a b), (.imax f, false, 2, fun a b _ => max a b),
      (.imul f, f.bit 0, 2, fun a b _ => a * b), (.imad f, f.bit 0, 3, fun a b c => a * b + c),
      (.clampi f, false, 3, fun a b c => min (max a b) c)] : List (Instr × Bool × Nat × (Int → Int → Int → Int))) →
    Computes i f n false false false (tySigned f.vn) false id
      fun a b c r => FitsType f.vn sat (g (tyVal f.vn a) (tyVal f.vn b) (tyVal f.vn c)) r

/-- R89: carry chains. The result and the carry-out are the digits of the sum or difference with the carry-in, which is read before the carry-out is written.
R90, R91: the high product, the wide product, and the sums over packed elements, in the low 32 bits of the result or in its pair. -/
def Obligations.CarriesWideAndPacked : Prop :=
  (∀ (f : Frame) (i : Instr) (add : Bool), (i = .iaddc f ∧ add = true) ∨ (i = .isubb f ∧ add = false) →
   ∀ s x e sh, Ready i s x e sh f → x.active f e ≠ 0 →
     let a := x.oprA f false false
     let b := x.oprB f false false
     ∃ t y r o, exec i s = .next t ∧ Passes s t x y e sh f ∧ y.still = { x.still with preds := y.preds } ∧
       LaneHolds x y sh f (x.active f e) f.xd r (a.tag ||| b.tag) ∧ PredHolds x y (x.active f e) (f.mf 3 3) o (a.tag ||| b.tag) ∧
       ∀ l : Fin 32,
         let u := ((a.val l).toNat % 2 ^ 32 : Nat)
         let v := ((b.val l).toNat % 2 ^ 32 : Nat)
         let c : Nat := if (x.pred (f.mf 0 3)).getLsbD l.val != f.bit 6 then 1 else 0
         if add then (r l).toNat + (if o l then 2 ^ 32 else 0) = u + v + c
         else ((r l).toNat : Int) - (if o l then 2 ^ 32 else 0) = (u : Int) - v - c) ∧
  (∀ (f : Frame),
     let v := f.vn
     let s := tySigned v
     let sum := fun (n : Nat) (g : Nat → Int) => ((List.range n).map g).sum
     Computes (.imulhi f) f 2 false false false s false id
       (fun a b _ r => (((r.setWidth 32).toNat : Int) = tyVal v a * tyVal v b / 2 ^ 32 % 2 ^ 32)) ∧
     Computes (.imadw f) f 3 false false true s true id
       (fun a b c r => ((r.toNat : Int) = (tyVal v a * tyVal v b + c.toNat) % 2 ^ 64)) ∧
     Computes (.isad f) f 3 false false false s false id
       (fun a b c r => (((r.setWidth 32).toNat : Int) =
         (c.toNat + sum (32 / tyWidth v) fun j => |elem s (tyWidth v) j a - elem s (tyWidth v) j b|) % 2 ^ 32)) ∧
     ∀ (i : Instr) (n : Nat), (i = .dot4 f ∧ n = 8) ∨ (i = .dot8 f ∧ n = 4) →
       Computes i f 3 false false false s false id fun a b c r =>
         let t := (if s then (c.setWidth 32).toInt else ((c.setWidth 32).toNat : Int)) +
           sum (32 / n) fun j => elem s n j a * elem (s && !f.bit 1) n j b
         if f.bit 0 then (if s then (r.setWidth 32).toInt = max (-2 ^ 31) (min t (2 ^ 31 - 1)) else (((r.setWidth 32).toNat : Int) = max 0 (min t (2 ^ 32 - 1))))
         else (((r.setWidth 32).toNat : Int) = t % 2 ^ 32))

/-- R92: shifts and rotations. A shift by the width or more leaves zeros, or the sign. -/
def Obligations.Shifts : Prop :=
  ∀ (f : Frame),
    let wide := decide (f.vn = 6 ∨ f.vn = 7)
    let n := tyWidth f.vn
    let u := if wide then id else ext32 (tySigned f.vn)
    let k := fun b : W64 => b.toNat % 256
    Computes (.shl f) f 2 wide false false (tySigned f.vn) wide u (fun a b _ r => r.toNat % 2 ^ n = a.toNat * 2 ^ k b % 2 ^ n) ∧
    Computes (.shr f) f 2 wide false false (tySigned f.vn) wide u (fun a b _ r => r.toNat % 2 ^ n = a.toNat % 2 ^ n / 2 ^ k b) ∧
    Computes (.sar f) f 2 wide false false (tySigned f.vn) wide u (fun a b _ r => sextN r.toNat n = sextN a.toNat n / 2 ^ k b) ∧
    Computes (.shf f) f 3 false false false false false id (fun a b c r =>
      let w : W64 := a.setWidth 32 ++ b.setWidth 32
      let m := min (k c) 32
      r.setWidth 32 = if f.bit 0 then (w >>> m).setWidth 32 else (w <<< m).extractLsb' 32 32) ∧
    Computes (.rot f) f 2 false false false false false id (fun a b _ r => ∀ j : Nat, j < 32 →
      r.getLsbD j = a.getLsbD ((if f.bit 0 then j + k b else j + 32 - k b % 32) % 32))

/-- R93: logic and bit counting, bit by bit. R94, R96: bit fields, byte selection and extension. -/
def Obligations.LogicFieldsAndBytes : Prop :=
  (∀ (f : Frame),
     let wide := f.vn == 7
     let n := tyWidth f.vn
     let u := if wide then id else ext32 false
     (∀ (i : Instr) (g : Bool → Bool → Bool), (i, g) ∈ [(Instr.and f, Bool.and), (.or f, Bool.or), (.xor f, Bool.xor)] →
       Computes i f 2 wide wide false false wide u fun a b _ r => ∀ j : Nat, j < n → r.getLsbD j = g (a.getLsbD j) (b.getLsbD j)) ∧
     Computes (.lop3 f) f 3 false false false false false id (fun a b c r => ∀ j : Nat, j < 32 →
       r.getLsbD j = f.m.getLsbD ((a.getLsbD j).toNat + 2 * (b.getLsbD j).toNat + 4 * (c.getLsbD j).toNat)) ∧
     Computes (.popc f) f 1 wide false false false false id (fun a _ _ r => r.toNat = ((List.range n).filter fun j => a.getLsbD j).length) ∧
     Computes (.clz f) f 1 wide false false false false id (fun a _ _ r =>
       r.toNat ≤ n ∧ (∀ j : Nat, j < n → n ≤ j + r.toNat → a.getLsbD j = false) ∧ (r.toNat < n → a.getLsbD (n - 1 - r.toNat) = true)) ∧
     Computes (.ctz f) f 1 wide false false false false id (fun a _ _ r =>
       r.toNat ≤ n ∧ (∀ j : Nat, j < r.toNat → a.getLsbD j = false) ∧ (r.toNat < n → a.getLsbD r.toNat = true)) ∧
     Computes (.brev f) f 1 wide false false false wide id (fun a _ _ r => ∀ j : Nat, j < n → r.getLsbD j = a.getLsbD (n - 1 - j))) ∧
  (∀ (f : Frame),
     let lo := fun b : W64 => b.toNat % 32
     let hi := fun b : W64 => b.toNat / 256 % 32
     Computes (.bfx f) f 2 false false false false false id (fun a b _ r => ∀ j : Nat, j < 32 →
       r.getLsbD j = if hi b < lo b then false else if lo b + j ≤ hi b then a.getLsbD (lo b + j) else decide (f.vn = 0) && a.getLsbD (hi b)) ∧
     Computes (.bfi f) f 3 false false false false false id (fun a b c r => ∀ j : Nat, j < 32 →
       r.getLsbD j = if lo b ≤ j ∧ j ≤ hi b then a.getLsbD (j - lo b) else c.getLsbD j) ∧
     Computes (.prmt f) f 3 false false false false false id (fun a b c r => ∀ j : Nat, j < 4 →
       let sel := c.extractLsb' (8 * j) 8
       let w : W64 := b.setWidth 32 ++ a.setWidth 32
       let byte := w.extractLsb' (8 * (sel.toNat % 8)) 8
       r.extractLsb' (8 * j) 8 = match sel.toNat / 8 % 4 with
         | 0 => byte
         | 1 => 0
         | 2 => if byte.msb then 0xFF else 0
         | _ => 0xFF) ∧
     ∀ (i : Instr) (sx : Bool), (i = .sext f ∧ sx = true) ∨ (i = .zext f ∧ sx = false) →
       Computes i f 2 false false false sx (decide (f.vn = 6 ∨ f.vn = 7)) id fun a b _ r => ∀ j : Nat, j < 64 →
         let n := min (b.toNat % 256) 32
         r.getLsbD j = if n = 0 then false else if j < n then a.getLsbD j else sx && a.getLsbD (n - 1))

/-- R84, R95: comparisons write a predicate, false where a source is poisoned; `isel` takes the value and the tag of the source that it selects. R96: moves,
immediates, address computation and 64-bit addition. -/
def Obligations.CompareSelectAndMoves : Prop :=
  (∀ (f : Frame),
     (∀ (i : Instr) (wide : Bool), (i = .icmp f ∧ wide = false) ∨ (i = .icmp64 f ∧ wide = true) →
       YieldsPred i f f.xd (fun x => (x.oprA f wide (tySigned f.vn)).tag ||| (x.oprB f wide (tySigned f.vn)).tag) fun x l =>
         let a := tyVal f.vn ((x.oprA f wide (tySigned f.vn)).val l)
         let b := tyVal f.vn ((x.oprB f wide (tySigned f.vn)).val l)
         match f.mf 0 3 with
         | 0 => decide (a = b) | 1 => decide (a ≠ b) | 2 => decide (a < b) | 3 => decide (a ≤ b) | 4 => decide (b < a) | _ => decide (b ≤ a)) ∧
     let wide := f.vn == 7
     let sel := fun (x : Warp) => if f.bit 3 then ~~~(x.pred (f.mf 0 3)) else x.pred (f.mf 0 3)
     Yields (.isel f) f wide id (fun x => ((x.oprA f wide false).tag &&& sel x) ||| ((x.oprB f wide false).tag &&& ~~~(sel x))) fun x l r =>
       r = if (sel x).getLsbD l.val then (x.oprA f wide false).val l else (x.oprB f wide false).val l) ∧
  (∀ (f : Frame),
     let wide := decide (f.vn = 6 ∨ f.vn = 7)
     let sx := tySigned f.vn
     let ext := fun v : W64 => if sx then (v.setWidth 32).signExtend 64 else (v.setWidth 32).setWidth 64
     Computes (.mov f) f 1 (f.vn == 7) false false false (f.vn == 7) (if f.vn == 7 then id else ext32 false) (fun a _ _ r => r = a) ∧
     Computes (.movi f) f 0 false false false false wide id (fun _ _ _ r => r = ext (f.imm.setWidth 64)) ∧
     Computes (.iadd64 f) f 2 true (!f.bit 2) false sx true id (fun a b _ r =>
       r = if f.bit 1 then a - (if f.bit 2 then ext b else b) else a + (if f.bit 2 then ext b else b)) ∧
     Yields (.lea f) f true id (fun x => (x.laneOpr f.xa false).tag ||| (x.uniOpr f.kb).tag) fun x l r =>
       r = (x.uni f.kb).1 + ext ((x.laneOpr f.xa false).val l) * BitVec.ofNat 64 (2 ^ f.mf 0 3) + f.imm.signExtend 64)

/-! ## Floating point (R97 to R118) -/

/-- R100, R103, R106, R108: FP arithmetic on operands with their modifiers, rounded once by the code of the instruction or `FPCTL.RM`, and its flags. R105,
R107, R109: comparisons with their flags, the class of a value with its poison tag as bit 10, and the BF16 dot-pair. R101, R102, R104: what sums, products, fused
multiply-adds and their rounding give for each kind of operand, the smaller and the greater of two codes, and, for R105 and R107, each condition and class. -/
def Obligations.FloatInstructions : Prop :=
  (∀ (f : Frame) (i : Instr) (pk : Bool) (n : Nat) (g : Rm → Bool → W32 → W32 → W32 → Nat × Exc),
     let F := if f.vn = 0 then f16 else bf16
     let in32 := fun (fz : Bool) (v : W32) => f32.decFz fz v.toNat
     let part := fun (fz : Bool) (h : Nat) (v : W32) => F.decFz fz (v.toNat / 65536 ^ h % 65536)
     let both := fun (p : Nat → Nat × Exc) => ((p 0).1 + 65536 * (p 1).1, (p 0).2.or (p 1).2)
     let times := fun (G : Fmt) (rm : Rm) (fz : Bool) (a b : FVal) => ((G.product rm fz a b).1,
       { (G.product rm fz a b).2 with nv := (G.product rm fz a b).2.nv || a.isSig || b.isSig })
     (i, pk, n, g) ∈ ([
       (.fadd f, false, 2, fun rm fz a b _ => f32.sum rm fz false [in32 fz a, in32 fz b]),
       (.fsub f, false, 2, fun rm fz a b _ => f32.sum rm fz false [in32 fz a, in32 fz (b ^^^ 0x80000000)]),
       (.fmul f, false, 2, fun rm fz a b _ => times f32 rm fz (in32 fz a) (in32 fz b)),
       (.fma f, false, 3, fun rm fz a b c => f32.mulAdd rm fz [(in32 fz a, in32 fz b)] (in32 fz c)),
       (.fmin f, false, 2, fun _ fz a b _ => f32.minMax fz false (f.bit 3) a.toNat b.toNat),
       (.fmax f, false, 2, fun _ fz a b _ => f32.minMax fz true (f.bit 3) a.toNat b.toNat),
       (.frnd f, false, 1, fun rm fz a _ _ => frnd rm fz a),
       (.hadd2 f, true, 2, fun rm fz a b _ => both fun h => F.sum rm fz false [part fz h a, part fz h b]),
       (.hmul2 f, true, 2, fun rm fz a b _ => both fun h => times F rm fz (part fz h a) (part fz h b)),
       (.hfma2 f, true, 3, fun rm fz a b c => both fun h => F.mulAdd rm fz [(part fz h a, part fz h b)] (part fz h c)),
       (.hmnx2 f, true, 2, fun _ fz a b _ => both fun h =>
         F.minMax fz (f.bit 3) false (a.toNat / 65536 ^ h % 65536) (b.toNat / 65536 ^ h % 65536))]
       : List (Instr × Bool × Nat × (Rm → Bool → W32 → W32 → W32 → Nat × Exc))) →
     let signs : W32 := if pk then 0x80008000 else 0x80000000
     let mods := fun (neg abs : Bool) (v : W64) =>
       let m : W32 := if abs then v.setWidth 32 &&& ~~~signs else v.setWidth 32
       if neg then m ^^^ signs else m
     YieldsFloat i f false id (fun x _ => Taint n (x.oprA f false false) (x.oprB f false false) (x.oprC f false false)) fun x _ l =>
       let r := g (x.rm (f.mf 0 3)) (x.fp.ctl.getLsbD 8) (mods (f.bit 7) (f.bit 6) ((x.oprA f false false).val l))
         (if 2 ≤ n then mods (f.bit 5) (f.bit 4) ((x.oprB f false false).val l) else 0)
         (if 3 ≤ n then mods (f.bit 3) false ((x.oprC f false false).val l) else 0)
       (BitVec.ofNat 64 (r.1 % 2 ^ 32), r.2)) ∧
  (∀ (f : Frame),
     let mods := fun (signs : W32) (neg abs : Bool) (v : W64) =>
       let m : W32 := if abs then v.setWidth 32 &&& ~~~signs else v.setWidth 32
       if neg then m ^^^ signs else m
     (∀ s x e sh, Ready (.fcmp f) s x e sh f → x.active f e ≠ 0 →
       let taint := (x.oprA f false false).tag ||| (x.oprB f false false).tag
       let val := fun (neg abs : Bool) (o : Opr) (l : Fin 32) => f32.decFz (x.fp.ctl.getLsbD 8) (mods 0x80000000 neg abs (o.val l)).toNat
       let r := fun l : Fin 32 => fcond (f.mf 0 3) (val (f.bit 7) (f.bit 6) (x.oprA f false false) l) (val (f.bit 5) (f.bit 4) (x.oprB f false false) l)
       ∃ t y, exec (.fcmp f) s = .next t ∧ Passes s t x y e sh f ∧ y.still = { x.still with preds := y.preds, fp := y.fp } ∧
         y.fp.seed = x.fp.seed ∧ PredHolds x y (x.active f e) f.xd (fun l => (r l).1) taint ∧
         FlagsHold x y (x.active f e) taint fun l => { nv := (r l).2 }) ∧
     Yields (.fclass f) f false id (fun _ => 0) (fun x l r =>
       let o := x.oprA f false false
       let F := if f.vn = 0 then f32 else if f.vn = 1 then f16 else bf16
       r.setWidth 32 = if o.tag.getLsbD l.val then 0x500#32 else BitVec.ofNat 32 (fclass F ((o.val l).toNat % 2 ^ F.width))) ∧
     YieldsFloat (.bfma2 f) f false id (fun x _ => Taint 3 (x.oprA f false false) (x.oprB f false false) (x.oprC f false false)) fun x _ l =>
       let fz := x.fp.ctl.getLsbD 8
       let a := mods 0x80008000 (f.bit 7) (f.bit 6) ((x.oprA f false false).val l)
       let b := mods 0x80008000 (f.bit 5) (f.bit 4) ((x.oprB f false false).val l)
       let c := mods 0x80000000 (f.bit 3) false ((x.oprC f false false).val l)
       let d := fun (h : Nat) (v : W32) => bf16.decFz fz (v.toNat / 65536 ^ h % 65536)
       let r := f32.mulAdd (x.rm (f.mf 0 3)) fz [(d 0 a, d 0 b), (d 1 a, d 1 b)] (f32.decFz fz c.toNat)
       (BitVec.ofNat 64 (r.1 % 2 ^ 32), r.2)) ∧
  (∀ F ∈ [f32, f16, bf16], ∀ (rm : Rm) (fz : Bool),
     let sum := fun a b : FVal => F.sum rm fz false [a, b]
     let prod := fun a b : FVal => F.product rm fz a b
     let inf := fun s : Bool => (F.sign s F.infCode, ({} : Exc))
     let invalid : Nat × Exc := (F.nan, { nv := true })
     (∀ v : Dy, v.n ≠ 0 →
       let neg := decide (v.n < 0)
       let r := F.round rm neg v.n.natAbs v.e
       F.enc rm fz v =
         if F.maxCode < r.code then
           (F.sign neg (match rm with
             | .rne => F.infCode
             | .rz => F.maxCode
             | .ru => if neg then F.maxCode else F.infCode
             | .rd => if neg then F.infCode else F.maxCode), { of_ := true, nx := true })
         else if fz = true ∧ r.code ≠ 0 ∧ r.code < 2 ^ F.mb then (F.sign neg 0, { uf := true, nx := true })
         else (F.sign neg r.code, { uf := r.tiny && r.inexact, nx := r.inexact })) ∧
     (∀ a b : FVal, a.isNan = true ∨ b.isNan = true →
       sum a b = (F.nan, { nv := a.isSig || b.isSig }) ∧ prod a b = (F.nan, { nv := a.isSig || b.isSig })) ∧
     (∀ s t : Bool, sum (.inf s) (.inf t) = (if s = t then inf s else invalid) ∧ prod (.inf s) (.inf t) = inf (s != t)) ∧
     (∀ (s t : Bool) (v : Dy), sum (.inf s) (.num t v) = inf s ∧ sum (.num t v) (.inf s) = inf s ∧
       prod (.inf s) (.num t v) = (if v.n = 0 then invalid else inf (s != t)) ∧ prod (.num t v) (.inf s) = (if v.n = 0 then invalid else inf (s != t))) ∧
     (∀ (s t : Bool) (v u : Dy),
       (∃ w : Dy, (w.sub (v.add u)).isZero = true ∧ sum (.num s v) (.num t u) =
         if w.n ≠ 0 then F.enc rm fz w else if v.n = 0 ∧ u.n = 0 ∧ s = t then (F.sign s 0, {}) else (F.sign (decide (rm = .rd)) 0, {})) ∧
       prod (.num s v) (.num t u) = if v.n = 0 ∨ u.n = 0 then (F.sign (s != t) 0, {}) else F.enc rm fz ⟨v.n * u.n, v.e + u.e⟩) ∧
     (∀ a b c : FVal, F.mulAdd rm fz [(a, b)] c = match a.mul b with
       | none => invalid
       | some p => ((sum p c).1, { (sum p c).2 with nv := (sum p c).2.nv || a.isSig || b.isSig || c.isSig })) ∧
     (∀ (s t : Bool) (v u : Dy), FVal.mul (.num s v) (.num t u) = some (.num (s != t) ⟨v.n * u.n, v.e + u.e⟩)) ∧
     (∀ (max pn : Bool) (p q : Nat), p < 2 ^ F.width → q < 2 ^ F.width →
       let a := F.decFz fz p
       let b := F.decFz fz q
       let norm := fun c : Nat => match F.decFz fz c with
         | .num s v => if v.n = 0 then F.sign s 0 else c
         | _ => c
       let r := F.minMax fz max pn p q
       r.2 = { nv := a.isSig || b.isSig } ∧
       (a.isNan = true ∧ b.isNan = true ∨ pn = true ∧ (a.isNan = true ∨ b.isNan = true) → r.1 = F.nan) ∧
       (pn = false → (a.isNan = true → b.isNan = false → r.1 = norm q) ∧ (b.isNan = true → a.isNan = false → r.1 = norm p)) ∧
       (a.isNan = false → b.isNan = false → (r.1 = norm p ∨ r.1 = norm q) ∧ ∀ z ∈ [a, b],
         if max then (F.decFz fz r.1).before z = false else z.before (F.decFz fz r.1) = false)) ∧
     (∀ c : Nat, c < 2 ^ F.width →
       let s := decide (2 ^ (F.eb + F.mb) ≤ c)
       let ex := c / 2 ^ F.mb % 2 ^ F.eb
       let fr := c % 2 ^ F.mb
       fclass F c = 2 ^ (if ex = 2 ^ F.eb - 1 then (if fr = 0 then (if s then 0 else 7) else if fr < 2 ^ (F.mb - 1) then 8 else 9)
         else if ex = 0 then (if fr = 0 then (if s then 3 else 4) else if s then 2 else 5) else if s then 1 else 6))) ∧
  (∀ a b : FVal,
     let nan := a.isNan || b.isNan
     let sig := a.isSig || b.isSig
     (∀ n : Nat, n < 8 → (fcond n a b).2 = (if 2 ≤ n ∧ n ≤ 5 then nan else sig) ∧ (nan = true → (fcond n a b).1 = decide (n = 1 ∨ n = 7)) ∧
       (nan = false → (fcond n a b).1 = match n with
         | 0 => !a.lt b && !b.lt a
         | 1 => a.lt b || b.lt a
         | 2 => a.lt b
         | 3 => !b.lt a
         | 4 => b.lt a
         | 5 => !a.lt b
         | 6 => true
         | _ => false)) ∧
     (∀ (s t : Bool) (v u : Dy), FVal.lt (.num s v) (.num t u) = decide ((v.sub u).n < 0) ∧ FVal.lt (.inf s) (.num t u) = s ∧
       FVal.lt (.num t u) (.inf s) = !s ∧ FVal.lt (.inf s) (.inf t) = (s && !t)))

/-- R110 to R117: conversions between formats, stochastic rounding with one step of `SRSEED`, packing, and one microscaling block over the active lanes. R99,
R101: rounding to nearest delivers a representable neighbour than which no code is nearer, on a tie the even one; rounding toward zero the greatest code not above
the magnitude; rounding up and down that code or the next, by the sign. A result is inexact unless it is the value, and tiny if it lies below the least normal
value after rounding without a bound on the exponent. Codes count the magnitudes of a format upward without a bound on the exponent. What a conversion
between formats of equal width (log entry 32), an integer beyond the range of e4m3 or e2m1 (log entry 59), a tiny result (log entry 60), a zero of `cvtmx` (log
entry 61) and stochastic rounding beyond the greatest finite value (log entry 71) give is the model's choice. -/
def Obligations.ConversionsAndRounding : Prop :=
  (∀ (f : Frame),
     let st := f.mf 8 4
     let dt := f.mf 4 4
     let in32 := fun v : W64 => f32.dec (v.toNat % 2 ^ 32)
     YieldsFloat (.cvt f) f (decide (dt = 6 ∨ dt = 7)) id (fun x _ => (x.laneOpr f.xa (decide (st = 6 ∨ st = 7))).tag) (fun x _ l =>
       convert st dt (f.bit 3) (x.rm (f.mf 0 3)) ((x.laneOpr f.xa (decide (st = 6 ∨ st = 7))).val l)) ∧
     YieldsFloat (.cvtsr f) f false (fun v => (xs (v.setWidth 32)).setWidth 64) (fun x _ => (x.laneOpr f.xa false).tag) (fun x _ l =>
       let u := (xs (x.fp.seed.setWidth 32 ^^^ BitVec.ofNat 32 (l.val * 0x9E3779B9))).toNat % 2 ^ 16
       let r := cvtSr dt u (in32 ((x.laneOpr f.xa false).val l))
       (BitVec.ofNat 64 (r.1 % 2 ^ 32), r.2)) ∧
     YieldsFloat (.cvtpk f) f false id (fun x _ => (x.laneOpr f.xa false).tag ||| (x.laneOpr f.xb false).tag |||
         (if f.bit 11 then (x.laneOpr f.xc false).tag else 0)) (fun x _ l =>
       let n := if dt ≤ 10 then 16 else if dt ≤ 12 then 8 else 4
       let a := cvtFloat dt (x.rm (f.mf 0 3)) (f.bit 3) (in32 ((x.laneOpr f.xa false).val l))
       let b := cvtFloat dt (x.rm (f.mf 0 3)) (f.bit 3) (in32 ((x.laneOpr f.xb false).val l))
       let c : W64 := if f.bit 11 then (x.laneOpr f.xc false).val l else 0
       let m : W64 := BitVec.ofNat 64 ((2 ^ (2 * n) - 1) * 2 ^ (2 * n * f.mf 12 2))
       (BitVec.ofNat 64 (((c &&& ~~~m).toNat % 2 ^ 32 + (a.1 + b.1 * 2 ^ n) * 2 ^ (2 * n * f.mf 12 2)) % 2 ^ 32), a.2.or b.2)) ∧
     let ef := f.bit 0
     let inputs := fun (x : Warp) => (x.laneOpr f.xa false).tag ||| (if ef then (x.laneOpr f.xb false).tag else 0)
     YieldsFloat (.cvtmx f) f ef id (fun x act => if inputs x &&& act = 0 then 0 else allLanes) fun x act l =>
       let q := mxLanes dt act (x.laneOpr f.xa false).val (if ef then some (x.laneOpr f.xb false).val else none)
       (q.1 l, q.2)) ∧
  (∀ F ∈ [f32, f16, bf16, e4m3, e5m2, e2m1], ∀ (m : Nat) (e : Int), m ≠ 0 →
     let v : Dy := ⟨m, e⟩
     let val := fun c : Nat =>
       let ex := c / 2 ^ F.mb
       (⟨if ex = 0 then c % 2 ^ F.mb else c % 2 ^ F.mb + 2 ^ F.mb, F.emin - F.mb + (if ex = 0 then 0 else (ex : Int) - 1)⟩ : Dy)
     (∀ c : Nat, (v.sub (val c)).abs.lt (v.sub (val (F.round .rne false m e).code)).abs = false) ∧
     v.lt (val (F.round .rz false m e).code) = false ∧ v.lt (val ((F.round .rz false m e).code + 1)) = true ∧
     (v.sub (val (F.round .rz false m e).code)).isZero = !(F.round .rz false m e).inexact ∧
     ∀ neg : Bool,
       let lo := (F.round .rz neg m e).code
       let below := v.sub (val lo)
       let above := (val (lo + 1)).sub v
       lo = (F.round .rz false m e).code ∧
       (F.round .rne neg m e).code = (if above.lt below || (!below.lt above && lo % 2 == 1) then lo + 1 else lo) ∧
       (F.round .ru neg m e).code = (if below.isZero || neg then lo else lo + 1) ∧
       (F.round .rd neg m e).code = (if below.isZero || !neg then lo else lo + 1) ∧
       ∀ rm : Rm, (F.round rm neg m e).inexact = !below.isZero ∧ ∀ k : Nat,
         let G : Fmt := { F with eb := k }
         let c := (G.round rm neg m e).code
         let ex := c / 2 ^ F.mb
         let r : Dy := ⟨if ex = 0 then c % 2 ^ F.mb else c % 2 ^ F.mb + 2 ^ F.mb, G.emin - F.mb + (if ex = 0 then 0 else (ex : Int) - 1)⟩
         G.emin ≤ v.log2 → (F.round rm neg m e).tiny = r.lt ⟨1, F.emin⟩)

/-! ## Predicates, cross-lane operations and special functions (R138 to R157) -/

/-- R138 to R141: predicate instructions; a tagged lane receives false, and `pmov` moves the predicates of a lane as a byte. -/
def Obligations.PredicateOperations : Prop :=
  ∀ (f : Frame),
    YieldsPred (.pset f) f f.xd (fun x => (x.oprA f false false).tag ||| (if f.vn = 0 then (x.oprB f false false).tag else 0)) (fun x l =>
      let a := (x.oprA f false false).val l
      (match f.vn with
        | 0 => a.getLsbD (((x.oprB f false false).val l).toNat % 32)
        | 1 => a.getLsbD l.val
        | _ => decide (a.setWidth 32 ≠ 0#32)) != f.bit 0) ∧
    YieldsPred (.plop f) f f.xd (fun _ => 0) (fun x l =>
      let p := fun n : Nat => ((x.pred n).getLsbD l.val).toNat
      f.m.getLsbD (4 * p f.xa + 2 * p f.xb + p (f.mf 8 3))) ∧
    (f.vn = 0 → Yields (.pmov f) f false id (fun _ => 0) fun x l r => ∀ j : Nat, j < 32 →
      r.getLsbD j = (decide (j < 8) && (x.pred j).getLsbD l.val)) ∧
    (f.vn ≠ 0 → ∀ s x e sh, Ready (.pmov f) s x e sh f → x.active f e ≠ 0 →
      ∃ t y, exec (.pmov f) s = .next t ∧ Passes s t x y e sh f ∧ y.still = { x.still with preds := y.preds } ∧
        ∀ m : Nat, m < 7 → ∀ l : Fin 32, (y.pred m).getLsbD l.val =
          if f.bit m ∧ (x.active f e).getLsbD l.val then (x.lane f.xa).1[l].getLsbD m && !(x.lane f.xa).2.getLsbD l.val
          else (x.pred m).getLsbD l.val)

/-- R143, R144, R148, R149: shuffles, votes, matches and lane queries. R145 to R147: a reduction over the active lanes, in any grouping for the integer
operations, and a scan in lane order, inclusive or exclusive. That the rounding which takes in a tagged value raises no flag, its own lane's under `.exc` too,
is the model's reading (log entry 82). -/
def Obligations.CrossLaneInstructions : Prop :=
  (∀ (f : Frame),
     let count := fun m : Mask => ((List.finRange 32).filter fun l => m.getLsbD l.val).length
     (∀ s x e sh, Ready (.shfl f) s x e sh f → x.active f e ≠ 0 →
       let act := x.active f e
       let w := 2 ^ f.mf 3 3
       let b := fun l : Fin 32 => if f.vn = 3 then 0 else ((x.oprB f false false).val l).toNat % 256
       let tb := if f.vn = 3 then 0 else (x.oprB f false false).tag
       let src := fun l : Fin 32 => l.val / w * w + (match f.vn with
         | 0 => b l % w
         | 1 => (l.val % w + b l) % w
         | 2 => (l.val % w) ^^^ (b l % w)
         | _ => w - 1 - l.val % w)
       ∃ t y tag, exec (.shfl f) s = .next t ∧ Passes s t x y e sh f ∧
         y.still = { x.still with preds := y.preds, results := y.results } ∧
         (∀ l : Fin 32, tag.getLsbD l.val = (act.getLsbD (src l) && (x.lane f.xa).2.getLsbD (src l) || tb.getLsbD l.val)) ∧
         PredHolds x y act (f.mf 0 3) (fun l => act.getLsbD (src l)) tb ∧
         LaneWaits x y act f.xd (fun l => if act.getLsbD (src l) then (x.lane f.xa).1[src l]?.getD 0 else 0) tag) ∧
     let held := fun (x : Warp) (act : Mask) => act &&& (if f.bit 6 then ~~~(x.pred f.xa) else x.pred f.xa)
     (f.vn ≤ 2 → ∀ s x e sh, Ready (.vote f) s x e sh f → x.active f e ≠ 0 →
       let n := count (x.active f e)
       let c := count (held x (x.active f e))
       ∃ t y, exec (.vote f) s = .next t ∧ Passes s t x y e sh f ∧ y.still = { x.still with preds := y.preds } ∧
         PredHolds x y (x.active f e) f.xd (fun _ => if f.vn = 0 then decide (f.mf 0 6 ≤ c) else if f.vn = 1 then decide (c = n) else decide (c = n ∨ c = 0)) 0) ∧
     (3 ≤ f.vn → YieldsLate (.vote f) f f.du (fun _ _ => 0)
       (fun x act _ => if f.vn = 3 then held x act else BitVec.ofNat 32 (count (held x act))) (fun _ _ _ => {}) (fun _ _ => 0)) ∧
     YieldsLate (.lanes f) f (f.du && f.vn != 2) (fun _ _ => 0) (fun x act l => match f.vn with
       | 0 => act
       | 1 => (x.hw ++ x.sp).foldl (fun (m : Mask) (e : Entry) => m ||| e.mask) 0
       | 2 => BitVec.ofNat 32 ((List.finRange 32).filter fun k => act.getLsbD k.val && decide (k < l)).length
       | _ => BitVec.ofNat 32 (count act)) (fun _ _ _ => {}) (fun _ _ => 0) ∧
     YieldsLate (.matchLanes f) f (f.du && f.vn == 3)
       (fun x act => if (x.laneOpr f.xa (f.bit 0)).tag &&& act = 0 then 0 else allLanes) (fun x act l =>
         let o := x.laneOpr f.xa (f.bit 0)
         let same := (List.finRange 32).filter fun k => act.getLsbD k.val && o.val k == o.val l
         match f.vn with
         | 0 => BitVec.ofNat 32 ((same.head?.map (·.val)).getD 0)
         | 1 => act &&& maskOf fun k => o.val k == o.val l
         | 2 => BitVec.ofNat 32 same.length
         | _ => if same.length = count act then 1 else 0) (fun _ _ _ => {}) (fun _ _ => 0)) ∧
  (∀ (f : Frame),
     let val := fun (x : Warp) (l : Fin 32) => if 6 ≤ f.vn then signMods 0x80000000 (f.bit 7) (f.bit 6) (x.lane f.xa).1[l] else (x.lane f.xa).1[l]
     let g := fun (x : Warp) => combine f.vn (f.bit 0) (x.rm (f.mf 0 3)) (x.fp.ctl.getLsbD 8)
     let lanes := fun act : Mask => (List.finRange 32).filter fun l => act.getLsbD l.val
     (f.vn ≤ 5 → YieldsLate (.redux f) f f.du (fun x act => if (x.lane f.xa).2 &&& act = 0 then 0 else allLanes) (fun x act _ =>
         match (lanes act).map (val x) with
         | [] => 0
         | a :: as => as.foldl (fun p q => (g x p q).1) a) (fun _ _ _ => {}) (fun _ _ => 0)) ∧
     (6 ≤ f.vn → YieldsLate (.redux f) f f.du (fun x act => if (x.lane f.xa).2 &&& act = 0 then 0 else allLanes)
         (fun x act _ => ((tree (g x) 5 ((List.finRange 32).map fun l => if act.getLsbD l.val then some (val x l) else none)).1.head?.bind id).getD 0)
         (fun x act _ => (tree (g x) 5 ((List.finRange 32).map fun l => if act.getLsbD l.val then some (val x l) else none)).2)
         (fun x act => if (x.lane f.xa).2 &&& act = 0 then 0 else allLanes)) ∧
     let exc := f.bit 4
     let before := fun (x : Warp) (act : Mask) (l : Fin 32) =>
       let vs := ((lanes act).filter fun k => decide (k < l)).map (val x)
       if exc then some (vs.foldl (fun p q => (g x p q).1) (identity f.vn (f.bit 0)))
       else match vs with
         | [] => none
         | a :: as => some (as.foldl (fun p q => (g x p q).1) a)
     let upto := fun (x : Warp) (act : Mask) (l : Fin 32) => match before x act l with
       | none => (val x l, ({} : Exc))
       | some p => g x p (val x l)
     let dirty := fun (x : Warp) (act : Mask) (strict : Bool) => maskOf fun l =>
       (lanes act).any fun k => (x.lane f.xa).2.getLsbD k.val && (if strict then decide (k < l) else decide (k ≤ l))
     YieldsLate (.scan f) f false (fun x act => dirty x act exc &&& act) (fun x act l => if exc then (before x act l).getD 0 else (upto x act l).1)
       (fun x act l => (upto x act l).2) (fun x act => dirty x act false))

/-- R151 to R156: the special functions. Their values at the points that R154 fixes, by the operand's code: −∞, −0, +0, +∞. -/
def Obligations.SpecialFunctions : Prop :=
  (∀ (f : Frame) (i : Instr) (g : Sfn), (i, g) ∈ [(Instr.rcp f, sfRcp), (.rsq f, sfRsq), (.sqrt f, sfSqrt), (.ex2 f, sfEx2), (.lg2 f, sfLg2), (.sin f, sfSin),
      (.cos f, sfCos), (.tanh f, sfTanh), (.sigm f, sfSigm), (.erf f, sfErf)] →
    let mods := fun (v : W64) =>
      let m : W32 := if f.bit 6 then v.setWidth 32 &&& 0x7FFFFFFF else v.setWidth 32
      if f.bit 7 then m ^^^ 0x80000000 else m
    YieldsLate i f false (fun x _ => (x.oprA f false false).tag)
      (fun x _ l => BitVec.ofNat 32 (g.eval (x.fp.ctl.getLsbD 8) (mods ((x.oprA f false false).val l))).1)
      (fun x _ l => (g.eval (x.fp.ctl.getLsbD 8) (mods ((x.oprA f false false).val l))).2) (fun x _ => (x.oprA f false false).tag)) ∧
  (∀ (g : Sfn) (a b c d : Nat), (g, a, b, c, d) ∈ [(sfRcp, 0x80000000, 0xFF800000, 0x7F800000, 0), (sfRsq, 0x7FC00000, 0xFF800000, 0x7F800000, 0),
      (sfSqrt, 0x7FC00000, 0x80000000, 0, 0x7F800000), (sfEx2, 0, 0x3F800000, 0x3F800000, 0x7F800000), (sfLg2, 0x7FC00000, 0xFF800000, 0xFF800000, 0x7F800000),
      (sfSin, 0x7FC00000, 0x80000000, 0, 0x7FC00000), (sfCos, 0x7FC00000, 0x3F800000, 0x3F800000, 0x7FC00000),
      (sfTanh, 0xBF800000, 0x80000000, 0, 0x3F800000), (sfSigm, 0, 0x3F000000, 0x3F000000, 0x3F800000),
      (sfErf, 0xBF800000, 0x80000000, 0, 0x3F800000)] →
    ∀ fz, (g.eval fz 0xFF800000).1 = a ∧ (g.eval fz 0x80000000).1 = b ∧ (g.eval fz 0).1 = c ∧ (g.eval fz 0x7F800000).1 = d)

/-! ## Control flow and waits (R119 to R137) -/

/-- R120, R123 to R125: transfers of control. Active lanes stand at their targets, the other lanes of the head entry go on; a call writes its link value. R126,
R134, R175, R177: a tagged control value traps with code 9 before any effect. That the target of `brx` and `callx` is taken with its two low bits dropped is the
model's reading (log entry 45). -/
def Obligations.BranchesAndTheirTraps : Prop :=
  (∀ (f : Frame) (s : State) (x : Warp) (e : Entry) (sh : Shape),
     let act := x.active f e
     let m8 : BitVec 8 := f.m.setWidth 8
     let direct := e.pc + f.imm.signExtend 57
     let follow := e.pc + BitVec.ofNat 57 f.form.bytes
     let ix := fun l : Fin 32 => (((x.uni f.kb).1.setWidth 57 + (((x.lane f.xa).1[l]).extractLsb' 2 22).setWidth 57 * 4) &&& ~~~3#57,
       ((x.lane f.xa).1[l]).extractLsb' 24 8)
     let ixClean := ((x.lane f.xa).2 ||| if (x.uni f.kb).2 then allLanes else 0) &&& act = 0
     let linked := fun (y : Warp) (prio : BitVec 8) => act ≠ 0 → f.xd ≠ 255 → ∃ L : W64, L.extractLsb' 56 8 = prio ∧ L.getLsbD 55 = false ∧
       L.extractLsb' 0 55 = follow.extractLsb' 2 55 ∧ LaneHolds x y sh f act f.xd (fun _ => L.setWidth 32) 0 ∧
       LaneHolds x y sh f act (f.xd + 1) (fun _ => L.extractLsb' 32 32) 0
     (Ready (.bra f) s x e sh f → ∃ t y, exec (.bra f) s = .next t ∧ Retires s t x y e sh f ∧ y.still = x.still ∧
       Splits s x y e f (fun _ => (direct, m8)) f.b.num) ∧
     (Ready (.brx f) s x e sh f → ixClean → ∃ t y, exec (.brx f) s = .next t ∧ Retires s t x y e sh f ∧ y.still = x.still ∧
       Splits s x y e f ix m8) ∧
     (Ready (.call f) s x e sh f → ∃ t y, exec (.call f) s = .next t ∧ Retires s t x y e sh f ∧ y.still = x.still ∧
       Splits s x y e f (fun _ => (direct, m8)) f.b.num ∧ linked y f.b.num) ∧
     (Ready (.callx f) s x e sh f → ixClean → ∃ t y, exec (.callx f) s = .next t ∧ Retires s t x y e sh f ∧ y.still = x.still ∧
       Splits s x y e f ix m8 ∧ linked y m8) ∧
     (Ready (.ret f) s x e sh f → (x.laneOpr f.xa true).tag &&& act = 0 →
       ∃ t y, exec (.ret f) s = .next t ∧ Retires s t x y e sh f ∧ y.still = x.still ∧
         Splits s x y e f (fun l => ((((x.laneOpr f.xa true).val l).extractLsb' 0 55).setWidth 57 * 4, ((x.laneOpr f.xa true).val l).extractLsb' 56 8)) m8)) ∧
  (∀ (f : Frame) (s : State) (x : Warp) (e : Entry) (sh : Shape),
     let act := x.active f e
     let trap := Host.Outcome.next (φ := Fault) (ρ := Refusal) (s.takeTrap s.cur 9 0 e.pc)
     let ixDirty := ((x.lane f.xa).2 ||| if (x.uni f.kb).2 then allLanes else 0) &&& act ≠ 0
     (Ready (.brx f) s x e sh f → ixDirty → exec (.brx f) s = trap) ∧
     (Ready (.callx f) s x e sh f → ixDirty → exec (.callx f) s = trap) ∧
     (Ready (.ret f) s x e sh f → (x.laneOpr f.xa true).tag &&& act ≠ 0 → exec (.ret f) s = trap) ∧
     (Ready (.sleep f) s x e sh f → act ≠ 0 → f.bu = true → (x.uni f.kb).2 = true → exec (.sleep f) s = trap) ∧
     (Ready (.tmsetRel f) s x e sh f → act ≠ 0 → f.bi = false → (x.uni f.ka).2 = true → exec (.tmsetRel f) s = trap) ∧
     (Ready (.tmsetAbs f) s x e sh f → act ≠ 0 → (x.uni f.ka).2 = true → exec (.tmsetAbs f) s = trap) ∧
     ∀ i ∈ [Instr.setsr f, .tlbinvWrite f, .errinjWrite f], Ready i s x e sh f → act ≠ 0 →
       (if f.au then (x.uni f.ka).2 = true else ∃ l : Fin 32, firstLane act = some l ∧ (x.lane f.xa).2.getLsbD l.val = true) → exec i s = trap)

/-- R127, R166: `exit` completes when the operand log is free: it ends its active lanes; the others of its entry go on. When no lane is left the warp has ended,
or is gone: with nothing outstanding, its slot is free and its ensemble has one live warp less. While the operand log holds an entry, the warp waits. R120: an
`exit` whose guard holds in no lane of its entry ends none of them: the whole entry goes on with the priority of the instruction, whatever the operand log
holds. -/
def Obligations.ExitEndsLanes : Prop :=
  (∀ (f : Frame) (s : State) (x : Warp) (e : Entry) (sh : Shape), Ready (.exit f) s x e sh f → x.active f e = 0 → e.mask ≠ 0 →
    ∃ t y, exec (.exit f) s = .next t ∧ Retires s t x y e sh f ∧ y.still = x.still ∧
      y.hw = (x.replaceHead [{ prio := f.m.setWidth 8, pc := s.land s.cur x (e.pc + BitVec.ofNat 57 f.form.bytes), mask := e.mask }]).hw) ∧
  ∀ (f : Frame) (s : State) (x : Warp) (e : Entry) (sh : Shape), Ready (.exit f) s x e sh f → x.active f e ≠ 0 →
    let rest := e.mask &&& ~~~(x.active f e)
    (x.log = [] → x.fifth = none → (rest ≠ 0 ∨ x.hw.tail ≠ [] ∨ x.sp ≠ []) →
      ∃ t y, exec (.exit f) s = .next t ∧ Retires s t x y e sh f ∧ y.still = x.still ∧
        y.hw = (x.replaceHead [{ prio := f.m.setWidth 8, pc := s.land s.cur x (e.pc + BitVec.ofNat 57 f.form.bytes), mask := rest }]).hw) ∧
    (x.log = [] → x.fifth = none → rest = 0 → x.hw.tail = [] → x.sp = [] →
      ∃ t, exec (.exit f) s = .next t ∧ ∀ y, t.warp? s.cur = some y → y.marks.ended = true ∧ y.marks.killed = false ∧ y.hw = [] ∧ y.sp = [] ∧ y.wait = none) ∧
    (∀ n q, x.log = [] → x.fifth = none → rest = 0 → x.hw.tail = [] → x.sp = [] → x.members = [] → x.results = [] → x.owner.task = false →
      x.owner.ensemble = some n → s.ensembles.get? n = some q → s.flightsOf s.cur = [] → x.call.call = none → x.call.posts = [] →
      ∃ t, exec (.exit f) s = .next t ∧ t.warp? s.cur = none ∧ t.ensembles.get? n = some { q with live := q.live - 1 } ∧ t.mem = s.mem ∧
        ∀ w, w ≠ s.cur → t.warp? w = s.warp? w) ∧
    (x.log ≠ [] ∨ x.fifth ≠ none → ∃ t y, exec (.exit f) s = .next t ∧ t.warp? s.cur = some y ∧ y.hw = x.hw ∧ y.wait = some .oplog ∧ t.mem = s.mem)

/-- R129 to R132: `nop`, `yield`, `setprio` and `brk`. The breakpoint trap is taken after the instruction has retired, and its return address is the one that
follows. R133, R134: `wait` passes when its condition holds and otherwise suspends the warp, which has ended its run; `sleep` moves past itself and sleeps for
its count. That `wait.st` takes a write in the buffer of a cluster-shared slice as performed is the model's choice (log entry 81). -/
def Obligations.NopsWaitsAndBreaks : Prop :=
  (∀ (f : Frame) (s : State) (x : Warp) (e : Entry) (sh : Shape),
     let follow := e.pc + BitVec.ofNat 57 f.form.bytes
     (Ready (.nop f) s x e sh f → ∃ t y, exec (.nop f) s = .next t ∧ Passes s t x y e sh f ∧ y.still = x.still) ∧
     (Ready (.yield f) s x e sh f → x.active f e ≠ 0 →
       ∃ t y, exec (.yield f) s = .next t ∧ Passes s t x y e sh f ∧ y.still = { x.still with yielded := true, age := 0 }) ∧
     (Ready (.setprio f) s x e sh f → x.active f e ≠ 0 →
       ∃ t y, exec (.setprio f) s = .next t ∧ Retires s t x y e sh f ∧ y.still = x.still ∧
         y.hw = (x.replaceHead [{ prio := f.m.setWidth 8, pc := s.land s.cur x follow, mask := e.mask }]).hw) ∧
     (Ready (.brk f) s x e sh f → x.active f e ≠ 0 → x.takes 0x20 = true → e.mask ≠ 0 →
       ∃ t q y e', exec (.brk f) s = .next t ∧ t.warp? s.cur = some y ∧ Moved s x q e f ∧ q.hw.head? = some e' ∧
         Entered s q y e' 0x20 (BitVec.setWidth 64 (f.m.setWidth 8)) follow ∧ OnlyWarp s t)) ∧
  (∀ (f : Frame) (s : State) (x : Warp) (e : Entry) (sh : Shape),
     let regs := (∀ r ∈ x.x, r.2.empty = false) ∧ ∀ r ∈ x.k, r.2.empty = false
     let stores := (∀ a ∈ s.flights, a.w = s.cur → a.writes = false) ∧ x.log = [] ∧ x.fifth = none
     let clear := ∀ c ∈ x.copy.cnt, c.2 = 0
     (∀ (i : Instr) (wt : Wait) (c : Prop), (i = .waitRegs f ∧ wt = .waitRegs ∧ c = regs) ∨ (i = .waitSt f ∧ wt = .waitSt ∧ c = stores) ∨
         (i = .waitAll f ∧ wt = .waitAll ∧ c = (regs ∧ stores ∧ clear)) → Ready i s x e sh f → x.active f e ≠ 0 →
       (c → ∃ t y, exec i s = .next t ∧ Passes s t x y e sh f ∧ y.still = x.still) ∧
       (¬ c → ∃ t y, exec i s = .next t ∧ t.warp? s.cur = some y ∧ y.wait = some wt ∧ y.hw = x.hw ∧ y.run = 0 ∧ y.waitLen = f.form.bytes ∧ OnlyWarp s t)) ∧
     (Ready (.sleep f) s x e sh f → x.active f e ≠ 0 → (f.bu = true → (x.uni f.kb).2 = false) →
       let n := if f.bi then f.imm.toNat else (x.uni f.kb).1.toNat % 2 ^ 32
       ∃ t y, exec (.sleep f) s = .next t ∧ t.warp? s.cur = some y ∧ y.wait = (if n = 0 then none else some (.sleep (s.clock + n))) ∧
         y.hw = (x.replaceHead [{ e with pc := s.land s.cur x (e.pc + BitVec.ofNat 57 f.form.bytes) }]).hw ∧
         y.run = (if f.eor then 0 else x.run + 1) ∧ OnlyWarp s t))

/-! ## Issue, traps and system registers (R33, R34, R158 to R178) -/

/-- R33, R34, R63: before it issues, an instruction waits while a token that it names is pending, for an empty source, or for an empty destination; an empty
source marked EP traps with code 8 and the register's number. R68, R159: an instruction that waits at issue or traps precisely has none of its effects. This
holds of every encoded instruction. R54, R55: an instruction whose guard holds in no lane of its entry changes no register, predicate or memory; it only
advances. This holds of every encoded instruction that acts under its guard, all but the transfers of R120 and `exit`, whose effect without an active lane R120
gives. That the first empty source in the order of the fields decides (log entry 55), that the waits hold whatever the guard, and that EP traps only after the
tokens (log entry 40) are the model's readings. -/
def Obligations.GatesHoldsAndGuards : Prop :=
  (∀ (s : State) (w : Nat) (x : Warp) (sh : Shape) (f : Frame) (act : Mask),
     let tokens := ∃ i : Nat, i < 8 ∧ f.wt.getLsbD i = true ∧ x.copy.cnt.getD i 0 ≠ 0
     (tokens → s.gate w x sh f act = some (.hold (.token f.wt))) ∧
     (¬ tokens → ∀ r src, (sh.reads f).find? (fun p => x.isEmpty p.1) = some (r, src) → s.gate w x sh f act =
       some (if src.ep then .trap 8 (match r with | .x n => BitVec.ofNat 64 n | .k n => BitVec.ofNat 64 (1024 + n)) else .hold (.regs [r]))) ∧
     (¬ tokens → (∀ p ∈ sh.reads f, x.isEmpty p.1 = false) → ∀ r, (sh.writes f).find? x.isEmpty = some r →
       s.gate w x sh f act = some (.hold (.regs [r]))) ∧
     (¬ tokens → (∀ p ∈ sh.reads f, x.isEmpty p.1 = false ∧ x.isSpilled p.1 = false) →
       (∀ r ∈ sh.writes f, x.isBound r = true ∧ x.isEmpty r = false ∧ x.isSpilled r = false) → (∀ r ∈ sh.writes f, frees sh f r = false) →
       s.gate w x sh f act = none)) ∧
  (∀ (i : Instr) (s : State) (x : Warp) (e : Entry) (sh : Shape) (f : Frame),
     s.warp? s.cur = some x → x.hw.head? = some e → i.shape = (sh, some f) →
     (∀ wt, s.gate s.cur x sh f (x.active f e) = some (.hold wt) →
       ∃ t, exec i s = .next t ∧ OnlyWarp s t ∧ t.warp? s.cur = some { x with wait := some wt, kept := [], waitLen := f.form.bytes }) ∧
     (∀ code info, s.gate s.cur x sh f (x.active f e) = some (.trap code info) → exec i s = .next (s.takeTrap s.cur code info e.pc))) ∧
  (∀ (i : Instr) (s : State) (x : Warp) (e : Entry) (sh : Shape) (f : Frame), Ready i s x e sh f → x.active f e = 0 →
     (∀ g, i ≠ .bra g ∧ i ≠ .brx g ∧ i ≠ .call g ∧ i ≠ .callx g ∧ i ≠ .ret g ∧ i ≠ .exit g) →
     ∃ t y, exec i s = .next t ∧ t.warp? s.cur = some y ∧ Moved s x y e f ∧ OnlyWarp s t ∧ y.still = x.still ∧
       (∀ n, y.lbind n = if frees sh f (.x n) then none else x.lbind n) ∧ (∀ n, y.ubind n = if frees sh f (.k n) then none else x.ubind n))

/-- R160, R161: a trap whose vector is enabled, while no handler runs, enters the handler; nothing but the warp and its issue slot changes. R164: a trap that no
handler takes is reported. The warp stops at its PC with a report outstanding under the next number; its record is written and the host is owed one notice at
once, or, while an access of the warp is on its way, after it (R181). R178: `trapret` restores
the head's priority and PC and the run counter, and no handler runs any more; without a running handler it traps with code 0x0F. That a handler entered
with a firing of the timer pending sets `TPEND` is the model's reading (log entry 25). -/
def Obligations.TrapsAndReturns : Prop :=
  (∀ (s : State) (x : Warp) (e : Entry) (code : Nat) (info : W64) (rpc : BitVec 57),
     s.warp? s.cur = some x → x.hw.head? = some e → x.takes code = true → e.mask ≠ 0 →
     ∃ y, (s.takeTrap s.cur code info rpc).warp? s.cur = some y ∧ Entered s x y e code info rpc ∧ OnlyWarp s (s.takeTrap s.cur code info rpc) ∧
       (∀ n, y.lbind n = x.lbind n) ∧ (∀ n, y.ubind n = x.ubind n) ∧ y.preds = x.preds ∧ y.fp = x.fp) ∧
  (∀ (s : State) (w : Nat) (x : Warp) (e : Entry) (code : Nat) (info : W64) (rpc : BitVec 57),
     s.warp? w = some x → x.hw.head? = some e → x.takes code = false →
     let t := s.takeTrap w code info rpc
     ∃ y, t.warp? w = some y ∧ y.hw = x.hw ∧ y.trap = x.trap ∧ y.call.seq = x.call.seq + 1 ∧ y.call.report = some rpc ∧
       y.call.reportSeq = x.call.seq + 1 ∧ y.wait = none ∧ (∀ v, v ≠ w → t.warp? v = s.warp? v) ∧
       ((∀ g ∈ s.flights, g.w ≠ w) → x.call.posts = [] → y.call.posts = [] ∧ ∃ n, t.notices = s.notices ++ [n] ∧
         n.proc = x.owner.proc ∧ n.ix = x.call.ix ∧ n.seq = x.call.seq + 1 ∧ n.num = BitVec.ofNat 16 (0x8000 + code) ∧ n.exc = true) ∧
       ((∃ g ∈ s.flights, g.w = w) → t.notices = s.notices ∧ t.mem = s.mem ∧ ∃ p bs, y.call.posts = x.call.posts ++ [p] ∧ p.half = 1 ∧
         p.record = some (bs, x.call.seq + 1, 0x8000 + code))) ∧
  (∀ (f : Frame) (s : State) (x : Warp) (e : Entry) (sh : Shape), Ready (.trapret f) s x e sh f → x.active f e ≠ 0 →
     (x.trap.act = true → ∃ t y, exec (.trapret f) s = .next t ∧ t.warp? s.cur = some y ∧ OnlyWarp s t ∧ y.run = x.trap.rlen ∧ y.wait = none ∧
       y.still = { x.still with trap := { x.still.trap with act := false } } ∧ (∀ n, y.lbind n = x.lbind n) ∧ (∀ n, y.ubind n = x.ubind n) ∧
       y.hw = (x.replaceHead [{ prio := x.trap.rprio, pc := s.land s.cur x (BitVec.ofNat 57 (x.trap.rpc.toNat * 4)), mask := e.mask }]).hw) ∧
     (x.trap.act = false → exec (.trapret f) s = .next (s.takeTrap s.cur 0x0F 0 e.pc)))

/-- R172, R177: the timer's comparator, and the clearing of the poison flag and of poison tags in the active lanes. R159, R163, R176, R184: the comparator makes
the timer's trap pending; at a boundary the trap of a failed entry comes first, then poison, then the timer. That a second firing keeps the first
deadline (log entry 25), that failed entries raise in ascending order of entry (log entry 7), and that a trap which ends a watch drops its stalled read (log
entry 68) are the model's choices. -/
def Obligations.TimersAndBoundaries : Prop :=
  (∀ (f : Frame) (s : State) (x : Warp) (e : Entry) (sh : Shape), x.active f e ≠ 0 →
     let set := fun (arm : Bool) (d : BitVec 63) => { x.still with trap := { x.still.trap with arm := arm, deadline := d } }
     (Ready (.tmsetRel f) s x e sh f → (f.bi = false → (x.uni f.ka).2 = false) →
       ∃ t y, exec (.tmsetRel f) s = .next t ∧ Passes s t x y e sh f ∧
         y.still = set true (BitVec.ofNat 63 s.clock + if f.bi then f.imm.setWidth 63 else (x.uni f.ka).1.setWidth 63)) ∧
     (Ready (.tmsetAbs f) s x e sh f → (x.uni f.ka).2 = false →
       ∃ t y, exec (.tmsetAbs f) s = .next t ∧ Passes s t x y e sh f ∧ y.still = set true ((x.uni f.ka).1.setWidth 63)) ∧
     (Ready (.tmsetOff f) s x e sh f →
       ∃ t y, exec (.tmsetOff f) s = .next t ∧ Passes s t x y e sh f ∧ y.still = set false x.trap.deadline) ∧
     (Ready (.psnclr f) s x e sh f →
       ∃ t y, exec (.psnclr f) s = .next t ∧ t.warp? s.cur = some y ∧ Moved s x y e f ∧ OnlyWarp s t ∧ KeepsRegs x y sh f ∧ y.still = x.still ∧ y.psn = false) ∧
     (Ready (.psnclrReg f) s x e sh f →
       ∃ t y, exec (.psnclrReg f) s = .next t ∧ t.warp? s.cur = some y ∧ Moved s x y e f ∧ OnlyWarp s t ∧ y.still = x.still ∧
         (∀ n, y.lbind n = if f.du = false ∧ n = f.xd then (x.lbind n).map fun q => { q with tag := q.tag &&& ~~~(x.active f e) } else x.lbind n) ∧
         (∀ n, y.ubind n = if f.du = true ∧ n = f.kd then (x.ubind n).map fun q => { q with tag := false } else x.ubind n))) ∧
  (∀ (s : State) (w : Nat) (x : Warp), s.warp? w = some x →
     (x.marks.ended = false → exec (.timer w) s = .next (if x.trap.arm = true ∧ x.trap.deadline.toNat ≤ s.clock then
       s.setWarp w { x with trap := { x.trap with arm := false, fired := some (x.trap.fired.getD (x.trap.deadline.setWidth 64)), tpend := x.trap.tpend || x.trap.act } }
       else s)) ∧
     ∀ e r, x.hw = e :: r → s.atBoundary w x = true →
       let taken := fun (y : Warp) (code : Nat) (info : W64) => exec (.boundaryTrap w) s = .next ((s.setWarp w y.dropWatch).takeTrap w code info e.pc)
       (∀ n en, x.log.find? (fun p => p.2.state == .failed && !p.2.raised) = some (n, en) →
         taken { x with log := x.log.set n { en with raised := true } } 0x0D (BitVec.ofNat 64 n)) ∧
       ((∀ p ∈ x.log, p.2.state = .failed → p.2.raised = true) →
         (∀ pc, x.trap.poison = some pc → taken { x with trap := { x.trap with poison := none } } 0x0C pc) ∧
         (x.trap.poison = none → ∀ d, x.trap.fired = some d →
           (x.trap.act = false → taken { x with trap := { x.trap with fired := none, tpend := false } } 0x21 d) ∧
           (x.trap.act = true → exec (.boundaryTrap w) s = .next s))))

/-- R174, R175: `getsr` gives the register's value, `LANEID` each lane its own number, with no poison; `setsr` of a register of the warp writes it under its
access types; a `setsr` of `CALLWIN` stores nothing (R488; log entry 53). R8: a write to a register of a warp changes its RW fields to the value written, clears
the W1C bits written as 1, and changes nothing else of it; `SRSEED` takes 1 for 0. -/
def Obligations.SpecialRegisters : Prop :=
  (∀ (f : Frame) (s : State) (x : Warp) (e : Entry) (sh : Shape), x.active f e ≠ 0 →
     let n := f.immf 0 12
     (Ready (.getsr f) s x e sh f → ∃ t y, exec (.getsr f) s = .next t ∧ Passes s t x y e sh f ∧ y.still = x.still ∧
       if f.du then UniHolds y f.kd (s.sysReg s.cur x n) false
       else LaneHolds x y sh f (x.active f e) f.xd (fun l => if n = 0x010 then BitVec.ofNat 32 l.val else (s.sysReg s.cur x n).setWidth 32) 0) ∧
     ∀ v, (if f.au then x.uni f.ka = (v, false)
         else ∃ l : Fin 32, firstLane (x.active f e) = some l ∧ v = ((x.lane f.xa).1[l]).setWidth 64 ∧ (x.lane f.xa).2.getLsbD l.val = false) →
       Ready (.setsr f) s x e sh f →
       (n ∉ [0x000, 0x072, 0x113, 0x114, 0x115, 0x116, 0x11B] →
         ∃ t y, exec (.setsr f) s = .next t ∧ Passes s t x y e sh f ∧ y.still = (x.writeReg n v).still) ∧
       (n = 0x000 → ∃ t y, exec (.setsr f) s = .next t ∧ t.warp? s.cur = some y ∧ Moved s x y e f ∧ OnlyWarp s t ∧ KeepsRegs x y sh f ∧
         y.still = (x.writeReg n v).still) ∧
       (n = 0x072 → ∃ t, exec (.setsr f) s = .next t ∧ t.mem = s.mem ∧ (t.core (coreOf s.cur)).mxbud =
         ((s.core (coreOf s.cur)).mxbud &&& ~~~0xFFFF) ||| (v &&& 0xFFFF)) ∧
       (n = 0x110 → ∃ t y, exec (.setsr f) s = .next t ∧ Passes s t x y e sh f ∧ y.still = x.still) ∧
       (n = 0x115 → ∃ t, exec (.setsr f) s = .next t ∧ t.mem = s.mem ∧ (t.die (dieOf (coreOf s.cur))).migpol = v &&& 0x83FF_00FF_0000_0003) ∧
       (n = 0x116 → ∃ t, exec (.setsr f) s = .next t ∧ t.mem = s.mem ∧ (t.die (dieOf (coreOf s.cur))).migfrm = v &&& 0x8000_0FFF_FFFF_F000)) ∧
  (∀ (s : State) (w : Nat) (x : Warp) (v : W64), x.prio < 16 →
     (∀ (n : Nat) (rw w1c : W64), (n, rw, w1c) ∈ ([(0x000, 0, 0xF), (0x001, 0xF, 0), (0x002, 0, 0), (0x011, 0, 0), (0x012, 0, 0), (0x013, 0, 0), (0x014, 0, 0),
         (0x021, 0xFFFF_FFFF_FFFF_FFFF, 0), (0x022, 0x01FF_FFFF_FFFF_FF0F, 0), (0x023, 0, 0), (0x024, 0xFF7F_FFFF_FFFF_FFFF, 0), (0x025, 0, 0), (0x026, 0, 0),
         (0x030, 0x8160, 0x1F), (0x040, 0, 0), (0x041, 0, 0x3F), (0x050, 0, 0), (0x060, 0, 0), (0x061, 0, 0), (0x062, 0, 0), (0x063, 0, 0), (0x064, 0, 0),
         (0x070, 0xFFFF_0001, 0), (0x074, 0, 0xFFE), (0x081, 0, 0)] : List (Nat × W64 × W64)) →
       s.sysReg w (x.writeReg n v) n = (((s.sysReg w x n &&& ~~~rw) ||| (v &&& rw)) &&& ~~~(v &&& w1c))) ∧
     s.sysReg w (x.writeReg 0x031 v) 0x031 = if v.setWidth 32 = 0#32 then 1 else (v.setWidth 32).setWidth 64)

/-! ## Encoding, decoding and the step (R50 to R67) -/

/-- R53 to R61: a well-formed instruction is what its words decode to, whatever words follow them, and words that decode to a well-formed instruction are its
words. -/
def Obligations.DecodeEncode : Prop :=
  (∀ (i : Instr) (p q r : W32), WellFormed i = true →
    let e := encode i
    decodeWords (e.getD 0 p) (e.getD 1 p) (e.getD 2 q) (e.getD 3 r) = .ok i) ∧
  ∀ (w0 w1 w2 w3 : W32) (i : Instr), decodeWords w0 w1 w2 w3 = .ok i → WellFormed i = true → encode i = [w0, w1, w2, w3].take (lenBytes w0 / 4)

/-- The worked encodings of R67, R125, R181, R202, R289, R313, R361, R412 and R437: four of them, field by field. -/
def Obligations.WorkedEncodings : Prop :=
  let f : Frame := { form := .f64, eor := true, guard := 2, gneg := true, v := 0, d := 7, a := ⟨3, true, false, false⟩, b := ⟨12, false, false, true⟩,
                     c := Src.zero, ah := 0, bh := 0, ch := 0, dh := 0, m := 0, imm := 0, wt := 0, bad := false }
  decodeTableWord 64 0x0001_0308_1838_00D4 = some (.iadd f) ∧
  decodeTableWord 128 0x0000_0100_0000_0002_0000_0008_1820_813E =
    some (.lds { f with form := .f128, guard := 7, gneg := false, d := 4, b := Src.zero, wt := 2, imm := 0x100 }) ∧
  decodeTableWord 96 0xCC_003C_0780_0000_400D =
    some (.bra { f with form := .f96i, guard := 1, gneg := false, d := 0, a := Src.zero, b := ⟨30, false, false, false⟩, m := 0x1E, imm := 0xCC }) ∧
  decodeTableWord 64 0x0000_0000_0008_F33C =
    some (.preempt { f with guard := 7, gneg := false, d := 1, a := Src.zero, b := Src.zero })

/-- R67: when the words at the head's address, as the core's instruction cache or else memory holds them (R190), decode to an instruction that passes every check,
and nothing comes before its issue, a step of the machine is the execution of that instruction in a clk of its own: the clk begins, in which priorities follow
`PRIO` and the age (R187, R188), the instruction executes, and the clk ends, after which CLOCK has risen by 1 (log entry 19). -/
def Obligations.StepRunsDecoded : Prop :=
  ∀ (s : State) (x : Warp) (en : Entry) (rest : List Entry) (pte : W64) (place : Nat) (i : Instr) (sh : Shape) (f : Frame),
    s.agenda = [] → s.warp? s.cur = some x → x.wait = none → x.moveDue = false → x.marks.ended = false → s.holdsSlot s.cur = true →
    s.beforeIssue s.cur x = none → x.hw = en :: rest → s.codeWalk s.cur x en.pc.toNat = .leaf pte place → pteTier pte ≠ 3 →
    let k := leafKey pte en.pc.toNat
    let w := fun n => s.codeAt (coreOf s.cur) (k + 4 * n)
    s.codeFault (coreOf s.cur) k = none → en.pc.toNat % 32 + lenBytes (w 0) ≤ 32 → decodeWords (w 0) (w 1) (w 2) (w 3) = .ok i → i.shape = (sh, some f) →
    i.permitted x.owner.priv x.mx.unchk = true → (∀ r, i.role? = some r → x.role = r) → WellFormed i = true → (f.wt = 0 ∨ x.run = 0) →
    (∀ r ∈ (sh.reads f).map (·.1) ++ sh.writes f, match r with | .x n => n < x.lregs | .k n => n < x.uregs) → (x.run < 23 ∨ f.eor = true) →
    step s = match exec i (s.cacheCode s.cur x en.pc).beginClk with
      | .next t => .next t.endClk
      | out => out

/-- R67, R68: the checks of a head's words in their order; the first that fails traps, with its code of R158 and no other effect. R43, R65, R174: which
instructions a warp may issue, by its privilege and its role. Which of several registers beyond the kernel's the trap of register range names, the first in the
order of the operands, is the model's choice (log entry 16). -/
def Obligations.DecodeAndIssueTraps : Prop :=
  (∀ (s : State) (x : Warp) (en : Entry) (rest : List Entry) (pte : W64) (place : Nat),
     s.agenda = [] → s.warp? s.cur = some x → x.wait = none → x.moveDue = false → x.marks.ended = false → s.holdsSlot s.cur = true →
     s.beforeIssue s.cur x = none → x.hw = en :: rest → s.codeWalk s.cur x en.pc.toNat = .leaf pte place → pteTier pte ≠ 3 →
     let k := leafKey pte en.pc.toNat
     let w := fun n => s.codeAt (coreOf s.cur) (k + 4 * n)
     let op := (w 0).extractLsb' 7 9
     let trap := fun (code : Nat) (info : W64) => step s = .next (s.takeTrap s.cur code info en.pc)
     s.codeFault (coreOf s.cur) k = none →
     (32 < en.pc.toNat % 32 + lenBytes (w 0) → trap 3 0) ∧
     (en.pc.toNat % 32 + lenBytes (w 0) ≤ 32 →
       ((w 0).extractLsb' 0 2 = 3 → w 0 ≠ 3 → trap 2 0) ∧
       ((w 0).extractLsb' 0 2 ≠ 3 →
         (instrOf op (frameOf (w 1 ++ w 0) (w 2) (w 3)) = none → trap 1 (op.setWidth 64)) ∧
         ∀ (i : Instr) (sh : Shape) (f : Frame), decodeWords (w 0) (w 1) (w 2) (w 3) = .ok i → i.shape = (sh, some f) →
           let role := ∀ r, i.role? = some r → x.role = r
           let legal := WellFormed i = true ∧ (f.wt = 0 ∨ x.run = 0)
           let names := (sh.reads f).map (·.1) ++ sh.writes f
           let beyond := fun r : Reg => match r with | .x n => decide (x.lregs ≤ n) | .k n => decide (x.uregs ≤ n)
           (i.permitted x.owner.priv x.mx.unchk = false → trap 4 (op.setWidth 64)) ∧
           (i.permitted x.owner.priv x.mx.unchk = true →
             (¬ role → trap 5 (op.setWidth 64)) ∧
             (role → (¬ legal → trap 2 0) ∧
               (legal → (∀ r, names.find? beyond = some r → trap 6 (match r with | .x n => BitVec.ofNat 64 n | .k n => BitVec.ofNat 64 (1024 + n))) ∧
                 (names.find? beyond = none → 23 ≤ x.run → f.eor = false → trap 7 0))))))) ∧
  (∀ (i : Instr) (sh : Shape) (f : Frame), i.shape = (sh, some f) →
     let n := f.immf 0 12
     (∀ u, i.permitted true u = true ∨ (i.op = 0x181 ∧ f.v = 3 ∧ u = false)) ∧
     (∀ u, i.op ∉ ([0x0E5, 0x0E6, 0x181, 0x1E6, 0x1EA] : List (BitVec 9)) → i.permitted false u = true) ∧
     (∀ u, i.op ∈ ([0x1E6, 0x1EA] : List (BitVec 9)) → i.permitted false u = false) ∧
     (∀ u, i.op = 0x181 → i.permitted false u = decide (f.v ≠ 3)) ∧
     (WellFormed i = true → ∀ u,
       (i.op = 0x0E6 → i.permitted false u = decide (n < 0x100)) ∧
       (i.op = 0x0E5 → i.permitted false u = decide (n < 0x100 ∨ n ∈ [0x110, 0x117, 0x118, 0x119, 0x11A, 0x120]))) ∧
     (i.role? = if 0x160 ≤ i.op ∧ i.op ≤ 0x165 then some 2 else if 0x180 ≤ i.op ∧ i.op ≤ 0x18A then some 1 else none))

/-! ## Reset and memory -/

/-- R9 and the Reset columns of R176, R227, R300, R405, R407, R494 and R497: what a cold reset leaves; the device's memory and its units are empty (the value 0
of memory and of `GRADE`'s other fields are the model's choice: log entries 3, 14). `p7` and `xz` are fixed (R21): whatever is written to them, `p7` is true in
every lane, and `xz` reads 0 with no tag. -/
def Obligations.ResetAndFixedRegisters : Prop :=
  (let s := State.reset
   s.clock = 0 ∧ s.mem = [] ∧ s.marks = [] ∧ Mem.wf s.mem = true ∧ (∀ k, s.byte k = 0) ∧ (∀ w, s.warp? w = none) ∧ (∀ p, s.proc? p = none) ∧
   (∀ n, s.scopes.get? n = none) ∧ s.flights = [] ∧ s.notices = [] ∧
   (∀ c, (s.core c).tlb = [] ∧ (s.core c).icache = [] ∧ (s.core c).l1 = [] ∧ (s.core c).slices = [] ∧ (s.core c).wbuf = [] ∧ (s.core c).csbuf = [] ∧ (s.core c).loadQ = [] ∧ (s.core c).storeQ = [] ∧
     (∀ q : Fin 4, (s.core c).quads[q] = { holder := none, ptr := 0 } ∧ (s.core c).mxq[q] = []) ∧
     (∀ n, s.slot c n = {}) ∧ (s.core c).chmap = 0xBA9876543210 ∧ (s.core c).contain = 0xF000000000000000) ∧
   (∀ d, (s.die d).faults = [] ∧ (s.die d).slots = [] ∧ (s.die d).pools = [] ∧ (s.die d).fltq = 0 ∧ (s.die d).tlbinv = 0 ∧ (s.die d).migfrm = 0 ∧
     (s.die d).migpol = 0x0040_00C0_0000_0003 ∧ (s.die d).walks = []) ∧ ∀ c, (s.cluster c).tlb = []) ∧
  (∀ (x : Warp) (m v : Mask) (g : Fin 32 → W32) (t : Mask) (stamp : Nat) (empty : Bool),
     x.putPred 7 m v = x ∧ x.pred 7 = 0xFFFFFFFF ∧ x.putLane 255 m g t stamp empty = x ∧ x.markEmpty (.x 255) stamp = x ∧
     (∀ l : Fin 32, (x.lane 255).1[l] = 0) ∧ (x.lane 255).2 = 0)

/-- The bytes of memory: a byte written is the byte read, every other byte is as before, and a write keeps the canonical form of memory: addresses rise, and no
listed byte is what an unlisted one reads as. Two canonical memories that read alike are equal: equal memories are equal data. -/
def Obligations.MemoryBytes : Prop :=
  (∀ (s : State) (ks : List Nat) (bs : List Byte), ks.length = bs.length →
     (∀ k, (s.writeBytes ks bs).byte k = match (ks.zip bs).reverse.find? fun p => p.1 == k with | some p => p.2 | none => s.byte k) ∧
     (Mem.wf s.mem = true → Mem.wf (s.writeBytes ks bs).mem = true) ∧
     (∀ lo n k, (s.zero lo n).byte k = if lo ≤ k ∧ k < lo + n then 0 else s.byte k) ∧
     (Mem.wf s.mem = true → ∀ lo n, Mem.wf (s.zero lo n).mem = true) ∧
     ∀ n v, ofBytes (toBytes n v) = v % 256 ^ n) ∧
  (∀ m n : List Host.Cell, Mem.wf m = true → Mem.wf n = true → (∀ k, Mem.read m k = Mem.read n k) → m = n)

/-- Every step keeps the canonical form of memory, from every state that has it. -/
def Obligations.StepKeepsMemoryCanonical : Prop :=
  ∀ s s' : State, Mem.wf s.mem = true → step s = .next s' → Mem.wf s'.mem = true

/-! ## Memory instructions (R194 to R211, R304 to R309, R343 to R354) -/

/-- R196: the first active lane, of those with an untagged address, whose address is not a multiple of the access width traps with code 0x0A and its address;
nothing is accessed. This holds of every memory instruction of the core, the cluster, the Grotto, global and host memory but `ldp` and `prfg`. R165 to R168: a
page that does not translate, or an address outside its memory, takes an operand-log entry; no lane performs, and the destination stays empty. Where all four
are occupied, the warp stalls at the instruction. That the entry is the lowest that is free (log entry 35), and that an address without a leaf shares its 4 KiB
page with others (log entry 85), are the model's choices. -/
def Obligations.MisalignedAndFaulting : Prop :=
  (∀ (s : State) (x : Warp) (e : Entry) (sh : Shape) (f : Frame) (i : Instr) (m : MemForm) (l : Fin 32),
     (i, m) ∈ memForms x f → Ready i s x e sh f → x.active f e ≠ 0 →
     (lanesFor m (x.active f e)).find? (fun l => !(m.addr l).2 && (m.addr l).1 % m.width != 0) = some l →
     exec i s = .next (s.takeTrap s.cur 0x0A (BitVec.ofNat 64 (m.addr l).1) e.pc)) ∧
  (∀ (s : State) (x : Warp) (e : Entry) (sh : Shape) (f : Frame) (i : Instr) (m : MemForm) (code va : Nat) (now : Bool),
     (i, m) ∈ memForms x f → Ready i s x e sh f → x.active f e ≠ 0 → Aligned (lanesFor m (x.active f e)) m → (m.ord < 2 ∨ x.log = [] ∧ x.fifth = none) →
     (m.ord < 2 ∨ m.scope < 2 ∨ s.sliceClean s.cur) →
     let a := (s.sees x e sh f).request s i m s.nextId
     (∀ b ∈ x.log, s.sharePage x a b.2.acc = false) → (s.resolve x a).1 = .error (code, va, now) → code ∈ [1, 2, 3, 5, 6, 7, 8] →
     ∃ t y, exec i s = .next t ∧ t.warp? s.cur = some y ∧ y.results = x.results ∧ t.flights = s.flights ∧ (∀ r ∈ sh.writes f, y.isEmpty r = true) ∧
       y.hw = (x.replaceHead [{ e with pc := t.land s.cur x (e.pc + BitVec.ofNat 57 f.form.bytes) }]).hw ∧ (∀ w, w ≠ s.cur → t.warp? w = s.warp? w) ∧
       (∀ k, (∀ d, s.fltqOn d = false) → t.byte k = s.byte k) ∧
       match x.log.free 0 4 with
       | some n => ∃ en, y.log = x.log.set n en ∧ en.acc = a ∧ en.code = code ∧ (now = true ∨ code ∈ [3, 5, 7, 8] → en.state = .failed) ∧
           (code = 6 → now = false → en.state = .pending) ∧ ((∀ d, s.fltqOn d = false) → code ∈ [1, 2] → en.state = .failed)
       | none => y.log = x.log ∧ y.fifth = some a ∧ y.wait = some .fifth)

/-- R32, R165, R347, R349: an aligned access whose pages translate sets out with the operands that it read, its destination empty; one with `.acq` makes its
warp wait for it (R348, R352). This holds of every cluster-shared, Grotto, global and host instruction of `memForms`; a load of lines that the core's L1 holds
reads them at issue instead (R198, R348). A release at `.cl` or wider first takes the warp's slice stores to their homes (R208): here there are none. -/
def Obligations.AccessesSetOut : Prop :=
  ∀ (s : State) (x : Warp) (e : Entry) (sh : Shape) (f : Frame) (i : Instr) (m : MemForm) (ls : List LaneAcc),
    (i, m) ∈ memForms x f → m.space ≠ .scratch → m.space ≠ .slice → Ready i s x e sh f → x.active f e ≠ 0 →
    Aligned (lanesFor m (x.active f e)) m → x.log = [] → x.fifth = none → (∃ l ∈ lanesFor m (x.active f e), (m.addr l).2 = false) →
    let a := (s.sees x e sh f).request s i m s.nextId
    (s.resolve x a).1 = .ok ls → (m.ord < 2 ∨ m.scope < 2 ∨ s.sliceClean s.cur) →
    ((m.space = .global → (∃ v, m.op = .load v) → s.misses (coreOf s.cur) x.owner.proc ls) →
      ∃ t y, exec i s = .next t ∧ y.still = x.still ∧
        SetsOut s t x y e sh f { a with lanes := ls } (if m.ord = 1 ∨ m.ord = 3 then some (.access s.nextId m.scope) else none)) ∧
    (m.space = .global → m.op = .load f.vn → m.ord = 0 →
      (∀ l ∈ ls, (s.l1Line? (coreOf s.cur) (s.asid x.owner.proc) l.addr).isSome = true ∧ l.node = none ∧ s.laneFault l = none) →
      Quiet s → (∀ g ∈ s.flights, g.w ≠ s.cur) → s.promotions = [] → x.call.posts = [] → x.marks.ended = false →
      let v := s.loadView a ls
      ∃ t y, exec i s = .next t ∧ t.warp? s.cur = some y ∧ Gone t s.cur x y e f none ∧ KeepsRegs x y sh f ∧ (∀ r ∈ sh.writes f, y.isEmpty r = true) ∧
        y.still = { x.still with results := y.results, sawMark := y.sawMark } ∧ t.mem = s.mem ∧ t.marks = s.marks ∧
        t.flights = s.flights.filter (fun b => b.id != s.nextId) ∧
        Unflawed x y sh f (x.active f e) ∧
        (∀ w, w ≠ s.cur → t.warp? w = s.warp? w) ∧
        LoadWaits x y m.dest f.vn (x.active f e)
          (fun l => (ls.find? fun k => k.lane == l.val).bind fun k => if v.anyMarked k.keys then none else some (k.keys.map v.byte))
          (ls.any fun k => v.anyMarked k.keys) e.pc)

/-- R202, R305, R343: the bytes that a lane's address names in scratchpad, in the cluster-shared window, in the Grotto and in host memory, and the fault with
code 2 of an address outside. A host address lies at the place that the host gives for the process's PASID (R484), a free value (log entry 74). -/
def Obligations.WhereBytesLie : Prop :=
  ∀ (s : State) (x : Warp) (a : Access) (l : LaneAcc),
    let n := a.width
    let core := a.core
    let out := Reach.fault 2 l.addr true
    (a.space = .scratch → (s.reachOf x a l).1 = if l.addr + n ≤ x.spwin * 2048 then .keys ((List.range n).map fun i =>
        let b := l.addr + i
        let row := b / 512
        let bank := (b / 4 % 128) ^^^ (if a.rot = 0 then 0 else row % 2 ^ a.rot * 2 ^ (7 - a.rot))
        scratchKey core (x.spbase + row * 512 + bank * 4 + b % 4)) else out) ∧
    (a.space = .cluster → (s.reachOf x a l).1 =
      let off := l.addr % 2 ^ 17
      let half := l.addr / 2 ^ 19 % 2
      let there := if x.straddle && decide (halfOf (clusterOf core) ≠ half) then partner (clusterOf core) else clusterOf core
      if l.addr < 2 ^ 20 ∧ (half = 0 ∨ x.straddle = true) ∧ off + n ≤ x.cswin * 2048 then
        .keys (span (sliceKey (coreIn there (l.addr / 2 ^ 17 % 4)) (x.csbase + off)) n) else out) ∧
    (a.space = .grotto → ∀ p, s.proc? a.proc = some p → (s.reachOf x a l).1 =
      let off := l.addr % 2 ^ 25
      if l.addr < 2 ^ 27 ∧ off + n ≤ bits p.grwin 32 10 * 65536 then .keys (span (grottoKey (l.addr / 2 ^ 25) (bits p.grwin 16 9 * 65536 + off)) n) else out) ∧
    (a.space = .host → ∀ p, s.proc? a.proc = some p → (s.reachOf x a l).1 =
      .keys (span (hostKey (Config.hostPage p.pasid (l.addr / 4096) % 2 ^ 52 * 4096 + l.addr % 4096)) n)) ∧
    (a.space ≠ .global → a.space ≠ .slice → a.space ≠ .window → (s.reachOf x a l).2 = s)

/-- R32, R196, R201, R202, R210: `lds` reads through the core's write buffer at once, and its value waits for its registers; memory is unchanged. R196, R204,
R210: `sts` writes into the core's write buffer: the core then reads the bytes stored, and every other byte as before, and what has not been written to its bank
is unchanged there. R207: `atoms` performs its lanes in ascending order through the write buffer; each returns what it read, or poison. -/
def Obligations.ScratchpadAccesses : Prop :=
  (∀ (f : Frame) (s : State) (x : Warp) (e : Entry) (sh : Shape), Ready (.lds f) s x e sh f →
     let act := x.active f e
     let a := x.lane f.xa
     let n := memBytes f.vn
     let addr := fun l : Fin 32 => (a.1[l] + (f.imm.setWidth 20).signExtend 32).toNat
     let clean := fun l : Fin 32 => !a.2.getLsbD l.val
     let keys := fun l : Fin 32 => scratchKeys (coreOf s.cur) x.spbase (f.mf 4 3) (addr l) n
     let v := s.portView (coreOf s.cur)
     act ≠ 0 → x.marks.ended = false → x.log = [] → x.fifth = none → x.call.posts = [] →
     (∀ g ∈ s.flights, g.w = s.cur → g.space ≠ .scratch ∧ g.reads = false) →
     (∀ l : Fin 32, act.getLsbD l.val = true → clean l = true → addr l % n = 0 ∧ addr l + n ≤ x.spwin * 2048) →
     ∃ t y, exec (.lds f) s = .next t ∧ t.warp? s.cur = some y ∧ Gone t s.cur x y e f none ∧ KeepsRegs x y sh f ∧ (∀ r ∈ sh.writes f, y.isEmpty r = true) ∧
       Unflawed x y sh f act ∧ y.still = { x.still with results := y.results, sawMark := y.sawMark } ∧ (∀ w, w ≠ s.cur → t.warp? w = s.warp? w) ∧
       (∀ c, ∃ q l1, t.core c = { s.core c with quads := q, l1 := l1 } ∧ (x.dropMark ≤ s.nextId → l1 = (s.core c).l1)) ∧
       t = { s with warps := t.warps, cores := t.cores, flights := s.flights.filter fun b => b.id != s.nextId, nextId := s.nextId + 1 } ∧
       LoadWaits x y (.lane f.xd (memRegs f.vn)) f.vn act (fun l => if clean l && !v.anyMarked (keys l) then some ((keys l).map v.byte) else none)
         ((lanesOf act).any fun l => clean l && v.anyMarked (keys l)) e.pc) ∧
  (∀ (f : Frame) (s : State) (x : Warp) (e : Entry) (sh : Shape), Ready (.sts f) s x e sh f →
     let act := x.active f e
     let core := coreOf s.cur
     let a := x.lane f.xa
     let n := memBytes f.vn
     let addr := fun l : Fin 32 => (a.1[l] + (f.imm.setWidth 20).signExtend 32).toNat
     let ls := ((lanesOf act).filter fun l => !a.2.getLsbD l.val).map fun l =>
       ({ lane := l.val, addr := addr l, keys := scratchKeys core x.spbase (f.mf 4 3) (addr l) n, data := toBytes n (x.datum f.xb (memRegs f.vn) l),
          tag := (x.soiled f.xb (memRegs f.vn)).getLsbD l.val } : LaneAcc)
     act ≠ 0 → x.marks.ended = false → x.log = [] → x.fifth = none → x.call.posts = [] →
     (∀ g ∈ s.flights, g.w = s.cur → g.space ≠ .scratch ∧ g.reads = false) →
     (∀ l ∈ ls, l.addr % n = 0 ∧ l.addr + n ≤ x.spwin * 2048) →
     ∃ t y, exec (.sts f) s = .next t ∧ t.warp? s.cur = some y ∧ Gone t s.cur x y e f none ∧ KeepsRegs x y sh f ∧ Unflawed x y sh f act ∧
       y.still = x.still ∧ (∀ w, w ≠ s.cur → t.warp? w = s.warp? w) ∧ Stores (s.portView core) (t.portView core) ls ∧
       (∀ k, (∀ b ∈ (s.core core).wbuf, k ∉ b.keys) → (∀ l ∈ ls, k ∉ l.keys) → t.byte k = s.byte k) ∧
       (∀ c, ∃ q b, t.core c = { s.core c with quads := q, wbuf := b } ∧ (c ≠ core → t.core c = s.core c)) ∧
       t = { s with warps := t.warps, cores := t.cores, mem := t.mem, marks := t.marks, flights := s.flights.filter fun b => b.id != s.nextId,
                    nextId := s.nextId + 1 }) ∧
  (∀ (f : Frame) (s : State) (x : Warp) (e : Entry) (sh : Shape), Ready (.atoms f) s x e sh f →
     let act := x.active f e
     let core := coreOf s.cur
     let a := x.lane f.xa
     let n := 4 * (f.vn + 1)
     let cas := f.mf 0 4 = 9
     let addr := fun l : Fin 32 => (a.1[l] + (f.imm.setWidth 20).signExtend 32).toNat
     let ls := ((lanesOf act).filter fun l => !a.2.getLsbD l.val).map fun l =>
       ({ lane := l.val, addr := addr l, keys := scratchKeys core x.spbase (f.mf 4 3) (addr l) n, data := toBytes n (x.datum f.xb (f.vn + 1) l),
          new := if cas then toBytes n (x.datum f.xc (f.vn + 1) l) else [],
          tag := (x.soiled f.xb (f.vn + 1) ||| if cas then x.soiled f.xc (f.vn + 1) else 0).getLsbD l.val } : LaneAcc)
     let marked := fun l : LaneAcc => (s.portView core).anyMarked l.keys
     act ≠ 0 → x.marks.ended = false → x.log = [] → x.fifth = none → x.call.posts = [] → (∀ g ∈ s.flights, g.w ≠ s.cur) → s.initsDone s.cur = true →
     (∀ l ∈ ls, l.addr % n = 0 ∧ l.addr + n ≤ x.spwin * 2048) →
     ∃ t y v, exec (.atoms f) s = .next t ∧ t.warp? s.cur = some y ∧ Gone t s.cur x y e f none ∧ KeepsRegs x y sh f ∧ Unflawed x y sh f act ∧
       y.still = { x.still with results := y.results, sawMark := y.sawMark } ∧ (∀ w, w ≠ s.cur → t.warp? w = s.warp? w) ∧
       v 0 = (s.portView core).byte ∧ v ls.length = (t.portView core).byte ∧ Atomics (f.mf 0 4) n ls marked v ∧
       (∀ k, (∀ b ∈ (s.core core).wbuf, k ∉ b.keys) → (∀ l ∈ ls, k ∉ l.keys) → t.byte k = s.byte k) ∧
       LoadWaits x y (.lane f.xd (f.vn + 1)) (if n = 8 then 1 else 0) act
         (fun l => match ls.findIdx? fun k => k.lane == l.val with
           | some p => (ls[p]?).bind fun k => if k.tag || marked k then none else some (k.keys.map (v p))
           | none => none)
         (ls.any marked) e.pc)

/-- The operations of R207 on the stored value `m`, the operand `b` and, for `cas`, the new value `c`. -/
def Obligations.AtomicOperations : Prop :=
  ∀ (w m b c : Nat), w = 4 ∨ w = 8 → m < 2 ^ (8 * w) → b < 2 ^ (8 * w) →
    let int := fun n : Nat => if n < 2 ^ (8 * w - 1) then (n : Int) else (n : Int) - 2 ^ (8 * w)
    let op := fun k => atomicNew k w m b c
    op 0 = (m + b) % 2 ^ (8 * w) ∧ int (op 1) = min (int m) (int b) ∧ int (op 2) = max (int m) (int b) ∧ op 3 = min m b ∧ op 4 = max m b ∧
    (∀ j : Nat, (op 5).testBit j = (m.testBit j && b.testBit j)) ∧ (∀ j : Nat, (op 6).testBit j = (m.testBit j || b.testBit j)) ∧
    (∀ j : Nat, (op 7).testBit j = xor (m.testBit j) (b.testBit j)) ∧ op 8 = b ∧ op 9 = (if m = b then c else m) ∧
    (w = 4 → op 10 = (f32.sum .rne false false [f32.decFz false m, f32.decFz false b]).1)

/-- R199, R200: `ldl` and `stl` whose slices translate perform at once, in the core's L1, which holds the lines of the lane's own slice over global memory: `stl`
leaves them dirty, and memory as it was. R205, R206:
`ldp` of an unbound window traps with code 0x0B and its number; of a bound one, the lanes within its bound read the window's bytes, and the others read 0 and
set `WSTAT.PWB`. -/
def Obligations.SlicesAndWindows : Prop :=
  (∀ (f : Frame) (s : State) (x : Warp) (e : Entry) (sh : Shape) (i : Instr) (m : MemForm) (ls : List LaneAcc),
     (i, m) ∈ memForms x f → m.space = .slice → Ready i s x e sh f → x.active f e ≠ 0 → Aligned (lanesOf (x.active f e)) m → x.log = [] →
     x.call.posts = [] → x.marks.ended = false → Quiet s →
     let a := (s.sees x e sh f).request s i m s.nextId
     (s.resolve x a).1 = .ok ls →
     let core := coreOf s.cur
     let asid := s.asid x.owner.proc
     let spots := (ls.flatMap x.sliceSpots).eraseDups
     let v := s.overSlices a asid spots
     (∀ p ∈ spots, s.keyFault p.2 = none ∨ (s.sliceLine? core asid p.1).isSome = true ∧ s.keyFault p.2 ≠ some 7 ∧ s.keyFault p.2 ≠ some 8) →
     ∃ t y, exec i s = .next t ∧ t.warp? s.cur = some y ∧ Gone t s.cur x y e f none ∧ KeepsRegs x y sh f ∧ Unflawed x y sh f (x.active f e) ∧
       y.still = { x.still with results := y.results, sawMark := y.sawMark } ∧ (∀ w, w ≠ s.cur → t.warp? w = s.warp? w) ∧ (i = .stl f → y.results = x.results) ∧
       (s.l1Takes core spots.length → (∀ p ∈ spots, p.2 % 128 = 0 ∧ ∀ c, s.sliceLine? core asid p.1 = some c → c.data.length = 128) →
         (∀ p ∈ spots, ∀ q ∈ spots, p ≠ q → p.1 ≠ q.1 ∧ (p.2 + 128 ≤ q.2 ∨ q.2 + 128 ≤ p.2)) →
         (∀ l ∈ ls, l.keys.Nodup ∧ ∀ k ∈ l.keys, ∃ p ∈ spots, p.2 ≤ k ∧ k < p.2 + 128) →
         t.mem = s.mem ∧ t.marks = s.marks ∧
         (i = .stl f → Stores v (t.overSlices a asid spots) ls ∧ ∀ p ∈ spots, ∃ c, t.sliceLine? core asid p.1 = some c ∧ c.dirty = true) ∧
         (i = .ldl f → LoadWaits x y m.dest f.vn (x.active f e)
           (fun l => (ls.find? fun k => k.lane == l.val).bind fun k => if v.anyMarked k.keys then none else some (k.keys.map v.byte))
           (ls.any fun k => v.anyMarked k.keys) e.pc))) ∧
  (∀ (f : Frame) (s : State) (x : Warp) (e : Entry) (sh : Shape), Ready (.ldp f) s x e sh f → x.active f e ≠ 0 →
     let win := x.pwin.toList.getD f.xb 0
     let n := memBytes f.vn
     let base := bits win 0 45 * 4096
     let o := if f.au then x.uniOpr f.ka else x.laneOpr f.xa false
     let off := fun l : Fin 32 => ((o.val l).setWidth 32 + f.imm : W32).toNat
     let lanes := if f.du then [0] else lanesOf (x.active f e)
     let clean := fun l : Fin 32 => !o.tag.getLsbD l.val
     let within := fun l : Fin 32 => decide (off l + n ≤ bits win 47 16 * 16)
     let dest : Dest := if f.du then .uni f.kd (if f.vn = 2 then 2 else 1) else .lane f.xd (memRegs f.vn)
     (win.getLsbD 63 = false → exec (.ldp f) s = .next (s.takeTrap s.cur 0x0B (BitVec.ofNat 64 f.xb) e.pc)) ∧
     (win.getLsbD 63 = true → x.log = [] → x.call.posts = [] → x.marks.ended = false → (∀ l ∈ lanes, clean l = true → off l % n = 0) →
       ((∀ l ∈ lanes, clean l = true → within l = false) →
         ∃ t y, exec (.ldp f) s = .next t ∧ t.warp? s.cur = some y ∧ Gone t s.cur x y e f none ∧ KeepsRegs x y sh f ∧
           y.still = { x.still with results := y.results, pwb := x.pwb || lanes.any clean } ∧
           LoadWaits x y dest f.vn (x.active f e) (fun l => if clean l then some (toBytes n 0) else none) false e.pc) ∧
       ∀ (a : Access) (ls : List LaneAcc), (∃ l ∈ lanes, clean l = true ∧ within l = true) →
         a.id = s.nextId → a.w = s.cur → a.instr = .ldp f → a.pc = e.pc → a.space = .window → a.op = .load f.vn → a.width = n → a.dest = dest →
         a.act = x.active f e → a.ord = 0 → a.scope = 0 → a.core = coreOf s.cur → a.proc = x.owner.proc → a.rp = false → a.cp = 0 → a.rot = 0 →
         a.rel = x.fenced → a.issuedAt = s.clock → a.after = x.loadMark → a.failed = [] → a.psn = false → a.entry = none →
         a.lanes = ((lanes.filter clean).filter within).map (fun l => { lane := l.val, addr := base + off l, keys := [] }) →
         a.done = (lanes.filter fun l => !clean l).map (fun l => (l.val, [], true)) ++
           ((lanes.filter clean).filter fun l => !within l).map (fun l => (l.val, toBytes n 0, false)) →
         (s.resolve x a).1 = .ok ls →
         ∃ t y, exec (.ldp f) s = .next t ∧ t.warp? s.cur = some y ∧ Gone t s.cur x y e f none ∧ KeepsRegs x y sh f ∧
           y.still = { x.still with results := y.results, sawMark := y.sawMark, pwb := x.pwb || ((lanes.filter clean).any fun l => !within l) } ∧
           (s.misses (coreOf s.cur) x.owner.proc ls → y.results = x.results ∧ SetsOut s t x y e sh f { a with lanes := ls } none)))

/-- R210, R341, R348, R349, R352: the next lanes of an access perform at their home: a load reads its lanes' bytes there, or from the core's L1, and lanes of a
cluster-shared slice see its buffer over its banks; a store writes them; an atomic takes its lanes one after another. What may not perform yet changes nothing;
lanes that fail there fail alone (R165), and those of a line that a migration has lost receive poison (R403). R350, R353: a host request performs when its
completion arrives; an error completion fails its lane alone with code 2. Accesses at a home word leave their place in the order of the clk (R362; log entry
90). -/
def Obligations.HomesPerform : Prop :=
  (∀ (s : State) (k : Nat) (a : Access) (l : LaneAcc) (rest : List LaneAcc),
     s.flight? k = some a → a.space ≠ .host → a.space ≠ .scratch → a.space ≠ .slice → a.chunk = l :: rest →
     let ls := l :: rest
     let go := s.mayPerform a ls && !l.keys.any fun j => s.portHolds a.core a.issuedAt (s.redirect j)
     let key := l.keys.headD 0
     let shared := a.space = .cluster
     let view := fun u : State => if shared then u.sliceView (sliceOwner key) else u
     (∀ b ∈ ls, b.node = none) → (∀ g o q, a.op ≠ .det g o q) →
     (go = false → exec (.homeAccess k) s = .next s) ∧
     (go = true → Quiet s → l.keys ≠ [] → (∀ b ∈ ls, b.keys.Nodup) →
       (∀ c, s.keyFault key = some c → exec (.homeAccess k) s =
         .next (s.settle (if c = 4 then { a with done := a.done ++ ls.map (fun b => (b.lane, [], true)), psn := true }
           else { a with failed := a.failed ++ ls.map fun b => (b.lane, c) }))) ∧
       (s.keyFault key = none →
         (∀ v, a.op = .load v → s.l1Takes a.core ls.length → (shared → isGlobal key = false) →
           let seen := if isGlobal key then s.loadView a ls else view s
           let got := fun b : LaneAcc => if seen.anyMarked b.keys then (b.lane, ([] : List Byte), true) else (b.lane, b.keys.map seen.byte, false)
           ∃ u, exec (.homeAccess k) s = .next (u.settle { a with done := a.done ++ ls.map got,
                                                                   psn := a.psn || ((ls.map got).any (·.2.2) && a.dest != .none) }) ∧
             AtHome s u a.core ∧ u.mem = s.mem ∧ u.marks = s.marks) ∧
         (a.op = .store → (∀ b ∈ ls, b.data.length = b.keys.length) →
           ∃ u, exec (.homeAccess k) s = .next (u.settle { a with done := a.done ++ ls.map fun b => (b.lane, [], false) }) ∧ AtHome s u a.core ∧
             Stores (view s) (view u) ls) ∧
         (∀ aop, a.op = .atomic aop → (∀ b ∈ ls, b.keys.length = a.width) →
           let marked := fun b : LaneAcc => (view s).anyMarked b.keys
           ∃ u v, v 0 = (view s).byte ∧ v ls.length = (view u).byte ∧ Atomics aop a.width ls marked v ∧ AtHome s u a.core ∧ (view u).marks = (view s).marks ∧
             exec (.homeAccess k) s = .next (u.settle { a with
               done := a.done ++ ls.mapIdx fun n b => if b.tag || marked b then (b.lane, [], true) else (b.lane, b.keys.map (v n), false)
               psn := a.psn || (ls.any marked && a.dest != .none) }))))) ∧
  (∀ (s : State) (a : Access) (l : LaneAcc), Quiet s → (∀ g ∈ s.flights, g.core ≠ a.core) →
     (s.l1Line? a.core (s.asid a.proc) l.addr = none → ∀ k, (s.loadView a [l]).byte k = s.byte k) ∧
     ∀ c, s.l1Line? a.core (s.asid a.proc) l.addr = some c → l.keys.Nodup → l.addr % 128 + l.keys.length ≤ c.data.length →
       l.keys.map (s.loadView a [l]).byte = (c.data.drop (l.addr % 128)).take l.keys.length) ∧
  (∀ (s : State) (k : Nat) (a : Access) (l : LaneAcc) (rest : List LaneAcc), s.flight? k = some a → a.space = .host → a.chunk = l :: rest →
     s.mayPerform a (l :: rest) = true → exec (.hostCompletion k false) s = .next (s.settle { a with failed := a.failed ++ [(l.lane, 2)] })) ∧
  (∀ (s : State) (k b : Nat) (a : Access) (l : LaneAcc), s.flight? k = some a → a.space = .host → a.chunk = [l] → l.node = none →
     s.mayPerform a [l] = true → l.keys = span (hostKey b) a.width → Quiet s →
     (∀ v, a.op = .load v → ∃ u, AtHome s u a.core ∧ u.mem = s.mem ∧ u.marks = s.marks ∧ exec (.hostCompletion k true) s =
       .next (u.settle { a with done := a.done ++ [if s.anyMarked l.keys then (l.lane, [], true) else (l.lane, l.keys.map s.byte, false)],
                                psn := a.psn || (s.anyMarked l.keys && a.dest != .none) })) ∧
     (a.op = .store → l.data.length = a.width → ∃ u, AtHome s u a.core ∧ Stores s u [l] ∧
       exec (.hostCompletion k true) s = .next (u.settle { a with done := a.done ++ [(l.lane, [], false)] })) ∧
     (∀ aop, a.op = .atomic aop → l.tag = false → s.anyMarked l.keys = false → ∃ u, AtHome s u a.core ∧ u.marks = s.marks ∧
       (∀ j, u.byte j = if j ∈ l.keys then
           (toBytes a.width (atomicNew aop a.width (ofBytes (l.keys.map s.byte)) (ofBytes l.data) (ofBytes l.new))).getD (j - hostKey b) 0 else s.byte j) ∧
       exec (.hostCompletion k true) s = .next (u.settle { a with done := a.done ++ [(l.lane, l.keys.map s.byte, false)] })))

/-- R32, R165, R169: once every lane of an access has performed, its result is on its way to its registers, and its flight is over; a lane that failed takes an
operand-log entry with the lanes that did not perform. A result that arrives is written, and fills its registers, once those in the spill region have entries of
their pools (R35). Reads note the early stores of their core that they may have met (R368). That failed lanes enter the log as one entry once all lanes have
settled (log entry 7), in the lowest free one (log entry 35) and with the code of the first that failed (log entry 84) are the model's choices. -/
def Obligations.ResultsArrive : Prop :=
  (∀ (s : State) (x : Warp) (a : Access), s.warp? a.w = some x → x.marks.ended = false → x.call.posts = [] → x.wait ≠ some (.access a.id a.scope) →
    a.entry = none →
    let t := s.settle a
    ∃ saw, x.sawMark ≤ saw ∧ (a.reads = false → saw = x.sawMark) ∧ (∀ w, w ≠ a.w → t.warp? w = s.warp? w) ∧
      (∀ c, ∃ l1, t.core c = { s.core c with l1 := l1 } ∧ (a.reads = false ∨ x.dropMark ≤ a.id ∨ c ≠ a.core → l1 = (s.core c).l1)) ∧
      (a.todo ≠ [] → t = { s with flights := s.flights.map (fun g => if g.id = a.id then a else g), warps := t.warps, cores := t.cores } ∧
        t.warp? a.w = some { x with sawMark := saw }) ∧
      (a.todo = [] → a.failed = [] → t = { s with flights := s.flights.filter (fun g => g.id != a.id), warps := t.warps, cores := t.cores } ∧
        t.warp? a.w = some { x with
          sawMark := saw
          results := x.results ++ if a.puts = [] ∧ a.psn = false then [] else [{ id := a.id, puts := a.puts, psn := a.psn, pc := a.pc }] }) ∧
      (∀ l c fs n, a.todo = [] → a.failed = (l, c) :: fs → a.space ≠ .host → c ∈ [5, 7, 8] → x.log.free 0 4 = some n →
        t = { s with flights := s.flights.filter (fun g => g.id != a.id), warps := t.warps, cores := t.cores } ∧
        t.warp? a.w = some { x with sawMark := saw, log := x.log.set n { state := .failed, code := c, acc := { a with failed := [], entry := none } } })) ∧
  ∀ (s : State) (w k : Nat) (x : Warp) (r : Result), s.warp? w = some x → x.results.find? (fun q => q.id == k) = some r → r.marking = none → x.marks.ended = false →
    r.psn = false →
    let placed := s.placeRegs w (r.puts.map Put.reg)
    ((∀ p ∈ r.puts, x.isBound p.reg = true ∧ x.isSpilled p.reg = false) → placed = (s, true)) ∧
    (placed.2 = false → exec (.producerResult w k) s = .next placed.1) ∧
    ∀ z, placed.2 = true → placed.1.warp? w = some z → z.marks.ended = false → z.call.posts = [] →
    ∃ t y, exec (.producerResult w k) s = .next t ∧ t = { placed.1 with warps := t.warps } ∧ (∀ v, v ≠ w → t.warp? v = placed.1.warp? v) ∧
      t.warp? w = some y ∧ y.results = z.results.filter (fun q => q.id != k) ∧ y.hw = z.hw ∧ y.preds = z.preds ∧
      (∀ n m v tg, r.puts = [.x n m v tg] → n ≠ 255 → ∃ q, y.x.get? n = some q ∧ q.empty = false ∧ q.spilled = false ∧ ∀ l : Fin 32,
        if m.getLsbD l.val then q.val[l] = v[l] ∧ q.tag.getLsbD l.val = tg.getLsbD l.val
        else match z.x.get? n with
          | some o => q.val[l] = o.val[l] ∧ q.tag.getLsbD l.val = o.tag.getLsbD l.val
          | none => q.val[l] = poison32 ∧ q.tag.getLsbD l.val = true) ∧
      (∀ n v tg, r.puts = [.k n v tg] → ∃ q, y.k.get? n = some q ∧ q.val = v ∧ q.tag = tg ∧ q.empty = false)

/-- R349, R366, R372, R400: an access does not perform at its home before an older one of its warp that touches a byte of it, before every older access of its
warp, reads too (log entry 6), where it releases at `.cl` or wider, or, if it writes, while the migration engine has locked its line. R167, R169: a queued entry
of the operand log translates again and sets out under its entry; a fifth fault retries once an entry is free. -/
def Obligations.OrderAndReplays : Prop :=
  (∀ (s : State) (k : Nat) (a : Access) (l : LaneAcc) (rest : List LaneAcc), s.flight? k = some a → a.space ≠ .host → a.space ≠ .scratch →
     (∀ g o q, a.op ≠ .det g o q) → a.chunk = l :: rest →
     ((∃ b ∈ s.flights, b.id < a.id ∧ b.w = a.w ∧ ∃ m ∈ b.left, ∃ n ∈ l :: rest, ∃ j ∈ n.keys, j ∈ m.keys) → exec (.homeAccess k) s = .next s) ∧
     (2 ≤ a.ord → 2 ≤ a.scope → (∃ b ∈ s.flights, b.id < a.id ∧ b.w = a.w) → exec (.homeAccess k) s = .next s) ∧
     (a.writes = true → (∃ n ∈ l :: rest, ∃ j ∈ n.keys, s.lockedLine j = true) → exec (.homeAccess k) s = .next s)) ∧
  (∀ (s : State) (w : Nat) (x : Warp), s.warp? w = some x →
     (∀ n en ls, x.log = [(n, en)] → en.state = .queued → (∀ b ∈ s.flights, b.w ≠ en.acc.w) → en.acc.space ≠ .scratch → en.acc.space ≠ .slice →
       (∀ g, en.acc.instr ≠ .waitaddr g) →
       let a : Access := { en.acc with w := w, core := coreOf w, issuedAt := s.clock }
       (s.resolve x a).1 = .ok ls → ({ a with lanes := ls } : Access).todo ≠ [] → s.misses a.core a.proc ls →
       ∃ t, exec (.replay w n) s = .next t ∧ { a with lanes := ls, entry := some n } ∈ t.flights ∧ (∀ b ∈ s.flights, b ∈ t.flights) ∧ t.mem = s.mem ∧
         t.warps = s.warps) ∧
     (∀ n a, x.fifth = some a → x.log.free 0 4 = some n → (∀ g, a.instr ≠ .waitaddr g) →
       exec (.fifthFaultRetry w) s = .next ((s.setWarp w { x with fifth := none, wait := if x.wait = some .fifth then none else x.wait }).launchAccess
         { a with w := w, core := coreOf w })) ∧
     (∀ a, x.fifth = some a → x.log.free 0 4 = none → exec (.fifthFaultRetry w) s = .next s))

/-! ## Order, watches, determinism and moves (R135, R136, R208 to R214, R351, R355 to R361) -/

/-- R166, R208, R209, R211: a fence waits for the operand log, and then for what it orders; it completes with its release and its acquire action, as
FENCE_COMPLETE does for a warp that was waiting. A release at `.cl` or wider takes the warp's slice stores to their homes. That a release waits for stores which
the warp may have read before they performed is the model's stronger order (log entry 89). R210, R378: an entry of a write buffer reaches its bank, which
changes nothing that the lanes read; a core that owes no early write any more acknowledges the flush of a promotion, and the warp that waited for it alone
acquires. -/
def Obligations.FencesAndDrains : Prop :=
  ((∀ (s : State) (x : Warp) (e : Entry) (sh : Shape) (f : Frame) (i : Instr) (kind : Nat),
     (i, kind) ∈ [(Instr.fenceAr f, 0), (.fenceAcq f, 1), (.fenceRel f, 2), (.fencePath f, 3)] → Ready i s x e sh f → x.active f e ≠ 0 →
     let scope := f.mf 3 3
     (x.log ≠ [] ∨ x.fifth ≠ none → ∃ t, exec i s = .next t ∧ HeldAt s t x f .oplog) ∧
     (x.log = [] → x.fifth = none → FenceHolds s s.cur kind scope →
       ∃ t y, exec i s = .next t ∧ t.warp? s.cur = some y ∧ Gone t s.cur x y e f none ∧
         y.still = { x.still with
           fenced := if kind = 0 ∨ kind = 2 then some scope else x.fenced
           relMark := if kind = 0 ∨ kind = 2 then s.nextId else x.relMark
           loadMark := if kind ≤ 1 then s.nextId else x.loadMark
           dropMark := if kind ≤ 1 ∧ 2 ≤ scope then s.nextId else x.dropMark } ∧
         (∀ w, w ≠ s.cur → t.warp? w = s.warp? w) ∧
         (kind = 1 ∨ kind = 3 ∨ scope < 2 ∨ s.sliceClean s.cur → t = { s with warps := t.warps, cores := t.cores } ∧
           ∀ c, ∃ q, t.core c = { (if c = coreOf s.cur ∧ kind ≤ 1 then (s.core c).acquired scope else s.core c) with quads := q }) ∧
         (kind = 0 ∨ kind = 2 → 2 ≤ scope → t.sliceClean s.cur ∧ ∀ l : SliceLine, (s.core (coreOf s.cur)).slices = [l] → l.w = s.cur → l.dirty = true →
           l.data.length = 128 → Quiet s → (span l.key 128).map t.byte = l.data ∧ ∀ k, k ∉ span l.key 128 → t.byte k = s.byte k)) ∧
     (x.log = [] → x.fifth = none → ¬ FenceHolds s s.cur kind scope → ∃ t y, exec i s = .next t ∧ Suspends s t x y f (.fence kind scope) ∧
       t = { s with warps := t.warps, cores := t.cores })) ∧
   ∀ (s : State) (w : Nat) (x : Warp) (kind scope : Nat), s.warp? w = some x → x.wait = some (.fence kind scope) → kind ≤ 3 →
     (FenceHolds s w kind scope → x.log = [] → x.fifth = none → s.killDue w x = false → ∃ t y, exec (.fenceComplete w) s = .next t ∧ Completed t w x y ∧
       y.fenced = (if kind = 0 ∨ kind = 2 then some scope else x.fenced) ∧ y.relMark = (if kind = 0 ∨ kind = 2 then s.nextId else x.relMark) ∧
       y.loadMark = (if kind ≤ 1 then s.nextId else x.loadMark) ∧ y.dropMark = (if kind ≤ 1 ∧ 2 ≤ scope then s.nextId else x.dropMark) ∧
       (kind = 1 ∨ kind = 3 ∨ scope < 2 ∨ s.sliceClean w → t = { s with warps := t.warps, cores := t.cores }) ∧
       (kind = 0 ∨ kind = 2 → 2 ≤ scope → t.sliceClean w) ∧
       (t.core (coreOf w)).l1 = if kind ≤ 1 ∧ 2 ≤ scope then [] else (s.core (coreOf w)).l1) ∧
     (¬ FenceHolds s w kind scope ∨ x.log ≠ [] ∨ x.fifth ≠ none → exec (.fenceComplete w) s = .next s)) ∧
  ((∀ (s : State) (c : Nat) (b : Buffered) (r : List Buffered),
     ((s.core c).wbuf = b :: r → (s.core c).csbuf = [] →
       ∃ t, exec (.writeBufferDrain c) s = .next t ∧ t.core c = { s.core c with wbuf := r } ∧ (∀ k, (t.portView c).byte k = (s.portView c).byte k) ∧
         (∀ k, k ∉ b.keys → t.byte k = s.byte k) ∧ t.warps = s.warps ∧ t.flights = s.flights) ∧
     ((s.core c).wbuf = [] → (s.core c).csbuf = b :: r →
       ∃ t, exec (.writeBufferDrain c) s = .next t ∧ t.core c = { s.core c with csbuf := r } ∧ (∀ k, (t.sliceView c).byte k = (s.sliceView c).byte k) ∧
         (∀ k, k ∉ b.keys → t.byte k = s.byte k) ∧ t.warps = s.warps ∧ t.flights = s.flights)) ∧
   ∀ (s : State) (c w : Nat) (x : Warp) (n scope : Nat), s.warps = [(w, x)] → x.wait = some (.flush [c] n scope) →
     (∀ f ∈ s.flights, f.core = c → s.early f = false) →
     ∃ t, exec (.remoteScopeFlush c) s = .next t ∧ t.mem = s.mem ∧ t.flights = s.flights ∧
       t.warp? w = some { x with wait := none, loadMark := if 2 ≤ scope then s.nextId else x.loadMark
                                 dropMark := if 2 ≤ scope then s.nextId else x.dropMark } ∧
       (t.core (coreOf w)).l1 = if 2 ≤ scope then [] else (s.core (coreOf w)).l1)

/-- R351, R394: `prfg.l1` brings the lines that the cluster's TLB lets it read into the L1 and never faults; `prfg.l2` leaves the L1 as it is. A page walk
leaves a leaf in the core's TLB. -/
def Obligations.PrefetchAndWalk : Prop :=
  (∀ (s : State) (x : Warp) (e : Entry) (sh : Shape) (f : Frame), Ready (.prfg f) s x e sh f → x.active f e ≠ 0 →
    let core := coreOf s.cur
    let asid := s.asid x.owner.proc
    let a := x.lane f.xa
    let k := x.uni f.kb
    let va := fun l : Fin 32 => (k.1 + (a.1[l].setWidth 64 <<< f.mf 4 3) + f.imm.signExtend 64).toNat
    Quiet s →
    ∃ t y, exec (.prfg f) s = .next t ∧ t.warp? s.cur = some y ∧ Gone t s.cur x y e f none ∧ y.still = x.still ∧ KeepsRegs x y sh f ∧
      (∀ w, w ≠ s.cur → t.warp? w = s.warp? w) ∧
      ((f.vn = 0 → s.l1Takes core 32) → t = { s with warps := t.warps, cores := t.cores, hotness := t.hotness, samples := t.samples } ∧
        (∀ c, ∃ q l1, t.core c = { s.core c with quads := q, l1 := l1 } ∧ (f.vn ≠ 0 ∨ c ≠ core → l1 = (s.core c).l1)) ∧
        ∀ l : Fin 32, f.vn = 0 → (x.active f e).getLsbD l.val = true → k.2 = false → a.2.getLsbD l.val = false → va l < 2 ^ 57 →
          ∀ pte, tlbFind (s.cluster (clusterOf core)).tlb asid (va l) = some pte → pteRd pte = true → pteTier pte ≠ 3 →
            s.keyFault (leafKey pte (va l / 128 * 128)) = none → (t.l1Line? core asid (va l)).isSome = true)) ∧
  ∀ (s : State) (core p : Nat) (pr : Proc) (va pte : W64) (place : Nat), s.procs = [(p, pr)] → va.toNat < 2 ^ 57 → s.walk p va.toNat = .leaf pte place →
    pteRd pte = true → (s.die (dieOf core)).walks = [] →
    ∃ t pte', exec (.pageWalk core (s.asid p) va) s = .next t ∧ t = { s with cores := t.cores, clusters := t.clusters, dies := t.dies, uses := t.uses } ∧
      tlbFind (t.core core).tlb (s.asid p) va.toNat = some pte' ∧ pteRd pte' = true ∧
      (tlbFind (s.core core).tlb (s.asid p) va.toNat = none → tlbFind (s.cluster (clusterOf core)).tlb (s.asid p) va.toNat = none → pte' = pte)

/-- R134 to R137: `waitaddr` traps on a tagged operand or a misaligned address; it reads its word at issue, and after that at every event of its watch: a
write to the line, the deadline, or 16,384 clk since the last. The condition ends it with true, the first look at or after the deadline with false; otherwise it
goes on. A sleep ends at its time. A trap, a halt or a kill that is due comes before either end. -/
def Obligations.Watches : Prop :=
  (∀ (s : State) (x : Warp) (e : Entry) (sh : Shape) (f : Frame), Ready (.waitaddr f) s x e sh f → x.active f e ≠ 0 →
    let b := x.uni f.kb
    let k := x.uni f.ka
    let c := x.uni f.kc
    let n := if f.vn = 7 then 8 else 4
    let a : W64 := b.1 + f.imm.signExtend 64
    let tagged := b.2 || k.2 || (f.bit 6 && c.2)
    let deadline := s.clock + c.1.toNat % 2 ^ 32
    (tagged = true → exec (.waitaddr f) s = .next (s.takeTrap s.cur 9 0 e.pc)) ∧
    (tagged = false → a.toNat % n ≠ 0 → exec (.waitaddr f) s = .next (s.takeTrap s.cur 0x0A a e.pc)) ∧
    ∀ pte place, tagged = false → a.toNat % n = 0 → x.log = [] → x.fifth = none → (∀ g ∈ s.flights, g.w ≠ s.cur) → Quiet s → a.toNat < 2 ^ 57 →
      (s.translate (coreOf s.cur) x.owner.proc a.toNat 0).1 = .leaf pte place → pteTier pte ≠ 3 → s.keyFault (leafKey pte a.toNat) = none →
      let keys := (List.range n).map fun i => leafKey pte (a.toNat + i)
      let view := s.coreView (coreOf s.cur) fun _ => true
      view.anyMarked keys = false → s.portsOpen keys (s.homeRank (coreOf s.cur) (leafKey pte a.toNat)) = true →
      let v := ofBytes (keys.map view.byte)
      let cmp := k.1.toNat % 2 ^ (8 * n)
      let met := match f.mf 0 2 with | 0 => decide (v = cmp) | 1 => decide (v ≠ cmp) | 2 => decide (cmp ≤ v) | _ => decide (v < cmp)
      ∃ t y, exec (.waitaddr f) s = .next t ∧ t.warp? s.cur = some y ∧ y.run = 0 ∧ t.mem = s.mem ∧ (∀ w, w ≠ s.cur → t.warp? w = s.warp? w) ∧
        if met = true ∨ f.bit 6 = true ∧ c.1.toNat % 2 ^ 32 = 0 then
          y.hw = (x.replaceHead [{ e with pc := t.land s.cur x (e.pc + BitVec.ofNat 57 f.form.bytes) }]).hw ∧ y.wait = none ∧
          PredHolds x y (x.active f e) f.xd (fun _ => met) 0 ∧ (f.bit 2 = true → 2 ≤ f.mf 3 3 → (t.core (coreOf s.cur)).l1 = [])
        else y.hw = x.hw ∧ y.preds = x.preds ∧ ∃ q, y.wait = some (.watch q) ∧ q.pd = f.xd ∧ q.cond = f.mf 0 2 ∧ q.cmp = k.1 ∧ q.faulted = false ∧
          q.entry = none ∧ q.far = false ∧ q.sent = none ∧
          q.acq = (if f.bit 2 then some (f.mf 3 3) else none) ∧ q.deadline = (if f.bit 6 then some deadline else none) ∧ q.lastEval = s.clock) ∧
  (∀ (s : State) (w : Nat) (x : Warp) (q : Watch) (l : LaneAcc) (pte : W64) (place : Nat) (i : Instr),
    s.warp? w = some x → x.wait = some (.watch q) → q.faulted = false → q.acc.space = .global → q.acc.op = .load 0 → q.acc.lanes = [l] → q.acc.done = [] →
    q.acc.ord = 0 → q.acc.rel = none → q.acc.proc = x.owner.proc → x.log = [] → x.fifth = none → (∀ n, q.sent = some n → s.clock < n + 2 ^ 24) →
    (∀ g ∈ s.flights, g.w ≠ w) → Quiet s → l.addr < 2 ^ 57 → 0 < q.acc.width →
    s.interrupted w x = false →
    ((i = .waitaddrEvaluation w ∧ (q.far = false ∨ q.sent ≠ none)) ∨ (i = .waitaddrDeadline w ∧ ∃ d, q.deadline = some d ∧ d ≤ s.clock) ∨
      (i = .waitaddrPeriodic w ∧ q.lastEval + 16384 ≤ s.clock)) →
    (s.translate (coreOf w) q.acc.proc l.addr 0).1 = .leaf pte place → pteTier pte ≠ 3 → s.keyFault (leafKey pte l.addr) = none →
    let keys := (List.range q.acc.width).map fun n => leafKey pte (l.addr + n)
    let view := s.coreView (coreOf w) fun _ => true
    view.anyMarked keys = false → s.portsOpen keys (s.homeRank (coreOf w) (leafKey pte l.addr)) = true →
    let v := ofBytes (keys.map view.byte)
    let cmp := q.cmp.toNat % 2 ^ (8 * q.acc.width)
    let met := match q.cond with | 0 => decide (v = cmp) | 1 => decide (v ≠ cmp) | 2 => decide (cmp ≤ v) | _ => decide (v < cmp)
    let late := match q.deadline with | some d => decide (d ≤ s.clock) | none => false
    ∃ t y, exec i s = .next t ∧ t.mem = s.mem ∧ (∀ u, u ≠ w → t.warp? u = s.warp? u) ∧ WatchGoesOn t w x y q s.clock met late) ∧
  ∀ (s : State) (w : Nat) (x : Warp) (till : Nat), s.warp? w = some x → x.wait = some (.sleep till) →
    exec (.sleepExpiry w) s = .next (if till ≤ s.clock ∧ s.interrupted w x = false then s.setWarp w { x with wait := none } else s)

/-- R355 to R360: a deterministic update sets out with the issuer's place in its gang and the number of the update; its home holds it; `detcommit` counts the
warp's commit and waits, once, also where a save has come between (R461); once the window has closed, an address takes its updates in ascending issuer and
number, added one by one to the stored value, in one indivisible step, and when none is left the members' `detcommit` completes with an acquire. -/
def Obligations.DeterministicReductions : Prop :=
  (∀ (s : State) (x : Warp) (e : Entry) (sh : Shape) (f : Frame), Ready (.redgDet f) s x e sh f → x.active f e ≠ 0 →
    let a := x.lane f.xa
    let k := x.uni f.kb
    let addr := fun l : Fin 32 => (k.1 + (a.1[l].setWidth 64 <<< f.mf 4 3) + f.imm.signExtend 64).toNat
    let lanes := (lanesOf (x.active f e)).filter fun l => !(k.2 || a.2.getLsbD l.val)
    (x.member? f.d.toNat = none → exec (.redgDet f) s = .next (s.takeTrap s.cur 5 0x144 e.pc)) ∧
    ∀ m ls, x.member? f.d.toNat = some m → (∀ l ∈ lanes, addr l % 4 = 0) → lanes ≠ [] → x.log = [] →
      let q : Access :=
        { id := s.nextId, w := s.cur, instr := .redgDet f, pc := e.pc, space := .global, op := .det f.d.toNat m.ord m.dets, width := 4, dest := .none
          lanes := lanes.map fun l => { lane := l.val, addr := addr l, keys := [], data := toBytes 4 (x.datum f.xc 1 l), tag := (x.soiled f.xc 1).getLsbD l.val }
          act := x.active f e, ord := 0, scope := 0, core := coreOf s.cur, proc := x.owner.proc, rel := x.fenced, issuedAt := s.clock
          after := Nat.max x.loadMark x.relMark }
      (s.resolve x q).1 = .ok ls →
      ∃ t y, exec (.redgDet f) s = .next t ∧ SetsOut s t x y e sh f { q with lanes := ls } none ∧
        y.still = { x.still with members := x.members.map fun g => if g.gang = f.d.toNat then { g with dets := g.dets + 1 } else g }) ∧
  (∀ (s : State) (x : Warp) (e : Entry) (sh : Shape) (f : Frame), Ready (.detcommit f) s x e sh f → x.active f e ≠ 0 →
    (x.member? f.xa = none → ∃ t y, exec (.detcommit f) s = .next t ∧ Passes s t x y e sh f ∧ y.still = x.still) ∧
    (∀ m ens, x.member? f.xa = some m → x.owner.ensemble = some ens → m.committed = true →
      ∃ t y, exec (.detcommit f) s = .next t ∧ Suspends s t x y f (.commit f.xa) ∧ t.mem = s.mem ∧ t.clusters = s.clusters) ∧
    (∀ m ens, x.member? f.xa = some m → x.owner.ensemble = some ens → m.committed = false → m.again = some e.pc →
      ∃ t y, exec (.detcommit f) s = .next t ∧ t.warp? s.cur = some y ∧ Moved s x y e f ∧ t.mem = s.mem ∧ t.clusters = s.clusters ∧
        (t.core (coreOf s.cur)).l1 = [] ∧ y.members = x.members.map fun q => if q.gang = f.xa then { q with again := none } else q) ∧
    ∀ m ens g, x.member? f.xa = some m → x.owner.ensemble = some ens → m.committed = false → m.again ≠ some e.pc → x.log = [] → x.fifth = none →
      (∀ b ∈ s.flights, b.w ≠ s.cur) → s.gang? (clusterOf (coreOf s.cur)) ens f.xa = some g →
      ∃ t y, exec (.detcommit f) s = .next t ∧ Suspends s t x y f (.commit f.xa) ∧ t.mem = s.mem ∧
        t.gang? (clusterOf (coreOf s.cur)) ens f.xa = some { g with commits := g.commits + 1 } ∧ ∃ m', y.member? f.xa = some m' ∧ m'.committed = true ∧ m'.again = none) ∧
  (∀ (s : State) (k : Nat) (a : Access) (x : Warp) (l : LaneAcc) (ls : List LaneAcc) (g ord seq ens : Nat) (b : Nat),
    s.flight? k = some a → a.op = .det g ord seq → a.space = .global → a.todo = l :: ls → s.warp? a.w = some x → x.owner.ensemble = some ens →
    s.mayPerform a [l] = true → Quiet s → l.node = none → l.keys.head? = some b → s.keyFault b = none →
    let h : Held := { cluster := s.windowPlace (clusterOf a.core) ens, ensemble := ens, gang := g,
                      window := ((s.gang? (clusterOf a.core) ens g).map (·.window)).getD 0, proc := a.proc, key := b, buf := [] }
    let u : Update := { issuer := ord * 32 + l.lane, seq := seq, val := BitVec.ofNat 32 (ofBytes l.data), poison := l.tag }
    (∀ o ∈ s.held, o.same h = false) → s.held.length < 32 →
    ∃ t, AtHome ({ s with held := s.held ++ [{ h with buf := [u] }] } : State) t a.core ∧ t.mem = s.mem ∧ t.marks = s.marks ∧
      exec (.detUpdateArrival k) s = .next (t.settle { a with done := a.done ++ [(l.lane, [], false)] })) ∧
  (∀ (s : State) (c g : Nat) (q : Gang) (h : Held), (s.cluster c).gangs = [q] → q.num = g → s.windowClosed c q = true → s.held = [h] →
    h.cluster = s.windowPlace c q.ensemble → h.ensemble = q.ensemble → h.gang = g → h.window = q.window → h.runs = [] → Quiet s → s.homeFault h.key = none →
    h.buf.Pairwise (fun a b => a.issuer < b.issuer ∨ a.issuer = b.issuer ∧ a.seq < b.seq) →
    let keys := span h.key 4
    let start := (BitVec.ofNat 32 (ofBytes (keys.map s.byte)), s.anyMarked keys)
    let sum := h.buf.foldl (fun (v : W32 × Bool) u => if v.2 || u.poison then (poison32, true) else (fadd32 v.1 u.val, false)) start
    ∃ t, exec (.windowFold c g) s = .next t ∧ t = { s with held := [], mem := t.mem, marks := t.marks } ∧
      (sum.2 = true → t.anyMarked keys = true) ∧ (sum.2 = false → ofBytes (keys.map t.byte) = sum.1.toNat) ∧ (∀ k, k ∉ keys → t.byte k = s.byte k)) ∧
  ∀ (s : State) (c g : Nat) (q : Gang) (w : Nat) (x : Warp), (s.cluster c).gangs = [q] → q.num = g → s.windowClosed c q = true → s.held = [] →
    s.warps = [(w, x)] → clusterOf (coreOf w) = c → x.owner.ensemble = some q.ensemble → x.wait = some (.commit g) →
    ∃ t y, exec (.windowFold c g) s = .next t ∧ t.held = [] ∧ t.mem = s.mem ∧ Completed t w x y ∧ (t.core (coreOf w)).l1 = [] ∧
      (t.cluster c).gangs = [{ q with commits := 0, window := q.window + 1 }] ∧ ∀ m ∈ y.members, m.gang = g → m.committed = false ∧ m.dets = 0

/-- R212 to R214: `migw` waits until nothing of the warp is outstanding; to the core it is on, or to one that refuses it, it passes and its predicate says
which; otherwise the warp leaves its slot, and arrives in the slot that it has reserved with its registers and its place in the program. That it waits for
stores which it may have read before they performed is the model's stronger order (log entry 89). -/
def Obligations.WarpMoves : Prop :=
  (∀ (s : State) (x : Warp) (e : Entry) (sh : Shape) (f : Frame), Ready (.migw f) s x e sh f → x.active f e ≠ 0 →
    let ka := (x.uni f.ka).1
    let target := ka.toNat / 256 % 4 * 96 + ka.toNat % 128
    let clean := ka.toNat < 2 ^ 10 ∧ ka.toNat / 128 % 2 = 0
    let act := x.active f e
    let ready := x.log = [] ∧ x.fifth = none ∧ (∀ r ∈ x.x, r.2.empty = false) ∧ (∀ r ∈ x.k, r.2.empty = false) ∧ (∀ c ∈ x.copy.cnt, c.2 = 0) ∧ x.results = [] ∧
      (∀ a ∈ s.flights, a.w ≠ s.cur) ∧ s.sharedDrained s.cur = true ∧ s.initsDone s.cur = true ∧ s.seenDone s.cur s.nextId = true ∧
      s.commandsOf s.cur = []
    let here := target = coreOf s.cur ∧ ka.toNat % 128 < 96
    ((x.uni f.ka).2 = true → exec (.migw f) s = .next (s.takeTrap s.cur 9 0 e.pc)) ∧
    ((x.uni f.ka).2 = false →
      (¬ ready → ∃ t, exec (.migw f) s = .next t ∧ HeldAt s t x f .migw) ∧
      (ready →
        (here → ∃ t y, exec (.migw f) s = .next t ∧ Passes s t x y e sh f ∧ y.still = { x.still with preds := y.preds } ∧
          PredHolds x y act f.xd (fun _ => true) 0) ∧
        (¬ here → (¬ clean ∨ 24 ≤ (ka.toNat % 128) / 4 ∨ x.role = 1 ∨
            (x.owner.task = true ∧ s.granted x.owner.proc target = false) ∨ (x.members ≠ [] ∧ clusterOf target ≠ clusterOf (coreOf s.cur)) ∨
            s.admitSlot target = none) → s.cpd ≤ 24 →
          ∃ t y, exec (.migw f) s = .next t ∧ Passes s t x y e sh f ∧ y.still = { x.still with preds := y.preds } ∧
            PredHolds x y act f.xd (fun _ => false) 0) ∧
        ∀ slot base, ¬ here → s.moveTarget s.cur x ka = some (slot, base) →
          ∃ t y n, exec (.migw f) s = .next t ∧ t.warp? s.cur = none ∧ t.transit = s.transit ++ [{ id := n, warp := y, target := slot }] ∧
            (x.owner.task = false → (s.core (coreOf s.cur)).wbuf = [] → (s.core (coreOf s.cur)).csbuf = [] →
              (∀ l ∈ (s.core (coreOf s.cur)).slices, l.w ≠ s.cur) → t.mem = s.mem ∧ t.marks = s.marks) ∧
            PredHolds x y act f.xd (fun _ => true) 0 ∧
            y.hw = (x.replaceHead [{ e with pc := s.land s.cur x (e.pc + BitVec.ofNat 57 f.form.bytes) }]).hw ∧ y.run = 0 ∧ y.wait = none ∧
            y.spbase = base ∧ y.age = 0 ∧ KeepsRegs x y sh f ∧ ∀ w, w ≠ s.cur → t.warp? w = s.warp? w))) ∧
  ∀ (s : State) (m : Transit), s.transit = [m] → (s.spillUsed (coreOf m.target)) + 256 + 136 * (m.warp.x.length + m.warp.k.length) ≤ 2 ^ 17 →
    s.warp? m.target = none →
    ∃ t y, exec (.migwArrival m.id) s = .next t ∧ t.transit = [] ∧ t.warp? m.target = some y ∧ (t.core (coreOf m.target)).l1 = [] ∧
      ((s.core (coreOf m.target)).slices = [] → t = { s with transit := [], warps := t.warps, cores := t.cores } ∧
        ∀ c, c ≠ coreOf m.target → t.core c = s.core c) ∧
      (∀ w, w ≠ m.target → t.warp? w = s.warp? w) ∧ y.hw = m.warp.hw ∧ y.preds = m.warp.preds ∧ y.owner = m.warp.owner ∧
      (∀ n, (y.x.get? n).map (fun r => (r.val, r.tag, r.bad, r.empty)) = (m.warp.x.get? n).map fun r => (r.val, r.tag, r.bad, r.empty)) ∧
      ∀ n, (y.k.get? n).map (fun r => (r.val, r.tag, r.bad, r.empty)) = (m.warp.k.get? n).map fun r => (r.val, r.tag, r.bad, r.empty)

/-! ## Calls, the operand log, system writes, and the events of a warp (R159 to R190, R395, R396, R515) -/

/-- R164, R179 to R181: `syscall` writes its record into the warp's call slot and owes the device runtime or the host one notice; its destination is empty until
the reply, which fills the lanes of the call. The reply to a report ends the warp, or lets it go on at an address. R183: a notice is written into its ring,
whose TAIL then rises by one; a full ring holds it, and the device runtime's ring gives it up to the host's after 2^20 clk. A reply waits for an entry of the
pool of its destination (R35). That the address at which a reply resumes is taken with its two low bits dropped is the model's reading (log entry 45). -/
def Obligations.CallsAndRings : Prop :=
  ((∀ (s : State) (x : Warp) (e : Entry) (sh : Shape) (f : Frame) (ks : List Nat), Ready (.syscall f) s x e sh f → x.active f e ≠ 0 →
     let act := x.active f e
     let a := x.lane f.xa
     let hb := f.bit 0
     let kb := if hb then x.uni f.kb else (0, false)
     let seq := x.call.seq + 1
     let n := f.immf 0 15
     x.call.call = none → x.log = [] → x.fifth = none → (∀ g ∈ s.flights, g.w ≠ s.cur) → x.call.posts = [] → Quiet s →
     s.sharedDrained s.cur = true → s.initsDone s.cur = true → s.seenDone s.cur s.nextId = true → s.sliceClean s.cur →
     s.slotKeys x 0 256 1 = some ks → ks.Nodup →
     ∃ t y m, exec (.syscall f) s = .next t ∧ t.warp? s.cur = some y ∧ Gone t s.cur x y e f none ∧ y.call = { x.call with seq := seq, call := some (f.xd, act, seq) } ∧
       (f.xd ≠ 255 → y.isEmpty (.x f.xd) = true) ∧ KeepsRegs x y sh f ∧ (∀ k, k ∉ ks → t.byte k = s.byte k) ∧ (∀ w, w ≠ s.cur → t.warp? w = s.warp? w) ∧
       t.notices = s.notices ++ [m] ∧ m.proc = x.owner.proc ∧ m.ix = x.call.ix ∧ m.seq = seq ∧ m.num = BitVec.ofNat 16 n ∧ m.exc = false ∧
       m.runtime = (decide (n < 0x4000) && s.runtime.isSome) ∧
       let field := fun o k => ofBytes (((ks.drop o).take k).map t.byte)
       field 0 2 = n ∧ field 2 2 = hb.toNat + 4 * x.trap.act.toNat + 16 * kb.2.toNat ∧ field 4 4 = act.toNat ∧ field 8 4 = seq.toNat ∧
       field 12 4 = x.owner.scope % 2 ^ 32 ∧ field 20 4 = s.nodeid.toNat ∧ field 24 8 = (if kb.2 then poison64 else kb.1).toNat ∧
       field 160 4 = (a.2 &&& act).toNat ∧ field 168 8 = e.pc.toNat ∧
       ∀ l : Fin 32, field (32 + 4 * l.val) 4 = if act.getLsbD l.val then (if a.2.getLsbD l.val then poison32 else a.1[l]).toNat else 0) ∧
   (∀ (s : State) (x : Warp) (e : Entry) (sh : Shape) (f : Frame), Ready (.syscall f) s x e sh f → x.active f e ≠ 0 →
     (x.call.call ≠ none → ∃ t, exec (.syscall f) s = .next t ∧ HeldAt s t x f .call) ∧
     (x.call.call = none → x.log ≠ [] ∨ x.fifth ≠ none → ∃ t, exec (.syscall f) s = .next t ∧ HeldAt s t x f .oplog) ∧
     (x.call.call = none → x.log = [] → x.fifth = none →
       ((∃ g ∈ s.flights, g.w = s.cur) ∨ s.sharedDrained s.cur = false ∨ s.initsDone s.cur = false ∨ s.seenDone s.cur s.nextId = false) →
       ∃ t, exec (.syscall f) s = .next t ∧ HeldAt s t x f (.arrival false))) ∧
   (∀ (s : State) (w : Nat) (x : Warp) (d : Nat) (m : Mask) (seq : W32) (st : Nat) (ks : List Nat), s.warp? w = some x → x.call.call = some (d, m, seq) → d ≠ 255 →
     x.marks.ended = false → s.readSlot x 384 8 = some st → s.slotKeys x 256 128 0 = some ks →
     (st % 2 ^ 32 ≠ seq.toNat → exec (.syscallReply w) s = .next s) ∧
     (st % 2 ^ 32 = seq.toNat →
       let u := s.useSlot x 256 136
       let placed := u.placeRegs w [.x d]
       (x.isBound (.x d) = true → x.isSpilled (.x d) = false → placed = (u, true)) ∧ u.mem = s.mem ∧
       (placed.2 = false → exec (.syscallReply w) s = .next placed.1) ∧
       ∀ z, placed.2 = true → placed.1.warp? w = some z → ∃ t y r, exec (.syscallReply w) s = .next t ∧ t.warp? w = some y ∧ y.call.call = none ∧
         y.hw = z.hw ∧ t.mem = placed.1.mem ∧ (t.core (coreOf w)).l1 = [] ∧ y.x.get? d = some r ∧ r.empty = false ∧ ∀ l : Fin 32, m.getLsbD l.val = true →
           r.val[l] = BitVec.ofNat 32 (ofBytes (((ks.drop (4 * l.val)).take 4).map placed.1.byte)) ∧ r.tag.getLsbD l.val = decide (st / 2 ^ 32 % 2 = 1))) ∧
   ∀ (s : State) (w : Nat) (x : Warp) (e : Entry) (r : List Entry) (rpc : BitVec 57) (st pc : Nat), s.warp? w = some x → x.call.report = some rpc → x.hw = e :: r →
     s.readSlot x 896 8 = some st → s.readSlot x 768 8 = some pc →
     (st % 2 ^ 32 ≠ x.call.reportSeq.toNat → exec (.exceptionReply w) s = .next s) ∧
     (st % 2 ^ 32 = x.call.reportSeq.toNat →
       (∀ a, (st / 2 ^ 33 % 4 = 1 ∧ a = BitVec.ofNat 57 pc &&& ~~~3#57) ∨ (st / 2 ^ 33 % 4 = 2 ∧ a = rpc) → ∃ t y, exec (.exceptionReply w) s = .next t ∧
         t = { s with warps := t.warps, uses := t.uses } ∧ t.warp? w = some y ∧ y.call.report = none ∧ y.x = x.x ∧ y.trap = x.trap ∧
         y.hw = (x.replaceHead [{ e with pc := s.land w x a }]).hw) ∧
       (st / 2 ^ 33 % 4 = 0 ∨ st / 2 ^ 33 % 4 = 3 → exec (.exceptionReply w) s =
         .next (((s.useSlot x 896 8).setWarp w { x with call := { x.call with report := none } }).endWarp w false)))) ∧
  (∀ (s : State) (n : Notice) (p va tail head size : Nat) (ks ts : List Nat), s.notices = [n] → s.noticeRing n = some (p, va) →
     s.callRing p va = some (tail, head, size) → Quiet s →
     let full := size ≤ (tail + 2 ^ 32 - head) % 2 ^ 32
     (full → exec (.callRingNotice 0) s = .next s) ∧
     (¬ full → s.virtKeys p (va + 64 + 16 * (tail % size)) 16 1 = some ks → (ks ++ ts).Nodup →
       (s.writeBytes ks (toBytes 4 n.proc ++ toBytes 4 n.ix.toNat ++ toBytes 4 n.seq.toNat ++
         toBytes 4 (n.num.toNat + n.exc.toNat * 2 ^ 16 + n.redir.toNat * 2 ^ 17))).virtKeys p va 4 1 = some ts →
       ∃ t, exec (.callRingNotice 0) s = .next t ∧ t.notices = [] ∧ ofBytes (ts.map t.byte) = (tail + 1) % 2 ^ 32 ∧
         ofBytes ((ks.take 4).map t.byte) = n.proc % 2 ^ 32 ∧ ofBytes (((ks.drop 4).take 4).map t.byte) = n.ix.toNat ∧
         ofBytes (((ks.drop 8).take 4).map t.byte) = n.seq.toNat ∧
         ofBytes ((ks.drop 12).map t.byte) = n.num.toNat + 2 ^ 16 * n.exc.toNat + 2 ^ 17 * n.redir.toNat ∧ (∀ k, k ∉ ks ++ ts → t.byte k = s.byte k) ∧
         t.pkg.msix = if n.runtime = true ∧ s.runtime ≠ none then s.pkg.msix else s.pkg.msix ++ [64 + n.proc]) ∧
     exec (.redirection 0) s = .next (if n.runtime = true ∧ s.runtime ≠ none ∧ full ∧ n.since + 2 ^ 20 ≤ s.clock then
       { s with notices := [{ n with runtime := false, redir := true }] } else s))

/-- R168, R169, R171, R396: `oplog.retry` queues an entry, `oplog.kill` completes it with poison, and neither touches an entry that is free or queued already;
the fault service's answer to a record queues or fails the entry that waits for it. A kill waits for an entry of the pool of its destination (R35). That
`oplog.kill` sets the flag of poison and raises no trap is the model's reading (log entry 21). -/
def Obligations.LogEntriesResolve : Prop :=
  (∀ (s : State) (x : Warp) (e : Entry) (sh : Shape) (f : Frame), x.active f e ≠ 0 →
    let n := f.mf 0 2
    (∀ i ∈ [Instr.oplogRetry f, .oplogKill f], Ready i s x e sh f → (∀ en, x.log.get? n = some en → en.state = .queued) →
      ∃ t y, exec i s = .next t ∧ Passes s t x y e sh f ∧ y.still = x.still) ∧
    ∀ en, x.log.get? n = some en → en.state ≠ .queued →
      (Ready (.oplogRetry f) s x e sh f → ∃ t y, exec (.oplogRetry f) s = .next t ∧ Passes s t x y e sh f ∧
        y.still = { x.still with log := x.log.set n { en with state := .queued, order := s.nextId, record := none, remote := false } }) ∧
      (Ready (.oplogKill f) s x e sh f → (∀ g, en.acc.instr ≠ .waitaddr g) → en.acc.w = s.cur → ∀ d, en.acc.dest = .lane d 1 → d ≠ 255 →
        (((s.opened x e sh f).placeRegs s.cur [.x d]).2 = false → ∃ t, exec (.oplogKill f) s = .next t ∧ HeldAt s t x f (.binding true 1)) ∧
        (x.isBound (.x d) = true → x.isSpilled (.x d) = false → ∃ t y r, exec (.oplogKill f) s = .next t ∧ t.warp? s.cur = some y ∧ Moved s x y e f ∧ OnlyWarp s t ∧ y.log = x.log.erase n ∧ y.psn = true ∧
          y.trap = x.trap ∧ y.x.get? d = some r ∧ r.empty = false ∧
          ∀ l : Fin 32, (∃ k ∈ en.acc.left, k.lane = l.val) → r.val[l] = poison32 ∧ r.tag.getLsbD l.val = true))) ∧
  ∀ (s : State) (d w n : Nat) (id : W32) (x : Warp) (en : LogEntry) (r : FaultRec),
    (s.die d).faults.find? (fun q => q.id == id && q.written) = some r → r.waiters = [.log w n] → (∀ q ∈ (s.die d).faults, q.written = true) →
    s.warps = [(w, x)] → x.log = [(n, en)] → en.record = some (d, id.toNat) → s.saved = [] → s.cores = [] →
    (∃ t y, exec (.fltresRetry d id) s = .next t ∧ t.warp? w = some y ∧ t.mem = s.mem ∧ (t.die d).faults = (s.die d).faults.filter (fun q => q.id != id) ∧
      y = { x with log := [(n, { en with state := .queued, order := s.nextId, record := none, remote := false })] }) ∧
    ∃ t y, exec (.fltresGiveup d id) s = .next t ∧ t.warp? w = some y ∧ t.mem = s.mem ∧ (t.die d).faults = (s.die d).faults.filter (fun q => q.id != id) ∧
      y = { x with log := [(n, { en with state := .failed, raised := false, record := none, remote := false })] }

/-- R395, R452, R515: a write of `TLBINV` removes the named translations from every core, cluster and walker, and the lines of their pages from every core, once
nothing uses them any more; `ERRINJ` takes its fields; `nodeq.st` reports what the routing tables hold of a node, and `nodeq.map` the node of a page as the
walker of the core's die finds it (R394). What `nodeq.st` says of the own node whatever the tables hold, and PATH 0 for an unknown node, are the model's choice
(log entry 27). -/
def Obligations.SystemOperations : Prop :=
  ∀ (s : State) (x : Warp) (e : Entry) (sh : Shape) (f : Frame), x.active f e ≠ 0 →
    (∀ v, (if f.au then x.uni f.ka = (v, false)
        else ∃ l : Fin 32, firstLane (x.active f e) = some l ∧ v = ((x.lane f.xa).1[l]).setWidth 64 ∧ (x.lane f.xa).2.getLsbD l.val = false) →
      let die := dieOf (coreOf s.cur)
      let asid := v.extractLsb' 45 16
      let all := v.toNat / 2 ^ 61 % 8 = 7
      let size := szBytes (v.toNat / 2 ^ 61 % 8)
      let va := v.toNat % 2 ^ 45 * 4096 / size * size
      let hit := fun (a : BitVec 16) (lo n : Nat) => decide (a = asid ∧ (all ∨ (lo < va + size ∧ va < lo + n)))
      let stays := fun l : WalkLine => !hit l.asid (l.index * 2 ^ (12 + 9 * l.level)) (2 ^ (12 + 9 * l.level))
      (Ready (.tlbinvWrite f) s x e sh f →
        ((∀ g ∈ s.flights, s.asid g.proc ≠ asid) → (∀ c ∈ s.cores, c.2.loadQ = [] ∧ c.2.storeQ = []) →
          ∃ t y, exec (.tlbinvWrite f) s = .next t ∧ t.warp? s.cur = some y ∧ Gone t s.cur x y e f none ∧ KeepsRegs x y sh f ∧ y.still = x.still ∧
            t.flights = s.flights ∧
            ((∀ c ∈ s.cores, c.2.slices = []) → t.mem = s.mem ∧ t.marks = s.marks ∧
              (∀ d, t.die d = { s.die d with tlbinv := if d = die then v else (s.die d).tlbinv, walks := (s.die d).walks.filter stays }) ∧
              (∀ c, t.cluster c = { s.cluster c with tlb := (s.cluster c).tlb.filter fun l => !hit l.asid (l.vpn * 4096) (szBytes l.size) }) ∧
              ∀ c, ∃ q, t.core c = { s.core c with quads := q, tlb := (s.core c).tlb.filter (fun l => !hit l.asid (l.vpn * 4096) (szBytes l.size)),
                                                   l1 := (s.core c).l1.filter fun l => !hit l.asid (l.line * 128) 128 })) ∧
        ((∃ g ∈ s.flights, s.asid g.proc = asid ∧ g.space = .global ∧ all) →
          ∃ t, exec (.tlbinvWrite f) s = .next t ∧ HeldAt s t x f (.tlbinv die))) ∧
      (Ready (.errinjWrite f) s x e sh f → ∃ t y, exec (.errinjWrite f) s = .next t ∧ t.warp? s.cur = some y ∧ Gone t s.cur x y e f none ∧
        KeepsRegs x y sh f ∧ y.still = x.still ∧ t.mem = s.mem ∧
        t.die die = { s.die die with errinj := if v.toNat % 4 = 3 then v &&& 0x0000_0FFF_FFFF_FF03 else v &&& 0x8000_0FFF_FFFF_FF03 })) ∧
    (Ready (.nodeqSt f) s x e sh f →
      let k := x.uni f.ka
      let n := k.1.toNat % 2 ^ 20
      let near := n / 1024 = s.nodeid.toNat / 1024
      let up := s.pathUp n
      (k.2 = true → exec (.nodeqSt f) s = .next (s.takeTrap s.cur 9 0 e.pc)) ∧
      (k.2 = false → ∃ t y v, exec (.nodeqSt f) s = .next t ∧ Passes s t x y e sh f ∧ y.still = { x.still with results := y.results } ∧
        UniWaits x y f.kd v false ∧
        v.toNat = if 2 ^ 20 ≤ k.1.toNat then 0
          else if n = s.nodeid.toNat then n + 2 ^ 63 + 2 ^ 62
          else if s.routes.get? n = none ∨ 768 * 1024 ≤ n then n
          else n + 2 ^ 63 + (if up then 2 ^ 62 else 0) + 2 ^ 60 * (if !up then 3 else if near then 1 else 2) + 2 ^ 56 * (if near then 1 else 3))) ∧
    (Ready (.nodeqMap f) s x e sh f →
      let k := x.uni f.kb
      let va := (k.1 + f.imm.signExtend 64).toNat
      (k.2 = true → exec (.nodeqMap f) s = .next (s.takeTrap s.cur 9 0 e.pc)) ∧
      (k.2 = false → ∃ t y v, exec (.nodeqMap f) s = .next t ∧ PassesWalking s t x y e sh f ∧ y.still = { x.still with results := y.results } ∧
        UniWaits x y f.kd v false ∧
        ((2 ^ 57 ≤ va ∨ ∃ c, s.walkOn (coreOf s.cur) x.owner.proc va = .fault c) → v = 0) ∧
        ∀ pte place, va < 2 ^ 57 → s.walkOn (coreOf s.cur) x.owner.proc va = .leaf pte place → v.toNat = if pteRd pte = false then 0
          else if pteTier pte = 3 then leafNode pte + 2 ^ 63 + 2 ^ 62 else s.nodeid.toNat + 2 ^ 63))

/-- R38, R185 to R190: arbitration gives a free slot to the warp of the highest priority, then the greatest age, then the first from the pointer; ages raise
priorities; a move brings a frontier of more than 16 entries, or of fewer with spilled ones, towards 16; a miss of the instruction cache fills its line and the
next. R29, R31: the victim of a spill is the least recently used binding of the lowest-priority warp that holds at least 16, neither empty nor named by the
instruction that needs the entry; its value stays, and a refill brings it back. That yielded warps contend where no other is eligible (log entry 80), and that
the entries of one instruction are asked for at once (log entry 78), are the model's choices. -/
def Obligations.SchedulingAndSpills : Prop :=
  ((∀ (s : State) (c q : Nat), (s.warps.map (·.1)).Nodup → q < 4 →
     let quad := (s.core c).quads.toList.getD q {}
     let from_ := fun w : Nat => (w % 16 + 16 - quad.ptr % 16) % 16
     let other := fun v : Nat => (s.quadWarps c q).any fun p => s.eligible p.1 p.2 && p.1 != v
     quad.holder = none → s.contenders c q ≠ [] →
     ∃ t w x, exec (.issueArbitration c q) s = .next t ∧ (w, x) ∈ s.contenders c q ∧
       (t.core c).quads.toList.getD q {} = { holder := some w, ptr := (w % 16 + 1) % 16 } ∧
       t.warp? w = some { x with yielded := x.yielded && !other w, age := 0, eprio := x.prio, wait := none } ∧ t.mem = s.mem ∧
       (∀ v y, v ≠ w → s.warp? v = some y → t.warp? v = some { y with yielded := y.yielded && !decide (coreOf v = c ∧ quadOf v = q ∧ other v = true) }) ∧
       ∀ p ∈ s.contenders c q, p.2.effective < x.effective ∨ (p.2.effective = x.effective ∧
         (p.2.age < x.age ∨ (p.2.age = x.age ∧ from_ w ≤ from_ p.1)))) ∧
   (∀ (s : State) (w : Nat) (x : Warp), s.warp? w = some x →
     exec (.ageingRaise w) s = .next (s.setWarp w { x with eprio := min 15 (x.aprio + x.age / 4096) }) ∧
     (16 < x.hw.length → ∃ t y e, exec (.frontierMove w) s = .next t ∧ t.warp? w = some y ∧ x.hw.getLast? = some e ∧ y.hw = x.hw.dropLast ∧
       y.sp.Perm (e :: x.sp) ∧ y.fov = true ∧ t.mem = s.mem) ∧
     (∀ e r, x.hw.length < 16 → x.sp = e :: r → ∃ t y, exec (.frontierMove w) s = .next t ∧ t.warp? w = some y ∧ y.hw = Entry.add x.hw e ∧ y.sp = r ∧ t.mem = s.mem)) ∧
   ∀ (s : State) (c line : Nat),
     let holds := fun (i : List CodeLine) (n : Nat) => ∃ l ∈ i, l.line = n
     let filled := fun n : Nat => ({ line := n, data := (span (n * 128) 128).map s.byte } : CodeLine)
     let room := fun n : Nat => ((s.core c).icache.filter fun l => l.line % 64 == n % 64).length < 8
     (holds (s.core c).icache line → exec (.icacheFill c line) s = .next s) ∧
     (¬ holds (s.core c).icache line → s.codeFault c (line * 128) = none → Quiet s → room line → room (line + 1) →
       ∃ t i, exec (.icacheFill c line) s = .next t ∧ t = { s with cores := t.cores, hotness := t.hotness, samples := t.samples } ∧
         t.core c = { s.core c with icache := i } ∧ (∀ d, d ≠ c → t.core d = s.core d) ∧ filled line ∈ i ∧ (∀ l ∈ (s.core c).icache, l ∈ i) ∧
         (¬ holds (s.core c).icache (line + 1) → s.codeFault c ((line + 1) * 128) = none → filled (line + 1) ∈ i) ∧
         ∀ l ∈ i, l ∈ (s.core c).icache ∨ l = filled line ∨ l = filled (line + 1))) ∧
  ((∀ (s : State) (c q w v : Nat) (pool : Bool) (x : Warp) (r : Reg), (s.warps.map (·.1)).Nodup →
     (∀ p ∈ s.warps, (p.2.x.map (·.1)).Nodup ∧ (p.2.k.map (·.1)).Nodup) → s.spillFor c q pool = some (w, x) →
     s.victim c q pool w (s.headNames w x) = some (v, r) → s.spillUsed c + (if pool then 128 else 8) ≤ 2 ^ 17 →
     ∃ t y z, s.warp? v = some y ∧ exec (.registerSpill c q pool) s = .next t ∧ t.warp? v = some z ∧
       (s.l1Takes c 32 → t = { s with warps := t.warps }) ∧
       (∀ u, u ≠ v → t.warp? u = s.warp? u) ∧ z.still = { y.still with spl := true } ∧ z.isSpilled r = true ∧ y.isSpilled r = false ∧ y.isEmpty r = false ∧
       isLaneReg r = pool ∧ 16 ≤ y.bindings pool ∧ (v = w → r ∉ s.headNames w x) ∧ (∀ n, z.lane n = y.lane n) ∧ (∀ n, z.uni n = y.uni n) ∧
       (∀ p ∈ s.quadWarps c q, 16 ≤ p.2.bindings pool → p.2.victims pool (if p.1 = w then s.headNames w x else []) ≠ [] → y.prio ≤ p.2.prio) ∧
       ∀ p ∈ y.victims pool (if v = w then s.headNames w x else []), (match r with | .x n => (y.x.get? n).map (fun (q : LReg) => q.stamp) | .k n => (y.k.get? n).map (fun (q : UReg) => q.stamp)).getD 0 ≤ p.1) ∧
   ∀ (s : State) (w : Nat) (x : Warp) (r : Reg), s.warp? w = some x → x.isSpilled r = true → s.hasRoom w (isLaneReg r) 1 = true →
     ∃ t y, exec (.registerRefill w r) s = .next t ∧ t = { s with warps := t.warps } ∧ t.warp? w = some y ∧ y.isSpilled r = false ∧
       (∀ n, y.lane n = x.lane n) ∧ (∀ n, y.uni n = x.uni n) ∧ y.wait = if x.wait = some (.refill r) then none else x.wait)

/-! ## The transfer unit (R216 to R237) -/

/-- R220 to R222, R226, R229: a copy traps on a tagged or misaligned operand and on a mask without a core, waits for the operand log where it releases and for a
free entry, and then enters the load or the store queue with its operands, while its token counts one more. R232, R233: `cpyq` counts the commands in the
queues, all or the warp's own, and its pending tokens; `cpyx` discards the warp's commands that have not started, all or those of named tokens, and gives their
number. Which of several misaligned operands the trap names, the first of the list with lengths and strides and the flag last, is the model's choice (log entry
34). -/
def Obligations.CopyInstructions : Prop :=
  (∀ (s : State) (x : Warp) (e : Entry) (sh : Shape) (f : Frame) (i : Instr) (kind : CopyKind) (n : Nat) (aligns : List (Nat × Nat)),
     let k := fun j => (x.uni (f.ka + j)).1
     let lo := fun j => (k j).toNat % 2 ^ 32
     let hi := fun j => (k j).toNat / 2 ^ 32
     let tile := [((k 0).toNat, 4), (hi 1, 4), (lo 1, 4), (lo 2, 4), (hi 2 % 2 ^ 20, 4), (lo 3 % 2 ^ 16, 4)]
     (i, kind, n, aligns) ∈ ([(.cpy f, .cpy, 2, [((k 0).toNat, 4), (lo 1, 4), (hi 1, 4)]), (.cpyt f, .cpyt, 4, tile), (.cpym f, .cpym, 4, tile),
       (.cpyr f, .cpyr, 4, [((k 0).toNat, if lo 3 / 2 ^ 16 % 16 = 8 then 128 else 64), ((k 2).toNat, 64), (lo 1, 16), (hi 1, 4)])]
       : List (Instr × CopyKind × Nat × List (Nat × Nat))) →
     Ready i s x e sh f → x.active f e ≠ 0 →
     let flag := f.bit 8
     let checks := aligns ++ if flag then [((x.uni f.kb).1.toNat, if f.bit 7 then 8 else 4)] else []
     let tagged := (List.range n).any (fun j => (x.uni (f.ka + j)).2) || (flag && ((x.uni f.kb).2 || (x.uni (f.kb + 1)).2))
     let core := coreOf s.cur
     let store := f.v.getLsbD 1
     let noCore := kind = .cpym ∧ (f.imm.toNat % 16 = 0 ∨ (f.imm.getLsbD 4 = true ∧ x.straddle = false))
     (tagged = true → exec i s = .next (s.takeTrap s.cur 9 0 e.pc)) ∧
     (tagged = false → (∀ v, checks.find? (fun p => p.1 % p.2 != 0) = some v → exec i s = .next (s.takeTrap s.cur 0x0A (BitVec.ofNat 64 v.1) e.pc)) ∧
       (checks.find? (fun p => p.1 % p.2 != 0) = none →
         (noCore → exec i s = .next (s.takeTrap s.cur 0x10 (BitVec.ofNat 64 (f.imm.toNat % 16)) e.pc)) ∧
         (¬ noCore → f.bit 10 = true → x.log ≠ [] ∨ x.fifth ≠ none → ∃ t, exec i s = .next t ∧ HeldAt s t x f .oplog) ∧
         (¬ noCore → (f.bit 10 = true → x.log = [] ∧ x.fifth = none) → 16 ≤ (s.queue core store).length →
           ∃ t, exec i s = .next t ∧ HeldAt s t x f (.queue store)) ∧
         (¬ noCore → (f.bit 10 = true → x.log = [] ∧ x.fifth = none) → (s.queue core store).length < 16 →
           ∃ t y c, exec i s = .next t ∧ t.warp? s.cur = some y ∧ Gone t s.cur x y e f none ∧ KeepsRegs x y sh f ∧ t.mem = s.mem ∧ t.flights = s.flights ∧
             t.queue core store = s.queue core store ++ [c] ∧ t.queue core (!store) = s.queue core (!store) ∧
             y.still = { x.still with copy := { x.copy with
               cnt := if f.bit 3 then x.copy.cnt.set (f.mf 0 3) (x.copy.cnt.getD (f.mf 0 3) 0 + 1) else x.copy.cnt } } ∧
             c.w = s.cur ∧ c.kind = kind ∧ c.state = .queued ∧ c.started = false ∧ c.out = store ∧ c.cluster = f.v.getLsbD 0 ∧ c.grotto = f.v.getLsbD 2 ∧
             (∀ j, j < n → c.op j = k j) ∧ c.scope = f.mf 11 3 ∧ c.rel = f.bit 10 ∧ c.acq = f.bit 9 ∧ c.rot = f.mf 4 3 ∧
             c.token = (if f.bit 3 then some (f.mf 0 3) else none) ∧ c.flag = (if flag then some ((x.uni f.kb).1, (x.uni (f.kb + 1)).1, f.bit 7) else none) ∧
             (kind = .cpym → c.mask = f.imm.setWidth 5) ∧ c.bursts = [] ∧ c.owned = true)))) ∧
  (∀ (s : State) (x : Warp) (e : Entry) (sh : Shape) (f : Frame), x.active f e ≠ 0 →
     let core := coreOf s.cur
     let holds := fun (y : Warp) (v : Nat) => if f.du then UniHolds y f.kd (BitVec.ofNat 64 v) false
       else LaneHolds x y sh f (x.active f e) f.xd (fun _ => BitVec.ofNat 32 v) 0
     let mine := fun c : Cmd => c.w == s.cur && c.owned
     (Ready (.cpyq f) s x e sh f →
       let count := fun store => ((s.queue core store).filter fun c => f.vn == 0 || mine c).length
       ∃ t y, exec (.cpyq f) s = .next t ∧ Passes s t x y e sh f ∧ y.still = x.still ∧
         holds y (2 ^ 24 * ((List.range 8).filterMap fun j => if x.copy.cnt.getD j 0 = 0 then none else some (2 ^ j)).sum + 2 ^ 16 * count true + 2 ^ 8 * count false)) ∧
     (Ready (.cpyx f) s x e sh f →
       let named := fun c : Cmd => mine c && c.state == .queued && (f.mf 0 8 == 0 || (match c.token with | some j => (f.mf 0 8).testBit j | none => false))
       let gone := fun store => (s.queue core store).filter named
       let n := (gone false).length + (gone true).length
       ((s.commands core).map (·.id)).Nodup →
       ∃ t y, exec (.cpyx f) s = .next t ∧ t.warp? s.cur = some y ∧ Gone t s.cur x y e f none ∧ KeepsRegs x y sh f ∧ holds y n ∧ t.mem = s.mem ∧
         (∀ store, t.queue core store = (s.queue core store).filter fun c => !named c) ∧ (∀ w, w ≠ s.cur → t.warp? w = s.warp? w) ∧
         y.copy.flags = (if n = 0 then x.copy.flags else x.copy.flags ||| 16) ∧ (y.copy.stl, y.copy.sq, y.copy.code) = (x.copy.stl, x.copy.sq, x.copy.code) ∧
         ∀ j, y.copy.cnt.getD j 0 = x.copy.cnt.getD j 0 - ((gone false ++ gone true).filter fun c => c.token == some j).length))

/-- R217, R218, R221, R223, R225 to R227, R234, R236: a command starts at the front of its queue unless its record is bad, which ends it as failed with code 2,
or its warp still owes an earlier access; its far side is translated burst by burst, or stalls or fails, which ends it once the bursts in flight have completed;
a burst moves its words between the far and the near side, poison with them; at the end its flag word is stored, its entry and its token are free. That a
command waits for its warp's earlier reads too is the model's reading (log entry 6), and that a release waits for stores which the warp may have read before
they performed its stronger order (log entry 89); that the other bursts in flight complete, and a given-up one does not, is its choice (log entry 52). -/
def Obligations.CopiesRun : Prop :=
  (∀ (s : State) (core : Nat) (store : Bool) (c : Cmd) (x : Warp), frontCmd (s.queue core store) = some c → c.state = .queued → c.kind = .cpy → c.cluster = false →
    c.grotto = false → Plain s core c x → ((s.queue core store).map (·.id)).Nodup →
    let near := (c.op 1).toNat % 2 ^ 32
    let size := (c.op 1).toNat / 2 ^ 32
    let good := (size / 4 = 0 ∨ near + size ≤ c.spwin * 2048) ∧ ∀ j, j < size / 4 → ((c.op 0) + BitVec.ofNat 64 (4 * j)).toNat + 4 ≤ 2 ^ 57
    let owes := (∃ a ∈ s.flights, a.w = c.w ∧ a.id < c.before) ∨ s.initsDone c.w = false
    (¬ good → c.bursts = [] → ∃ t y, exec (.commandStart core store) s = .next t ∧ t.mem = s.mem ∧
      CommandEnds s t core store c x y fun p => { p with flags := p.flags ||| 32, failCode := 2 }) ∧
    (good → owes → exec (.commandStart core store) s = .next s) ∧
    (good → ¬ owes → x.log = [] → x.fifth = none → ∃ t, exec (.commandStart core store) s = .next t ∧ t = { s with cores := t.cores } ∧
      (c.acq = true → 2 ≤ c.scope → (t.core core).l1 = []) ∧
      t.queue core store = (s.queue core store).map fun d => if d.id = c.id then
        { d with started := true, skip := 0, state := if size / 4 = 0 then .releasing else .active } else d)) ∧
  (∀ (s : State) (core : Nat) (store : Bool) (c : Cmd) (x : Warp), frontCmd (s.queue core store) = some c → c.state = .active → c.kind ≠ .cpyr →
    ((s.queue core store).map fun d => d.bursts.length).sum < 8 → Plain s core c x → ((s.queue core store).map (·.id)).Nodup →
    let r := s.farKeys core c (if c.out then 1 else 0) ((List.range c.burst).map fun j => c.farAt (c.at_ + j))
    (∀ far node, r.1 = .ok (far, node) → (∀ d, d < 4 → s.dieState d ≠ 1 ∧ s.dieState d ≠ 2) →
      ∃ t, exec (.burstTranslation core store) s = .next t ∧ t.mem = s.mem ∧ t.warps = s.warps ∧
        t.queue core store = (s.queue core store).map fun d => if d.id = c.id then
          { d with at_ := d.at_ + c.burst, bursts := d.bursts ++
            [{ first := d.at_, count := c.burst, far := far.filterMap id, res := [], node := node, resNode := none, since := s.clock }] } else d) ∧
    (∀ code va, r.1 = .error (code, va) → code ∈ [3, 5, 7, 8] → ∃ t y, exec (.burstTranslation core store) s = .next t ∧
      (c.bursts = [] → CommandEnds s t core store c x y fun p => { p with flags := p.flags ||| 32, failCode := code }) ∧
      (c.bursts ≠ [] → t.warp? c.w = some y ∧ y.copy = { x.copy with stl := false, sq := false, code := x.copy.failCode } ∧
        t.queue core store = (s.queue core store).map fun d => if d.id = c.id then { d with state := .active, failing := some code } else d)) ∧
    (∀ va, r.1 = .error (6, va) → ∃ t y, exec (.burstTranslation core store) s = .next t ∧ t.warp? c.w = some y ∧ y.copy.stl = true ∧ y.copy.code = 6 ∧
      t.queue core store = (s.queue core store).map fun d => if d.id = c.id then
        { d with state := .stalled, code := 6, record := none, remote := false, sent := none } else d)) ∧
  (∀ (s : State) (core : Nat) (store : Bool) (c : Cmd) (b : Burst) (x : Warp), s.queue core store = [c] → c.bursts = [b] → (c.kind = .cpy ∨ c.kind = .cpyt) →
    c.cluster = false → c.killed = false → c.failing = none → c.state = .active → Plain s core c x → Quiet s → b.node = none → b.resNode = none → b.res = [] →
    b.far.length = b.count → (∀ k ∈ b.far, s.homeFault k = none) → (s.core core).wbuf = [] → (∀ g ∈ s.flights, g.core ≠ core) →
    b.stuck = false → s.copyOpen core (b.far.flatMap fun k => span k 4) [] = true →
    let near := fun j => scratchKeys core c.spbase c.nearRot (c.nearAt (b.first + j)) 4
    let far := fun j => span (b.far.getD j 0) 4
    let from_ := fun j => if c.out then near j else far j
    let to_ := fun j => if c.out then far j else near j
    ((List.range b.count).flatMap fun j => near j ++ far j).Nodup →
    ∃ t y, exec (.burstComplete core store 0) s = .next t ∧ t.warp? c.w = some y ∧
      (∀ j, j < b.count → (to_ j).map t.byte = if s.anyMarked (from_ j) then (to_ j).map fun k => BitVec.ofNat 8 (0x7FA0DEAD / 256 ^ (k % 4)) else (from_ j).map s.byte) ∧
      (∀ j, j < b.count → s.anyMarked (from_ j) = true → t.anyMarked (to_ j) = true) ∧ (∀ k, (∀ j, j < b.count → k ∉ to_ j) → t.byte k = s.byte k) ∧
      y.copy.flags = (if (List.range b.count).any fun j => s.anyMarked (from_ j) then x.copy.flags ||| 1 else x.copy.flags) ∧ y.copy.cnt = x.copy.cnt ∧
      t.queue core store = [{ c with bursts := [], state := if c.translated then .releasing else .active }]) ∧
  ∀ (s : State) (core : Nat) (store : Bool) (k : Nat) (c : Cmd) (x : Warp), (s.queue core store)[k]? = some c → c.state = .releasing → c.killed = false → c.kind ≠ .cpym →
    Plain s core c x → c.failing = none → (c.rel = true → 2 ≤ c.scope → s.seenDone c.w c.before = true ∧ s.sliceClean c.w) →
    (c.flag = none → ∃ t y, exec (.commandRelease core store k) s = .next t ∧ t.mem = s.mem ∧ CommandEnds s t core store c x y id) ∧
    (∀ a v wide far, c.flag = some (a, v, wide) → a.toNat < 2 ^ 57 → Quiet s → (∀ g ∈ s.flights, g.core ≠ core) → s.promotions = [] →
      (s.farKeys core { c with grotto := false } 1 [a.toNat]).1 = .ok ([some far], none) → s.copyOpen core [far] [] = true →
      let n := if wide then 8 else 4
      ∃ t y, exec (.commandRelease core store k) s = .next t ∧ CommandEnds s t core store c x y id ∧ ofBytes ((span far n).map t.byte) = v.toNat % 2 ^ (8 * n) ∧
        ∀ j, j ∉ span far n → t.byte j = s.byte j)

/-! ## The matrix unit (R270 to R302) -/

/-- R278: a matrix instruction traps on a tagged operand, waits while its queue holds eight that have not started, and otherwise enters its queue with its
operands, in core order; its register destination is empty until it completes. A drain under `.sr` draws a seed. -/
def Obligations.MatrixEntersQueue : Prop :=
  ∀ (s : State) (x : Warp) (e : Entry) (sh : Shape) (f : Frame) (i : Instr) (na nb nc : Nat) (dest : Dest),
    let row : Dest := .lane f.xd (if f.mf 10 4 = 0 ∨ f.mf 10 4 = 10 then 2 else 1)
    (i, na, nb, nc, dest) ∈ ([(.mzero f, 0, 0, 0, .none), (.mma f, 2, 2, 0, .none), (.madd f, 0, 0, 0, .none), (.mcopy f, 0, 0, 0, .none), (.mscl f, 0, 0, 0, .none),
      (.mdrainS f, 0, 2, if f.bit 5 then 2 else 0, .none), (.mdrainR f, 0, 1, 0, row), (.mfill f, 0, 1, 0, .none), (.mspill f, 0, 1, 0, .none),
      (.mchk f, 0, 0, 0, .uni f.kd 1), (.mchkFix f, 0, 0, 0, .uni f.kd 1), (.mstat f, 0, 0, 0, .uni f.kd 1)] : List (Instr × Nat × Nat × Nat × Dest)) →
    Ready i s x e sh f → x.active f e ≠ 0 →
    let core := coreOf s.cur
    let q := quadOf s.cur
    let queue := fun (t : State) (r : Nat) => (t.core core).mxq.toList.getD r []
    let group := fun n c => (List.range c).map fun j => x.uni (n + j)
    let all := group f.ka na ++ group f.kb nb ++ group f.kc nc
    let random := (i = .mdrainS f ∨ i = .mdrainR f) ∧ f.mf 7 3 = 4
    ((∃ k ∈ all, k.2 = true) → exec i s = .next (s.takeTrap s.cur 9 0 e.pc)) ∧
    ((∀ k ∈ all, k.2 = false) →
      (8 ≤ ((queue s q).filter fun m => !m.started).length → exec i s = .next (s.setWarp s.cur { x with wait := some .mxFull })) ∧
      (((queue s q).filter fun m => !m.started).length < 8 → ∃ t y m, exec i s = .next t ∧ t.warp? s.cur = some y ∧ Gone t s.cur x y e f none ∧ KeepsRegs x y sh f ∧
        (∀ r ∈ dest.regs, y.isEmpty r = true) ∧ (∀ w, w ≠ s.cur → t.warp? w = s.warp? w) ∧ t.mem = s.mem ∧ t.marks = s.marks ∧
        y.still = (if random then { x.still with fp := { x.fp with seed := (xs (x.fp.seed.setWidth 32)).setWidth 64 } } else x.still) ∧
        queue t q = queue s q ++ [m] ∧ (∀ r, r ≠ q → queue t r = queue s r) ∧ (t.core core).slots = (s.core core).slots ∧
        m.w = s.cur ∧ m.instr = i ∧ m.started = false ∧ m.owned = true ∧ m.estimate = none ∧ m.order = (s.core core).mxOrder ∧
        (t.core core).mxOrder = (s.core core).mxOrder + 1 ∧ m.act = x.active f e ∧ m.spwin = x.spwin ∧ m.spbase = x.spbase ∧ m.eft = x.mx.eft ∧
        m.seed = x.fp.seed.setWidth 32 ∧ m.after = max x.loadMark x.relMark ∧ (∀ j, j < na → m.ops.toList.getD j 0 = (x.uni (f.ka + j)).1) ∧
        (∀ j, j < nb → m.ops.toList.getD (2 + j) 0 = (x.uni (f.kb + j)).1) ∧ (∀ j, j < nc → m.ops.toList.getD (4 + j) 0 = (x.uni (f.kc + j)).1)))

/-- R279 to R282, R297, R369: an `mma` takes its estimate from the bits that toggle; the head of a queue starts when no earlier instruction touches its parts, its
arrays and Flowstone are free, the loads that a fence puts before it have read, and, an `mma`, its estimate is covered by the power budget; `mfence` waits for the
warp's own instructions, all or those that read operands. That an `mma` with an invalid descriptor has the estimate 0 is the model's choice (log entry 86). -/
def Obligations.MatrixStarts : Prop :=
  (∀ (s : State) (core q i : Nat) (l : List MxCmd) (m : MxCmd) (f : Frame), q < 4 → (s.core core).mxq.toList.getD q [] = l → l[i]? = some m → m.instr = .mma f →
    m.estimate = none → (l.map (·.id)).Nodup →
    let channels := match f.vn with | 0 => 10 | 1 => 5 | 2 => 3 | _ => 2
    let toggles := s.toggles core m (descOf m.ops[0] m.ops[1]) + s.toggles core m (descOf m.ops[2] m.ops[3])
    ∃ est, est = (if mmaValid f m then Nat.min 255 ((toggles * channels * 255 + 35839) / 35840) else 0) ∧
      exec (.mmaEstimate core q i) s = .next (s.modMxq core q fun l => l.map fun n => if n.id = m.id then { n with estimate := some est } else n)) ∧
  (∀ (s : State) (core q : Nat) (l : List MxCmd) (m : MxCmd), q < 4 → (s.core core).mxq.toList.getD q [] = l → mxHead l = some m →
    let all := s.mxAll core
    let level := (s.core core).mxbud.toNat / 2 ^ 32 % 2 ^ 16
    let low := (s.core core).mxbud.toNat % 2 ^ 16
    let held := (∃ n ∈ all, n.order < m.order ∧ n.started = false ∧ mxMeets m.instr n.instr = true) ∨
      (∃ n ∈ all, n.started = true ∧ usesArrays n.instr = true ∧ sameMma m.instr n.instr = false ∧ ∃ c ∈ mxChannels m.instr, c ∈ mxChannels n.instr) ∨
      (∃ f, m.instr = .mma f ∧ ∀ v, m.estimate = some v → level < v) ∨ (usesFlowstone m.instr = true ∧ ∃ n ∈ all, n.started = true ∧ usesFlowstone n.instr = true) ∨
      s.loadsDone m.w m.after = false
    (held → exec (.matrixQueueStart core q) s = .next s) ∧
    ((∀ n ∈ all, n.order < m.order → mxMeets m.instr n.instr = false) → (∀ n ∈ all, n.started = false) → (∀ f, m.instr = .mma f → ∃ v, m.estimate = some v ∧ v ≤ level) →
      low ≤ level → (∀ n ∈ all, n.id ≠ m.id → m.order ≤ n.order) → s.loadsDone m.w m.after = true →
      ∃ left, exec (.matrixQueueStart core q) s = .next (({ s with nextId := s.nextId + 1 } : State).modMxq core q fun l => l.map fun n =>
          if n.id == m.id then { n with started := true, begun := s.nextId, left := left } else n) ∧
        ((∀ f, m.instr ≠ .mma f) → left = 0))) ∧
  ∀ (s : State) (x : Warp) (e : Entry) (sh : Shape) (f : Frame) (i : Instr) (all : Bool), (i, all) ∈ [(Instr.mfenceAll f, true), (.mfenceRd f, false)] →
    Ready i s x e sh f → x.active f e ≠ 0 →
    let counts := fun m : MxCmd => m.w = s.cur ∧ m.owned = true ∧ (all = true ∨ (∃ g, m.instr = .mma g) ∨ ∃ g, m.instr = .mfill g)
    ((∀ m ∈ s.mxAll (coreOf s.cur), ¬ counts m) → ∃ t y, exec i s = .next t ∧ Passes s t x y e sh f ∧ y.still = x.still) ∧
    ((∃ m ∈ s.mxAll (coreOf s.cur), counts m) → ∃ t y, exec i s = .next t ∧ Suspends s t x y f (.matrix all) ∧ t = { s with warps := t.warps, cores := t.cores })

/-- R272, R277, R285 to R288, R295, R296, R298: what a matrix instruction leaves when it completes. `mzero` clears a part; `mma` adds the products of the rows
of its operands, block by block with their exponents (R251 to R254), to the residues of a part under the exponent rule, and its marks to the part's; `madd`,
`mcopy` and `mscl` add, copy and scale parts; an invalid descriptor or image sets `DSC` and does nothing else; `mspill` writes the raw image of a slot, and
`mfill` reads it. That `madd` clears the parts which overlap another destination, and ORs `UCK`, also where A is clear or the sum fails is the model's reading
(log entry 63), and that of its status a clear part shows only DSC, XR and what a drain left its choice (log entry 70). -/
def Obligations.TileOperations : Prop :=
  (∀ (row : List Byte) (scale i c : Nat), i < 32 → c < 10 →
    let nibble := (row.getD (i / 2) 0).toNat / 16 ^ (i % 2) % 16
    let fp4 : Int := ([0, 1, 2, 3, 4, 6, 8, 12, 0, -1, -2, -3, -4, -6, -8, -12] : List Int).getD nibble 0
    let block := fun code => operandBlock code true 32 [row] scale
    let elem := fun code => (block code).1.getD i (fun _ => 0) c
    (scale = 255 → ∀ code, 4 ≤ code → code ≤ 7 → elem code = 0 ∧ (block code).2 = (none, true)) ∧
    (scale < 255 → elem 4 = residue c fp4 ∧ (block 4).2 = (some ((scale : Int) - 128), false) ∧
      elem 7 = residue c (intElement 3 row i) ∧ (block 7).2 = (some ((scale : Int) - 141), false) ∧
      ∀ F ∈ [(5, e4m3, (10 : Int)), (6, e5m2, (9 : Int))],
        let value := fun j : Nat => F.2.1.dec (row.getD j 0).toNat
        let number := fun j : Nat => match value j with | .num _ v => v | _ => (⟨0, 0⟩ : Dy)
        ∃ top : Int, F.2.1.emin ≤ top ∧ (∀ j : Nat, j < 32 → (number j).isZero = false → (number j).log2 ≤ top) ∧
          (top = F.2.1.emin ∨ ∃ j : Nat, j < 32 ∧ (number j).isZero = false ∧ (number j).log2 = top) ∧
          (block F.1).2.1 = some ((scale : Int) - 127 + top - F.2.2) ∧ elem F.1 = residue c (((number i).scale (F.2.2 - top)).toInt .rne) ∧
          ((block F.1).2.2 = true ↔ ∃ j, j < 32 ∧ ∀ t v, value j ≠ .num t v))) ∧
  (∀ (code n : Nat) (bs : Bool) (planes : List (List Byte)) (scale i c : Nat) (z : Int), code ∈ [8, 9, 10, 11] → i < n → c < 10 → (bs = true → scale ≠ 255) →
    let m := operandPlanes code
    z.natAbs ≤ halfRange (List.range m) → (∀ q, q < m → ((planes.getD q []).getD i 0).toNat = residue q z) →
    let block := operandBlock code bs n planes scale
    block.1.getD i (fun _ => 0) c = residue c z ∧ block.2 = (some (if bs then (scale : Int) - (if code = 8 then 140 else 141) else 0), false)) ∧
  ∀ (s : State) (core q : Nat) (m : MxCmd) (f : Frame) (x : Warp), LastOp s core q m → s.warp? m.w = some x → x.marks.ended = false →
    let d := accOf f.d
    let a := accOf f.a.num
    let old := s.slot core d.1
    let src := s.slot core a.1
    let shown := fun p : Part => if p.clr then p.status &&& 0x0C7E else p.status
    let run := exec (.matrixComplete core q) s
    let alone := fun t : State => t.mem = s.mem ∧ t.marks = s.marks ∧ (t.core core).mxq.toList.getD q [] = [] ∧ ∀ n, n ≠ d.1 → t.slot core n = s.slot core n
    (m.instr = .mzero f → ∃ t, run = .next t ∧ alone t ∧ t.warps = s.warps ∧ (t.slot core d.1).elems = old.elems ∧
      ∀ p, p < 7 → (t.slot core d.1).part p = if p = d.2 ∨ p ∈ overlaps d.2 then {} else old.part p) ∧
    (m.instr = .mma f → mmaValid f m = false → ∃ t y, run = .next t ∧ alone t ∧ t.warp? m.w = some y ∧ y = { x with mx := { x.mx with stat := x.mx.stat ||| 0x800 } } ∧
      t.slot core d.1 = old.setPart d.2 { old.part d.2 with status := (old.part d.2).status ||| 0x800 }) ∧
    (m.instr = .mma f → mmaValid f m = true → f.bit 1 = false → f.immf 28 4 ≤ 3 → f.immf 24 4 ≤ 3 →
      let k := f.immf 0 13
      let fresh := f.bit 0 || (old.part d.2).clr
      let tag := if fresh then 0 else (old.part d.2).tag.toInt
      let area := fun (o o1 : W64) code i => (descOf o o1).keys core m.spbase 0 i 0 (k * operandBits code / 8)
      let A := fun i => area m.ops[0] m.ops[1] (f.immf 28 4) i
      let B := fun j => area m.ops[2] m.ops[3] (f.immf 24 4) j
      let sum := fun i j => ((List.range k).map fun n => intElement (f.immf 28 4) ((A i).map s.byte) n * intElement (f.immf 24 4) ((B j).map s.byte) n).sum
      (-30 : Int) ≤ tag → tag ≤ 30 →
      ∃ t, run = .next t ∧ alone t ∧
        PartTakes old (t.slot core d.1) d.2 (if f.vn = 3 then primaryOf d.2 else channelsOf d.2) (fun n c => (if fresh then 0 else ((old.elem n).at c : Int) * 2 ^ (max tag 0).toNat) + 2 ^ (max (-tag) 0).toNat * sum (n / 64) (n % 64)) ∧
        ((t.slot core d.1).part d.2).clr = false ∧ ((t.slot core d.1).part d.2).tag.toInt = min tag 0 ∧
        (fresh → ∀ i, i < 64 → (((t.slot core d.1).part d.2).masks[2]).getLsbD i = s.anyMarked (A i) ∧ (((t.slot core d.1).part d.2).masks[3]).getLsbD i = s.anyMarked (B i) ∧
          (((t.slot core d.1).part d.2).masks[0]).getLsbD i = false ∧ (((t.slot core d.1).part d.2).masks[1]).getLsbD i = false)) ∧
    (m.instr = .mma f → mmaValid f m = true →
      let k := f.immf 0 13
      let fresh := f.bit 0 || (old.part d.2).clr
      let blocks := if f.bit 1 then k / 32 else 1
      let per := k / blocks
      let A := fun i => s.operandRow core m.spbase (descOf m.ops[0] m.ops[1]) (f.immf 28 4) (f.bit 1) k i
      let B := fun j => s.operandRow core m.spbase (descOf m.ops[2] m.ops[3]) (f.immf 24 4) (f.bit 1) k j
      let exps := fun (e : Int) => ∃ b i j, b < blocks ∧ i < 64 ∧ j < 64 ∧ ∃ ea eb, (A i).eps.getD b none = some ea ∧ (B j).eps.getD b none = some eb ∧ e = ea + eb
      let cs := if f.vn = 3 then primaryOf d.2 else channelsOf d.2
      let tag := (old.part d.2).tag.toInt
      let mark := fun (x : Part) n i => (x.masks.toList.getD n 0).getLsbD i
      let marked := fun n i => match n with | 0 => (A i).nan | 1 => (B i).nan | 2 => (A i).poison | _ => (B i).poison
      let done := fun (t : State) (tn : BitVec 16) => alone t ∧
        let p := (t.slot core d.1).part d.2
        p.clr = false ∧ p.tag = tn ∧ (∀ n i, n < 4 → i < 64 → mark p n i = (marked n i || (!fresh && mark (old.part d.2) n i))) ∧
        p.status = (if f.bit 0 then (old.part d.2).status &&& 0x7E else shown (old.part d.2)) ||| (if f.vn = 3 then 0x2000 else 0) ∧
        ∃ y, t.warp? m.w = some y ∧ y = { x with mx := { x.mx with stat := x.mx.stat |||
          (if (List.range 64).any fun i => marked 0 i || marked 1 i then 0x100 else 0) ||| (if (List.range 64).any fun i => marked 2 i || marked 3 i then 0x200 else 0) } }
      ((∀ e, ¬ exps e) → ∃ t, run = .next t ∧ done t (if fresh then 0 else (old.part d.2).tag) ∧
        if fresh then PartTakes old (t.slot core d.1) d.2 cs fun _ _ => 0 else (t.slot core d.1).elems = old.elems ∧ ∀ p ∈ overlaps d.2, (t.slot core d.1).part p = {}) ∧
      ∀ l h, exps l → exps h → (∀ e, exps e → l ≤ e ∧ e ≤ h) →
        let t0 := if fresh then l else tag
        let tn := min t0 l
        (30 < t0 - tn ∨ 30 < h - tn → ∃ t y, run = .next t ∧ alone t ∧ t.warp? m.w = some y ∧ y = { x with mx := { x.mx with stat := x.mx.stat ||| 0x400 } } ∧
          t.slot core d.1 = old.setPart d.2 { old.part d.2 with status := (old.part d.2).status ||| 0x400 }) ∧
        (t0 - tn ≤ 30 → h - tn ≤ 30 → ∃ t, run = .next t ∧ done t (BitVec.ofInt 16 tn) ∧ PartTakes old (t.slot core d.1) d.2 cs fun n c =>
          (if fresh then 0 else ((old.elem n).at c : Int) * 2 ^ (tag - tn).toNat) +
          ((List.range blocks).map fun b => match (A (n / 64)).eps.getD b none, (B (n % 64)).eps.getD b none with
            | some ea, some eb => 2 ^ (ea + eb - tn).toNat * ((List.range per).map fun e =>
                ((A (n / 64)).elems.getD (b * per + e) (fun _ => 0) c : Int) * ((B (n % 64)).elems.getD (b * per + e) (fun _ => 0) c : Int)).sum
            | _, _ => 0).sum)) ∧
    (m.instr = .madd f → a = d → ∃ t, run = .next t ∧ alone t ∧ (∀ p, p < 7 → (t.slot core d.1).part p = old.part p) ∧
      ∀ n, n < 4096 → ∀ c, c < 10 → ((t.slot core d.1).elem n).at c =
        if (old.part d.2).clr = false ∧ c ∈ channelsOf d.2 then 2 * (old.elem n).at c % modulusOf c else (old.elem n).at c) ∧
    (m.instr = .madd f → a.1 ≠ d.1 → a.2 = d.2 →
      let uck := (shown (src.part a.2) ||| shown (old.part d.2)) &&& 0x2000
      let others := fun t : State => ∀ p, p < 7 → p ≠ d.2 → (t.slot core d.1).part p = if p ∈ overlaps d.2 then {} else old.part p
      ((src.part a.2).clr = true → ∃ t, run = .next t ∧ alone t ∧ (t.slot core d.1).elems = old.elems ∧ others t ∧
        (t.slot core d.1).part d.2 = { old.part d.2 with status := (old.part d.2).status ||| uck }) ∧
      ((src.part a.2).clr = false → (old.part d.2).clr = true → ∃ t, run = .next t ∧ alone t ∧ ((t.slot core d.1).part d.2).tag = (src.part a.2).tag ∧ others t ∧
        ((t.slot core d.1).part d.2).clr = false ∧ ((t.slot core d.1).part d.2).masks = (src.part a.2).masks ∧
        ((t.slot core d.1).part d.2).status = shown (old.part d.2) ||| uck ∧
        ∀ n, n < 4096 → ∀ c ∈ channelsOf d.2, ((t.slot core d.1).elem n).at c = (src.elem n).at c) ∧
      ((src.part a.2).clr = false → (old.part d.2).clr = false →
        let td := (old.part d.2).tag.toInt
        let ta := (src.part a.2).tag.toInt
        (30 < td - ta ∨ 30 < ta - td → ∃ t y, run = .next t ∧ alone t ∧ t.warp? m.w = some y ∧ y.mx.stat = x.mx.stat ||| 0x400 ∧
          (t.slot core d.1).elems = old.elems ∧ others t ∧
          (t.slot core d.1).part d.2 = { old.part d.2 with status := (old.part d.2).status ||| (0x400 ||| uck) }) ∧
        (td - ta ≤ 30 → ta - td ≤ 30 → ∃ t, run = .next t ∧ alone t ∧ ((t.slot core d.1).part d.2).tag.toInt = min td ta ∧
          ((t.slot core d.1).part d.2).status = (old.part d.2).status ||| uck ∧
          PartTakes old (t.slot core d.1) d.2 (channelsOf d.2) fun n c => ((old.elem n).at c : Int) * 2 ^ (td - min td ta).toNat + ((src.elem n).at c : Int) * 2 ^ (ta - min td ta).toNat))) ∧
    (m.instr = .mcopy f → a.1 ≠ d.1 → a.2 = d.2 → ∃ t, run = .next t ∧ alone t ∧ (t.slot core d.1).part d.2 = src.part a.2 ∧
      (∀ n, n < 4096 → ∀ c ∈ channelsOf d.2, ((t.slot core d.1).elem n).at c = (src.elem n).at c) ∧ ∀ p ∈ overlaps d.2, (t.slot core d.1).part p = {}) ∧
    (m.instr = .mscl f →
      let c := (f.imm.setWidth 16 : BitVec 16).toInt
      let tag := (old.part d.2).tag.toInt + ((f.imm >>> 16).setWidth 8 : BitVec 8).toInt
      ((old.part d.2).clr = true → ∃ t, run = .next t ∧ alone t ∧ t.slot core d.1 = old) ∧
      ((old.part d.2).clr = false → tag < -32768 ∨ 32767 < tag → ∃ t, run = .next t ∧ alone t ∧
        t.slot core d.1 = old.setPart d.2 { old.part d.2 with status := (old.part d.2).status ||| 0x400 }) ∧
      ((old.part d.2).clr = false → -32768 ≤ tag → tag ≤ 32767 → ∃ t, run = .next t ∧ alone t ∧ ((t.slot core d.1).part d.2).tag.toInt = tag ∧
        PartTakes old (t.slot core d.1) d.2 (channelsOf d.2) fun n ch => ((old.elem n).at ch : Int) * c)) ∧
    (m.instr = .mstat f → f.vn ≤ 4 → ∃ t y, run = .next t ∧ t.mem = s.mem ∧ (∀ n, t.slot core n = s.slot core n) ∧ t.warp? m.w = some y ∧ y.hw = x.hw ∧ y.x = x.x ∧
      UniHolds y f.kd (if f.vn = 0 then (src.part a.2).statusWord else if (src.part a.2).clr then 0 else (src.part a.2).masks.toList.getD (f.vn - 1) 0) false) ∧
    (m.instr = .mspill f ∨ m.instr = .mfill f →
      let off := m.ops[2].toNat
      let keys := scratchKeys core m.spbase 0 off 41216
      let valid := off % 8 = 0 ∧ off < 2 ^ 32 ∧ off + 41216 ≤ m.spwin * 2048
      (¬ valid → ∃ t y, run = .next t ∧ t.mem = s.mem ∧ (∀ n, t.slot core n = s.slot core n) ∧ t.warp? m.w = some y ∧
        y = { x with mx := { x.mx with stat := x.mx.stat ||| 0x800 } }) ∧
      (valid → m.instr = .mspill f → keys.Nodup → ∃ t, run = .next t ∧ (∀ n, t.slot core n = s.slot core n) ∧ (∀ k, k ∉ keys → t.byte k = s.byte k) ∧
        (∀ c, c < 10 → ∀ n, n < 4096 → (t.byte (keys.getD (4096 * c + n) 0)).toNat = (src.elem n).at c) ∧
        ∀ p, p < 7 → ofBytes (((keys.drop (40960 + 36 * p)).take 2).map t.byte) = (src.part p).tag.toNat) ∧
      (valid → m.instr = .mfill f → (∀ k ∈ keys, s.marked k = false) → ∃ t, run = .next t ∧ alone t ∧ (t.slot core d.1).erased = [] ∧
        (∀ c, c < 10 → ∀ n, n < 4096 → ((t.slot core d.1).elem n).at c = (s.byte (keys.getD (4096 * c + n) 0)).toNat) ∧
        ∀ p, p < 7 → ((t.slot core d.1).part p).tag = BitVec.ofNat 16 (ofBytes (((keys.drop (40960 + 36 * p)).take 2).map s.byte))))

/-- R289 to R294, R302: a drain gives every element of a part in its output format (R261 to R267): integers and floats rounded by the drain's mode and clamped,
microscaling blocks with their scales, the residual that each leaves, and what it met. To memory it writes elements, scales, residuals and the status word at
their places, poison where an element is poisoned, clears the part under `.clr` (M[4]), and goes over to the 8-bit format where a residual exceeds the
threshold; a drain of a row delivers the row's elements to lanes; `mchk` counts the elements that fail, overflow and are corrected. -/
def Obligations.DrainsAndChecks : Prop :=
  (∀ (k width : Nat) (n : Int) (j : Nat), 0 < width →
    let clamp := fun y : Int => max (-(2 ^ (width - 1))) (min (2 ^ (width - 1) - 1) y)
    (∀ rm, drainInt rm k width ⟨n, j⟩ = clamp (n * 2 ^ j)) ∧
    drainInt (.mode .rd) k width ⟨n, -(j : Int)⟩ = clamp (n / 2 ^ j) ∧ drainInt (.mode .ru) k width ⟨n, -(j : Int)⟩ = clamp (-(-n / 2 ^ j)) ∧
    drainInt (.mode .rz) k width ⟨n, -(j : Int)⟩ = clamp (n.tdiv (2 ^ j)) ∧
    (∃ y : Int, drainInt (.mode .rne) k width ⟨n, -(j : Int)⟩ = clamp y ∧ 2 * (n - y * 2 ^ j).natAbs ≤ 2 ^ j ∧ (2 * (n - y * 2 ^ j).natAbs = 2 ^ j → y % 2 = 0)) ∧
    ∀ seed, drainInt (.sr seed) k width ⟨n, -(j : Int)⟩ =
      clamp (n.sign * (n.natAbs / 2 ^ j + (if 2 ^ 16 ≤ n.natAbs % 2 ^ j * 2 ^ 16 / 2 ^ j + srbits seed k then 1 else 0) : Nat))) ∧
  (∀ code ∈ [8, 9, 10, 11, 12], ∀ (k : Nat) (inf : Bool) (w : Dy),
    let F := fmtOf code
    let neg := decide (w.n < 0)
    (∀ rm, w.n = 0 → drainFloat rm k code inf w = 0) ∧
    (∀ rm : Rm, w.n ≠ 0 → let c := (F.round rm neg w.n.natAbs w.e).code
      let toInf := match rm with | .rne => true | .rz => false | .ru => !neg | .rd => neg
      drainFloat (.mode rm) k code inf w = F.sign neg (if c ≤ F.maxCode then c else if inf && F.inf && toInf then F.infCode else F.maxCode)) ∧
    (∀ seed, w.n ≠ 0 → let c := (F.roundWith (pickSr (srbits seed k)) w.n.natAbs w.e).code
      let past := (F.val F.maxCode).lt w.abs
      drainFloat (.sr seed) k code inf w = F.sign neg (if past then (if inf && F.inf then F.infCode else F.maxCode) else min c F.maxCode))) ∧
  (∀ code ∈ [11, 12, 13], ∀ (pick : Nat → Bool → Nat → Nat → Nat) (ws : List Dy),
    let q := mxQuant code pick ws
    let F := fmtOf code
    let scaled := fun x : Int => q.elems = (ws.mapIdx fun i w => F.pickSat (pick i) (w.scale (-x))) ∧
      q.code = (if q.elems.all fun c => c % 2 ^ (F.eb + F.mb) = 0 then 0 else (x + 127).toNat)
    ((∀ w ∈ ws, w.n = 0) → scaled (-127) ∧ q.clamped = false) ∧
    ∀ w ∈ ws, w.n ≠ 0 → (∀ v ∈ ws, w.abs.lt v.abs = false) →
      let x := w.log2 - (match code with | 11 => 8 | 12 => 15 | _ => 2)
      scaled (max (-127) (min 127 x)) ∧ q.clamped = decide (127 < x)) ∧
  (∀ (w v : Dy) (s : Bool), let r := w.sub v
    let c := (bf16.round .rne (decide (r.n < 0)) r.n.natAbs r.e).code
    residual w (.num s v) = if r.n = 0 then (0, false) else (bf16.sign (decide (r.n < 0)) (min c bf16.maxCode), decide (bf16.maxCode < c))) ∧
  (∀ (rm : DrainRm) (of_ : Nat) (inf ef : Bool) (tag sc : Int) (rd : Nat → Elem) (k : Nat), of_ ≤ 10 → k < 4096 →
    let o := drainElems rm of_ inf ef tag sc (List.range 4096) rd
    let w := fun j => match rd j with | .value y => (⟨y, tag + sc⟩ : Dy) | _ => ⟨0, 0⟩
    let el := o.elems.getD k (0, 0, false)
    let res := o.residuals.getD k (0, 0, false)
    (isMx of_ = false → el.1 = k ∧ match rd k with
      | .poison => el.2.2 = true ∧ (outFloat of_ = none → res.2.2 = true)
      | .nan => el.2 = ((match outFloat of_ with | some c => (fmtOf c).nan | none => 0), false) ∧ (outFloat of_ = none → res.2 = (0, false))
      | .value y => match outFloat of_ with
        | some c => el.2 = (drainFloat rm k c inf (w k), false)
        | none =>
          let n := drainInt rm k (outBits of_) (w k)
          el.2 = ((n % 2 ^ outBits of_).toNat, false) ∧ res.2 = ((residual (w k) (.num false ⟨n, 0⟩)).1, false)) ∧
    (isMx of_ = true →
      let block := fun i => 32 * (k / 32) + i
      let code := (outFloat of_).getD 0
      let q := mxQuant code (fun i neg => rm.pick (block i) neg) ((List.range 32).map fun i => w (block i))
      let scale := o.scales.getD (k / 32) (0, 0, 0)
      let have_ := fun e : Elem => ∃ i, i < 32 ∧ rd (block i) = e
      el.1 = k ∧ res.1 = k ∧ scale.1 = k / 64 ∧ scale.2.1 = k / 32 % 2 ∧
      (have_ .poison → el.2.2 = true ∧ res.2.2 = true ∧ scale.2.2 = 255) ∧
      (¬ have_ .poison → have_ .nan → el.2 = (0, false) ∧ res.2 = (0, false) ∧ scale.2.2 = 255) ∧
      (¬ have_ .poison → ¬ have_ .nan → el.2 = (q.elems.getD (k % 32) 0, false) ∧ scale.2.2 = q.code ∧
        res.2 = ((residual (w k) (.num false (mxValue code q.code (q.elems.getD (k % 32) 0)))).1, false))) ∧
    (o.stat.getLsbD 9 = true ↔ ∃ j, j < 4096 ∧ (o.elems.getD j (0, 0, false)).2.2 = true) ∧ (isMx of_ = false → (o.stat.getLsbD 1 = true ↔ ∃ j, j < 4096 ∧ rd j = .nan))) ∧
  ∀ (s : State) (core q : Nat) (m : MxCmd) (f : Frame) (x : Warp), LastOp s core q m → s.warp? m.w = some x → x.marks.ended = false →
    let a := accOf f.a.num
    let src := s.slot core a.1
    let part := src.part a.2
    let of_ := f.mf 10 4
    let ef := f.bit 5
    let read := fun k => src.read a.2 k
    let tag := if part.clr then 0 else part.tag.toInt
    let sc := (f.imm.setWidth 8 : BitVec 8).toInt
    let rm : DrainRm := match f.mf 7 3 with | 0 => .mode .rne | 1 => .mode .rz | 2 => .mode .ru | 3 => .mode .rd | _ => .sr m.seed
    let run := exec (.matrixComplete core q) s
    let kept := fun t : State => (t.core core).mxq.toList.getD q [] = [] ∧ (∀ n, n ≠ a.1 → t.slot core n = s.slot core n)
    let met := fun ks : List Nat => (if ∃ k ∈ ks, (read k).2 = .chk then 16 else 0) ||| (if ∃ k ∈ ks, (read k).2 = .ovf then 8 else 0) |||
      ((if ks.any fun k => match (read k).2 with | .corr _ => true | _ => false then 4 else 0) : BitVec 16)
    let drained := fun stat : BitVec 16 => { part with status := (part.status &&& ~~~0x7E) ||| (stat &&& 0x7E) }
    let noted := fun (stat : BitVec 16) => x.mx.stat ||| (stat &&& 0x27E).setWidth 64
    (m.instr = .mdrainS f → of_ ≤ 11 → (ef = true → 5 ≤ of_ ∧ of_ ≤ 9) →
      let d := descOf m.ops[2] m.ops[3]
      let r := descOf (m.ops[4] &&& 0xFFFFFFFF) m.ops[5]
      let valid := drainValid of_ ef d (m.spwin * 2048) = true ∧ (ef = true → r.valid (m.spwin * 2048) 1 128 0 = true)
      (¬ valid → ∃ t y, run = .next t ∧ kept t ∧ t.mem = s.mem ∧ t.warp? m.w = some y ∧
        y = { x with mx := { x.mx with stat := x.mx.stat ||| 0x800 } } ∧ t.slot core a.1 = src.setPart a.2 { part with status := part.status ||| 0x800 }) ∧
      (valid →
        let output := fun g => drainElems rm g (f.bit 6) ef tag sc (List.range 4096) fun k => (read k).1
        let limit := m.eft.toNat % 2 ^ 15
        let esc := ef = true ∧ (of_ = 7 ∨ of_ = 9) ∧ limit ≤ 0x7F80 ∧ ∃ e ∈ (output of_).residuals, e.2.2 = false ∧ limit < e.2.1 % 2 ^ 15
        let wide := if esc then (if of_ = 7 then 5 else 8) else of_
        let out := output wide
        let stat := out.stat ||| met (List.range 4096) ||| (if esc then 0x40 else 0)
        let n := outBits wide
        let place := fun k => if of_ = 11 then (List.range 8).map fun p => d.keys core m.spbase p (k / 64) (k % 64) 1
          else [d.keys core m.spbase 0 (k / 64) (k % 64 * n / 8) (max 1 (n / 8))]
        let scale := fun b => scratchKeys core m.spbase d.rot (d.base + d.tp + b) 1
        let rest := fun k => r.keys core m.spbase 0 (k / 64) (2 * (k % 64)) 2
        let word := scratchKeys core m.spbase d.rot (d.base + d.tp + 128) 4
        let written := ((List.range 4096).filter fun k => n ≠ 4 || k % 2 == 0).flatMap (fun k => (place k).flatten) ++
          (if isMx wide then (List.range 128).flatMap scale else []) ++ (if ef then (List.range 4096).flatMap rest ++ word else [])
        written.Nodup → ∃ t y, run = .next t ∧ kept t ∧ t.warp? m.w = some y ∧ y = { x with mx := { x.mx with stat := noted stat } } ∧
          (∀ j, j ∉ written → t.byte j = s.byte j) ∧
          (∀ k, k < 4096 → let e := out.elems.getD k (0, 0, false)
            (of_ = 11 → ∀ p, p < 8 → match (read k).1 with
              | .value y => ofBytes (((place k).getD p []).map t.byte) = residue p y
              | .nan => ofBytes (((place k).getD p []).map t.byte) = 0
              | .poison => t.anyMarked ((place k).getD p []) = true) ∧
            (of_ ≠ 11 → (e.2.2 = true → t.anyMarked ((place k).getD 0 []) = true) ∧
              (e.2.2 = false → ofBytes (((place k).getD 0 []).map t.byte) / (if n = 4 then 16 ^ (k % 2) else 1) % 2 ^ n = e.2.1)) ∧
            (ef = true → let g := out.residuals.getD k (0, 0, false)
              (g.2.2 = true → t.anyMarked (rest k) = true) ∧ (g.2.2 = false → ofBytes ((rest k).map t.byte) = g.2.1))) ∧
          (isMx wide = true → ∀ b, b < 128 → ofBytes ((scale b).map t.byte) = (out.scales.getD b (0, 0, 0)).2.2) ∧
          (ef = true → ofBytes (word.map t.byte) = (drained stat).word) ∧ (t.slot core a.1).elems = src.elems ∧
          ∀ p, p < 7 → (t.slot core a.1).part p =
            if f.bit 4 = true ∧ (p = a.2 ∨ p ∈ overlaps a.2) then {} else if p = a.2 then drained stat else src.part p)) ∧
    (m.instr = .mdrainR f → of_ ∈ [0, 1, 2, 10] →
      let pair := decide (of_ = 0 ∨ of_ = 10)
      let first := 64 * (m.ops[2].toNat % 64)
      let ks := (List.range 64).map (first + ·)
      let out := drainElems rm of_ (f.bit 6) false tag sc ks fun k => (read k).1
      let e := fun (l : Fin 32) i => out.elems.getD (2 * l.val + i) (0, 0, false)
      let stat := out.stat ||| met ks
      ∃ t y, run = .next t ∧ kept t ∧ t.mem = s.mem ∧ t.warp? m.w = some y ∧ y.hw = x.hw ∧ y.k = x.k ∧ y.mx.stat = noted stat ∧
        (t.slot core a.1).elems = src.elems ∧ (∀ p, p < 7 → (t.slot core a.1).part p = if p = a.2 then drained stat else src.part p) ∧
        (f.xd = 255 → y.x = x.x) ∧
        ∀ i, i < (if pair then 2 else 1) → f.xd + i < 255 → ∃ r, y.x.get? (f.xd + i) = some r ∧ r.empty = false ∧ r.spilled = false ∧
          ∀ l : Fin 32, m.act.getLsbD l.val = true →
            let bad := if pair then (e l i).2.2 else (e l 0).2.2 || (e l 1).2.2
            r.tag.getLsbD l.val = bad ∧ r.val[l].toNat = (if bad then 0x7FA0DEAD else if pair then (e l i).2.1 else (e l 0).2.1 + 65536 * (e l 1).2.1)) ∧
    (m.instr = .mchk f ∨ m.instr = .mchkFix f →
      let outcome := fun k => (src.classifyAt a.2 k).2
      let count := fun g : Outcome → Bool => ((List.range 4096).filter fun k => g (outcome k)).length
      let corrected := fun o : Outcome => match o with | .corr _ => true | _ => false
      ∃ t y, run = .next t ∧ kept t ∧ t.mem = s.mem ∧ t.warp? m.w = some y ∧ y.hw = x.hw ∧ y.x = x.x ∧ y.mx.stat = noted (met (List.range 4096)) ∧
        UniHolds y f.kd (BitVec.ofNat 64 (count (· = .chk) * 2 ^ 32 + count (· = .ovf) * 2 ^ 16 + count corrected)) false ∧
        (t.slot core a.1).part a.2 = drained (met (List.range 4096)) ∧
        (m.instr = .mchk f → (t.slot core a.1).elems = src.elems) ∧
        (m.instr = .mchkFix f → part.clr = false → (∀ p ∈ overlaps a.2, (t.slot core a.1).part p = {}) ∧ ∀ k, k < 4096 → ∀ c, c < 10 → ((t.slot core a.1).elem k).at c =
          if corrected (outcome k) then residue c (src.classifyAt a.2 k).1 else (src.elem k).at c))

/-! ## Barriers and stage rings (R310 to R326) -/

/-- R313 to R318: `barsync` and `bararr` arrive once in the open phase of a gang, after the release that they carry; the last arrival completes the phase, and
the members that wait go on with its result; `barwait` waits for the phase in which its warp arrived and acquires; a warp that is no member, or has not arrived,
gets false; a `barsync` that a save had suspended after its arrival does not arrive again (R461). R319: the phase that one half of a pair has seen to its end
arrives at the other, once, with whether a member was killed there; a half whose own count is complete then completes its phase, with the same result as the
other, and the half that completes first counts no further phase before the other has followed. -/
def Obligations.Barriers : Prop :=
  ((∀ (s : State) (x : Warp) (e : Entry) (sh : Shape) (f : Frame), x.active f e ≠ 0 → x.member? f.xa = none →
     (∀ i ∈ [Instr.barsync f, .barwait f], Ready i s x e sh f → ∃ t y, exec i s = .next t ∧ Passes s t x y e sh f ∧ y.still = { x.still with preds := y.preds } ∧
       PredHolds x y (x.active f e) f.xd (fun _ => false) 0) ∧
     (Ready (.bararr f) s x e sh f → ∃ t y, exec (.bararr f) s = .next t ∧ Passes s t x y e sh f ∧ y.still = x.still)) ∧
   (∀ (s : State) (x : Warp) (e : Entry) (sh : Shape) (f : Frame) (i : Instr) (g ens : Nat) (m : Member) (q : Gang) (kill : Bool), (i, kill) ∈ [(Instr.barsync f, true), (.bararr f, false)] →
     Ready i s x e sh f → x.active f e ≠ 0 → g = f.xa → InGang s x g ens m q → s.unmarked →
     let cl := clusterOf (coreOf s.cur)
     let here := m.arr = true ∧ m.ap = q.ph
     let again := i = .barsync f ∧ m.arr = true ∧ m.again = some e.pc
     let wait : Wait := .barrier g (some f.xd) (x.active f e)
     let q1 := { q with arrv := q.arrv + 1, due := false }
     (here → i = .bararr f → ∃ t y, exec i s = .next t ∧ Passes s t x y e sh f ∧ y.still = x.still) ∧
     (here → i = .barsync f → ∃ t y, exec i s = .next t ∧ Suspends s t x y f wait ∧ (t.cluster cl).gangs = [q] ∧ y.members = [{ m with again := none }]) ∧
     (¬ here → again → ∃ t y, exec i s = .next t ∧ t.warp? s.cur = some y ∧ Gone t s.cur x y e f none ∧ KeepsRegs x y sh f ∧
       y.members = [{ m with arr := false, again := none }] ∧ PredHolds x y (x.active f e) f.xd (fun _ => q.lres) 0 ∧ (t.core (coreOf s.cur)).l1 = [] ∧ t.mem = s.mem ∧
       (t.cluster cl).gangs = [q]) ∧
     (¬ here → ¬ again → WaitsToRelease i s x f (f.bit 0) kill) ∧
     (¬ here → ¬ again → MayRelease s x (f.bit 0) →
       (q.arrv + 1 ≠ q.memb → ∃ t y, exec i s = .next t ∧ t.warp? s.cur = some y ∧ y.members = [{ m with arr := true, ap := q.ph }] ∧ (t.cluster cl).gangs = [q1] ∧
         KeepsRegs x y sh f ∧ (s.sliceClean s.cur → t.mem = s.mem) ∧ (∀ w, w ≠ s.cur → t.warp? w = s.warp? w) ∧ (i = .barsync f → Suspends s t x y f wait) ∧
         (i = .bararr f → Gone t s.cur x y e f none)) ∧
       (q.arrv + 1 = q.memb → ∃ t y, exec i s = .next t ∧ t.warp? s.cur = some y ∧ (t.cluster cl).gangs = [q1.opened (!q.cxl)] ∧ Freed s t cl ens g (!q.cxl) ∧
         KeepsRegs x y sh f ∧ (s.sliceClean s.cur → t.mem = s.mem) ∧ y.wait = none ∧ y.hw = (x.replaceHead [{ e with pc := t.land s.cur x (e.pc + BitVec.ofNat 57 f.form.bytes) }]).hw ∧
         (i = .barsync f → y.members = [{ m with arr := false, ap := q.ph }] ∧ PredHolds x y (x.active f e) f.xd (fun _ => !q.cxl) 0 ∧ (t.core (coreOf s.cur)).l1 = []) ∧
         (i = .bararr f → y.members = [{ m with arr := true, ap := q.ph }] ∧ y.preds = x.preds)))) ∧
   ∀ (s : State) (x : Warp) (e : Entry) (sh : Shape) (f : Frame) (g ens : Nat) (m : Member) (q : Gang), Ready (.barwait f) s x e sh f → x.active f e ≠ 0 → g = f.xa →
     InGang s x g ens m q →
     (m.arr = false → ∃ t y, exec (.barwait f) s = .next t ∧ Passes s t x y e sh f ∧ y.still = { x.still with preds := y.preds } ∧
       PredHolds x y (x.active f e) f.xd (fun _ => false) 0) ∧
     (m.arr = true → m.ap = q.ph → ∃ t y, exec (.barwait f) s = .next t ∧ Suspends s t x y f (.barrier g (some f.xd) (x.active f e))) ∧
     (m.arr = true → m.ap ≠ q.ph → ∃ t y, exec (.barwait f) s = .next t ∧ t.warp? s.cur = some y ∧ Gone t s.cur x y e f none ∧ KeepsRegs x y sh f ∧
       y.members = [{ m with arr := false, again := none }] ∧ PredHolds x y (x.active f e) f.xd (fun _ => q.lres) 0 ∧ (t.core (coreOf s.cur)).l1 = [] ∧ t.mem = s.mem)) ∧
  (∀ (s : State) (cl g : Nat) (q o : Gang), (s.cluster cl).gangs = [q] → (s.cluster (partner cl)).gangs = [o] → q.num = g → o.num = g → o.ensemble = q.ensemble →
     q.rph = q.ph → o.memb ≠ 0 → s.unmarked →
     let q1 : Gang := { q with rph := !q.rph, due := false }
     let after := fun (own other : Gang) => ∃ t, exec (.pairPhaseMessage cl g) s = .next t ∧ t.mem = s.mem ∧ (t.cluster cl).gangs = [own] ∧
       (t.cluster (partner cl)).gangs = [other] ∧ (¬ (q.arrv = q.memb ∧ q.ahead = false) → t.warps = s.warps)
     let full := q.arrv = q.memb ∧ q.ahead = false
     (o.ph = q.ph → o.sent = false → exec (.pairPhaseMessage cl g) s = .next s) ∧
     (o.ph = q.ph → o.sent = true → ¬ full → after { q1 with rcxl := o.cxl } o) ∧
     (o.ph = q.ph → o.sent = true → full → after { q1.opened (!(q.cxl || o.cxl)) with ahead := true } { o with cxl := false }) ∧
     (o.ph ≠ q.ph → o.ahead = false → exec (.pairPhaseMessage cl g) s = .next s) ∧
     (o.ph ≠ q.ph → o.ahead = true → ¬ full → after { q1 with rcxl := !o.lres } o) ∧
     (o.ph ≠ q.ph → o.ahead = true → full → after { q1.opened o.lres with cxl := q.cxl } { o with ahead := false, due := true }))

/-- R321 to R326: `rwait` answers the offset of its item's slot once the slot is empty, or full, in the item's lap, and waits before; `rput`, `rfree` and
`rfree.init` are released and set out for the ring, where they take effect in order; an operation on a slot that is not ready marks the ring; `rget` reads the
ring; readiness is checked at the end of the clk, and a wait whose slot is ready then completes, once its destination has an entry in the pool (R29). -/
def Obligations.StageRings : Prop :=
  (∀ (s : State) (x : Warp) (e : Entry) (sh : Shape) (f : Frame), x.active f e ≠ 0 →
    let k := x.uni f.kb
    let item := k.1.toNat % 2 ^ 32
    let next := fun (i : Instr) (v : W64) => ∃ t y, exec i s = .next t ∧ t.warp? s.cur = some y ∧ Gone t s.cur x y e f none ∧ KeepsRegs x y sh f ∧ UniHolds y f.kd v false ∧
      y.still = { x.still with loadMark := y.loadMark, dropMark := y.dropMark } ∧ t.mem = s.mem ∧ (∀ w, w ≠ s.cur → t.warp? w = s.warp? w) ∧
      (i = .rget f → y.still = x.still) ∧ ((i = .rwaitE f ∨ i = .rwaitF f) → v ≠ 0 → (t.core (coreOf s.cur)).l1 = [])
    (∀ i full, (i, full) ∈ [(Instr.rwaitE f, false), (.rwaitF f, true)] → Ready i s x e sh f →
      (k.2 = true → exec i s = .next (s.takeTrap s.cur 9 0 e.pc)) ∧
      (k.2 = false → s.ring? s.cur x f.xa = none → next i 0) ∧
      ∀ r, k.2 = false → s.ring? s.cur x f.xa = some r →
        let odd := decide (item / r.n % 2 = 1)
        let slot := r.slots.getD (item % r.n) {}
        let met := slot.full = full ∧ (slot.ph = odd ↔ full = false)
        (met → next i (BitVec.ofNat 64 ((r.base.toNat + item % r.n * r.sp.toNat) % 2 ^ 32))) ∧ (¬ met → ∃ t y, exec i s = .next t ∧ Suspends s t x y f (.ring f.xa full (k.1.setWidth 32) f.kd) ∧ t.mem = s.mem)) ∧
    (Ready (.rget f) s x e sh f → (f.vn = 2 → k.2 = true → exec (.rget f) s = .next (s.takeTrap s.cur 9 0 e.pc)) ∧
      (¬ (f.vn = 2 ∧ k.2 = true) → (s.ring? s.cur x f.xa = none → next (.rget f) 0) ∧
        ∀ r, s.ring? s.cur x f.xa = some r →
          let slot := r.slots.getD (item % r.n) {}
          next (.rget f) (BitVec.ofNat 64 (match f.vn with
            | 0 => 2 ^ 31 * r.err.toNat + 2 ^ 20 * r.ccnt + 2 ^ 8 * r.pcnt + r.n
            | 1 => 2 ^ 32 * r.sp.toNat + r.base.toNat
            | _ => 2 ^ 31 * slot.full.toNat + 2 ^ 30 * slot.ph.toNat + 2 ^ 29 * r.err.toNat + 2 ^ 16 * slot.frees + 2 ^ 10 * (item % r.n) + slot.puts))))) ∧
  (∀ (s : State) (x : Warp) (e : Entry) (sh : Shape) (f : Frame) (i : Instr) (op : RingOp) (mx tagged : Bool),
    let k := x.uni f.kb
    let k1 := x.uni (f.kb + 1)
    (i, op, mx, tagged) ∈ [(Instr.rput f, RingOp.put (k.1.setWidth 32), f.bit 0, k.2), (.rfree f, .free (k.1.setWidth 32), f.bit 0, k.2),
      (.rfreeInit f, .init k.1 k1.1, false, k.2 || k1.2)] → Ready i s x e sh f → x.active f e ≠ 0 →
    let home := ringHome (clusterOf (coreOf s.cur)) x.straddle
    (tagged = true → exec i s = .next (s.takeTrap s.cur 9 0 e.pc)) ∧
    (tagged = false → s.ring? s.cur x f.xa = none → ∃ t y, exec i s = .next t ∧ Passes s t x y e sh f ∧ y.still = x.still) ∧
    ∀ r ens, tagged = false → s.ring? s.cur x f.xa = some r → x.owner.ensemble = some ens →
      (MayRelease s x mx → ∃ t y, exec i s = .next t ∧ t.warp? s.cur = some y ∧ Gone t s.cur x y e f none ∧ KeepsRegs x y sh f ∧ y.still = x.still ∧
        (s.sliceClean s.cur → t.mem = s.mem) ∧ (t.cluster home).msgs = (s.cluster home).msgs ++ [{ ensemble := ens, num := f.xa, op := op, w := s.cur }] ∧ (t.cluster home).rings = (s.cluster home).rings) ∧
      WaitsToRelease i s x f mx false) ∧
  (∀ (s : State) (w num kd : Nat) (x : Warp) (full : Bool) (item : W32) (r : Ring), s.warps = [(w, x)] → x.wait = some (.ring num full item kd) →
    s.ring? w x num = some r → s.cancelledAt x.owner.scope (dieOf (coreOf w)) = false →
    let odd := decide (item.toNat / r.n % 2 = 1)
    let slot := r.slots.getD (item.toNat % r.n) {}
    let met := slot.full = full ∧ (slot.ph = odd ↔ full = false)
    let room := (x.isBound (.k kd) = true ∧ x.isSpilled (.k kd) = false) ∨ s.hasRoom w false 1 = true
    (met → room → ∃ y, Completed s.endRingWaits w x y ∧ UniHolds y kd (BitVec.ofNat 64 ((r.base.toNat + item.toNat % r.n * r.sp.toNat) % 2 ^ 32)) false ∧
      (s.endRingWaits.core (coreOf w)).l1 = [] ∧ s.endRingWaits.mem = s.mem) ∧
    (met → ¬ room → s.victim (coreOf w) (quadOf w) false w [.k kd] = none → s.endRingWaits = s) ∧ (¬ met → s.endRingWaits = s)) ∧
  ∀ (s : State) (cl : Nat) (q : Ring) (m : RingMsg), (s.cluster cl).msgs = [m] → (s.cluster cl).rings = [q] → q.ensemble = m.ensemble → q.num = m.num →
    let rank := (if clusterOf (coreOf m.w) = cl then 0 else 4) + (coreOf m.w % 4 + 4 - s.clock % 4) % 4
    let r := { q with served := (s.clock, rank) }
    (q.served.1 = s.clock → rank < q.served.2 → exec (.ringUpdate cl 0) s = .next s) ∧
    ((q.served.1 = s.clock → q.served.2 ≤ rank) →
     ∃ t r', exec (.ringUpdate cl 0) s = .next t ∧ (t.cluster cl).msgs = [] ∧ (t.cluster cl).rings = [r'] ∧ t.mem = s.mem ∧ t.warps = s.warps ∧
      (∀ item, (m.op = .put item ∨ m.op = .free item) →
        let j := item.toNat % r.n
        let odd := decide (item.toNat / r.n % 2 = 1)
        let slot := r.slots.getD j {}
        (m.op = .put item → ¬ (slot.full = false ∧ slot.ph = odd) → r' = { r with err := true }) ∧
        (m.op = .free item → ¬ (slot.full = true ∧ slot.ph ≠ odd) → r' = { r with err := true }) ∧
        (m.op = .put item → slot.full = false → slot.ph = odd → r' = { r with slots := r.slots.set j (if slot.puts + 1 = r.pcnt
          then { slot with puts := 0, full := true, ph := !slot.ph } else { slot with puts := slot.puts + 1 }) }) ∧
        (m.op = .free item → slot.full = true → slot.ph ≠ odd → r' = { r with slots := r.slots.set j (if slot.frees + 1 = r.ccnt
          then { slot with frees := 0, full := false } else { slot with frees := slot.frees + 1 }) })) ∧
      ∀ b b1, m.op = .init b b1 →
        let sp := b.toNat / 2 ^ 32
        let base := b.toNat % 2 ^ 32
        let n := b1.toNat % 128
        let pcnt := b1.toNat / 2 ^ 8 % 2 ^ 10
        let ccnt := b1.toNat / 2 ^ 20 % 2 ^ 10
        let valid := sp % 16 = 0 ∧ 16 ≤ sp ∧ base % 16 = 0 ∧ b1.toNat < 2 ^ 30 ∧ b1.toNat / 2 ^ 18 % 4 = 0 ∧ b1.toNat / 2 ^ 7 % 2 = 0 ∧ 1 ≤ ccnt ∧ ccnt ≤ 512 ∧ 1 ≤ pcnt ∧
          pcnt ≤ 512 ∧ 1 ≤ n ∧ n ≤ 64
        (¬ valid → r' = { r with err := true }) ∧
        (valid → r' = { r with base := BitVec.ofNat 32 base, sp := BitVec.ofNat 32 sp, n := n, pcnt := pcnt, ccnt := ccnt, err := false, slots := List.replicate n {} }))

/-! ## Cancel scopes, launches and tasks (R410 to R442) -/

/-- R425 to R431, R440 to R442: `scnew` makes the lowest FREE scope a child of the warp's own; `cancel` and `cancel.end` mark, and answer 0 once every die has
seen the marking; a marked scope without live work completes at once with its acknowledgement; a warp of a cancelled scope ends at a kill point, `cchk` among
them. -/
def Obligations.CancelScopes : Prop :=
  (∀ (s : State) (x : Warp) (e : Entry) (sh : Shape) (f : Frame), Ready (.scnew f) s x e sh f → x.active f e ≠ 0 →
    let k := x.uni f.kb
    let own := x.owner.scope
    let answers := fun (t : State) (v : W64) => ∃ y id, t.warp? s.cur = some y ∧ Gone t s.cur x y e f none ∧ KeepsRegs x y sh f ∧ y.isEmpty (.k f.kd) = true ∧
      y.results = x.results ++ [{ id := id, puts := [.k f.kd v false] }] ∧ t.mem = s.mem
    (k.2 = true → exec (.scnew f) s = .next (s.takeTrap s.cur 9 0 e.pc)) ∧
    ∀ p, k.2 = false → s.scopes.get? own = some p →
      (∀ n, n < 65536 → s.scopes.get? n = none → (∀ j, j < n → s.scopes.get? j ≠ none) → p.state = .live → p.depth < 63 → k.1.toNat % 8 = 0 →
        ∃ t, exec (.scnew f) s = .next t ∧ answers t (BitVec.ofNat 64 n) ∧ ∀ j, t.scopes.get? j =
          if j = n then some { proc := x.owner.proc, parent := some own, depth := p.depth + 1, coop := decide (f.vn = 1), ack := k.1, gen := s.generation }
          else if j = own then some { p with count := p.count + 1 } else s.scopes.get? j) ∧
      (p.state ≠ .live ∨ 63 ≤ p.depth ∨ k.1.toNat % 8 ≠ 0 ∨ (∀ j, j < 65536 → s.scopes.get? j ≠ none) →
        ∃ t, exec (.scnew f) s = .next t ∧ answers t (BitVec.allOnes 64) ∧ t.scopes = s.scopes)) ∧
  (∀ (s : State) (x : Warp) (e : Entry) (sh : Shape) (f : Frame) (i : Instr) (ending : Bool), (i, ending) ∈ [(Instr.cancel f, false), (.cancelEnd f, true)] →
    Ready i s x e sh f → x.active f e ≠ 0 →
    let k := x.uni f.ka
    let n := k.1.toNat
    let answers := fun (t : State) (v : W64) (m : Option Nat) => ∃ y id, t.warp? s.cur = some y ∧ Gone t s.cur x y e f none ∧ KeepsRegs x y sh f ∧
      y.isEmpty (.k f.kd) = true ∧ y.results = x.results ++ [{ id := id, puts := [.k f.kd v false], marking := m }]
    (k.2 = true → exec i s = .next (s.takeTrap s.cur 9 0 e.pc)) ∧ (k.2 = false → 65536 ≤ n → exec i s = .next (s.takeTrap s.cur 2 0 e.pc)) ∧
    (k.2 = false → n < 65536 → (∀ c, s.scopes.get? n = some c → c.proc ≠ x.owner.proc ∨ c.parent = none) →
      ∃ t, exec i s = .next t ∧ answers t 2 none ∧ t.scopes = s.scopes ∧ t.mem = s.mem) ∧
    ∀ c, k.2 = false → n < 65536 → s.scopes.get? n = some c → c.proc = x.owner.proc → c.parent ≠ none →
      (c.state = .cancelled ∨ (ending = true ∧ c.state = .ending) → ∃ t, exec i s = .next t ∧ answers t 1 none ∧ t.scopes = s.scopes ∧ t.mem = s.mem) ∧
      (¬ (c.state = .cancelled ∨ (ending = true ∧ c.state = .ending)) → (∀ j d, s.scopes.get? j = some d → d.count ≠ 0) →
        ∃ t, exec i s = .next t ∧ answers t 0 (some n) ∧ t.mem = s.mem ∧ t.generation = s.generation + 1 ∧ ∀ j, t.scopes.get? j = (s.scopes.get? j).map fun d =>
          if (if ending then j = n else s.under n 65 j = true) ∧ d.state ≠ .cancelled
          then { d with state := if ending then .ending else .cancelled, gen := s.generation + 1, seen := [], told := d.told ++ d.seen } else d) ∧
      (∀ par pc ks, c.state = .live → c.count = 0 → c.parent = some par → s.scopes.get? par = some pc → par ≠ n → (pc.state = .live ∨ 2 ≤ pc.count) → c.ack ≠ 0 → c.depth < 64 →
        (∀ j, j ≠ n → s.under n 65 j = false) → Quiet s → s.virtKeys c.proc c.ack.toNat 8 1 = some ks → ks.Nodup →
        ∃ t, exec i s = .next t ∧ answers t 0 (some n) ∧ t.scopes.get? n = none ∧ t.scopes.get? par = some { pc with count := pc.count - 1 } ∧
          ofBytes (ks.map t.byte) = min c.discards 65535 * 2 ^ 32 + (if ending then 0 else 2 ^ 16) + n ∧ ∀ k, k ∉ ks → t.byte k = s.byte k)) ∧
  (∀ (s : State) (x : Warp) (e : Entry) (sh : Shape) (f : Frame), x.active f e ≠ 0 →
    let here := s.cancelledAt x.owner.scope (dieOf (coreOf s.cur))
    (Ready (.cchk f) s x e sh f → here = false → ∃ t y, exec (.cchk f) s = .next t ∧ Passes s t x y e sh f ∧ y.still = x.still) ∧
    (Ready (.cchk f) s x e sh f → here = true → x.members = [] → x.owner.task = false → x.call.call = none → x.call.posts = [] →
      ∃ t, exec (.cchk f) s = .next t ∧ KilledAt s t s.cur x) ∧
    (Ready (.cchkT f) s x e sh f → ∃ t y, exec (.cchkT f) s = .next t ∧ Passes s t x y e sh f ∧ y.still = { x.still with preds := y.preds } ∧
      PredHolds x y (x.active f e) f.xd (fun _ => here) 0)) ∧
  (∀ (s : State) (w : Nat) (x : Warp), s.warp? w = some x → x.hw ≠ [] → x.marks.ended = false → x.marks.stopped = false → x.call.report = none →
    let here := s.cancelledAt x.owner.scope (dieOf (coreOf w))
    (here = false → exec (.killPoint w) s = .next s) ∧ (here = true → x.wait = some .oplog → exec (.killPoint w) s = .next s) ∧
    ∀ q, here = true → x.wait = some q →
      (q ∈ [Wait.waitRegs, .waitSt, .waitAll, .arrival true, .migw, .queue true, .queue false, .matrix true, .matrix false] ∨
        (∃ n b i k, q = .sleep n ∨ q = .ring n b i k ∨ q = .commit n ∨ q = .pool n) ∨
        (∃ a, q = .watch a) ∨ (∃ k c, q = .fence k c) ∨ ∃ g pd m, q = .barrier g pd m) →
      x.members = [] → x.owner.task = false → x.call.call = none → x.call.posts = [] → ∃ t, exec (.killPoint w) s = .next t ∧ KilledAt s t w x) ∧
  ∀ (s : State) (die n : Nat) (c : Scope), s.scopes.get? n = some c → (∀ j, j ≠ n → s.under n 65 j = false) → (s.scopes.map (·.1)).Nodup →
    (c.state = .live ∨ die ∈ c.seen → exec (.markingArrival die n) s = .next s) ∧
    (die ∉ c.seen → c.state = .ending → c.count ≠ 0 → ∃ t, exec (.markingArrival die n) s = .next t ∧ t = { s with scopes := t.scopes } ∧
      t.scopes.get? n = some { c with seen := c.seen ++ [die] }) ∧
    (die ∉ c.seen → c.state = .cancelled → 1 ≤ die → s.saved = [] →
      let dead := (s.die die).pools.filter fun r => r.scope = n
      (∀ r ∈ dead, r.words[3] = 0) → dead.length < c.count → (∀ r ∈ (s.die die).owed, r.scope ≠ n) →
      ∃ t, exec (.markingArrival die n) s = .next t ∧ t.mem = s.mem ∧ t.warps = s.warps ∧ (t.die die).pools = ((s.die die).pools.filter fun r => decide (r.scope ≠ n)) ∧
        t.scopes.get? n = some { c with seen := c.seen ++ [die], discards := c.discards + dead.length, count := c.count - dead.length })

/-- R415 to R418, R437 to R439, R492: a launch record enters its queue of 16, or nothing of it is kept; the oldest is validated by the table of R417, and its
refusal is written to DONE; an ensemble that is over writes its value, leaves its clusters, and its scope has one item less. R22, R201, R419 to R424, R438: what
admission leaves; a record whose scope has been cancelled is not placed any more, but dropped (R429, R475). `spawn` and `spawnx` put their records into the pool
of the die, all or none of them, or wait for room; a launch whose cluster is free starts a warp there, and a task record a warp on a core of its die, with the
registers and the scratchpad that their records give and everything else at its reset value; a record without a scope or a descriptor is discarded. That the
rows of the table are tried in their order, that queue and placements together hold 16, that the lowest cluster is taken and that a task is privileged only
where its process is are the model's choices (log entry 30), and so is the call slot of an admission (log entry 12). -/
def Obligations.LaunchesAndTasks : Prop :=
  ((∀ (s : State) (x : Warp) (e : Entry) (sh : Shape) (f : Frame), Ready (.launch f) s x e sh f → x.active f e ≠ 0 →
     let ks := (List.range 8).map fun j => x.uni (f.ka + j)
     let r : BitVec 512 := BitVec.ofNat 512 (((List.range 8).map fun j => (x.uni (f.ka + j)).1.toNat * 2 ^ (64 * j)).sum)
     ((∃ k ∈ ks, k.2 = true) → exec (.launch f) s = .next (s.takeTrap s.cur 9 0 e.pc)) ∧
     ∀ q, (∀ k ∈ ks, k.2 = false) → s.proc? x.owner.proc = some q →
       (16 ≤ q.queue.length + q.placing.length → ∃ t y, exec (.launch f) s = .next t ∧ Passes s t x y e sh f ∧ y.still = { x.still with preds := y.preds } ∧
         PredHolds x y (x.active f e) f.xd (fun _ => false) 0) ∧
       let c := match s.scopes.get? (recScope r) with | some d => d.proc == x.owner.proc | none => false
       (q.queue.length + q.placing.length < 16 → ∃ t y, exec (.launch f) s = .next t ∧ t.warp? s.cur = some y ∧ Gone t s.cur x y e f none ∧ KeepsRegs x y sh f ∧
         y.still = { x.still with preds := y.preds } ∧ PredHolds x y (x.active f e) f.xd (fun _ => true) 0 ∧ t.mem = s.mem ∧
         t.proc? x.owner.proc = some { q with queue := q.queue ++ [{ record := r, counted := c, after := s.writesOwed s.cur }] } ∧
         ∀ n, t.scopes.get? n = (s.scopes.get? n).map fun d => if n = recScope r ∧ c = true then { d with count := d.count + 1 } else d)) ∧
   (∀ (s : State) (p : Nat) (q : Proc) (r : BitVec 512), s.proc? p = some q →
     let answers := fun (t : State) (code : Nat) => t.pkg = { s.pkg with completion := code }
     (s.pkg.ready = false ∨ 16 ≤ q.queue.length + q.placing.length → ∃ t, exec (.launchDeposit p r) s = .next t ∧ t = { s with pkg := t.pkg } ∧ answers t 1) ∧
     let c := match s.scopes.get? (recScope r) with | some d => d.proc == p | none => false
     (s.pkg.ready = true → q.queue.length + q.placing.length < 16 → ∃ t, exec (.launchDeposit p r) s = .next t ∧ t = { s with procs := t.procs, scopes := t.scopes, pkg := t.pkg } ∧
       answers t 0 ∧ t.proc? p = some { q with queue := q.queue ++ [{ record := r, counted := c, after := [] }] } ∧
       ∀ n, t.scopes.get? n = (s.scopes.get? n).map fun d => if n = recScope r ∧ c = true then { d with count := d.count + 1 } else d)) ∧
   (∀ (s : State) (p : Nat) (r : BitVec 512), s.proc? p = none → s.pkg.ready = true →
     exec (.launchDeposit p r) s = .next { s with pkg := { s.pkg with completion := 2 } }) ∧
   (∀ (s : State) (p : Nat) (q : Proc) (d : Deposit) (ds : List Deposit), s.proc? p = some q → q.queue = d :: ds →
     (s.performedBefore d.after = false → exec (.launchValidation p) s = .next s) ∧
     (s.performedBefore d.after = true →
       ((∀ code, ¬ Refuses s p d.record code) → ∃ t, exec (.launchValidation p) s = .next t ∧ t.mem = s.mem ∧ t.warps = s.warps ∧
         t.proc? p = some { q with queue := ds, placing := q.placing ++ [d.record] } ∧
         ∀ c, s.scopes.get? (recScope d.record) = some c → t.scopes.get? (recScope d.record) = some (if d.counted then c else { c with count := c.count + 1 })) ∧
       ∀ code ks, Refuses s p d.record code → (∀ b, b < code → ¬ Refuses s p d.record b) → d.counted = false → recDone d.record ≠ 0 → Quiet s →
         s.virtKeys p (recDone d.record) 8 1 = some ks → ks.Nodup →
         ∃ t, exec (.launchValidation p) s = .next t ∧ t.proc? p = some { q with queue := ds } ∧ t.warps = s.warps ∧ t.scopes = s.scopes ∧
           ofBytes (ks.map t.byte) = 0xFFFF_FFFF_FFFF_FF00 + code ∧ ∀ k, k ∉ ks → t.byte k = s.byte k)) ∧
   ∀ (s : State) (e : Nat) (q : Ensemble) (cl : Nat) (c : Scope) (ks : List Nat), s.ensembles.get? e = some q →
     let rest := q.live = 0 ∧ (∀ k ∈ s.cores, ∀ d ∈ k.2.loadQ ++ k.2.storeQ, d.ensemble ≠ some e) ∧ (∀ core, (s.core core).slotOwner = some e → s.mxAll core = []) ∧ ∀ h ∈ s.held, h.ensemble ≠ e
     (q.live ≠ 0 → exec (.ensembleEnd e) s = .next s) ∧
     (rest → q.clusters = [cl] → s.scopes.get? q.scope = some c → (c.state = .live ∨ 2 ≤ c.count) → q.done ≠ 0 → Quiet s →
       s.virtKeys q.proc q.done.toNat 8 1 = some ks → ks.Nodup →
       ∃ t, exec (.ensembleEnd e) s = .next t ∧ t.ensembles.get? e = none ∧ t.scopes.get? q.scope = some { c with count := c.count - 1 } ∧
         BitVec.ofNat 64 (ofBytes (ks.map t.byte)) = (if q.killed then 0xFFFF_FFFF_FFFF_FF06 else q.doneVal) ∧ (∀ k, k ∉ ks → t.byte k = s.byte k) ∧
         (∀ g ∈ (t.cluster cl).gangs, g.ensemble ≠ e) ∧ (∀ r ∈ (t.cluster cl).rings, r.ensemble ≠ e) ∧
         ∀ i, i < 4 → (∀ a ∈ (t.core (coreIn cl i)).spAlloc, a.ensemble ≠ some e) ∧ (t.core (coreIn cl i)).slotOwner ≠ some e)) ∧
  ((∀ (s : State) (x : Warp) (e : Entry) (sh : Shape) (f : Frame) (i : Instr) (own : Bool) (n : Nat), (i, own, n) ∈ [(Instr.spawn f, true, 1), (.spawnx f, false, f.immf 0 8 + 1)] →
     Ready i s x e sh f → x.active f e ≠ 0 →
     let k := fun j => x.uni (f.ka + j)
     let word := fun j => (k j).1.toNat
     let scope := if own then x.owner.scope else word 2 / 2 ^ 48
     let cls := if own then x.owner.pcls else word 4 % 8
     let die := dieOf (coreOf s.cur)
     let tagged := (List.range 8).any fun j => (k j).2
     let may := (∃ c, s.scopes.get? scope = some c ∧ c.proc = x.owner.proc ∧ (c.state = .live ∨ die ∉ c.seen ∧ die ∉ c.told)) ∧ (word 4 / 2 ^ 8 % 2 = 1 → x.owner.priv = true)
     (tagged = true → exec i s = .next (s.takeTrap s.cur 9 0 e.pc)) ∧
     (tagged = false → ¬ may → ∃ t y, exec i s = .next t ∧ Passes s t x y e sh f ∧ y.still = { x.still with preds := y.preds } ∧
       PredHolds x y (x.active f e) f.xd (fun _ => false) 0) ∧
     (tagged = false → may → s.poolTakes die x.owner.proc cls n = false → ∃ t, exec i s = .next t ∧ HeldAt s t x f (.pool n)) ∧
     (tagged = false → may → cls < 8 → s.poolLength die x.owner.proc cls + n ≤ s.poolCap die → ∃ t y rs c, exec i s = .next t ∧ t.warp? s.cur = some y ∧ Gone t s.cur x y e f none ∧
       KeepsRegs x y sh f ∧ y.still = { x.still with preds := y.preds } ∧ PredHolds x y (x.active f e) f.xd (fun _ => true) 0 ∧ t.mem = s.mem ∧
       (t.die die).pools = (s.die die).pools ++ rs ∧ rs.length = n ∧
       s.scopes.get? scope = some c ∧ t.scopes.get? scope = some { c with count := c.count + n } ∧
       ∀ j, j < n → ∃ r, rs[j]? = some r ∧ r.proc = x.owner.proc ∧ r.scope = scope ∧ r.pcls = cls ∧ r.after = s.writesOwed s.cur ∧
         (∀ m : Fin 8, m.val ≠ 2 → m.val ≠ 4 → r.words[m] = (k m.val).1) ∧ r.words[2].toNat % 2 ^ 16 = (word 2 + j) % 2 ^ 16 ∧
         r.words[2].toNat / 2 ^ 16 % 2 ^ 32 = word 2 / 2 ^ 16 % 2 ^ 32)) ∧
   (∀ (s : State) (p cls : Nat) (q : Proc) (r : BitVec 512) (k : Kernel) (ws : Vector W64 8), s.procs = [(p, q)] → q.placing = [r] → recPcls r = cls → s.saved = [] → s.warps = [] →
     s.transit = [] → (∀ c, s.scopes.get? (recScope r) = some c → c.state ≠ .cancelled) → s.readKernel p (recDesc r) = some k → s.windows p (recWtab r) = some ws → k.straddle = false → k.gangs = [] → k.counts = [1, 0, 0] → recClus r = 1 →
     s.clusterOpen 0 = true → s.holdsCluster p 0 = true → (∀ c, c < 4 → (s.core (coreIn 0 c)).spAlloc = [] ∧ (s.core (coreIn 0 c)).slices = []) → (s.cluster 0).csAlloc = Vector.replicate 4 [] →
     (s.cluster 0).gangs = [] → k.scratch ≤ 2 ^ 18 → k.cshared ≤ 2 ^ 19 →
     ∃ t x id n e, exec (.launchPlacement p cls) s = .next t ∧ t.proc? p = some { q with placing := [] } ∧ t.warp? (warpKey 0 0) = some x ∧
       t.ensembles.get? id = some e ∧ e.proc = p ∧ e.scope = recScope r ∧ e.clusters = [0] ∧ e.live = 1 ∧ e.done.toNat = recDone r ∧ e.doneVal = recDoneVal r ∧
       x = { owner := { proc := p, ensemble := some id, priv := recPriv r, pcls := cls, seq := s.workSeq, scope := recScope r }
             role := 0, prio := recPrio r 0, aprio := recPrio r 0, eprio := recPrio r 0, lregs := k.lregs, uregs := k.uregs
             hw := [{ prio := BitVec.ofNat 8 k.eprio, pc := t.land (warpKey 0 0) x (BitVec.ofNat 57 (k.entry / 4 * 4)), mask := allLanes }]
             call := { ix := Config.callSlot n }, pwin := ws, lprivBase := BitVec.ofNat 45 (recLpbase r / 4096), lprivSize := recLpsize r
             spwin := (k.scratch + 2047) / 2048, cswin := (k.cshared + 8191) / 8192
             k := if 0 < k.uregs then [(0, { val := 0, tag := false, stamp := s.clock })] else [] } ∧
       (∀ j, j < (k.scratch + 2047) / 2048 * 2048 → t.byte (scratchKey 0 j) = 0)) ∧
   (∀ (s : State) (p cls : Nat) (q : Proc) (r : BitVec 512) (c : Scope) (ks : List Nat), s.proc? p = some q → q.placing = [r] → recPcls r = cls →
     s.scopes.get? (recScope r) = some c → c.state = .cancelled → 2 ≤ c.count → recDone r ≠ 0 → Quiet s → s.virtKeys p (recDone r) 8 1 = some ks → ks.Nodup →
     ∃ t, exec (.launchPlacement p cls) s = .next t ∧ t.proc? p = some { q with placing := [] } ∧ t.warps = s.warps ∧
       t.scopes.get? (recScope r) = some { c with count := c.count - 1 } ∧ ofBytes (ks.map t.byte) = 0xFFFF_FFFF_FFFF_FF06 ∧ ∀ k, k ∉ ks → t.byte k = s.byte k) ∧
   ∀ (s : State) (die p : Nat) (q : Proc) (r : TaskRec), s.procs = [(p, q)] → (s.die die).pools = [r] → r.proc = p → die < 4 →
     (s.scopes.get? r.scope = none → r.words[3] = 0 → r.after = [] →
       ∃ t, exec (.taskDispatch die) s = .next t ∧ (t.die die).pools = [] ∧ t.mem = s.mem ∧ t.warps = s.warps) ∧
     ∀ (c : Scope) (k : Kernel), s.scopes.get? r.scope = some c → c.proc = p → c.state = .live → r.after = [] → s.saved = [] → s.warps = [] → s.transit = [] → s.taking = [] →
       s.taskKernel r = some k → k.scratch ≤ 2 ^ 18 → s.coreExists die 0 = true → s.granted p (die * 96) = true → s.dieRuns die = true → (s.core (die * 96)).spAlloc = [] →
       (s.core (die * 96)).slices = [] →
       ∃ t x n, exec (.taskDispatch die) s = .next t ∧ (t.die die).pools = [] ∧ t.warp? (warpKey (die * 96) 0) = some x ∧ t.scopes = s.scopes ∧
         x.hw = [{ prio := BitVec.ofNat 8 k.eprio, pc := s.land (warpKey (die * 96) 0) x (BitVec.ofNat 57 (k.entry / 4 * 4)), mask := allLanes }] ∧
         x.owner = { proc := p, ensemble := none, task := true, priv := r.words[4].getLsbD 8 && q.priv, pcls := r.pcls, seq := s.workSeq, scope := r.scope, succ := r.words[3] } ∧
         x.call = { ix := Config.callSlot n } ∧ x.preds = Vector.replicate 7 0 ∧ x.x = [] ∧ x.trap = {} ∧ x.fp = {} ∧ x.mx = {} ∧ x.copy = {} ∧ x.spwin = (k.scratch + 2047) / 2048 ∧
         x.prio = r.words[4].toNat / 2 ^ 16 % 16 ∧ x.lprivSize = r.words[4].toNat / 2 ^ 32 % 2048 ∧ x.lprivBase.toNat = r.words[5].toNat / 4096 % 2 ^ 45 ∧
         (0 < k.uregs → UniHolds x 0 r.words[1] false) ∧ (1 < k.uregs → UniHolds x 1 (BitVec.ofNat 64 (r.words[2].toNat % 2 ^ 48)) false) ∧
         ∀ j, j < (k.scratch + 2047) / 2048 * 2048 → t.byte (scratchKey (die * 96) j) = 0)

/-! ## Pre-emption (R430 to R444, R461 to R463) -/

/-- R432, R435, R436, R443: `preempt` takes at most the named number of cores of each die, no core of its own process and not its own core; it waits until they
are free and answers their numbers. The end of a time slice marks what the process runs on the die and takes its grants there, or, where its context area does
not hold the contexts, tells the host. R433, R434, R461: the save of a task warp stops the warp at its run boundary, or at once where it waits or its report has
stopped it, and waits until nothing of it is outstanding; its context then holds the warp, with its scratchpad, and its slot is free. A restore puts the warp,
its registers and its scratchpad back on a core that takes it. -/
def Obligations.PreemptionAndSaves : Prop :=
  ((∀ (s : State) (x : Warp) (e : Entry) (sh : Shape) (f : Frame), Ready (.preempt f) s x e sh f → x.active f e ≠ 0 →
     let k := x.uni f.ka
     let p := x.owner.proc
     let named := fun d => k.1.toNat / 2 ^ (8 * d) % 256
     let bad := 2 ^ 32 ≤ k.1.toNat ∨ ∃ d, d < 4 ∧ 96 < named d
     let chosen := s.chooseCores s.cur p named
     let answers := fun (t : State) (v : Nat) => ∃ y id, t.warp? s.cur = some y ∧ Gone t s.cur x y e f none ∧ KeepsRegs x y sh f ∧ y.isEmpty (.k f.kd) = true ∧
       y.results = x.results ++ [{ id := id, puts := [.k f.kd (BitVec.ofNat 64 v) false] }] ∧ t.mem = s.mem ∧ (∀ w, w ≠ s.cur → t.warp? w = s.warp? w)
     (k.2 = true → exec (.preempt f) s = .next (s.takeTrap s.cur 9 0 e.pc)) ∧ (k.2 = false → bad → exec (.preempt f) s = .next (s.takeTrap s.cur 2 0 e.pc)) ∧
     (s.saving = [] → s.transit = [] → (∀ v ∈ s.warps, v.2.owner.ensemble = x.owner.ensemble → v.2.owner.ensemble ≠ none → v.2.owner.proc = p) →
     (∀ c ∈ chosen, s.coreExists (c / 96) (c % 96) = true ∧ s.granted p c = false ∧ c ≠ coreOf s.cur ∧ (chosen.filter fun j => decide (j / 96 = c / 96)).length ≤ named (c / 96)) ∧
     (k.2 = false → ¬ bad → s.taking.get? s.cur = none → chosen = [] → ∃ t, exec (.preempt f) s = .next t ∧ answers t 0) ∧
     (k.2 = false → ¬ bad → s.taking = [] → chosen ≠ [] → (∀ c ∈ chosen, s.foreign p c = []) → (∀ c ∈ chosen, c < 384) → s.proc? p ≠ none →
       ∃ t y, exec (.preempt f) s = .next t ∧ t.warp? s.cur = some y ∧ y.wait = some .preempt ∧ y.hw = x.hw ∧ y.run = x.run ∧ t.mem = s.mem ∧
         t.taking.get? s.cur = some chosen ∧ (∀ w, w ≠ s.cur → t.warp? w = s.warp? w) ∧ ∀ c ∈ chosen, t.granted p c = true ∧ ∀ j, j ≠ p → t.granted j c = false)) ∧
     ∀ cores, k.2 = false → ¬ bad → s.taking = [(s.cur, cores)] → (∀ c ∈ cores, s.granted p c = true ∧ s.foreign p c = []) →
       ∃ t, exec (.preempt f) s = .next t ∧ t.taking = [] ∧ t.procs = s.procs ∧
         answers t (((List.range 4).map fun d => (cores.filter fun c => decide (c / 96 = d)).length * 2 ^ (8 * d)).sum)) ∧
   ∀ (s : State) (p die : Nat) (q : Proc), s.proc? p = some q → die < 4 →
     let v := q.tslice.toList.getD die 0
     let due := v.getLsbD 63 = true ∧ v.toNat % 2 ^ 62 ≤ s.clock
     let us := (s.unitsOn p die).filter fun u => !s.straddlesOut p die u
     (¬ due → exec (.timeSliceExpiry p die) s = .next s) ∧
     (due → s.savesFit p die us = false → ∃ t r, exec (.timeSliceExpiry p die) s = .next t ∧ t = { s with procs := t.procs, pkg := t.pkg } ∧
       t.pkg = s.pkg.signal (64 + p) ∧ t.pkg.msix = s.pkg.msix ++ [64 + p] ∧ t.proc? p = some r ∧ r.grants = q.grants ∧ (r.tslice.toList.getD die 0).getLsbD 63 = false ∧
       (r.tslice.toList.getD die 0).getLsbD 62 = true) ∧
     (due → s.savesFit p die us = true →
       (us = [] → ∃ t r, exec (.timeSliceExpiry p die) s = .next t ∧ t = { s with procs := t.procs } ∧ t.proc? p = some r ∧ r.grants.toList.getD die 0 = 0 ∧
         (∀ d, d ≠ die → r.grants.toList.getD d 0 = q.grants.toList.getD d 0) ∧ (r.tslice.toList.getD die 0).getLsbD 63 = false) ∧
       ∀ w x, s.warps = [(w, x)] → s.saving = [] → s.transit = [] → x.owner.proc = p → x.owner.ensemble = none → coreOf w / 96 = die → x.marks.ended = false →
         x.marks.stopped = false → s.unmarked →
         ∃ t r v, exec (.timeSliceExpiry p die) s = .next t ∧ t.warp? w = some { x with marks := { x.marks with save := true } } ∧ t.saving = [v] ∧ v.warps = [w] ∧ v.proc = p ∧
           v.ensemble = none ∧ v.move = false ∧ t.proc? p = some r ∧ r.grants.toList.getD die 0 = 0 ∧ t.mem = s.mem)) ∧
  ((∀ (s : State) (v : Saving) (w : Nat) (x : Warp), s.saving = [v] → v.ensemble = none → v.warps = [w] → v.move = false → s.warp? w = some x → x.marks.save = true →
     x.owner.ensemble = none → x.marks.ended = false → s.cancelledAt x.owner.scope (dieOf (coreOf w)) = false →
     (x.marks.stopped = false → ∃ t b, exec (.preemptionSave v.id) s = .next t ∧ t = { s with warps := t.warps } ∧
       t.warp? w = some { x with marks := { x.marks with stopped := b } } ∧ (∀ u, u ≠ w → t.warp? u = s.warp? u) ∧
       (b = true ↔ x.marks.halted = false ∧ (x.run = 0 ∨ x.call.report ≠ none ∨ (x.wait ≠ none ∧ x.wait ≠ some .mxFull)))) ∧
     (x.marks.stopped = true → x.results ≠ [] ∨ x.call.posts ≠ [] ∨ (∃ a ∈ s.flights, a.w = w) ∨ s.commandsOf w ≠ [] → exec (.preemptionSave v.id) s = .next s) ∧
     (x.marks.stopped = true → x.wait = none → x.results = [] → x.call.posts = [] → FenceHolds s w 2 4 → (s.core (coreOf w)).slices = [] → Quiet s → (∀ a ∈ s.flights, a.w ≠ w) → s.commandsOf w = [] → (∀ m ∈ s.mxAll (coreOf w), m.w ≠ w) →
       (s.core (coreOf w)).wbuf = [] → (∀ r ∈ x.x, r.2.empty = false) → (∀ r ∈ x.k, r.2.empty = false) → s.taking = [] →
       ∃ t c y k, exec (.preemptionSave v.id) s = .next t ∧ t.saving = [] ∧ t.warp? w = none ∧ (∀ u, u ≠ w → t.warp? u = s.warp? u) ∧
         OnlyArea s t x.owner.proc (dieOf (coreOf w)) (c.bytesOn (dieOf (coreOf w))) ∧ t.saved = s.saved ++ [c] ∧ c.proc = x.owner.proc ∧ c.task = true ∧ c.ensemble = none ∧ c.die = dieOf (coreOf w) ∧ c.warps = [(0, y)] ∧
         y = { x with kept := [], age := 0, yielded := false, wait := none, marks := { x.marks with save := false, stopped := false } } ∧ c.cores = [k] ∧ k.scratchSize = x.spwin * 2048 ∧
         (Mem.wf s.mem → ∀ j, j < x.spwin * 2048 → ((k.scratch.find? fun b => b.1 == j).map (·.2)).getD 0 = s.byte (scratchKey (coreOf w) x.spbase + j)) ∧ ∀ a ∈ (t.core (coreOf w)).spAlloc, a.warp ≠ some w)) ∧
   ∀ (s : State) (c : Saved) (x : Warp) (k : SavedCore) (core : Nat), s.saved = [c] → c.ensemble = none → c.warps = [(0, x)] → c.cores = [k] → s.warps = [] → s.transit = [] →
     s.taking = [] → s.coreExists (dieOf core) (core % 96) = true → s.dieRuns (dieOf core) = true → s.granted c.proc core = true → (s.core core).spAlloc = [] →
     x.spwin * 2048 ≤ 2 ^ 18 → x.wait = none → (∀ b ∈ k.scratch, b.1 < x.spwin * 2048) → (k.scratch.map (·.1)).Nodup →
     x.x.length ≤ 1024 → x.k.length ≤ 4096 → (s.core core).slices = [] →
     ∃ t y, exec (.restore c.id [core]) s = .next t ∧ t.saved = [] ∧ t.warp? (warpKey core 0) = some y ∧ y.hw = x.hw ∧ y.sp = x.sp ∧ y.preds = x.preds ∧ y.owner = x.owner ∧
       y.trap = x.trap ∧ y.fp = x.fp ∧ y.mx = x.mx ∧ y.copy = x.copy ∧ y.run = x.run ∧ y.spbase = 0 ∧ y.eprio = x.prio ∧ y.wait = none ∧
       (∀ n, (y.x.get? n).map (fun r => (r.val, r.tag, r.bad, r.empty)) = (x.x.get? n).map fun r => (r.val, r.tag, r.bad, r.empty)) ∧
       (∀ n, (y.k.get? n).map (fun r => (r.val, r.tag, r.bad, r.empty)) = (x.k.get? n).map fun r => (r.val, r.tag, r.bad, r.empty)) ∧
       ∀ j, j < x.spwin * 2048 → t.byte (scratchKey core j) = ((k.scratch.find? fun b => b.1 == j).map (·.2)).getD 0)

/-! ## Pages in motion (R391 to R412) -/

/-- R397, R398, R408 to R412: the page instructions trap on a tagged base and answer their codes. `pmig` starts a migration: it takes a frame, writes the leaf
as MIGRATING and opens a slot; `pstat` and `phot` read; `pabort` ends a migration that copies. Which of several codes of `pmig` is answered is the model's
choice (log entry 87), and so is the lowest free slot (log entry 35). R411 states what `phot` reads. -/
def Obligations.PageInstructions : Prop :=
  ∀ (s : State) (x : Warp) (e : Entry) (sh : Shape) (f : Frame) (i : Instr), i ∈ [Instr.pmig f, .pstat f, .phot f, .pabort f] → Ready i s x e sh f → x.active f e ≠ 0 →
    let k := x.uni f.kb
    let a := (k.1 + f.imm.signExtend 64).toNat
    let p := x.owner.proc
    let answers := fun (t : State) (v : Nat) => exec i s = .next t ∧ ∃ y id, t.warp? s.cur = some y ∧ Gone t s.cur x y e f none ∧ KeepsRegs x y sh f ∧ y.isEmpty (.k f.kd) = true ∧
      y.results = x.results ++ [{ id := id, puts := [.k f.kd (BitVec.ofNat 64 v) false] }] ∧ (∀ w, w ≠ s.cur → t.warp? w = s.warp? w)
    let same := fun t : State => t.mem = s.mem ∧ ∀ d, ∃ ws, t.die d = { s.die d with walks := ws }
    let core := coreOf s.cur
    (k.2 = true → exec i s = .next (s.takeTrap s.cur 9 0 e.pc)) ∧
    (k.2 = false → (2 ^ 57 ≤ a ∨ ∃ c, s.walkOn core p a = .fault c) → ∃ t, same t ∧ answers t (if i = .pmig f then 6 else if i = .pstat f then 0 else if i = .phot f then 2 ^ 63 else 1)) ∧
    ∀ pte place, k.2 = false → a < 2 ^ 57 → s.walkOn core p a = .leaf pte place →
      let tier := pteTier pte
      let src := tierKey tier (ptePa pte)
      let engine := keyDie src
      let size := szBytes (pteSz pte)
      (i = .pmig f → f.vn ≤ 5 →
        let to_ := if f.vn = 4 then 1 else if f.vn = 5 then 2 else 0
        let die := if f.vn = 4 then dieOf (coreOf s.cur) / 2 * 2 else if f.vn = 5 then 0 else f.vn
        let free := s.takeFrame die (2 * to_ + if pteSz pte = 2 then 1 else 0)
        let absent := to_ ≤ 1 ∧ s.dieState die = 7
        let resets := fun d => 1 ≤ s.dieState d ∧ s.dieState d ≤ 5
        let where_ := (span place 8).map s.redirect
        (pteRd pte = false → ∃ t, same t ∧ answers t 6) ∧
        (pteRd pte = true →
          (pteSt pte ≠ 0 → ∃ t, same t ∧ answers t 3) ∧
          (pteSt pte = 0 → absent ∨ ¬ ((pteSz pte = 1 ∨ pteSz pte = 2) ∧ ptePin pte = false ∧ tier ≠ 3) → ∃ t, same t ∧ answers t 2) ∧
          (pteSt pte = 0 → (pteSz pte = 1 ∨ pteSz pte = 2) → ptePin pte = false → tier ≠ 3 → ¬ absent → resets engine ∨ (to_ ≤ 1 ∧ resets die) → ∃ t, same t ∧ answers t 3) ∧
          (pteSt pte = 0 → (pteSz pte = 1 ∨ pteSz pte = 2) → ptePin pte = false → tier ≠ 3 → ¬ absent → ¬ resets engine → ¬ (to_ ≤ 1 ∧ resets die) →
            let there := tier = to_ ∧ (to_ = 2 ∨ poolDie to_ (ptePa pte) = die)
            (there → ∃ t, same t ∧ answers t 1) ∧ (¬ there → free = none → ∃ t, same t ∧ answers t 4) ∧
            (¬ there → free ≠ none → (∀ n, n < 512 → (s.die engine).slots.get? n ≠ none) → ∃ t, same t ∧ answers t 5) ∧
            ∀ pa u n, ¬ there → free = some (pa, u) → n < 512 → (s.die engine).slots.get? n = none → (∀ j, j < n → (s.die engine).slots.get? j ≠ none) →
              (∀ c ∈ s.cores, c.2.slices = []) → where_.Nodup → ∃ t new m, answers t 0 ∧ ofBytes (where_.map t.byte) = new ∧ new = pte.toNat - pte.toNat % 2 ^ 9 + n + 2 ^ 61 ∧
                (t.die engine).slots.get? n = some m ∧ m.state = .copying ∧ m.src = src ∧ m.dst = tierKey to_ pa ∧ m.va.toNat = a / size * size ∧ m.size = size ∧
                m.ptePlace = place ∧ m.pte.toNat = new ∧ m.auto = false ∧ m.c = [] ∧ m.next = 0 ∧ (∀ j, j ∉ where_ → t.byte j = u.byte j) ∧
                (∀ b ∈ s.flights, (∃ l ∈ b.lanes, ∃ j ∈ l.keys, src ≤ j ∧ j < src + size) → (b.id, 0) ∈ m.waits) ∧ ∀ c, ∀ l ∈ (t.core c).tlb, l.asid = s.asid p → ¬ (l.vpn * 4096 < m.va.toNat + size ∧ m.va.toNat < l.vpn * 4096 + szBytes l.size)))) ∧
      (i = .pstat f → ∃ t, same t ∧ (pteRd pte = false → answers t 0) ∧ (pteRd pte = true → pteSt pte = 0 →
        answers t (2 ^ 60 * tier + 2 ^ 57 * pteSz pte + 2 ^ 56 * (ptePin pte).toNat + 2 ^ 55 + 2 ^ 44 * pteSlot pte)) ∧
        ∀ m, pteRd pte = true → pteSt pte ≠ 0 → (s.die engine).slots.get? (pteSlot pte) = some m → engine < 4 → m.c.length < 2 ^ 14 →
          answers t (2 ^ 62 * pteSt pte + 2 ^ 60 * tier + 2 ^ 57 * pteSz pte + 2 ^ 56 * (ptePin pte).toNat + 2 ^ 55 + 2 ^ 53 * engine + 2 ^ 44 * pteSlot pte +
            (if m.state = .aborting ∧ m.c ≠ [] then 2 ^ 15 else 0) + m.c.length)) ∧
      (i = .phot f → ∃ t, same t ∧ (pteRd pte = false ∨ tier = 3 → answers t (2 ^ 63)) ∧
        (pteRd pte = true → tier ≠ 3 → s.hotness.getD (leafKey pte a / 65536) 0 < 256 → answers t (s.hotness.getD (leafKey pte a / 65536) 0 + 2 ^ 8 * tier))) ∧
      (i = .pabort f →
        (pteSt pte = 0 → (∀ d ∈ s.dies, ∀ m ∈ d.2.slots, m.2.state ≠ .committing) → ∃ t, same t ∧ answers t 1) ∧
        ∀ m, pteSt pte ≠ 0 → (s.die engine).slots.get? (pteSlot pte) = some m →
          (m.state ≠ .copying → ∃ t, same t ∧ answers t 2) ∧
          (m.state = .copying → ∃ t, answers t 0 ∧ ∀ l, m.closed = false → s.readTable m.ptePlace = m.pte → (∀ j ∈ span m.ptePlace 8, s.redirect j = j) → s.sideDown m.src m.size = false → m.c = [l] → l ∈ m.wr → m.bad = [] →
            s.unreachable (m.dst + 256 * l) = false → ∃ q, (t.die engine).slots.get? (pteSlot pte) = some q ∧ q.state = .aborting ∧ q.reason = 3 ∧ q.c = [l] ∧ q.locked = [] ∧
              q.lost = [] ∧ pteSt q.pte = 2 ∧ ofBytes ((span m.ptePlace 8).map t.byte) = q.pte.toNat))

/-- R398 to R405: the engine waits for what holds a translation to the source (R235, R395), locks the lines of a migration one after another, copies each with
its poison to the destination, and commits after the last; an abort copies the written lines back; the frames and the event that a slot owes go to their rings
as these have room; the hotness counters are halved once for each 2^20 of CLOCK. -/
def Obligations.MigrationSteps : Prop :=
  (∀ (s : State) (d n : Nat) (m : MigSlot), (s.die d).slots.get? n = some m →
    let line := fun (base l : Nat) => span (base + 256 * l) 256
    (m.state ≠ .copying ∨ m.closed = true ∨ m.size / 256 ≤ m.next ∨ 8 ≤ m.locked.length ∨ (∃ u ∈ m.waits, s.stillUses u = true) → exec (.lineCopy d n) s = .next s) ∧
    (m.state = .copying → m.closed = false → (∀ u ∈ m.waits, s.stillUses u = false) → m.next < m.size / 256 → m.locked.length < 8 → s.unreachable (m.src + 256 * m.next) = false → s.unreachable (m.dst + 256 * m.next) = false →
      ∃ t q, exec (.lineCopy d n) s = .next t ∧ t = { s with dies := t.dies } ∧ (t.die d).slots.get? n = some q ∧ q = { m with locked := q.locked, next := m.next + 1 } ∧
        ∀ j, j ∈ q.locked ↔ j ∈ m.locked ∨ j = m.next) ∧
    (∀ l, m.state ≠ .copying ∨ m.closed = true ∨ l ∉ m.locked → exec (.lineFlip d n l) s = .next s) ∧
    (∀ l, m.state = .copying → m.closed = false → l ∈ m.locked → s.injecting (m.dst + 256 * l) = false → (∀ j ∈ line m.src l, j ∉ line m.dst l) →
      ∃ t, exec (.lineFlip d n l) s = .next t ∧
        (m.c.length + 1 ≠ m.size / 256 → ∃ q, (t.die d).slots.get? n = some q ∧ q.state = .copying ∧ l ∉ q.locked ∧ l ∈ q.c ∧ (∀ j ∈ m.c, j ∈ q.c) ∧
          (∀ j, j < 256 → t.byte (m.dst + 256 * l + j) = s.byte (m.src + 256 * l + j)) ∧ (∀ j, j ∉ line m.dst l → t.byte j = s.byte j) ∧
          (∀ j, j < 32 → (m.dst / 8 + 32 * l + j ∈ t.marks ↔ m.src / 8 + 32 * l + j ∈ s.marks))) ∧
        (m.c.length + 1 = m.size / 256 → s.readTable m.ptePlace = m.pte → (∀ j ∈ span m.ptePlace 8, s.redirect j = j) → (∀ c ∈ s.cores, c.2.slices = []) →
          (∀ j ∈ span m.ptePlace 8, j ∉ line m.src l ∧ j ∉ line m.dst l) →
          (∃ a ∈ s.flights, ∃ b ∈ a.lanes, m.src ∈ b.keys) → 0 < m.size →
          ∃ q, (t.die d).slots.get? n = some q ∧ q.state = .committing ∧ ofBytes ((span m.ptePlace 8).map t.byte) = q.pte.toNat ∧ pteSt q.pte = 0 ∧ pteSlot q.pte = 0 ∧
            pteTier q.pte = keyTier m.dst % 4 ∧ ptePa q.pte = keyPa m.dst / 4096 % 2 ^ 32 * 4096)) ∧
    (∀ l j c, m.c = l :: j :: c → m.state = .aborting → m.closed = false → s.sideDown m.src m.size = false → s.unreachable (m.dst + 256 * l) = false →
      (∀ e ∈ s.dies, ∀ q ∈ e.2.slots, q.2.bad = []) → s.injecting (m.src + 256 * l) = false → (∀ j ∈ line m.src l, j ∉ line m.dst l) →
      ∃ t, exec (.lineCopyBack d n) s = .next t ∧ (t.die d).slots.get? n = some { m with c := j :: c, wr := setErase m.wr l } ∧
        (∀ j, j < 256 → t.byte (m.src + 256 * l + j) = s.byte (m.dst + 256 * l + j)) ∧ ∀ j, j ∉ line m.src l → t.byte j = s.byte j) ∧
    (m.closed = true → (∃ u ∈ m.waits, s.stillUses u = true) → exec (.migrationRingRoom d n) s = .next s) ∧
    (∀ rd entry u, m.closed = true → (∀ w ∈ m.waits, s.stillUses w = false) → m.event = none → m.rets = [(rd, entry)] →
      (s.putRing rd 6 (toBytes 8 entry.toNat) = none → ∃ t, exec (.migrationRingRoom d n) s = .next t ∧ t.mem = s.mem ∧ (t.die d).slots.get? n = some m) ∧
      (s.putRing rd 6 (toBytes 8 entry.toNat) = some u → ∃ t, exec (.migrationRingRoom d n) s = .next t ∧ t.mem = u.mem ∧ (t.die d).slots.get? n = none))) ∧
  ∀ s : State, (s.hotness.map (·.1)).Nodup →
    (s.clock / 2 ^ 20 ≤ s.halvings → exec .hotnessHalving s = .next s) ∧
    (s.halvings < s.clock / 2 ^ 20 → ∃ t, exec .hotnessHalving s = .next t ∧ t = { s with halvings := s.halvings + 1, hotness := t.hotness } ∧
      ∀ r, t.hotness.getD r 0 = s.hotness.getD r 0 / 2)

/-! ## The package (R482 to R502) -/

/-- R485 to R488, R492: a doorbell latches the command block, or is ignored while a command runs; each command answers in the response block. `PCREATE`,
`PDESTROY`, `GRANT`, `SLICE` and `SETRT` act on processes; `WREG` and `RREG` on registers of a core, a cluster or a die; `MEMMAP` names the memory out of
service. That a new process takes the lowest free scope is the model's choice (log entry 35), and so are the commands and requests it takes while not ready (log
entry 37). -/
def Obligations.Mailbox : Prop :=
  (∀ (s : State) (q : W32), let word := fun o => ofBytes ((span (barKey o) 4).map s.byte)
    (s.pkg.busy = true ∨ s.mailboxUp = false → exec (.doorbell q) s = .next s) ∧
    (s.pkg.busy = false → s.mailboxUp = true →
      (1 ≤ word 0 → word 0 ≤ 9 → word 8 ≤ 4080 → exec (.doorbell q) s = .next { s with pkg := { s.pkg with
        busy := true, lastSeq := q, command := some (word 0, BitVec.ofNat 32 (word 4), (span (barKey 16) (word 8)).map s.byte) } }) ∧
      (word 0 = 0 ∨ 9 < word 0 → ∃ t, exec (.doorbell q) s = .next t ∧ Answered s t (BitVec.ofNat 32 (word 4)) 1 [] ∧ t.pkg.lastSeq = q) ∧
      (1 ≤ word 0 → word 0 ≤ 9 → 4080 < word 8 → ∃ t, exec (.doorbell q) s = .next t ∧ Answered s t (BitVec.ofNat 32 (word 4)) 2 []))) ∧
  (∀ (s : State) (i : Instr) (opc : Nat),
    (i, opc) ∈ [(Instr.pcreate, 1), (.pdestroy, 2), (.grant, 3), (.slice, 4), (.setrt, 5), (.dierst, 6), (.wreg, 7), (.rreg, 8), (.memmap, 9)] →
    ((∀ o seq b, s.pkg.command = some (o, seq, b) → o ≠ opc) → exec i s = .next s) ∧
    ∀ seq b, s.pkg.command = some (opc, seq, b) → s.pkg.ready = false → opc < 8 → ∃ t, exec i s = .next t ∧ Answered s t seq 6 []) ∧
  ∀ (s : State) (opc : Nat) (seq : W32) (b : List Byte), s.pkg.command = some (opc, seq, b) → s.pkg.ready = true →
    let p := field b 0 2
    let d := field b 2 1
    let v := word64 b 8
    let fails := fun (i : Instr) (status : Nat) => ∃ t, exec i s = .next t ∧ Answered s t seq status [] ∧ t.procs = s.procs ∧ t.scopes = s.scopes ∧ t.dies = s.dies
    (opc = 1 →
      let grwin := word64 b 16
      (1024 ≤ p ∨ 512 < grwin.toNat / 2 ^ 32 % 2 ^ 10 + grwin.toNat / 2 ^ 16 % 2 ^ 9 → fails .pcreate 2) ∧
      (p < 1024 → grwin.toNat / 2 ^ 32 % 2 ^ 10 + grwin.toNat / 2 ^ 16 % 2 ^ 9 ≤ 512 → (s.proc? p ≠ none → fails .pcreate 3) ∧
        (s.proc? p = none → (∀ n, n < 65536 → s.scopes.get? n ≠ none) → fails .pcreate 4) ∧
        ∀ n, s.proc? p = none → n < 65536 → s.scopes.get? n = none → (∀ j, j < n → s.scopes.get? j ≠ none) → (word64 b 40).getLsbD 63 = false →
          ∃ t q, exec .pcreate s = .next t ∧ Answered s t seq 0 (toBytes 2 n) ∧ t.proc? p = some q ∧ q.priv = decide (field b 2 1 % 2 = 1) ∧ q.pasid.toNat = field b 4 4 % 2 ^ 20 ∧
            q.ptbase = v &&& 0xFFFF_CFFF_FFFF_F000 ∧ q.grwin = grwin &&& 0x3FF_01FF_0000 ∧ q.detarea = word64 b 24 &&& 0x8000_01FF_01FF_0000 ∧
            q.callwin = word64 b 32 &&& 0x7FFF_FFFF_FFFF ∧ q.hostRing = word64 b 48 ∧ (∀ k, k < 4 → q.ctxarea.toList.getD k 0 = word64 b (64 + 8 * k) &&& 0x81FF_FFFF_FFFF_FFFF ∧
              q.grants.toList.getD k 0 = 0 ∧ q.tslice.toList.getD k 0 = 0) ∧ q.root = n ∧ q.queue = [] ∧
            t.scopes.get? n = some { proc := p, parent := none, depth := 0, coop := false, gen := s.generation } ∧ (∀ j, j ≠ p → t.proc? j = s.proc? j) ∧
            ∀ j, j ≠ n → t.scopes.get? j = s.scopes.get? j)) ∧
    (opc = 2 → (s.proc? p = none → fails .pdestroy 3) ∧
      ∀ q, s.proc? p = some q → q.ending = true →
        ((∃ c ∈ s.scopes, c.2.proc = p ∧ (c.2.parent ≠ none ∨ c.2.count ≠ 0)) → exec .pdestroy s = .next s) ∧
        ((∀ c ∈ s.scopes, c.2.proc = p → c.2.parent = none ∧ c.2.count = 0) → ∃ t, exec .pdestroy s = .next t ∧ Answered s t seq 0 [] ∧ t.proc? p = none ∧
          (∀ c ∈ t.scopes, c.2.proc ≠ p) ∧ ∀ j, j ≠ p → t.proc? j = s.proc? j)) ∧
    (∀ i ∈ [(Instr.grant, 3), (.slice, 4)], opc = i.2 → (s.proc? p = none → fails i.1 3) ∧ (s.proc? p ≠ none → 4 ≤ d → fails i.1 2)) ∧
    (opc = 3 → ∀ q, s.proc? p = some q → d < 4 →
      let want : BitVec 96 := BitVec.ofNat 96 (field b 8 8 + field b 16 4 * 2 ^ 64)
      ∃ t r, exec .grant s = .next t ∧ t.proc? p = some r ∧
        (∀ c, c < 96 → ((r.grants.toList.getD d 0).getLsbD c = true ↔ want.getLsbD c = true ∧ c < 4 * s.cpd ∧ ∀ u ∈ s.procs, u.1 ≠ p → (u.2.grants.toList.getD d 0).getLsbD c = false)) ∧
        (∀ k, k ≠ d → r.grants.toList.getD k 0 = q.grants.toList.getD k 0) ∧
        Answered s t seq (if r.grants.toList.getD d 0 = want then 0 else 5)
          (toBytes 8 ((r.grants.toList.getD d 0).toNat % 2 ^ 64) ++ toBytes 8 ((r.grants.toList.getD d 0).toNat / 2 ^ 64))) ∧
    (opc = 4 → ∀ q, s.proc? p = some q → d < 4 → ∃ t, exec .slice s = .next t ∧ Answered s t seq 0 [] ∧
      t.proc? p = some { q with tslice := q.tslice.set! d (v &&& 0xBFFF_FFFF_FFFF_FFFF) }) ∧
    (opc = 5 → (p = 0xFFFF → ∃ t, exec .setrt s = .next t ∧ Answered s t seq 0 [] ∧ t.runtime = none) ∧ (p ≠ 0xFFFF → s.proc? p = none → fails .setrt 3) ∧
      ∀ q, p ≠ 0xFFFF → s.proc? p = some q → (q.priv = false → fails .setrt 2) ∧
        (q.priv = true → ∃ t, exec .setrt s = .next t ∧ Answered s t seq 0 [] ∧ t.runtime = some (p, v) ∧ t.procs = s.procs)) ∧
    (opc = 7 →
      let n := field b 4 2
      let c := field b 6 2
      (4 ≤ d ∨ n ∉ [0x113, 0x114, 0x115, 0x116, 0x11B, 0x11E, 0x72] → fails .wreg 2) ∧ (n = 0x72 → (s.die d).pwrctl.getLsbD 63 = false → fails .wreg 2) ∧
      (d < 4 → (n = 0x115 → ∃ t, exec .wreg s = .next t ∧ Answered s t seq 0 [] ∧ (t.die d).migpol = v &&& 0x83FF_00FF_0000_0003) ∧
        (n = 0x116 → ∃ t, exec .wreg s = .next t ∧ Answered s t seq 0 [] ∧ (t.die d).migfrm = v &&& 0x8000_0FFF_FFFF_F000) ∧
        (n = 0x11B → v.toNat % 4 ≠ 3 → ∃ t, exec .wreg s = .next t ∧ Answered s t seq 0 [] ∧ (t.die d).errinj = v &&& 0x8000_0FFF_FFFF_FF03) ∧
        (n = 0x11E → ∃ t, exec .wreg s = .next t ∧ Answered s t seq 0 [] ∧ (t.die d).pwrctl.getLsbD 63 = v.getLsbD 63 ∧
          (t.die d).pwrctl.toNat / 2 ^ 32 % 2 ^ 16 = v.toNat / 2 ^ 32 % 2 ^ 16 ∧ (t.die d).pwrctl.toNat % 2 ^ 16 = (s.die d).pwrctl.toNat % 2 ^ 16) ∧
        (n = 0x72 → (s.die d).pwrctl.getLsbD 63 = true → s.coreExists d c = true → ∃ t, exec .wreg s = .next t ∧ Answered s t seq 0 [] ∧
          let m := (t.core (d * 96 + c)).mxbud.toNat
          m / 2 ^ 48 % 2 ^ 10 = v.toNat / 2 ^ 48 % 2 ^ 10 ∧ m / 2 ^ 16 % 2 ^ 16 = v.toNat / 2 ^ 16 % 2 ^ 16 ∧
            m / 2 ^ 32 % 2 ^ 16 = min ((s.core (d * 96 + c)).mxbud.toNat / 2 ^ 32 % 2 ^ 16) (v.toNat / 2 ^ 16 % 2 ^ 16)))) ∧
    (opc = 8 →
      let n := field b 4 2
      let core := d * 96 + field b 6 2
      let reads := fun v : W64 => ∃ t, exec .rreg s = .next t ∧ Answered s t seq 0 (toBytes 8 v.toNat)
      (4 ≤ d → fails .rreg 2) ∧ (d < 4 → (n = 0x20 → reads (BitVec.ofNat 64 s.clock)) ∧ (n = 0x17 → reads s.pkg.grade) ∧ (n = 0x11C → reads (s.die d).linkst) ∧
        (n = 0x11D → reads s.pkg.diest) ∧ (n = 0x115 → reads (s.die d).migpol) ∧ (n = 0x110 → fails .rreg 2) ∧
        (s.coreExists d (field b 6 2) = true → field b 6 2 < 96 → (n = 0x71 → reads (s.core core).contain) ∧ (n = 0x73 → reads (s.core core).chmap) ∧
          (n = 0x65 → reads (s.cluster (clusterOf core)).ccont)))) ∧
    (opc = 9 → (∀ d, d < 4 → (s.die d).linkst.toNat / 2 ^ 8 % 4 ≠ 3) →
      (s.pkg.outOfService = [] → ∃ t, exec .memmap s = .next t ∧ Answered s t seq 0 (toBytes 4 0)) ∧
      ∀ tier base size, s.pkg.outOfService = [(tier, base, size)] → ∃ t, exec .memmap s = .next t ∧
        Answered s t seq 0 (toBytes 4 1 ++ (toBytes 8 base ++ toBytes 1 tier ++ toBytes 1 (homeDie tier base) ++ toBytes 6 (size / 4096))))

/-- R494, R495: `DIERST` begins the warm reset of one die; the die goes from running through its steps back to running: quiesced, written back, in reset without
its Grotto, caches and accumulators, trained, and with its grants again; an open window of deterministic updates refuses the reset after 2^24 clk. The events
that begin and end each step are the model's (log entries 37 and 38), and so is status 6 for a die that failed its boot check (log entry 88). -/
def Obligations.WarmDieReset : Prop :=
  (∀ (s : State) (seq : W32) (b : List Byte), s.pkg.command = some (6, seq, b) → s.pkg.ready = true →
    let d := field b 2 1
    (4 ≤ d → ∃ t, exec .dierst s = .next t ∧ Answered s t seq 2 []) ∧
    (d < 4 → (∃ e, e < 4 ∧ 1 ≤ s.dieState e ∧ s.dieState e ≤ 5) → exec .dierst s = .next s) ∧
    (d < 4 → (∀ e, e < 4 → ¬ (1 ≤ s.dieState e ∧ s.dieState e ≤ 5)) → s.dieRuns d = false → ∃ t, exec .dierst s = .next t ∧ Answered s t seq 6 []) ∧
    (d < 4 → (∀ e, e < 4 → ¬ (1 ≤ s.dieState e ∧ s.dieState e ≤ 5)) → s.dieRuns d = true → s.warps = [] → s.transit = [] → (∀ e ∈ s.dies, e.2.slots = []) → (s.die d).pools = [] → (s.procs.map (·.1)).Nodup →
      ∃ t, exec .dierst s = .next t ∧ t.dieState d = 1 ∧ (∀ e, e ≠ d → e < 4 → t.dieState e = s.dieState e) ∧ (t.die d).quiesceSince = s.clock ∧ t.mem = s.mem ∧
        t.pkg.command = some (6, seq, b) ∧ t.pkg.msix = s.pkg.msix ++ [0] ∧ ∀ p q, s.proc? p = some q →
          t.proc? p = some { q with grantsHeld := q.grantsHeld.set! d (q.grants.toList.getD d 0), grants := q.grants.set! d 0 })) ∧
  ∀ (s : State) (die : Nat), die < 4 →
    let moves := fun (i : Instr) (v : Nat) => ∃ t, exec i s = .next t ∧ t.dieState die = v ∧ (∀ e, e ≠ die → e < 4 → t.dieState e = s.dieState e) ∧
      t.pkg.msix = s.pkg.msix ++ [0] ∧ t.procs = s.procs ∧ t.warps = s.warps ∧ (v ≠ 3 → t.mem = s.mem ∧ t.cores = s.cores)
    (s.dieState die = 1 → s.quiesced die = true → moves (.dieWriteBack die) 2) ∧ (s.dieState die = 1 → s.quiesced die = false → exec (.dieWriteBack die) s = .next s) ∧
    (s.dieState die = 2 → moves (.dieWriteBack die) 3 ∧ ∃ t, exec (.dieWriteBack die) s = .next t ∧
      (∀ k, t.byte k = if grottoKey die 0 ≤ k ∧ k < grottoKey die 0 + 2 ^ 25 then 0 else s.byte k) ∧
      (∀ c, t.core c = if c / 96 = die ∧ s.cores.get? c ≠ none then { s.core c with quads := ({} : Core).quads, l1 := [], slices := [], tlb := [], slots := [], slotOwner := none } else s.core c) ∧
      (t.die die).walks = [] ∧ ∀ c, t.cluster c = if c / 24 = die then { s.cluster c with tlb := [] } else s.cluster c) ∧
    (s.dieState die = 3 → moves (.dieRetraining die) 4) ∧
    (∀ i ∈ [Instr.dieWriteBack die, .dieRetraining die, .dieReadmission die], s.dieState die = 0 → exec i s = .next s) ∧
    (s.dieState die = 4 → (∀ w ∈ s.warps, w.2.wait = none ∧ w.2.log = []) → s.saved = [] → (∀ c ∈ s.cores, c.2.loadQ = [] ∧ c.2.storeQ = []) →
      ∃ t, exec (.dieReadmission die) s = .next t ∧ t.dieState die = 5 ∧ t.mem = s.mem ∧ ∀ p q, s.proc? p = some q →
        t.proc? p = some { q with grants := q.grants.set! die (q.grantsHeld.toList.getD die 0), grantsHeld := q.grantsHeld.set! die 0 }) ∧
    (∀ opc seq b, s.dieState die = 5 → s.pkg.command = some (opc, seq, b) → ∃ t, exec (.dieReadmission die) s = .next t ∧ t.dieState die = 0 ∧ Answered s t seq 0 [0]) ∧
    (∀ opc seq b h, s.dieState die = 1 → s.pkg.command = some (opc, seq, b) → h ∈ s.held → keyDie (s.redirect h.key) = die → (s.die die).quiesceSince + 2 ^ 24 ≤ s.clock →
      ∃ t, exec (.warmResetRefusal die) s = .next t ∧ t.dieState die = 6 ∧ Answered s t seq 0 [6]) ∧
    (s.dieState die ≠ 1 ∨ s.clock < (s.die die).quiesceSince + 2 ^ 24 ∨ (∀ h ∈ s.held, keyDie (s.redirect h.key) ≠ die) → exec (.warmResetRefusal die) s = .next s)

/-- R484, R490, R491, R496 to R498: the resets of the module leave nothing volatile, keep host memory, the node's number and the wear record, and a die whose
firmware fails its check is not present; `CLOCK` counts from the cold reset. A function-level reset leaves the management plane, its links and its registers.
Each message of the attestation is answered in its place of the exchange; key slots load only over a secured session. What happens outside the manual's text at
a reset is the model's choice (log entries 3 and 38), and so are the codes and the order of the messages (log entry 39), the responder's algorithms (log entry
51) and the reset of the MSI-X table by a function-level reset (log entry 72). -/
def Obligations.ResetsAndAttestation : Prop :=
  (∀ (s : State) (ok : BitVec 4) (i : Instr) (booted : BitVec 4) (clk : Nat), (i, booted, clk) ∈ [(Instr.coldReset ok, ok, 0), (.warmModuleReset, s.pkg.booted, s.clock)] →
    (∀ c ∈ s.cores, c.2.chmapNext = none) → s.pkg.wear.offs = [] → s.pkg.wear.chmap = [] → s.pkg.wear.slices = [] →
    let lost := min 4 (s.pkg.grade.toNat / 2 ^ 9 % 8)
    ∃ t, exec i s = .next t ∧ Bare t ∧ t.clock = clk ∧ t.cores = [] ∧ t.clusters = [] ∧ t.dies = [] ∧ t.nodeid = s.nodeid ∧ t.pkg.wear = s.pkg.wear ∧ t.pkg.booted = booted ∧ t.pkg.ready = false ∧
      t.pkg.spdm = .idle ∧ t.pkg.keySlots = [] ∧ t.pkg.outOfService = [] ∧ t.pkg.cxlLost = [] ∧ t.pkg.gone = s.pkg.wear.retired ∧ t.cpd = 24 - lost ∧
      (∀ d, d < 4 → t.dieState d = if booted.getLsbD d then 0 else 7) ∧ (Mem.wf s.mem = true → ∀ k, t.byte k = if isHost k then s.byte k else 0)) ∧
  (∀ s : State, ∃ t, exec .functionLevelReset s = .next t ∧ Bare t ∧ t.pkg = { s.pkg with table := [], pending := [] } ∧ t.nodeid = s.nodeid ∧ t.routes = s.routes ∧
    (∀ c, (t.core c).chmap = (s.core c).chmap ∧ (t.core c).contain = (s.core c).contain ∧ (t.core c).gband = (s.core c).gband ∧
      let old := (s.core c).mxbud.toNat
      let new := (t.core c).mxbud.toNat
      new / 2 ^ 48 = old / 2 ^ 48 ∧ new / 2 ^ 16 % 2 ^ 16 = old / 2 ^ 16 % 2 ^ 16 ∧ new / 2 ^ 32 % 2 ^ 16 = min 0x1000 (old / 2 ^ 16 % 2 ^ 16) ∧ new % 2 ^ 16 = 0) ∧
    (∀ c, (t.cluster c).ccont = (s.cluster c).ccont) ∧ (∀ d, (t.die d).linkst = (s.die d).linkst ∧ (t.die d).pwrctl = (s.die d).pwrctl) ∧
    (Mem.wf s.mem = true → ∀ k, t.byte k = if isHost k ∨ barKey 0 ≤ k then s.byte k else 0)) ∧
  (∀ s : State, s.pkg.booted.getLsbD 0 = true →
    let here := s.pkg.spdm
    let agreed := here = .negotiated ∨ here = .digests ∨ here = .exchanged ∨ here = .secured
    let answers := fun (i : Instr) (n : Spdm) (c : W64) => ∃ t, exec i s = .next t ∧ t = { s with pkg := { s.pkg with spdm := n, spdmOut := t.pkg.spdmOut }, draws := t.draws } ∧
      t.pkg.spdmOut.head? = some c
    answers .getVersion .version 0x04 ∧ (here = .version → answers .getCapabilities .capabilities 0x61) ∧ (here = .capabilities → answers .negotiateAlgorithms .negotiated 0x63) ∧
    (agreed → answers .getDigests (if here = .negotiated then .digests else here) 0x01 ∧ answers .getCertificate here 0x02 ∧ answers .challenge here 0x03 ∧ answers .getMeasurements here 0x60 ∧
      ∃ t l r, exec .getMeasurements s = .next t ∧ t.pkg.spdmOut = l ++ [3, s.pkg.grade] ++ r) ∧
    (here = .negotiated ∨ here = .digests → answers .keyExchange .exchanged 0x64) ∧ (here = .exchanged → answers (.finish true) .secured 0x65 ∧ answers (.finish false) .negotiated 0x7F) ∧
    (¬ agreed → ∀ i ∈ [Instr.getDigests, .getCertificate, .challenge, .getMeasurements, .keyExchange, .finish true, .finish false], answers i here 0x7F)) ∧
  ∀ (s : State) (slot : Nat) (procs : List Nat),
    (s.pkg.spdm = .secured → 1 ≤ slot → slot < 2048 → ∃ t, exec (.keySlotLoad slot procs) s = .next t ∧ t = { s with pkg := { s.pkg with keySlots := t.pkg.keySlots } } ∧
      ∀ j, t.pkg.keySlots.get? j = if j = slot then some procs else s.pkg.keySlots.get? j) ∧
    (s.pkg.spdm = .secured → ∃ t, exec (.keySlotUnload slot) s = .next t ∧ t = { s with pkg := { s.pkg with keySlots := t.pkg.keySlots } } ∧
      ∀ j, t.pkg.keySlots.get? j = if j = slot then none else s.pkg.keySlots.get? j) ∧
    (s.pkg.spdm ≠ .secured → exec (.keySlotLoad slot procs) s = .next s ∧ exec (.keySlotUnload slot) s = .next s) ∧
    (slot = 0 ∨ 2048 ≤ slot → exec (.keySlotLoad slot procs) s = .next s)

/-- R478, R482, R483, R489, R492, R493: a link trains after the links of the steps before it, and the device is ready once the sixth step is over; a later
change of a link's state, a CXL port that goes down or trains again, and memory that leaves service, by a channel, a stack or a die's LPDDR6, are written to
`LINKST` and `MEMMAP`, and the host is told; a lost port and a failed memory do not come back. When each of these happens is the model's choice (log entries 3
and 38), and so are the ranges of a stack (log entry 18). R243, R244, R478, R498 to R502: a sample raises the guard band of a core whose margin is small; an
array that is worn, or whose count has been 15 in three windows in a row, takes a spare, and the map of its core changes while no matrix warp uses it; repaired
lanes are counted up to the spares (log entry 75); the power budget moves REFILL by 16 between its bounds. -/
def Obligations.LinksWearAndPower : Prop :=
  (∀ (s : State) (die : Nat), die < 4 → (∀ e ∈ s.dies, e.2.slots = []) →
     let told := fun t : State => t.pkg.msix = s.pkg.msix ++ [0] ∧ t.warps = s.warps ∧ t.procs = s.procs
     let code := fun (t : State) (b : Nat) => (t.die die).linkst.toNat / 2 ^ b % 4
     (∀ (l : Link) (port : Nat) (v : BitVec 2) (b : Nat), linkBit die l port = some b →
       let memory := v = 3 ∧ (l = .hbm ∨ l = .lp)
       let ranges := if l = .hbm then Config.hbmRanges die port else []
       let after := fun (t : State) (n : Nat) => code t b = v.toNat ∧ t.warps = s.warps ∧ t.procs = s.procs ∧ (¬ memory → t.mem = s.mem ∧ t.pkg.outOfService = s.pkg.outOfService) ∧
         (memory → t.pkg.outOfService = s.pkg.outOfService ++ ranges.map (fun r => (0, r.1, r.2)) ∧ ((l = .lp ∨ ranges ≠ []) → ∀ c, (t.core c).l1 = []) ∧
           ∀ k, t.byte k = if ranges.any (fun r => tierKey 0 r.1 ≤ k && k < tierKey 0 r.1 + r.2) ∨ (l = .lp ∧ 2 ^ 44 ≤ k ∧ k < 2 * 2 ^ 44 ∧ keyDie k = die) then 0 else s.byte k) ∧
         t.pkg.msix = s.pkg.msix ++ List.replicate (n + if memory then (if l = .lp then 1 else ranges.length) else 0) 0
       (s.pkg.booted.getLsbD die = true → code s b < 2 → v ≠ 0 → s.trainedBefore (linkRank l) = true → (linkRank l ≤ 6 ∨ s.pkg.ready = true) → s.portLost die l = false →
         ∃ t, exec (.linkTraining die l port v) s = .next t ∧ (t.pkg.ready = true ↔ s.pkg.ready = true ∨ (t.trainedBefore 6 && t.gradeReached) = true) ∧
           after t (if t.pkg.ready = s.pkg.ready then 1 else 2)) ∧
       (s.pkg.booted.getLsbD die = false ∨ 2 ≤ code s b ∨ v = 0 ∨ s.trainedBefore (linkRank l) = false ∨ s.portLost die l = true → exec (.linkTraining die l port v) s = .next s) ∧
       (s.pkg.booted.getLsbD die = true → s.pkg.ready = true → code s b ≠ v.toNat → ¬ (code s b = 3 ∧ (l = .hbm ∨ l = .lp)) → s.portLost die l = false →
         ∃ t, exec (.linkStateChange die l port v) s = .next t ∧ after t 1 ∧ ∀ k, k ≠ die → t.die k = s.die k) ∧
       (s.pkg.ready = false ∨ code s b = v.toNat ∨ (code s b = 3 ∧ (l = .hbm ∨ l = .lp)) ∨ s.portLost die l = true → exec (.linkStateChange die l port v) s = .next s)) ∧
     (∀ lost, ∃ t, exec (.cxlPortDown die lost) s = .next t ∧ code t 18 = 0 ∧ told t ∧ t.mem = s.mem ∧ ∀ d, d ∈ t.pkg.cxlLost ↔ d ∈ s.pkg.cxlLost ∨ (lost = true ∧ d = die)) ∧
     (code s 18 ≠ 2 → die ∉ s.pkg.cxlLost → ∃ t, exec (.cxlPortRetrain die) s = .next t ∧ code t 18 = 2 ∧ told t ∧ t.mem = s.mem) ∧
     (code s 18 = 2 ∨ die ∈ s.pkg.cxlLost → exec (.cxlPortRetrain die) s = .next s) ∧
     ∀ tier base size, (tier < 2 → ∃ t, exec (.memoryOutOfService tier base size) s = .next t ∧ told t ∧ t.pkg.outOfService = s.pkg.outOfService ++ [(tier, base, size)] ∧
         (∀ k, t.byte k = if tierKey tier base ≤ k ∧ k < tierKey tier base + size then 0 else s.byte k) ∧
         ∀ pa, base ≤ pa → pa < base + size → pa < 2 ^ 44 → s.homeFault (tierKey tier pa) = none → t.homeFault (tierKey tier pa) = some 8) ∧
       (2 ≤ tier → exec (.memoryOutOfService tier base size) s = .next s)) ∧
  ((∀ (s : State) (core : Nat) (margin : BitVec 8) (worn : Option (Fin 12)), s.coreExists (dieOf core) (core % 96) = true →
     let c := s.core core
     let offs := c.gband.toNat % 64
     (worn = none → ∃ t, exec (.guardBandSample core margin worn) s = .next t ∧ t.mem = s.mem ∧ t.warps = s.warps ∧ (t.core core).chmap = c.chmap ∧
       (t.core core).gband.toNat / 2 ^ 16 % 2 ^ 8 = margin.toNat ∧
       (margin.toNat < 8 → offs < 63 → (t.core core).gband.toNat % 64 = offs + 1 ∧ t.pkg.msix = s.pkg.msix ++ [0] ∧ t.pkg.wear.seq = s.pkg.wear.seq + 1 ∧
         t.pkg.wear.offs.get? (s.physCore core) = some (offs + 1)) ∧
       (8 ≤ margin.toNat ∨ offs = 63 → (t.core core).gband.toNat % 64 = offs ∧ t.pkg = s.pkg)) ∧
     ∀ (a : Fin 12) (n : Nat), worn = some a → channelOf c.chmap a.val = some n → c.chmapNext = none → (margin.toNat < 8 ∧ offs = 63) ∨ (c.contain.toNat / 2 ^ (4 * n) % 16 = 15 ∧ c.full.get? n = some (s.clock / 2 ^ 30 - 1, 2) ∧ 2 ^ 30 ≤ s.clock) →
       c.chmap.toNat / 2 ^ 40 % 16 ≠ 15 → ∃ t m, exec (.guardBandSample core margin worn) s = .next t ∧ (t.core core).chmap = c.chmap ∧ (t.core core).chmapNext = some m ∧
         m.toNat / 2 ^ (4 * n) % 16 = c.chmap.toNat / 2 ^ 40 % 16 ∧ m.toNat / 2 ^ 40 % 16 = c.chmap.toNat / 2 ^ 44 % 16 ∧ m.toNat / 2 ^ 44 % 16 = 15 ∧ m.getLsbD (48 + a.val) = true ∧
         (∀ j, j < 10 → j ≠ n → m.toNat / 2 ^ (4 * j) % 16 = c.chmap.toNat / 2 ^ (4 * j) % 16)) ∧
   (∀ (s : State) (core : Nat) (m : W64), (s.core core).chmapNext = some m →
     ((∃ w ∈ s.warps, coreOf w.1 = core ∧ w.2.role = 1) → exec (.chmapChange core) s = .next s) ∧
     ((∀ w ∈ s.warps, coreOf w.1 = core → w.2.role ≠ 1) → s.saved = [] → ∃ t, exec (.chmapChange core) s = .next t ∧ t.mem = s.mem ∧ t.warps = s.warps ∧
       t.core core = { s.core core with chmap := m, chmapNext := none } ∧ t.spareOf core = (if m.toNat / 2 ^ 40 % 16 = 15 then 0 else 1) + (if m.toNat / 2 ^ 44 % 16 = 15 then 0 else 1) ∧
       (t.cluster (clusterOf core)).ccont.getLsbD (8 * (core % 4) + 5) = false ∧ t.pkg.msix = s.pkg.msix ++ [0])) ∧
   (∀ (s : State) (channel die port : Nat),
     (channel < 512 → ∃ t, exec (.hbmLaneRepair channel) s = .next t ∧ t = { s with pkg := t.pkg } ∧ t.pkg.msix = s.pkg.msix ++ [0] ∧
       if Config.hbmSpares channel ≤ s.pkg.wear.lanes.getD channel 0 then t.pkg.wear = s.pkg.wear ∧ channel ∈ t.pkg.service
       else t.pkg.wear.lanes.get? channel = some (min 255 (s.pkg.wear.lanes.getD channel 0 + 1)) ∧ t.pkg.service = s.pkg.service) ∧
     (die < 4 → port < 3 → ∃ t, exec (.leneoLaneRepair die port) s = .next t ∧ t = { s with pkg := t.pkg } ∧ t.pkg.msix = s.pkg.msix ∧
       t.pkg.repairs.get? (3 * die + port) = some (s.pkg.repairs.getD (3 * die + port) 0 + 1))) ∧
   ∀ (s : State) (die : Nat) (pwr : BitVec 16), die < 4 →
     let diew := (s.die die).pwrctl.toNat / 2 ^ 32 % 2 ^ 16
     ∃ t, exec (.powerBudgetAdjust die pwr) s = .next t ∧ t.mem = s.mem ∧ t.warps = s.warps ∧ (t.die die).pwrctl.toNat % 2 ^ 16 = pwr.toNat ∧
       ((s.die die).pwrctl.getLsbD 63 = true → t.cores = s.cores) ∧
       ((s.die die).pwrctl.getLsbD 63 = false → ∀ c, s.coreExists die c = true → c < 96 →
         let r := (s.core (die * 96 + c)).mxbud.toNat / 2 ^ 48 % 2 ^ 10
         (t.core (die * 96 + c)).mxbud.toNat / 2 ^ 48 % 2 ^ 10 = if diew < pwr.toNat then (if r ≤ 64 then r else max 64 (r - 16))
           else if pwr.toNat * 100 < diew * 95 ∧ r < 320 then min 320 (r + 16) else r))

/-! ## The fabric and the host (R183, R364, R485, R504 to R514) -/

/-- R507, R508, R514: a request of another node is answered by the process of its job: what it names is read, written or updated at its home, poison is answered
as such, and a request for no job, or an atomic from beyond the pod, is refused; a release at `.cl` or wider empties the promotion record of its line, and an
`.rp` acquire is answered once the cores in that record owe no write (R511); a number whose pod exceeds 767 names no node (R503). A remote access without a
response for 2^24 clk fails with code 7, and what the other node resolves is retried or given up here. R183, R364, R485, R486: the host writes its own memory,
device memory that a process maps for writing, and the command block while the mailbox answers; it reads device memory, the mirrors of BAR0 (DOORBELL as last
written, log entry 76) and the MSI-X table, whose entry it writes: one that is pending and no longer masked sends its message (log entry 72, the bus's rule and
not the spec's); a write to a deposit page that is no deposit is answered as unsupported (R416). -/
def Obligations.FabricAndHost : Prop :=
  ((∀ (s : State) (r : RemoteReq) (p : Nat) (q : Proc) (pte : W64) (place : Nat) (k : Nat), s.procs = [(p, q)] → k = s.nextId →
     let answers := fun (t : State) (code : Nat) (bs : List Byte) => exec (.remoteRequest r) s = .next t ∧ t.incoming.get? k = some { req := r, answer := some (code, bs) }
     (768 ≤ r.node.toNat / 1024 ∨ 20 ≤ r.port → exec (.remoteRequest r) s = .next s) ∧ (r.node.toNat / 1024 < 768 → r.port < 20 → s.portBusy k r = false →
     let job := q.fjob.getLsbD 63 = true ∧ q.fjob.setWidth 32 = r.job
     (¬ job → ∃ t, answers t 2 [] ∧ t.mem = s.mem) ∧
     (job → (∃ a w d n, r.kind = .atomic a w d n) → r.node.toNat / 1024 ≠ s.nodeid.toNat / 1024 → ∃ t, answers t 2 [] ∧ t.mem = s.mem) ∧
     (job → Quiet s → s.walk p r.va.toNat = .leaf pte place → pteTier pte ≠ 3 →
       let n := match r.kind with | .atomic _ wide _ _ => if wide then 8 else 4 | .write data _ => data.length | .read => r.bytes
       let keys := span (leafKey pte r.va.toNat) n
       let promoted := s.promotions.getD (leafKey pte r.va.toNat / 256) []
       (∀ j ∈ keys, s.homeFault j = none) → s.portsOpen keys (5 + r.port) = true →
       (r.kind = .read → pteRd pte = true → r.rp = true → 0 < n → s.anyMarked keys = false → (promoted.filter fun c => s.coreOwes c (k + 1)) ≠ [] →
         ∃ t, exec (.remoteRequest r) s = .next t ∧ t.mem = s.mem ∧ t.incoming.get? k =
           some { req := r, result := some (0, keys.map s.byte), owed := promoted.filter fun c => s.coreOwes c (k + 1), upto := k + 1 }) ∧
       ((r.rp = true → 0 < n ∧ ∀ c ∈ promoted, s.coreOwes c (k + 1) = false) →
       (r.kind = .read → pteRd pte = true → ∃ t, t.mem = s.mem ∧ if s.anyMarked keys then answers t 4 [] else answers t 0 (keys.map s.byte)) ∧
       (∀ data tag, r.kind = .write data tag → pteWr pte = true → ∃ t, answers t 0 [] ∧ (tag = false → keys.map t.byte = data) ∧
         (tag = true → ∀ j ∈ keys, t.marked j = true) ∧ (∀ j, j ∉ keys → t.byte j = s.byte j) ∧
         ∀ c, r.rel = some c → 2 ≤ c → 0 < n → t.promotions.get? (leafKey pte r.va.toNat / 256) = none) ∧
       (∀ aop wide d m, r.kind = .atomic aop wide d m → r.node.toNat / 1024 = s.nodeid.toNat / 1024 → permits 2 pte = true →
         (s.anyMarked keys = true → ∃ t, answers t 4 [] ∧ t.mem = s.mem) ∧
         (s.anyMarked keys = false → ∃ t, answers t 0 (keys.map s.byte) ∧
           keys.map t.byte = toBytes n (atomicNew aop n (ofBytes (keys.map s.byte)) (d.toNat % 2 ^ (8 * n)) (m.toNat % 2 ^ (8 * n))) ∧ ∀ j, j ∉ keys → t.byte j = s.byte j)))))) ∧
   (∀ (s : State) (k : Nat) (a : Access), s.flight? k = some a →
     let far := a.todo.filter fun l => l.node.isSome
     (far = [] ∨ s.clock < a.issuedAt + 2 ^ 24 → exec (.nodeUnreachable k) s = .next s) ∧
     (far ≠ [] → a.issuedAt + 2 ^ 24 ≤ s.clock → exec (.nodeUnreachable k) s = .next (s.settle { a with failed := a.failed ++ far.map fun l => (l.lane, 7) }))) ∧
   ∀ (s : State) (w n : Nat) (x : Warp) (e : LogEntry) (giveup : Bool), s.warps = [(w, x)] → x.log = [(n, e)] → e.remote = true → e.state = .pending → s.saved = [] →
     (∀ c ∈ s.cores, c.2.loadQ = [] ∧ c.2.storeQ = []) →
     exec (.remoteFaultResolution e.acc.id giveup) s = .next { s with nextId := s.nextId + 1, warps := [(w, { x with log := [(n,
       if giveup then { e with state := .failed, raised := false, record := none, remote := false } else { e with state := .queued, order := s.nextId, record := none, remote := false })] })] }) ∧
  (∀ s : State,
     (∀ iova data, iova + data.length ≤ 2 ^ 64 → ∃ t, exec (.hostAccess (.writeHost iova data)) s = .next t ∧ (span (hostKey iova) data.length).map t.byte = data ∧
       (∀ k, k ∉ span (hostKey iova) data.length → t.byte k = s.byte k) ∧ t = { s with mem := t.mem, marks := t.marks }) ∧
     (∀ o data, o + data.length ≤ 4096 → s.mailboxUp = true → ∃ t, exec (.hostAccess (.writeCommand o data)) s = .next t ∧ t = { s with mem := t.mem } ∧
       (span (barKey o) data.length).map t.byte = data ∧ ∀ k, k ∉ span (barKey o) data.length → t.byte k = s.byte k) ∧
     (∀ o data, 4096 < o + data.length ∨ s.mailboxUp = false → exec (.hostAccess (.writeCommand o data)) s = .next s) ∧
     (∀ p va n ks, s.virtKeys p va.toNat n 0 = some ks →
       ((∀ j ∈ ks, s.homeFault j = none) → ∃ t, exec (.hostAccess (.readGlobal p va n)) s = .next t ∧
         t = { s with uses := t.uses, pkg := { s.pkg with read := ks.map s.byte } }) ∧
       ((∃ j ∈ ks, s.homeFault j ≠ none) → exec (.hostAccess (.readGlobal p va n)) s = .next s)) ∧
     (∀ p o data, p < 1024 → exec (.hostAccess (.writeDeposit p o data)) s = .next { s with pkg := { s.pkg with completion := 2 } }) ∧
     (∀ o n, ∃ bs, exec (.hostAccess (.readBar0 o n)) s = .next { s with pkg := { s.pkg with read := bs } } ∧ bs.length = n ∧
       (∀ j, j < n → o + j < 0x2000 → bs[j]? = some (s.byte (barKey (o + j)))) ∧
       ∀ at_ value, (at_, value) ∈ ([(0x2000, s.pkg.lastSeq.setWidth 64), (0x2004, BitVec.ofNat 64 s.pkg.busy.toNat), (0x3000, s.pkg.diest.setWidth 64),
           (0x3008, s.pkg.grade.setWidth 64), (0x3010, (s.die 0).linkst), (0x3018, (s.die 1).linkst), (0x3020, (s.die 2).linkst), (0x3028, (s.die 3).linkst)]
           : List (Nat × W64)) → ∀ i j, i < (if at_ < 0x3000 then 4 else 8) → j < n → o + j = at_ + i → bs[j]? = some (BitVec.ofNat 8 (value.toNat / 256 ^ i))) ∧
     (∀ e addr data masked, let entry : MsixEntry := { addr := addr, data := data, masked := masked }
       (1088 ≤ e → exec (.hostAccess (.writeMsix e addr data masked)) s = .next s) ∧
       (e < 1088 → (∃ t, exec (.hostAccess (.writeMsix e addr data masked)) s = .next t ∧ let table := s.pkg.table.set e entry
         t = if masked = false ∧ e ∈ s.pkg.pending then
           { s with pkg := { s.pkg with table := table, pending := setErase s.pkg.pending e, messages := s.pkg.messages ++ [(addr, data)] } }
         else { s with pkg := { s.pkg with table := table } }) ∧
         let m := s.pkg.table.getD e {}
         exec (.hostAccess (.readMsix e)) s =
           .next { s with pkg := { s.pkg with read := toBytes 8 m.addr.toNat ++ toBytes 4 m.data.toNat ++ toBytes 4 m.masked.toNat } })) ∧
     (∃ bs, exec (.hostAccess .readPending) s = .next { s with pkg := { s.pkg with read := bs } } ∧ bs.length = 136 ∧
       ∀ v, v < 1088 → ((bs.getD (v / 8) 0).getLsbD (v % 8) = true ↔ v ∈ s.pkg.pending)) ∧
     ∀ p va data ks, s.virtKeys p va.toNat data.length 1 = some ks → ks.Nodup → Quiet s → (∀ k ∈ ks, s.homeFault k = none) →
       ∃ t, exec (.hostAccess (.writeGlobal p va data)) s = .next t ∧ ks.map t.byte = data ∧ (∀ k, k ∉ ks → t.byte k = s.byte k) ∧ t.warps = s.warps)
end

