-- ==== Sys2Proof/Laws/State.lean ====
section
/-! SUPPORT. One lemma per field of State and update: what each named update of the state leaves unchanged. -/

namespace Sys2Proof.Machine

@[simp] theorem State.setWarp_warps (s : State) (w : Nat) (x : Warp) : (s.setWarp w x).warps = s.warps.set w x := rfl
/-! ### setWarp -/

@[simp] theorem State.setWarp_clock (s : State) (w : Nat) (x : Warp) : (s.setWarp w x).clock = s.clock := rfl
@[simp] theorem State.setWarp_mem (s : State) (w : Nat) (x : Warp) : (s.setWarp w x).mem = s.mem := rfl
@[simp] theorem State.setWarp_marks (s : State) (w : Nat) (x : Warp) : (s.setWarp w x).marks = s.marks := rfl
@[simp] theorem State.setWarp_cores (s : State) (w : Nat) (x : Warp) : (s.setWarp w x).cores = s.cores := rfl
@[simp] theorem State.setWarp_clusters (s : State) (w : Nat) (x : Warp) : (s.setWarp w x).clusters = s.clusters := rfl
@[simp] theorem State.setWarp_dies (s : State) (w : Nat) (x : Warp) : (s.setWarp w x).dies = s.dies := rfl
@[simp] theorem State.setWarp_procs (s : State) (w : Nat) (x : Warp) : (s.setWarp w x).procs = s.procs := rfl
@[simp] theorem State.setWarp_scopes (s : State) (w : Nat) (x : Warp) : (s.setWarp w x).scopes = s.scopes := rfl
@[simp] theorem State.setWarp_generation (s : State) (w : Nat) (x : Warp) : (s.setWarp w x).generation = s.generation := rfl
@[simp] theorem State.setWarp_ensembles (s : State) (w : Nat) (x : Warp) : (s.setWarp w x).ensembles = s.ensembles := rfl
@[simp] theorem State.setWarp_flights (s : State) (w : Nat) (x : Warp) : (s.setWarp w x).flights = s.flights := rfl
@[simp] theorem State.setWarp_held (s : State) (w : Nat) (x : Warp) : (s.setWarp w x).held = s.held := rfl
@[simp] theorem State.setWarp_saved (s : State) (w : Nat) (x : Warp) : (s.setWarp w x).saved = s.saved := rfl
@[simp] theorem State.setWarp_saving (s : State) (w : Nat) (x : Warp) : (s.setWarp w x).saving = s.saving := rfl
@[simp] theorem State.setWarp_transit (s : State) (w : Nat) (x : Warp) : (s.setWarp w x).transit = s.transit := rfl
@[simp] theorem State.setWarp_taking (s : State) (w : Nat) (x : Warp) : (s.setWarp w x).taking = s.taking := rfl
@[simp] theorem State.setWarp_notices (s : State) (w : Nat) (x : Warp) : (s.setWarp w x).notices = s.notices := rfl
@[simp] theorem State.setWarp_runtime (s : State) (w : Nat) (x : Warp) : (s.setWarp w x).runtime = s.runtime := rfl
@[simp] theorem State.setWarp_hotness (s : State) (w : Nat) (x : Warp) : (s.setWarp w x).hotness = s.hotness := rfl
@[simp] theorem State.setWarp_halvings (s : State) (w : Nat) (x : Warp) : (s.setWarp w x).halvings = s.halvings := rfl
@[simp] theorem State.setWarp_samples (s : State) (w : Nat) (x : Warp) : (s.setWarp w x).samples = s.samples := rfl
@[simp] theorem State.setWarp_promotions (s : State) (w : Nat) (x : Warp) : (s.setWarp w x).promotions = s.promotions := rfl
@[simp] theorem State.setWarp_workSeq (s : State) (w : Nat) (x : Warp) : (s.setWarp w x).workSeq = s.workSeq := rfl
@[simp] theorem State.setWarp_pkg (s : State) (w : Nat) (x : Warp) : (s.setWarp w x).pkg = s.pkg := rfl
@[simp] theorem State.setWarp_nodeid (s : State) (w : Nat) (x : Warp) : (s.setWarp w x).nodeid = s.nodeid := rfl
@[simp] theorem State.setWarp_routes (s : State) (w : Nat) (x : Warp) : (s.setWarp w x).routes = s.routes := rfl
@[simp] theorem State.setWarp_incoming (s : State) (w : Nat) (x : Warp) : (s.setWarp w x).incoming = s.incoming := rfl
@[simp] theorem State.setWarp_agenda (s : State) (w : Nat) (x : Warp) : (s.setWarp w x).agenda = s.agenda := rfl
@[simp] theorem State.setWarp_cur (s : State) (w : Nat) (x : Warp) : (s.setWarp w x).cur = s.cur := rfl
@[simp] theorem State.setWarp_draws (s : State) (w : Nat) (x : Warp) : (s.setWarp w x).draws = s.draws := rfl
@[simp] theorem State.setWarp_nextId (s : State) (w : Nat) (x : Warp) : (s.setWarp w x).nextId = s.nextId := rfl
@[simp] theorem State.setWarp_uses (s : State) (w : Nat) (x : Warp) : (s.setWarp w x).uses = s.uses := rfl
@[simp] theorem State.setWarp_ports (s : State) (w : Nat) (x : Warp) : (s.setWarp w x).ports = s.ports := rfl

/-! ### modWarp -/

@[simp] theorem State.modWarp_clock (s : State) (w : Nat) (g : Warp → Warp) : (s.modWarp w g).clock = s.clock := by unfold State.modWarp; split <;> rfl
@[simp] theorem State.modWarp_mem (s : State) (w : Nat) (g : Warp → Warp) : (s.modWarp w g).mem = s.mem := by unfold State.modWarp; split <;> rfl
@[simp] theorem State.modWarp_marks (s : State) (w : Nat) (g : Warp → Warp) : (s.modWarp w g).marks = s.marks := by unfold State.modWarp; split <;> rfl
@[simp] theorem State.modWarp_cores (s : State) (w : Nat) (g : Warp → Warp) : (s.modWarp w g).cores = s.cores := by unfold State.modWarp; split <;> rfl
@[simp] theorem State.modWarp_clusters (s : State) (w : Nat) (g : Warp → Warp) : (s.modWarp w g).clusters = s.clusters := by unfold State.modWarp; split <;> rfl
@[simp] theorem State.modWarp_dies (s : State) (w : Nat) (g : Warp → Warp) : (s.modWarp w g).dies = s.dies := by unfold State.modWarp; split <;> rfl
@[simp] theorem State.modWarp_procs (s : State) (w : Nat) (g : Warp → Warp) : (s.modWarp w g).procs = s.procs := by unfold State.modWarp; split <;> rfl
@[simp] theorem State.modWarp_scopes (s : State) (w : Nat) (g : Warp → Warp) : (s.modWarp w g).scopes = s.scopes := by unfold State.modWarp; split <;> rfl
@[simp] theorem State.modWarp_generation (s : State) (w : Nat) (g : Warp → Warp) : (s.modWarp w g).generation = s.generation := by unfold State.modWarp; split <;> rfl
@[simp] theorem State.modWarp_ensembles (s : State) (w : Nat) (g : Warp → Warp) : (s.modWarp w g).ensembles = s.ensembles := by unfold State.modWarp; split <;> rfl
@[simp] theorem State.modWarp_flights (s : State) (w : Nat) (g : Warp → Warp) : (s.modWarp w g).flights = s.flights := by unfold State.modWarp; split <;> rfl
@[simp] theorem State.modWarp_held (s : State) (w : Nat) (g : Warp → Warp) : (s.modWarp w g).held = s.held := by unfold State.modWarp; split <;> rfl
@[simp] theorem State.modWarp_saved (s : State) (w : Nat) (g : Warp → Warp) : (s.modWarp w g).saved = s.saved := by unfold State.modWarp; split <;> rfl
@[simp] theorem State.modWarp_saving (s : State) (w : Nat) (g : Warp → Warp) : (s.modWarp w g).saving = s.saving := by unfold State.modWarp; split <;> rfl
@[simp] theorem State.modWarp_transit (s : State) (w : Nat) (g : Warp → Warp) : (s.modWarp w g).transit = s.transit := by unfold State.modWarp; split <;> rfl
@[simp] theorem State.modWarp_taking (s : State) (w : Nat) (g : Warp → Warp) : (s.modWarp w g).taking = s.taking := by unfold State.modWarp; split <;> rfl
@[simp] theorem State.modWarp_notices (s : State) (w : Nat) (g : Warp → Warp) : (s.modWarp w g).notices = s.notices := by unfold State.modWarp; split <;> rfl
@[simp] theorem State.modWarp_runtime (s : State) (w : Nat) (g : Warp → Warp) : (s.modWarp w g).runtime = s.runtime := by unfold State.modWarp; split <;> rfl
@[simp] theorem State.modWarp_hotness (s : State) (w : Nat) (g : Warp → Warp) : (s.modWarp w g).hotness = s.hotness := by unfold State.modWarp; split <;> rfl
@[simp] theorem State.modWarp_halvings (s : State) (w : Nat) (g : Warp → Warp) : (s.modWarp w g).halvings = s.halvings := by unfold State.modWarp; split <;> rfl
@[simp] theorem State.modWarp_samples (s : State) (w : Nat) (g : Warp → Warp) : (s.modWarp w g).samples = s.samples := by unfold State.modWarp; split <;> rfl
@[simp] theorem State.modWarp_promotions (s : State) (w : Nat) (g : Warp → Warp) : (s.modWarp w g).promotions = s.promotions := by unfold State.modWarp; split <;> rfl
@[simp] theorem State.modWarp_workSeq (s : State) (w : Nat) (g : Warp → Warp) : (s.modWarp w g).workSeq = s.workSeq := by unfold State.modWarp; split <;> rfl
@[simp] theorem State.modWarp_pkg (s : State) (w : Nat) (g : Warp → Warp) : (s.modWarp w g).pkg = s.pkg := by unfold State.modWarp; split <;> rfl
@[simp] theorem State.modWarp_nodeid (s : State) (w : Nat) (g : Warp → Warp) : (s.modWarp w g).nodeid = s.nodeid := by unfold State.modWarp; split <;> rfl
@[simp] theorem State.modWarp_routes (s : State) (w : Nat) (g : Warp → Warp) : (s.modWarp w g).routes = s.routes := by unfold State.modWarp; split <;> rfl
@[simp] theorem State.modWarp_incoming (s : State) (w : Nat) (g : Warp → Warp) : (s.modWarp w g).incoming = s.incoming := by unfold State.modWarp; split <;> rfl
@[simp] theorem State.modWarp_agenda (s : State) (w : Nat) (g : Warp → Warp) : (s.modWarp w g).agenda = s.agenda := by unfold State.modWarp; split <;> rfl
@[simp] theorem State.modWarp_cur (s : State) (w : Nat) (g : Warp → Warp) : (s.modWarp w g).cur = s.cur := by unfold State.modWarp; split <;> rfl
@[simp] theorem State.modWarp_draws (s : State) (w : Nat) (g : Warp → Warp) : (s.modWarp w g).draws = s.draws := by unfold State.modWarp; split <;> rfl
@[simp] theorem State.modWarp_nextId (s : State) (w : Nat) (g : Warp → Warp) : (s.modWarp w g).nextId = s.nextId := by unfold State.modWarp; split <;> rfl
@[simp] theorem State.modWarp_uses (s : State) (w : Nat) (g : Warp → Warp) : (s.modWarp w g).uses = s.uses := by unfold State.modWarp; split <;> rfl
@[simp] theorem State.modWarp_ports (s : State) (w : Nat) (g : Warp → Warp) : (s.modWarp w g).ports = s.ports := by unfold State.modWarp; split <;> rfl

@[simp] theorem State.setCore_cores (s : State) (c : Nat) (x : Core) : (s.setCore c x).cores = s.cores.set c x := rfl
/-! ### setCore -/

@[simp] theorem State.setCore_clock (s : State) (c : Nat) (x : Core) : (s.setCore c x).clock = s.clock := rfl
@[simp] theorem State.setCore_mem (s : State) (c : Nat) (x : Core) : (s.setCore c x).mem = s.mem := rfl
@[simp] theorem State.setCore_marks (s : State) (c : Nat) (x : Core) : (s.setCore c x).marks = s.marks := rfl
@[simp] theorem State.setCore_warps (s : State) (c : Nat) (x : Core) : (s.setCore c x).warps = s.warps := rfl
@[simp] theorem State.setCore_clusters (s : State) (c : Nat) (x : Core) : (s.setCore c x).clusters = s.clusters := rfl
@[simp] theorem State.setCore_dies (s : State) (c : Nat) (x : Core) : (s.setCore c x).dies = s.dies := rfl
@[simp] theorem State.setCore_procs (s : State) (c : Nat) (x : Core) : (s.setCore c x).procs = s.procs := rfl
@[simp] theorem State.setCore_scopes (s : State) (c : Nat) (x : Core) : (s.setCore c x).scopes = s.scopes := rfl
@[simp] theorem State.setCore_generation (s : State) (c : Nat) (x : Core) : (s.setCore c x).generation = s.generation := rfl
@[simp] theorem State.setCore_ensembles (s : State) (c : Nat) (x : Core) : (s.setCore c x).ensembles = s.ensembles := rfl
@[simp] theorem State.setCore_flights (s : State) (c : Nat) (x : Core) : (s.setCore c x).flights = s.flights := rfl
@[simp] theorem State.setCore_held (s : State) (c : Nat) (x : Core) : (s.setCore c x).held = s.held := rfl
@[simp] theorem State.setCore_saved (s : State) (c : Nat) (x : Core) : (s.setCore c x).saved = s.saved := rfl
@[simp] theorem State.setCore_saving (s : State) (c : Nat) (x : Core) : (s.setCore c x).saving = s.saving := rfl
@[simp] theorem State.setCore_transit (s : State) (c : Nat) (x : Core) : (s.setCore c x).transit = s.transit := rfl
@[simp] theorem State.setCore_taking (s : State) (c : Nat) (x : Core) : (s.setCore c x).taking = s.taking := rfl
@[simp] theorem State.setCore_notices (s : State) (c : Nat) (x : Core) : (s.setCore c x).notices = s.notices := rfl
@[simp] theorem State.setCore_runtime (s : State) (c : Nat) (x : Core) : (s.setCore c x).runtime = s.runtime := rfl
@[simp] theorem State.setCore_hotness (s : State) (c : Nat) (x : Core) : (s.setCore c x).hotness = s.hotness := rfl
@[simp] theorem State.setCore_halvings (s : State) (c : Nat) (x : Core) : (s.setCore c x).halvings = s.halvings := rfl
@[simp] theorem State.setCore_samples (s : State) (c : Nat) (x : Core) : (s.setCore c x).samples = s.samples := rfl
@[simp] theorem State.setCore_promotions (s : State) (c : Nat) (x : Core) : (s.setCore c x).promotions = s.promotions := rfl
@[simp] theorem State.setCore_workSeq (s : State) (c : Nat) (x : Core) : (s.setCore c x).workSeq = s.workSeq := rfl
@[simp] theorem State.setCore_pkg (s : State) (c : Nat) (x : Core) : (s.setCore c x).pkg = s.pkg := rfl
@[simp] theorem State.setCore_nodeid (s : State) (c : Nat) (x : Core) : (s.setCore c x).nodeid = s.nodeid := rfl
@[simp] theorem State.setCore_routes (s : State) (c : Nat) (x : Core) : (s.setCore c x).routes = s.routes := rfl
@[simp] theorem State.setCore_incoming (s : State) (c : Nat) (x : Core) : (s.setCore c x).incoming = s.incoming := rfl
@[simp] theorem State.setCore_agenda (s : State) (c : Nat) (x : Core) : (s.setCore c x).agenda = s.agenda := rfl
@[simp] theorem State.setCore_cur (s : State) (c : Nat) (x : Core) : (s.setCore c x).cur = s.cur := rfl
@[simp] theorem State.setCore_draws (s : State) (c : Nat) (x : Core) : (s.setCore c x).draws = s.draws := rfl
@[simp] theorem State.setCore_nextId (s : State) (c : Nat) (x : Core) : (s.setCore c x).nextId = s.nextId := rfl
@[simp] theorem State.setCore_uses (s : State) (c : Nat) (x : Core) : (s.setCore c x).uses = s.uses := rfl
@[simp] theorem State.setCore_ports (s : State) (c : Nat) (x : Core) : (s.setCore c x).ports = s.ports := rfl

/-! ### modCore -/

@[simp] theorem State.modCore_clock (s : State) (c : Nat) (g : Core → Core) : (s.modCore c g).clock = s.clock := rfl
@[simp] theorem State.modCore_mem (s : State) (c : Nat) (g : Core → Core) : (s.modCore c g).mem = s.mem := rfl
@[simp] theorem State.modCore_marks (s : State) (c : Nat) (g : Core → Core) : (s.modCore c g).marks = s.marks := rfl
@[simp] theorem State.modCore_warps (s : State) (c : Nat) (g : Core → Core) : (s.modCore c g).warps = s.warps := rfl
@[simp] theorem State.modCore_clusters (s : State) (c : Nat) (g : Core → Core) : (s.modCore c g).clusters = s.clusters := rfl
@[simp] theorem State.modCore_dies (s : State) (c : Nat) (g : Core → Core) : (s.modCore c g).dies = s.dies := rfl
@[simp] theorem State.modCore_procs (s : State) (c : Nat) (g : Core → Core) : (s.modCore c g).procs = s.procs := rfl
@[simp] theorem State.modCore_scopes (s : State) (c : Nat) (g : Core → Core) : (s.modCore c g).scopes = s.scopes := rfl
@[simp] theorem State.modCore_generation (s : State) (c : Nat) (g : Core → Core) : (s.modCore c g).generation = s.generation := rfl
@[simp] theorem State.modCore_ensembles (s : State) (c : Nat) (g : Core → Core) : (s.modCore c g).ensembles = s.ensembles := rfl
@[simp] theorem State.modCore_flights (s : State) (c : Nat) (g : Core → Core) : (s.modCore c g).flights = s.flights := rfl
@[simp] theorem State.modCore_held (s : State) (c : Nat) (g : Core → Core) : (s.modCore c g).held = s.held := rfl
@[simp] theorem State.modCore_saved (s : State) (c : Nat) (g : Core → Core) : (s.modCore c g).saved = s.saved := rfl
@[simp] theorem State.modCore_saving (s : State) (c : Nat) (g : Core → Core) : (s.modCore c g).saving = s.saving := rfl
@[simp] theorem State.modCore_transit (s : State) (c : Nat) (g : Core → Core) : (s.modCore c g).transit = s.transit := rfl
@[simp] theorem State.modCore_taking (s : State) (c : Nat) (g : Core → Core) : (s.modCore c g).taking = s.taking := rfl
@[simp] theorem State.modCore_notices (s : State) (c : Nat) (g : Core → Core) : (s.modCore c g).notices = s.notices := rfl
@[simp] theorem State.modCore_runtime (s : State) (c : Nat) (g : Core → Core) : (s.modCore c g).runtime = s.runtime := rfl
@[simp] theorem State.modCore_hotness (s : State) (c : Nat) (g : Core → Core) : (s.modCore c g).hotness = s.hotness := rfl
@[simp] theorem State.modCore_halvings (s : State) (c : Nat) (g : Core → Core) : (s.modCore c g).halvings = s.halvings := rfl
@[simp] theorem State.modCore_samples (s : State) (c : Nat) (g : Core → Core) : (s.modCore c g).samples = s.samples := rfl
@[simp] theorem State.modCore_promotions (s : State) (c : Nat) (g : Core → Core) : (s.modCore c g).promotions = s.promotions := rfl
@[simp] theorem State.modCore_workSeq (s : State) (c : Nat) (g : Core → Core) : (s.modCore c g).workSeq = s.workSeq := rfl
@[simp] theorem State.modCore_pkg (s : State) (c : Nat) (g : Core → Core) : (s.modCore c g).pkg = s.pkg := rfl
@[simp] theorem State.modCore_nodeid (s : State) (c : Nat) (g : Core → Core) : (s.modCore c g).nodeid = s.nodeid := rfl
@[simp] theorem State.modCore_routes (s : State) (c : Nat) (g : Core → Core) : (s.modCore c g).routes = s.routes := rfl
@[simp] theorem State.modCore_incoming (s : State) (c : Nat) (g : Core → Core) : (s.modCore c g).incoming = s.incoming := rfl
@[simp] theorem State.modCore_agenda (s : State) (c : Nat) (g : Core → Core) : (s.modCore c g).agenda = s.agenda := rfl
@[simp] theorem State.modCore_cur (s : State) (c : Nat) (g : Core → Core) : (s.modCore c g).cur = s.cur := rfl
@[simp] theorem State.modCore_draws (s : State) (c : Nat) (g : Core → Core) : (s.modCore c g).draws = s.draws := rfl
@[simp] theorem State.modCore_nextId (s : State) (c : Nat) (g : Core → Core) : (s.modCore c g).nextId = s.nextId := rfl
@[simp] theorem State.modCore_uses (s : State) (c : Nat) (g : Core → Core) : (s.modCore c g).uses = s.uses := rfl
@[simp] theorem State.modCore_ports (s : State) (c : Nat) (g : Core → Core) : (s.modCore c g).ports = s.ports := rfl

@[simp] theorem State.setCluster_clusters (s : State) (c : Nat) (x : Cluster) : (s.setCluster c x).clusters = s.clusters.set c x := rfl
/-! ### setCluster -/

@[simp] theorem State.setCluster_clock (s : State) (c : Nat) (x : Cluster) : (s.setCluster c x).clock = s.clock := rfl
@[simp] theorem State.setCluster_mem (s : State) (c : Nat) (x : Cluster) : (s.setCluster c x).mem = s.mem := rfl
@[simp] theorem State.setCluster_marks (s : State) (c : Nat) (x : Cluster) : (s.setCluster c x).marks = s.marks := rfl
@[simp] theorem State.setCluster_warps (s : State) (c : Nat) (x : Cluster) : (s.setCluster c x).warps = s.warps := rfl
@[simp] theorem State.setCluster_cores (s : State) (c : Nat) (x : Cluster) : (s.setCluster c x).cores = s.cores := rfl
@[simp] theorem State.setCluster_dies (s : State) (c : Nat) (x : Cluster) : (s.setCluster c x).dies = s.dies := rfl
@[simp] theorem State.setCluster_procs (s : State) (c : Nat) (x : Cluster) : (s.setCluster c x).procs = s.procs := rfl
@[simp] theorem State.setCluster_scopes (s : State) (c : Nat) (x : Cluster) : (s.setCluster c x).scopes = s.scopes := rfl
@[simp] theorem State.setCluster_generation (s : State) (c : Nat) (x : Cluster) : (s.setCluster c x).generation = s.generation := rfl
@[simp] theorem State.setCluster_ensembles (s : State) (c : Nat) (x : Cluster) : (s.setCluster c x).ensembles = s.ensembles := rfl
@[simp] theorem State.setCluster_flights (s : State) (c : Nat) (x : Cluster) : (s.setCluster c x).flights = s.flights := rfl
@[simp] theorem State.setCluster_held (s : State) (c : Nat) (x : Cluster) : (s.setCluster c x).held = s.held := rfl
@[simp] theorem State.setCluster_saved (s : State) (c : Nat) (x : Cluster) : (s.setCluster c x).saved = s.saved := rfl
@[simp] theorem State.setCluster_saving (s : State) (c : Nat) (x : Cluster) : (s.setCluster c x).saving = s.saving := rfl
@[simp] theorem State.setCluster_transit (s : State) (c : Nat) (x : Cluster) : (s.setCluster c x).transit = s.transit := rfl
@[simp] theorem State.setCluster_taking (s : State) (c : Nat) (x : Cluster) : (s.setCluster c x).taking = s.taking := rfl
@[simp] theorem State.setCluster_notices (s : State) (c : Nat) (x : Cluster) : (s.setCluster c x).notices = s.notices := rfl
@[simp] theorem State.setCluster_runtime (s : State) (c : Nat) (x : Cluster) : (s.setCluster c x).runtime = s.runtime := rfl
@[simp] theorem State.setCluster_hotness (s : State) (c : Nat) (x : Cluster) : (s.setCluster c x).hotness = s.hotness := rfl
@[simp] theorem State.setCluster_halvings (s : State) (c : Nat) (x : Cluster) : (s.setCluster c x).halvings = s.halvings := rfl
@[simp] theorem State.setCluster_samples (s : State) (c : Nat) (x : Cluster) : (s.setCluster c x).samples = s.samples := rfl
@[simp] theorem State.setCluster_promotions (s : State) (c : Nat) (x : Cluster) : (s.setCluster c x).promotions = s.promotions := rfl
@[simp] theorem State.setCluster_workSeq (s : State) (c : Nat) (x : Cluster) : (s.setCluster c x).workSeq = s.workSeq := rfl
@[simp] theorem State.setCluster_pkg (s : State) (c : Nat) (x : Cluster) : (s.setCluster c x).pkg = s.pkg := rfl
@[simp] theorem State.setCluster_nodeid (s : State) (c : Nat) (x : Cluster) : (s.setCluster c x).nodeid = s.nodeid := rfl
@[simp] theorem State.setCluster_routes (s : State) (c : Nat) (x : Cluster) : (s.setCluster c x).routes = s.routes := rfl
@[simp] theorem State.setCluster_incoming (s : State) (c : Nat) (x : Cluster) : (s.setCluster c x).incoming = s.incoming := rfl
@[simp] theorem State.setCluster_agenda (s : State) (c : Nat) (x : Cluster) : (s.setCluster c x).agenda = s.agenda := rfl
@[simp] theorem State.setCluster_cur (s : State) (c : Nat) (x : Cluster) : (s.setCluster c x).cur = s.cur := rfl
@[simp] theorem State.setCluster_draws (s : State) (c : Nat) (x : Cluster) : (s.setCluster c x).draws = s.draws := rfl
@[simp] theorem State.setCluster_nextId (s : State) (c : Nat) (x : Cluster) : (s.setCluster c x).nextId = s.nextId := rfl
@[simp] theorem State.setCluster_uses (s : State) (c : Nat) (x : Cluster) : (s.setCluster c x).uses = s.uses := rfl
@[simp] theorem State.setCluster_ports (s : State) (c : Nat) (x : Cluster) : (s.setCluster c x).ports = s.ports := rfl

/-! ### modCluster -/

@[simp] theorem State.modCluster_clock (s : State) (c : Nat) (g : Cluster → Cluster) : (s.modCluster c g).clock = s.clock := rfl
@[simp] theorem State.modCluster_mem (s : State) (c : Nat) (g : Cluster → Cluster) : (s.modCluster c g).mem = s.mem := rfl
@[simp] theorem State.modCluster_marks (s : State) (c : Nat) (g : Cluster → Cluster) : (s.modCluster c g).marks = s.marks := rfl
@[simp] theorem State.modCluster_warps (s : State) (c : Nat) (g : Cluster → Cluster) : (s.modCluster c g).warps = s.warps := rfl
@[simp] theorem State.modCluster_cores (s : State) (c : Nat) (g : Cluster → Cluster) : (s.modCluster c g).cores = s.cores := rfl
@[simp] theorem State.modCluster_dies (s : State) (c : Nat) (g : Cluster → Cluster) : (s.modCluster c g).dies = s.dies := rfl
@[simp] theorem State.modCluster_procs (s : State) (c : Nat) (g : Cluster → Cluster) : (s.modCluster c g).procs = s.procs := rfl
@[simp] theorem State.modCluster_scopes (s : State) (c : Nat) (g : Cluster → Cluster) : (s.modCluster c g).scopes = s.scopes := rfl
@[simp] theorem State.modCluster_generation (s : State) (c : Nat) (g : Cluster → Cluster) : (s.modCluster c g).generation = s.generation := rfl
@[simp] theorem State.modCluster_ensembles (s : State) (c : Nat) (g : Cluster → Cluster) : (s.modCluster c g).ensembles = s.ensembles := rfl
@[simp] theorem State.modCluster_flights (s : State) (c : Nat) (g : Cluster → Cluster) : (s.modCluster c g).flights = s.flights := rfl
@[simp] theorem State.modCluster_held (s : State) (c : Nat) (g : Cluster → Cluster) : (s.modCluster c g).held = s.held := rfl
@[simp] theorem State.modCluster_saved (s : State) (c : Nat) (g : Cluster → Cluster) : (s.modCluster c g).saved = s.saved := rfl
@[simp] theorem State.modCluster_saving (s : State) (c : Nat) (g : Cluster → Cluster) : (s.modCluster c g).saving = s.saving := rfl
@[simp] theorem State.modCluster_transit (s : State) (c : Nat) (g : Cluster → Cluster) : (s.modCluster c g).transit = s.transit := rfl
@[simp] theorem State.modCluster_taking (s : State) (c : Nat) (g : Cluster → Cluster) : (s.modCluster c g).taking = s.taking := rfl
@[simp] theorem State.modCluster_notices (s : State) (c : Nat) (g : Cluster → Cluster) : (s.modCluster c g).notices = s.notices := rfl
@[simp] theorem State.modCluster_runtime (s : State) (c : Nat) (g : Cluster → Cluster) : (s.modCluster c g).runtime = s.runtime := rfl
@[simp] theorem State.modCluster_hotness (s : State) (c : Nat) (g : Cluster → Cluster) : (s.modCluster c g).hotness = s.hotness := rfl
@[simp] theorem State.modCluster_halvings (s : State) (c : Nat) (g : Cluster → Cluster) : (s.modCluster c g).halvings = s.halvings := rfl
@[simp] theorem State.modCluster_samples (s : State) (c : Nat) (g : Cluster → Cluster) : (s.modCluster c g).samples = s.samples := rfl
@[simp] theorem State.modCluster_promotions (s : State) (c : Nat) (g : Cluster → Cluster) : (s.modCluster c g).promotions = s.promotions := rfl
@[simp] theorem State.modCluster_workSeq (s : State) (c : Nat) (g : Cluster → Cluster) : (s.modCluster c g).workSeq = s.workSeq := rfl
@[simp] theorem State.modCluster_pkg (s : State) (c : Nat) (g : Cluster → Cluster) : (s.modCluster c g).pkg = s.pkg := rfl
@[simp] theorem State.modCluster_nodeid (s : State) (c : Nat) (g : Cluster → Cluster) : (s.modCluster c g).nodeid = s.nodeid := rfl
@[simp] theorem State.modCluster_routes (s : State) (c : Nat) (g : Cluster → Cluster) : (s.modCluster c g).routes = s.routes := rfl
@[simp] theorem State.modCluster_incoming (s : State) (c : Nat) (g : Cluster → Cluster) : (s.modCluster c g).incoming = s.incoming := rfl
@[simp] theorem State.modCluster_agenda (s : State) (c : Nat) (g : Cluster → Cluster) : (s.modCluster c g).agenda = s.agenda := rfl
@[simp] theorem State.modCluster_cur (s : State) (c : Nat) (g : Cluster → Cluster) : (s.modCluster c g).cur = s.cur := rfl
@[simp] theorem State.modCluster_draws (s : State) (c : Nat) (g : Cluster → Cluster) : (s.modCluster c g).draws = s.draws := rfl
@[simp] theorem State.modCluster_nextId (s : State) (c : Nat) (g : Cluster → Cluster) : (s.modCluster c g).nextId = s.nextId := rfl
@[simp] theorem State.modCluster_uses (s : State) (c : Nat) (g : Cluster → Cluster) : (s.modCluster c g).uses = s.uses := rfl
@[simp] theorem State.modCluster_ports (s : State) (c : Nat) (g : Cluster → Cluster) : (s.modCluster c g).ports = s.ports := rfl

@[simp] theorem State.setDie_dies (s : State) (d : Nat) (x : Die) : (s.setDie d x).dies = s.dies.set d x := rfl
/-! ### setDie -/

@[simp] theorem State.setDie_clock (s : State) (d : Nat) (x : Die) : (s.setDie d x).clock = s.clock := rfl
@[simp] theorem State.setDie_mem (s : State) (d : Nat) (x : Die) : (s.setDie d x).mem = s.mem := rfl
@[simp] theorem State.setDie_marks (s : State) (d : Nat) (x : Die) : (s.setDie d x).marks = s.marks := rfl
@[simp] theorem State.setDie_warps (s : State) (d : Nat) (x : Die) : (s.setDie d x).warps = s.warps := rfl
@[simp] theorem State.setDie_cores (s : State) (d : Nat) (x : Die) : (s.setDie d x).cores = s.cores := rfl
@[simp] theorem State.setDie_clusters (s : State) (d : Nat) (x : Die) : (s.setDie d x).clusters = s.clusters := rfl
@[simp] theorem State.setDie_procs (s : State) (d : Nat) (x : Die) : (s.setDie d x).procs = s.procs := rfl
@[simp] theorem State.setDie_scopes (s : State) (d : Nat) (x : Die) : (s.setDie d x).scopes = s.scopes := rfl
@[simp] theorem State.setDie_generation (s : State) (d : Nat) (x : Die) : (s.setDie d x).generation = s.generation := rfl
@[simp] theorem State.setDie_ensembles (s : State) (d : Nat) (x : Die) : (s.setDie d x).ensembles = s.ensembles := rfl
@[simp] theorem State.setDie_flights (s : State) (d : Nat) (x : Die) : (s.setDie d x).flights = s.flights := rfl
@[simp] theorem State.setDie_held (s : State) (d : Nat) (x : Die) : (s.setDie d x).held = s.held := rfl
@[simp] theorem State.setDie_saved (s : State) (d : Nat) (x : Die) : (s.setDie d x).saved = s.saved := rfl
@[simp] theorem State.setDie_saving (s : State) (d : Nat) (x : Die) : (s.setDie d x).saving = s.saving := rfl
@[simp] theorem State.setDie_transit (s : State) (d : Nat) (x : Die) : (s.setDie d x).transit = s.transit := rfl
@[simp] theorem State.setDie_taking (s : State) (d : Nat) (x : Die) : (s.setDie d x).taking = s.taking := rfl
@[simp] theorem State.setDie_notices (s : State) (d : Nat) (x : Die) : (s.setDie d x).notices = s.notices := rfl
@[simp] theorem State.setDie_runtime (s : State) (d : Nat) (x : Die) : (s.setDie d x).runtime = s.runtime := rfl
@[simp] theorem State.setDie_hotness (s : State) (d : Nat) (x : Die) : (s.setDie d x).hotness = s.hotness := rfl
@[simp] theorem State.setDie_halvings (s : State) (d : Nat) (x : Die) : (s.setDie d x).halvings = s.halvings := rfl
@[simp] theorem State.setDie_samples (s : State) (d : Nat) (x : Die) : (s.setDie d x).samples = s.samples := rfl
@[simp] theorem State.setDie_promotions (s : State) (d : Nat) (x : Die) : (s.setDie d x).promotions = s.promotions := rfl
@[simp] theorem State.setDie_workSeq (s : State) (d : Nat) (x : Die) : (s.setDie d x).workSeq = s.workSeq := rfl
@[simp] theorem State.setDie_pkg (s : State) (d : Nat) (x : Die) : (s.setDie d x).pkg = s.pkg := rfl
@[simp] theorem State.setDie_nodeid (s : State) (d : Nat) (x : Die) : (s.setDie d x).nodeid = s.nodeid := rfl
@[simp] theorem State.setDie_routes (s : State) (d : Nat) (x : Die) : (s.setDie d x).routes = s.routes := rfl
@[simp] theorem State.setDie_incoming (s : State) (d : Nat) (x : Die) : (s.setDie d x).incoming = s.incoming := rfl
@[simp] theorem State.setDie_agenda (s : State) (d : Nat) (x : Die) : (s.setDie d x).agenda = s.agenda := rfl
@[simp] theorem State.setDie_cur (s : State) (d : Nat) (x : Die) : (s.setDie d x).cur = s.cur := rfl
@[simp] theorem State.setDie_draws (s : State) (d : Nat) (x : Die) : (s.setDie d x).draws = s.draws := rfl
@[simp] theorem State.setDie_nextId (s : State) (d : Nat) (x : Die) : (s.setDie d x).nextId = s.nextId := rfl
@[simp] theorem State.setDie_uses (s : State) (d : Nat) (x : Die) : (s.setDie d x).uses = s.uses := rfl
@[simp] theorem State.setDie_ports (s : State) (d : Nat) (x : Die) : (s.setDie d x).ports = s.ports := rfl

/-! ### modDie -/

@[simp] theorem State.modDie_clock (s : State) (d : Nat) (g : Die → Die) : (s.modDie d g).clock = s.clock := rfl
@[simp] theorem State.modDie_mem (s : State) (d : Nat) (g : Die → Die) : (s.modDie d g).mem = s.mem := rfl
@[simp] theorem State.modDie_marks (s : State) (d : Nat) (g : Die → Die) : (s.modDie d g).marks = s.marks := rfl
@[simp] theorem State.modDie_warps (s : State) (d : Nat) (g : Die → Die) : (s.modDie d g).warps = s.warps := rfl
@[simp] theorem State.modDie_cores (s : State) (d : Nat) (g : Die → Die) : (s.modDie d g).cores = s.cores := rfl
@[simp] theorem State.modDie_clusters (s : State) (d : Nat) (g : Die → Die) : (s.modDie d g).clusters = s.clusters := rfl
@[simp] theorem State.modDie_procs (s : State) (d : Nat) (g : Die → Die) : (s.modDie d g).procs = s.procs := rfl
@[simp] theorem State.modDie_scopes (s : State) (d : Nat) (g : Die → Die) : (s.modDie d g).scopes = s.scopes := rfl
@[simp] theorem State.modDie_generation (s : State) (d : Nat) (g : Die → Die) : (s.modDie d g).generation = s.generation := rfl
@[simp] theorem State.modDie_ensembles (s : State) (d : Nat) (g : Die → Die) : (s.modDie d g).ensembles = s.ensembles := rfl
@[simp] theorem State.modDie_flights (s : State) (d : Nat) (g : Die → Die) : (s.modDie d g).flights = s.flights := rfl
@[simp] theorem State.modDie_held (s : State) (d : Nat) (g : Die → Die) : (s.modDie d g).held = s.held := rfl
@[simp] theorem State.modDie_saved (s : State) (d : Nat) (g : Die → Die) : (s.modDie d g).saved = s.saved := rfl
@[simp] theorem State.modDie_saving (s : State) (d : Nat) (g : Die → Die) : (s.modDie d g).saving = s.saving := rfl
@[simp] theorem State.modDie_transit (s : State) (d : Nat) (g : Die → Die) : (s.modDie d g).transit = s.transit := rfl
@[simp] theorem State.modDie_taking (s : State) (d : Nat) (g : Die → Die) : (s.modDie d g).taking = s.taking := rfl
@[simp] theorem State.modDie_notices (s : State) (d : Nat) (g : Die → Die) : (s.modDie d g).notices = s.notices := rfl
@[simp] theorem State.modDie_runtime (s : State) (d : Nat) (g : Die → Die) : (s.modDie d g).runtime = s.runtime := rfl
@[simp] theorem State.modDie_hotness (s : State) (d : Nat) (g : Die → Die) : (s.modDie d g).hotness = s.hotness := rfl
@[simp] theorem State.modDie_halvings (s : State) (d : Nat) (g : Die → Die) : (s.modDie d g).halvings = s.halvings := rfl
@[simp] theorem State.modDie_samples (s : State) (d : Nat) (g : Die → Die) : (s.modDie d g).samples = s.samples := rfl
@[simp] theorem State.modDie_promotions (s : State) (d : Nat) (g : Die → Die) : (s.modDie d g).promotions = s.promotions := rfl
@[simp] theorem State.modDie_workSeq (s : State) (d : Nat) (g : Die → Die) : (s.modDie d g).workSeq = s.workSeq := rfl
@[simp] theorem State.modDie_pkg (s : State) (d : Nat) (g : Die → Die) : (s.modDie d g).pkg = s.pkg := rfl
@[simp] theorem State.modDie_nodeid (s : State) (d : Nat) (g : Die → Die) : (s.modDie d g).nodeid = s.nodeid := rfl
@[simp] theorem State.modDie_routes (s : State) (d : Nat) (g : Die → Die) : (s.modDie d g).routes = s.routes := rfl
@[simp] theorem State.modDie_incoming (s : State) (d : Nat) (g : Die → Die) : (s.modDie d g).incoming = s.incoming := rfl
@[simp] theorem State.modDie_agenda (s : State) (d : Nat) (g : Die → Die) : (s.modDie d g).agenda = s.agenda := rfl
@[simp] theorem State.modDie_cur (s : State) (d : Nat) (g : Die → Die) : (s.modDie d g).cur = s.cur := rfl
@[simp] theorem State.modDie_draws (s : State) (d : Nat) (g : Die → Die) : (s.modDie d g).draws = s.draws := rfl
@[simp] theorem State.modDie_nextId (s : State) (d : Nat) (g : Die → Die) : (s.modDie d g).nextId = s.nextId := rfl
@[simp] theorem State.modDie_uses (s : State) (d : Nat) (g : Die → Die) : (s.modDie d g).uses = s.uses := rfl
@[simp] theorem State.modDie_ports (s : State) (d : Nat) (g : Die → Die) : (s.modDie d g).ports = s.ports := rfl

/-! ### modProc -/

@[simp] theorem State.modProc_clock (s : State) (p : Nat) (g : Proc → Proc) : (s.modProc p g).clock = s.clock := by unfold State.modProc; split <;> rfl
@[simp] theorem State.modProc_mem (s : State) (p : Nat) (g : Proc → Proc) : (s.modProc p g).mem = s.mem := by unfold State.modProc; split <;> rfl
@[simp] theorem State.modProc_marks (s : State) (p : Nat) (g : Proc → Proc) : (s.modProc p g).marks = s.marks := by unfold State.modProc; split <;> rfl
@[simp] theorem State.modProc_warps (s : State) (p : Nat) (g : Proc → Proc) : (s.modProc p g).warps = s.warps := by unfold State.modProc; split <;> rfl
@[simp] theorem State.modProc_cores (s : State) (p : Nat) (g : Proc → Proc) : (s.modProc p g).cores = s.cores := by unfold State.modProc; split <;> rfl
@[simp] theorem State.modProc_clusters (s : State) (p : Nat) (g : Proc → Proc) : (s.modProc p g).clusters = s.clusters := by unfold State.modProc; split <;> rfl
@[simp] theorem State.modProc_dies (s : State) (p : Nat) (g : Proc → Proc) : (s.modProc p g).dies = s.dies := by unfold State.modProc; split <;> rfl
@[simp] theorem State.modProc_scopes (s : State) (p : Nat) (g : Proc → Proc) : (s.modProc p g).scopes = s.scopes := by unfold State.modProc; split <;> rfl
@[simp] theorem State.modProc_generation (s : State) (p : Nat) (g : Proc → Proc) : (s.modProc p g).generation = s.generation := by unfold State.modProc; split <;> rfl
@[simp] theorem State.modProc_ensembles (s : State) (p : Nat) (g : Proc → Proc) : (s.modProc p g).ensembles = s.ensembles := by unfold State.modProc; split <;> rfl
@[simp] theorem State.modProc_flights (s : State) (p : Nat) (g : Proc → Proc) : (s.modProc p g).flights = s.flights := by unfold State.modProc; split <;> rfl
@[simp] theorem State.modProc_held (s : State) (p : Nat) (g : Proc → Proc) : (s.modProc p g).held = s.held := by unfold State.modProc; split <;> rfl
@[simp] theorem State.modProc_saved (s : State) (p : Nat) (g : Proc → Proc) : (s.modProc p g).saved = s.saved := by unfold State.modProc; split <;> rfl
@[simp] theorem State.modProc_saving (s : State) (p : Nat) (g : Proc → Proc) : (s.modProc p g).saving = s.saving := by unfold State.modProc; split <;> rfl
@[simp] theorem State.modProc_transit (s : State) (p : Nat) (g : Proc → Proc) : (s.modProc p g).transit = s.transit := by unfold State.modProc; split <;> rfl
@[simp] theorem State.modProc_taking (s : State) (p : Nat) (g : Proc → Proc) : (s.modProc p g).taking = s.taking := by unfold State.modProc; split <;> rfl
@[simp] theorem State.modProc_notices (s : State) (p : Nat) (g : Proc → Proc) : (s.modProc p g).notices = s.notices := by unfold State.modProc; split <;> rfl
@[simp] theorem State.modProc_runtime (s : State) (p : Nat) (g : Proc → Proc) : (s.modProc p g).runtime = s.runtime := by unfold State.modProc; split <;> rfl
@[simp] theorem State.modProc_hotness (s : State) (p : Nat) (g : Proc → Proc) : (s.modProc p g).hotness = s.hotness := by unfold State.modProc; split <;> rfl
@[simp] theorem State.modProc_halvings (s : State) (p : Nat) (g : Proc → Proc) : (s.modProc p g).halvings = s.halvings := by unfold State.modProc; split <;> rfl
@[simp] theorem State.modProc_samples (s : State) (p : Nat) (g : Proc → Proc) : (s.modProc p g).samples = s.samples := by unfold State.modProc; split <;> rfl
@[simp] theorem State.modProc_promotions (s : State) (p : Nat) (g : Proc → Proc) : (s.modProc p g).promotions = s.promotions := by unfold State.modProc; split <;> rfl
@[simp] theorem State.modProc_workSeq (s : State) (p : Nat) (g : Proc → Proc) : (s.modProc p g).workSeq = s.workSeq := by unfold State.modProc; split <;> rfl
@[simp] theorem State.modProc_pkg (s : State) (p : Nat) (g : Proc → Proc) : (s.modProc p g).pkg = s.pkg := by unfold State.modProc; split <;> rfl
@[simp] theorem State.modProc_nodeid (s : State) (p : Nat) (g : Proc → Proc) : (s.modProc p g).nodeid = s.nodeid := by unfold State.modProc; split <;> rfl
@[simp] theorem State.modProc_routes (s : State) (p : Nat) (g : Proc → Proc) : (s.modProc p g).routes = s.routes := by unfold State.modProc; split <;> rfl
@[simp] theorem State.modProc_incoming (s : State) (p : Nat) (g : Proc → Proc) : (s.modProc p g).incoming = s.incoming := by unfold State.modProc; split <;> rfl
@[simp] theorem State.modProc_agenda (s : State) (p : Nat) (g : Proc → Proc) : (s.modProc p g).agenda = s.agenda := by unfold State.modProc; split <;> rfl
@[simp] theorem State.modProc_cur (s : State) (p : Nat) (g : Proc → Proc) : (s.modProc p g).cur = s.cur := by unfold State.modProc; split <;> rfl
@[simp] theorem State.modProc_draws (s : State) (p : Nat) (g : Proc → Proc) : (s.modProc p g).draws = s.draws := by unfold State.modProc; split <;> rfl
@[simp] theorem State.modProc_nextId (s : State) (p : Nat) (g : Proc → Proc) : (s.modProc p g).nextId = s.nextId := by unfold State.modProc; split <;> rfl
@[simp] theorem State.modProc_uses (s : State) (p : Nat) (g : Proc → Proc) : (s.modProc p g).uses = s.uses := by unfold State.modProc; split <;> rfl
@[simp] theorem State.modProc_ports (s : State) (p : Nat) (g : Proc → Proc) : (s.modProc p g).ports = s.ports := by unfold State.modProc; split <;> rfl

/-! ### modScope -/

@[simp] theorem State.modScope_clock (s : State) (n : Nat) (g : Scope → Scope) : (s.modScope n g).clock = s.clock := by unfold State.modScope; split <;> rfl
@[simp] theorem State.modScope_mem (s : State) (n : Nat) (g : Scope → Scope) : (s.modScope n g).mem = s.mem := by unfold State.modScope; split <;> rfl
@[simp] theorem State.modScope_marks (s : State) (n : Nat) (g : Scope → Scope) : (s.modScope n g).marks = s.marks := by unfold State.modScope; split <;> rfl
@[simp] theorem State.modScope_warps (s : State) (n : Nat) (g : Scope → Scope) : (s.modScope n g).warps = s.warps := by unfold State.modScope; split <;> rfl
@[simp] theorem State.modScope_cores (s : State) (n : Nat) (g : Scope → Scope) : (s.modScope n g).cores = s.cores := by unfold State.modScope; split <;> rfl
@[simp] theorem State.modScope_clusters (s : State) (n : Nat) (g : Scope → Scope) : (s.modScope n g).clusters = s.clusters := by unfold State.modScope; split <;> rfl
@[simp] theorem State.modScope_dies (s : State) (n : Nat) (g : Scope → Scope) : (s.modScope n g).dies = s.dies := by unfold State.modScope; split <;> rfl
@[simp] theorem State.modScope_procs (s : State) (n : Nat) (g : Scope → Scope) : (s.modScope n g).procs = s.procs := by unfold State.modScope; split <;> rfl
@[simp] theorem State.modScope_generation (s : State) (n : Nat) (g : Scope → Scope) : (s.modScope n g).generation = s.generation := by unfold State.modScope; split <;> rfl
@[simp] theorem State.modScope_ensembles (s : State) (n : Nat) (g : Scope → Scope) : (s.modScope n g).ensembles = s.ensembles := by unfold State.modScope; split <;> rfl
@[simp] theorem State.modScope_flights (s : State) (n : Nat) (g : Scope → Scope) : (s.modScope n g).flights = s.flights := by unfold State.modScope; split <;> rfl
@[simp] theorem State.modScope_held (s : State) (n : Nat) (g : Scope → Scope) : (s.modScope n g).held = s.held := by unfold State.modScope; split <;> rfl
@[simp] theorem State.modScope_saved (s : State) (n : Nat) (g : Scope → Scope) : (s.modScope n g).saved = s.saved := by unfold State.modScope; split <;> rfl
@[simp] theorem State.modScope_saving (s : State) (n : Nat) (g : Scope → Scope) : (s.modScope n g).saving = s.saving := by unfold State.modScope; split <;> rfl
@[simp] theorem State.modScope_transit (s : State) (n : Nat) (g : Scope → Scope) : (s.modScope n g).transit = s.transit := by unfold State.modScope; split <;> rfl
@[simp] theorem State.modScope_taking (s : State) (n : Nat) (g : Scope → Scope) : (s.modScope n g).taking = s.taking := by unfold State.modScope; split <;> rfl
@[simp] theorem State.modScope_notices (s : State) (n : Nat) (g : Scope → Scope) : (s.modScope n g).notices = s.notices := by unfold State.modScope; split <;> rfl
@[simp] theorem State.modScope_runtime (s : State) (n : Nat) (g : Scope → Scope) : (s.modScope n g).runtime = s.runtime := by unfold State.modScope; split <;> rfl
@[simp] theorem State.modScope_hotness (s : State) (n : Nat) (g : Scope → Scope) : (s.modScope n g).hotness = s.hotness := by unfold State.modScope; split <;> rfl
@[simp] theorem State.modScope_halvings (s : State) (n : Nat) (g : Scope → Scope) : (s.modScope n g).halvings = s.halvings := by unfold State.modScope; split <;> rfl
@[simp] theorem State.modScope_samples (s : State) (n : Nat) (g : Scope → Scope) : (s.modScope n g).samples = s.samples := by unfold State.modScope; split <;> rfl
@[simp] theorem State.modScope_promotions (s : State) (n : Nat) (g : Scope → Scope) : (s.modScope n g).promotions = s.promotions := by unfold State.modScope; split <;> rfl
@[simp] theorem State.modScope_workSeq (s : State) (n : Nat) (g : Scope → Scope) : (s.modScope n g).workSeq = s.workSeq := by unfold State.modScope; split <;> rfl
@[simp] theorem State.modScope_pkg (s : State) (n : Nat) (g : Scope → Scope) : (s.modScope n g).pkg = s.pkg := by unfold State.modScope; split <;> rfl
@[simp] theorem State.modScope_nodeid (s : State) (n : Nat) (g : Scope → Scope) : (s.modScope n g).nodeid = s.nodeid := by unfold State.modScope; split <;> rfl
@[simp] theorem State.modScope_routes (s : State) (n : Nat) (g : Scope → Scope) : (s.modScope n g).routes = s.routes := by unfold State.modScope; split <;> rfl
@[simp] theorem State.modScope_incoming (s : State) (n : Nat) (g : Scope → Scope) : (s.modScope n g).incoming = s.incoming := by unfold State.modScope; split <;> rfl
@[simp] theorem State.modScope_agenda (s : State) (n : Nat) (g : Scope → Scope) : (s.modScope n g).agenda = s.agenda := by unfold State.modScope; split <;> rfl
@[simp] theorem State.modScope_cur (s : State) (n : Nat) (g : Scope → Scope) : (s.modScope n g).cur = s.cur := by unfold State.modScope; split <;> rfl
@[simp] theorem State.modScope_draws (s : State) (n : Nat) (g : Scope → Scope) : (s.modScope n g).draws = s.draws := by unfold State.modScope; split <;> rfl
@[simp] theorem State.modScope_nextId (s : State) (n : Nat) (g : Scope → Scope) : (s.modScope n g).nextId = s.nextId := by unfold State.modScope; split <;> rfl
@[simp] theorem State.modScope_uses (s : State) (n : Nat) (g : Scope → Scope) : (s.modScope n g).uses = s.uses := by unfold State.modScope; split <;> rfl
@[simp] theorem State.modScope_ports (s : State) (n : Nat) (g : Scope → Scope) : (s.modScope n g).ports = s.ports := by unfold State.modScope; split <;> rfl

/-! ### writeBytes -/

@[simp] theorem State.writeBytes_clock (s : State) (ks : List Nat) (bs : List Byte) : (s.writeBytes ks bs).clock = s.clock := rfl
@[simp] theorem State.writeBytes_marks (s : State) (ks : List Nat) (bs : List Byte) : (s.writeBytes ks bs).marks = s.marks := rfl
@[simp] theorem State.writeBytes_warps (s : State) (ks : List Nat) (bs : List Byte) : (s.writeBytes ks bs).warps = s.warps := rfl
@[simp] theorem State.writeBytes_cores (s : State) (ks : List Nat) (bs : List Byte) : (s.writeBytes ks bs).cores = s.cores := rfl
@[simp] theorem State.writeBytes_clusters (s : State) (ks : List Nat) (bs : List Byte) : (s.writeBytes ks bs).clusters = s.clusters := rfl
@[simp] theorem State.writeBytes_dies (s : State) (ks : List Nat) (bs : List Byte) : (s.writeBytes ks bs).dies = s.dies := rfl
@[simp] theorem State.writeBytes_procs (s : State) (ks : List Nat) (bs : List Byte) : (s.writeBytes ks bs).procs = s.procs := rfl
@[simp] theorem State.writeBytes_scopes (s : State) (ks : List Nat) (bs : List Byte) : (s.writeBytes ks bs).scopes = s.scopes := rfl
@[simp] theorem State.writeBytes_generation (s : State) (ks : List Nat) (bs : List Byte) : (s.writeBytes ks bs).generation = s.generation := rfl
@[simp] theorem State.writeBytes_ensembles (s : State) (ks : List Nat) (bs : List Byte) : (s.writeBytes ks bs).ensembles = s.ensembles := rfl
@[simp] theorem State.writeBytes_flights (s : State) (ks : List Nat) (bs : List Byte) : (s.writeBytes ks bs).flights = s.flights := rfl
@[simp] theorem State.writeBytes_held (s : State) (ks : List Nat) (bs : List Byte) : (s.writeBytes ks bs).held = s.held := rfl
@[simp] theorem State.writeBytes_saved (s : State) (ks : List Nat) (bs : List Byte) : (s.writeBytes ks bs).saved = s.saved := rfl
@[simp] theorem State.writeBytes_saving (s : State) (ks : List Nat) (bs : List Byte) : (s.writeBytes ks bs).saving = s.saving := rfl
@[simp] theorem State.writeBytes_transit (s : State) (ks : List Nat) (bs : List Byte) : (s.writeBytes ks bs).transit = s.transit := rfl
@[simp] theorem State.writeBytes_taking (s : State) (ks : List Nat) (bs : List Byte) : (s.writeBytes ks bs).taking = s.taking := rfl
@[simp] theorem State.writeBytes_notices (s : State) (ks : List Nat) (bs : List Byte) : (s.writeBytes ks bs).notices = s.notices := rfl
@[simp] theorem State.writeBytes_runtime (s : State) (ks : List Nat) (bs : List Byte) : (s.writeBytes ks bs).runtime = s.runtime := rfl
@[simp] theorem State.writeBytes_hotness (s : State) (ks : List Nat) (bs : List Byte) : (s.writeBytes ks bs).hotness = s.hotness := rfl
@[simp] theorem State.writeBytes_halvings (s : State) (ks : List Nat) (bs : List Byte) : (s.writeBytes ks bs).halvings = s.halvings := rfl
@[simp] theorem State.writeBytes_samples (s : State) (ks : List Nat) (bs : List Byte) : (s.writeBytes ks bs).samples = s.samples := rfl
@[simp] theorem State.writeBytes_promotions (s : State) (ks : List Nat) (bs : List Byte) : (s.writeBytes ks bs).promotions = s.promotions := rfl
@[simp] theorem State.writeBytes_workSeq (s : State) (ks : List Nat) (bs : List Byte) : (s.writeBytes ks bs).workSeq = s.workSeq := rfl
@[simp] theorem State.writeBytes_pkg (s : State) (ks : List Nat) (bs : List Byte) : (s.writeBytes ks bs).pkg = s.pkg := rfl
@[simp] theorem State.writeBytes_nodeid (s : State) (ks : List Nat) (bs : List Byte) : (s.writeBytes ks bs).nodeid = s.nodeid := rfl
@[simp] theorem State.writeBytes_routes (s : State) (ks : List Nat) (bs : List Byte) : (s.writeBytes ks bs).routes = s.routes := rfl
@[simp] theorem State.writeBytes_incoming (s : State) (ks : List Nat) (bs : List Byte) : (s.writeBytes ks bs).incoming = s.incoming := rfl
@[simp] theorem State.writeBytes_agenda (s : State) (ks : List Nat) (bs : List Byte) : (s.writeBytes ks bs).agenda = s.agenda := rfl
@[simp] theorem State.writeBytes_cur (s : State) (ks : List Nat) (bs : List Byte) : (s.writeBytes ks bs).cur = s.cur := rfl
@[simp] theorem State.writeBytes_draws (s : State) (ks : List Nat) (bs : List Byte) : (s.writeBytes ks bs).draws = s.draws := rfl
@[simp] theorem State.writeBytes_nextId (s : State) (ks : List Nat) (bs : List Byte) : (s.writeBytes ks bs).nextId = s.nextId := rfl
@[simp] theorem State.writeBytes_uses (s : State) (ks : List Nat) (bs : List Byte) : (s.writeBytes ks bs).uses = s.uses := rfl
@[simp] theorem State.writeBytes_ports (s : State) (ks : List Nat) (bs : List Byte) : (s.writeBytes ks bs).ports = s.ports := rfl

@[simp] theorem State.writeBytes_mem (s : State) (ks : List Nat) (bs : List Byte) : (s.writeBytes ks bs).mem = Mem.writeAll s.mem ks bs := rfl
/-! ### setMark -/

@[simp] theorem State.setMark_clock (s : State) (k : Nat) (on : Bool) : (s.setMark k on).clock = s.clock := rfl
@[simp] theorem State.setMark_mem (s : State) (k : Nat) (on : Bool) : (s.setMark k on).mem = s.mem := rfl
@[simp] theorem State.setMark_warps (s : State) (k : Nat) (on : Bool) : (s.setMark k on).warps = s.warps := rfl
@[simp] theorem State.setMark_cores (s : State) (k : Nat) (on : Bool) : (s.setMark k on).cores = s.cores := rfl
@[simp] theorem State.setMark_clusters (s : State) (k : Nat) (on : Bool) : (s.setMark k on).clusters = s.clusters := rfl
@[simp] theorem State.setMark_dies (s : State) (k : Nat) (on : Bool) : (s.setMark k on).dies = s.dies := rfl
@[simp] theorem State.setMark_procs (s : State) (k : Nat) (on : Bool) : (s.setMark k on).procs = s.procs := rfl
@[simp] theorem State.setMark_scopes (s : State) (k : Nat) (on : Bool) : (s.setMark k on).scopes = s.scopes := rfl
@[simp] theorem State.setMark_generation (s : State) (k : Nat) (on : Bool) : (s.setMark k on).generation = s.generation := rfl
@[simp] theorem State.setMark_ensembles (s : State) (k : Nat) (on : Bool) : (s.setMark k on).ensembles = s.ensembles := rfl
@[simp] theorem State.setMark_flights (s : State) (k : Nat) (on : Bool) : (s.setMark k on).flights = s.flights := rfl
@[simp] theorem State.setMark_held (s : State) (k : Nat) (on : Bool) : (s.setMark k on).held = s.held := rfl
@[simp] theorem State.setMark_saved (s : State) (k : Nat) (on : Bool) : (s.setMark k on).saved = s.saved := rfl
@[simp] theorem State.setMark_saving (s : State) (k : Nat) (on : Bool) : (s.setMark k on).saving = s.saving := rfl
@[simp] theorem State.setMark_transit (s : State) (k : Nat) (on : Bool) : (s.setMark k on).transit = s.transit := rfl
@[simp] theorem State.setMark_taking (s : State) (k : Nat) (on : Bool) : (s.setMark k on).taking = s.taking := rfl
@[simp] theorem State.setMark_notices (s : State) (k : Nat) (on : Bool) : (s.setMark k on).notices = s.notices := rfl
@[simp] theorem State.setMark_runtime (s : State) (k : Nat) (on : Bool) : (s.setMark k on).runtime = s.runtime := rfl
@[simp] theorem State.setMark_hotness (s : State) (k : Nat) (on : Bool) : (s.setMark k on).hotness = s.hotness := rfl
@[simp] theorem State.setMark_halvings (s : State) (k : Nat) (on : Bool) : (s.setMark k on).halvings = s.halvings := rfl
@[simp] theorem State.setMark_samples (s : State) (k : Nat) (on : Bool) : (s.setMark k on).samples = s.samples := rfl
@[simp] theorem State.setMark_promotions (s : State) (k : Nat) (on : Bool) : (s.setMark k on).promotions = s.promotions := rfl
@[simp] theorem State.setMark_workSeq (s : State) (k : Nat) (on : Bool) : (s.setMark k on).workSeq = s.workSeq := rfl
@[simp] theorem State.setMark_pkg (s : State) (k : Nat) (on : Bool) : (s.setMark k on).pkg = s.pkg := rfl
@[simp] theorem State.setMark_nodeid (s : State) (k : Nat) (on : Bool) : (s.setMark k on).nodeid = s.nodeid := rfl
@[simp] theorem State.setMark_routes (s : State) (k : Nat) (on : Bool) : (s.setMark k on).routes = s.routes := rfl
@[simp] theorem State.setMark_incoming (s : State) (k : Nat) (on : Bool) : (s.setMark k on).incoming = s.incoming := rfl
@[simp] theorem State.setMark_agenda (s : State) (k : Nat) (on : Bool) : (s.setMark k on).agenda = s.agenda := rfl
@[simp] theorem State.setMark_cur (s : State) (k : Nat) (on : Bool) : (s.setMark k on).cur = s.cur := rfl
@[simp] theorem State.setMark_draws (s : State) (k : Nat) (on : Bool) : (s.setMark k on).draws = s.draws := rfl
@[simp] theorem State.setMark_nextId (s : State) (k : Nat) (on : Bool) : (s.setMark k on).nextId = s.nextId := rfl
@[simp] theorem State.setMark_uses (s : State) (k : Nat) (on : Bool) : (s.setMark k on).uses = s.uses := rfl
@[simp] theorem State.setMark_ports (s : State) (k : Nat) (on : Bool) : (s.setMark k on).ports = s.ports := rfl

/-! ### raise -/

@[simp] theorem State.raise_clock (s : State) (v : Nat) : (s.raise v).clock = s.clock := rfl
@[simp] theorem State.raise_mem (s : State) (v : Nat) : (s.raise v).mem = s.mem := rfl
@[simp] theorem State.raise_marks (s : State) (v : Nat) : (s.raise v).marks = s.marks := rfl
@[simp] theorem State.raise_warps (s : State) (v : Nat) : (s.raise v).warps = s.warps := rfl
@[simp] theorem State.raise_cores (s : State) (v : Nat) : (s.raise v).cores = s.cores := rfl
@[simp] theorem State.raise_clusters (s : State) (v : Nat) : (s.raise v).clusters = s.clusters := rfl
@[simp] theorem State.raise_dies (s : State) (v : Nat) : (s.raise v).dies = s.dies := rfl
@[simp] theorem State.raise_procs (s : State) (v : Nat) : (s.raise v).procs = s.procs := rfl
@[simp] theorem State.raise_scopes (s : State) (v : Nat) : (s.raise v).scopes = s.scopes := rfl
@[simp] theorem State.raise_generation (s : State) (v : Nat) : (s.raise v).generation = s.generation := rfl
@[simp] theorem State.raise_ensembles (s : State) (v : Nat) : (s.raise v).ensembles = s.ensembles := rfl
@[simp] theorem State.raise_flights (s : State) (v : Nat) : (s.raise v).flights = s.flights := rfl
@[simp] theorem State.raise_held (s : State) (v : Nat) : (s.raise v).held = s.held := rfl
@[simp] theorem State.raise_saved (s : State) (v : Nat) : (s.raise v).saved = s.saved := rfl
@[simp] theorem State.raise_saving (s : State) (v : Nat) : (s.raise v).saving = s.saving := rfl
@[simp] theorem State.raise_transit (s : State) (v : Nat) : (s.raise v).transit = s.transit := rfl
@[simp] theorem State.raise_taking (s : State) (v : Nat) : (s.raise v).taking = s.taking := rfl
@[simp] theorem State.raise_notices (s : State) (v : Nat) : (s.raise v).notices = s.notices := rfl
@[simp] theorem State.raise_runtime (s : State) (v : Nat) : (s.raise v).runtime = s.runtime := rfl
@[simp] theorem State.raise_hotness (s : State) (v : Nat) : (s.raise v).hotness = s.hotness := rfl
@[simp] theorem State.raise_halvings (s : State) (v : Nat) : (s.raise v).halvings = s.halvings := rfl
@[simp] theorem State.raise_samples (s : State) (v : Nat) : (s.raise v).samples = s.samples := rfl
@[simp] theorem State.raise_promotions (s : State) (v : Nat) : (s.raise v).promotions = s.promotions := rfl
@[simp] theorem State.raise_workSeq (s : State) (v : Nat) : (s.raise v).workSeq = s.workSeq := rfl
@[simp] theorem State.raise_nodeid (s : State) (v : Nat) : (s.raise v).nodeid = s.nodeid := rfl
@[simp] theorem State.raise_routes (s : State) (v : Nat) : (s.raise v).routes = s.routes := rfl
@[simp] theorem State.raise_incoming (s : State) (v : Nat) : (s.raise v).incoming = s.incoming := rfl
@[simp] theorem State.raise_agenda (s : State) (v : Nat) : (s.raise v).agenda = s.agenda := rfl
@[simp] theorem State.raise_cur (s : State) (v : Nat) : (s.raise v).cur = s.cur := rfl
@[simp] theorem State.raise_draws (s : State) (v : Nat) : (s.raise v).draws = s.draws := rfl
@[simp] theorem State.raise_nextId (s : State) (v : Nat) : (s.raise v).nextId = s.nextId := rfl
@[simp] theorem State.raise_uses (s : State) (v : Nat) : (s.raise v).uses = s.uses := rfl
@[simp] theorem State.raise_ports (s : State) (v : Nat) : (s.raise v).ports = s.ports := rfl

/-! ### setDieState -/

@[simp] theorem State.setDieState_clock (s : State) (d v : Nat) : (s.setDieState d v).clock = s.clock := rfl
@[simp] theorem State.setDieState_mem (s : State) (d v : Nat) : (s.setDieState d v).mem = s.mem := rfl
@[simp] theorem State.setDieState_marks (s : State) (d v : Nat) : (s.setDieState d v).marks = s.marks := rfl
@[simp] theorem State.setDieState_warps (s : State) (d v : Nat) : (s.setDieState d v).warps = s.warps := rfl
@[simp] theorem State.setDieState_cores (s : State) (d v : Nat) : (s.setDieState d v).cores = s.cores := rfl
@[simp] theorem State.setDieState_clusters (s : State) (d v : Nat) : (s.setDieState d v).clusters = s.clusters := rfl
@[simp] theorem State.setDieState_dies (s : State) (d v : Nat) : (s.setDieState d v).dies = s.dies := rfl
@[simp] theorem State.setDieState_procs (s : State) (d v : Nat) : (s.setDieState d v).procs = s.procs := rfl
@[simp] theorem State.setDieState_scopes (s : State) (d v : Nat) : (s.setDieState d v).scopes = s.scopes := rfl
@[simp] theorem State.setDieState_generation (s : State) (d v : Nat) : (s.setDieState d v).generation = s.generation := rfl
@[simp] theorem State.setDieState_ensembles (s : State) (d v : Nat) : (s.setDieState d v).ensembles = s.ensembles := rfl
@[simp] theorem State.setDieState_flights (s : State) (d v : Nat) : (s.setDieState d v).flights = s.flights := rfl
@[simp] theorem State.setDieState_held (s : State) (d v : Nat) : (s.setDieState d v).held = s.held := rfl
@[simp] theorem State.setDieState_saved (s : State) (d v : Nat) : (s.setDieState d v).saved = s.saved := rfl
@[simp] theorem State.setDieState_saving (s : State) (d v : Nat) : (s.setDieState d v).saving = s.saving := rfl
@[simp] theorem State.setDieState_transit (s : State) (d v : Nat) : (s.setDieState d v).transit = s.transit := rfl
@[simp] theorem State.setDieState_taking (s : State) (d v : Nat) : (s.setDieState d v).taking = s.taking := rfl
@[simp] theorem State.setDieState_notices (s : State) (d v : Nat) : (s.setDieState d v).notices = s.notices := rfl
@[simp] theorem State.setDieState_runtime (s : State) (d v : Nat) : (s.setDieState d v).runtime = s.runtime := rfl
@[simp] theorem State.setDieState_hotness (s : State) (d v : Nat) : (s.setDieState d v).hotness = s.hotness := rfl
@[simp] theorem State.setDieState_halvings (s : State) (d v : Nat) : (s.setDieState d v).halvings = s.halvings := rfl
@[simp] theorem State.setDieState_samples (s : State) (d v : Nat) : (s.setDieState d v).samples = s.samples := rfl
@[simp] theorem State.setDieState_promotions (s : State) (d v : Nat) : (s.setDieState d v).promotions = s.promotions := rfl
@[simp] theorem State.setDieState_workSeq (s : State) (d v : Nat) : (s.setDieState d v).workSeq = s.workSeq := rfl
@[simp] theorem State.setDieState_nodeid (s : State) (d v : Nat) : (s.setDieState d v).nodeid = s.nodeid := rfl
@[simp] theorem State.setDieState_routes (s : State) (d v : Nat) : (s.setDieState d v).routes = s.routes := rfl
@[simp] theorem State.setDieState_incoming (s : State) (d v : Nat) : (s.setDieState d v).incoming = s.incoming := rfl
@[simp] theorem State.setDieState_agenda (s : State) (d v : Nat) : (s.setDieState d v).agenda = s.agenda := rfl
@[simp] theorem State.setDieState_cur (s : State) (d v : Nat) : (s.setDieState d v).cur = s.cur := rfl
@[simp] theorem State.setDieState_draws (s : State) (d v : Nat) : (s.setDieState d v).draws = s.draws := rfl
@[simp] theorem State.setDieState_nextId (s : State) (d v : Nat) : (s.setDieState d v).nextId = s.nextId := rfl
@[simp] theorem State.setDieState_uses (s : State) (d v : Nat) : (s.setDieState d v).uses = s.uses := rfl
@[simp] theorem State.setDieState_ports (s : State) (d v : Nat) : (s.setDieState d v).ports = s.ports := rfl

/-- Giving up an issue slot changes the cores alone. -/
theorem State.freeSlot_eq (s : State) (w : Nat) : s.freeSlot w = { s with cores := (s.freeSlot w).cores } := by
  unfold State.freeSlot
  dsimp only
  split
  · split <;> rfl
  · rfl

/-! ### freeSlot -/

@[simp] theorem State.freeSlot_clock (s : State) (w : Nat) : (s.freeSlot w).clock = s.clock := by rw [State.freeSlot_eq]
@[simp] theorem State.freeSlot_mem (s : State) (w : Nat) : (s.freeSlot w).mem = s.mem := by rw [State.freeSlot_eq]
@[simp] theorem State.freeSlot_marks (s : State) (w : Nat) : (s.freeSlot w).marks = s.marks := by rw [State.freeSlot_eq]
@[simp] theorem State.freeSlot_warps (s : State) (w : Nat) : (s.freeSlot w).warps = s.warps := by rw [State.freeSlot_eq]
@[simp] theorem State.freeSlot_clusters (s : State) (w : Nat) : (s.freeSlot w).clusters = s.clusters := by rw [State.freeSlot_eq]
@[simp] theorem State.freeSlot_dies (s : State) (w : Nat) : (s.freeSlot w).dies = s.dies := by rw [State.freeSlot_eq]
@[simp] theorem State.freeSlot_procs (s : State) (w : Nat) : (s.freeSlot w).procs = s.procs := by rw [State.freeSlot_eq]
@[simp] theorem State.freeSlot_scopes (s : State) (w : Nat) : (s.freeSlot w).scopes = s.scopes := by rw [State.freeSlot_eq]
@[simp] theorem State.freeSlot_generation (s : State) (w : Nat) : (s.freeSlot w).generation = s.generation := by rw [State.freeSlot_eq]
@[simp] theorem State.freeSlot_ensembles (s : State) (w : Nat) : (s.freeSlot w).ensembles = s.ensembles := by rw [State.freeSlot_eq]
@[simp] theorem State.freeSlot_flights (s : State) (w : Nat) : (s.freeSlot w).flights = s.flights := by rw [State.freeSlot_eq]
@[simp] theorem State.freeSlot_held (s : State) (w : Nat) : (s.freeSlot w).held = s.held := by rw [State.freeSlot_eq]
@[simp] theorem State.freeSlot_saved (s : State) (w : Nat) : (s.freeSlot w).saved = s.saved := by rw [State.freeSlot_eq]
@[simp] theorem State.freeSlot_saving (s : State) (w : Nat) : (s.freeSlot w).saving = s.saving := by rw [State.freeSlot_eq]
@[simp] theorem State.freeSlot_transit (s : State) (w : Nat) : (s.freeSlot w).transit = s.transit := by rw [State.freeSlot_eq]
@[simp] theorem State.freeSlot_taking (s : State) (w : Nat) : (s.freeSlot w).taking = s.taking := by rw [State.freeSlot_eq]
@[simp] theorem State.freeSlot_notices (s : State) (w : Nat) : (s.freeSlot w).notices = s.notices := by rw [State.freeSlot_eq]
@[simp] theorem State.freeSlot_runtime (s : State) (w : Nat) : (s.freeSlot w).runtime = s.runtime := by rw [State.freeSlot_eq]
@[simp] theorem State.freeSlot_hotness (s : State) (w : Nat) : (s.freeSlot w).hotness = s.hotness := by rw [State.freeSlot_eq]
@[simp] theorem State.freeSlot_halvings (s : State) (w : Nat) : (s.freeSlot w).halvings = s.halvings := by rw [State.freeSlot_eq]
@[simp] theorem State.freeSlot_samples (s : State) (w : Nat) : (s.freeSlot w).samples = s.samples := by rw [State.freeSlot_eq]
@[simp] theorem State.freeSlot_promotions (s : State) (w : Nat) : (s.freeSlot w).promotions = s.promotions := by rw [State.freeSlot_eq]
@[simp] theorem State.freeSlot_workSeq (s : State) (w : Nat) : (s.freeSlot w).workSeq = s.workSeq := by rw [State.freeSlot_eq]
@[simp] theorem State.freeSlot_pkg (s : State) (w : Nat) : (s.freeSlot w).pkg = s.pkg := by rw [State.freeSlot_eq]
@[simp] theorem State.freeSlot_nodeid (s : State) (w : Nat) : (s.freeSlot w).nodeid = s.nodeid := by rw [State.freeSlot_eq]
@[simp] theorem State.freeSlot_routes (s : State) (w : Nat) : (s.freeSlot w).routes = s.routes := by rw [State.freeSlot_eq]
@[simp] theorem State.freeSlot_incoming (s : State) (w : Nat) : (s.freeSlot w).incoming = s.incoming := by rw [State.freeSlot_eq]
@[simp] theorem State.freeSlot_agenda (s : State) (w : Nat) : (s.freeSlot w).agenda = s.agenda := by rw [State.freeSlot_eq]
@[simp] theorem State.freeSlot_cur (s : State) (w : Nat) : (s.freeSlot w).cur = s.cur := by rw [State.freeSlot_eq]
@[simp] theorem State.freeSlot_draws (s : State) (w : Nat) : (s.freeSlot w).draws = s.draws := by rw [State.freeSlot_eq]
@[simp] theorem State.freeSlot_nextId (s : State) (w : Nat) : (s.freeSlot w).nextId = s.nextId := by rw [State.freeSlot_eq]
@[simp] theorem State.freeSlot_uses (s : State) (w : Nat) : (s.freeSlot w).uses = s.uses := by rw [State.freeSlot_eq]
@[simp] theorem State.freeSlot_ports (s : State) (w : Nat) : (s.freeSlot w).ports = s.ports := by rw [State.freeSlot_eq]

/-! ### hold -/

@[simp] theorem State.hold_clock (s : State) (w : Nat) (x : Wait) : (s.hold w x).clock = s.clock := by simp [State.hold]
@[simp] theorem State.hold_mem (s : State) (w : Nat) (x : Wait) : (s.hold w x).mem = s.mem := by simp [State.hold]
@[simp] theorem State.hold_marks (s : State) (w : Nat) (x : Wait) : (s.hold w x).marks = s.marks := by simp [State.hold]
@[simp] theorem State.hold_clusters (s : State) (w : Nat) (x : Wait) : (s.hold w x).clusters = s.clusters := by simp [State.hold]
@[simp] theorem State.hold_dies (s : State) (w : Nat) (x : Wait) : (s.hold w x).dies = s.dies := by simp [State.hold]
@[simp] theorem State.hold_procs (s : State) (w : Nat) (x : Wait) : (s.hold w x).procs = s.procs := by simp [State.hold]
@[simp] theorem State.hold_scopes (s : State) (w : Nat) (x : Wait) : (s.hold w x).scopes = s.scopes := by simp [State.hold]
@[simp] theorem State.hold_generation (s : State) (w : Nat) (x : Wait) : (s.hold w x).generation = s.generation := by simp [State.hold]
@[simp] theorem State.hold_ensembles (s : State) (w : Nat) (x : Wait) : (s.hold w x).ensembles = s.ensembles := by simp [State.hold]
@[simp] theorem State.hold_flights (s : State) (w : Nat) (x : Wait) : (s.hold w x).flights = s.flights := by simp [State.hold]
@[simp] theorem State.hold_held (s : State) (w : Nat) (x : Wait) : (s.hold w x).held = s.held := by simp [State.hold]
@[simp] theorem State.hold_saved (s : State) (w : Nat) (x : Wait) : (s.hold w x).saved = s.saved := by simp [State.hold]
@[simp] theorem State.hold_saving (s : State) (w : Nat) (x : Wait) : (s.hold w x).saving = s.saving := by simp [State.hold]
@[simp] theorem State.hold_transit (s : State) (w : Nat) (x : Wait) : (s.hold w x).transit = s.transit := by simp [State.hold]
@[simp] theorem State.hold_taking (s : State) (w : Nat) (x : Wait) : (s.hold w x).taking = s.taking := by simp [State.hold]
@[simp] theorem State.hold_notices (s : State) (w : Nat) (x : Wait) : (s.hold w x).notices = s.notices := by simp [State.hold]
@[simp] theorem State.hold_runtime (s : State) (w : Nat) (x : Wait) : (s.hold w x).runtime = s.runtime := by simp [State.hold]
@[simp] theorem State.hold_hotness (s : State) (w : Nat) (x : Wait) : (s.hold w x).hotness = s.hotness := by simp [State.hold]
@[simp] theorem State.hold_halvings (s : State) (w : Nat) (x : Wait) : (s.hold w x).halvings = s.halvings := by simp [State.hold]
@[simp] theorem State.hold_samples (s : State) (w : Nat) (x : Wait) : (s.hold w x).samples = s.samples := by simp [State.hold]
@[simp] theorem State.hold_promotions (s : State) (w : Nat) (x : Wait) : (s.hold w x).promotions = s.promotions := by simp [State.hold]
@[simp] theorem State.hold_workSeq (s : State) (w : Nat) (x : Wait) : (s.hold w x).workSeq = s.workSeq := by simp [State.hold]
@[simp] theorem State.hold_pkg (s : State) (w : Nat) (x : Wait) : (s.hold w x).pkg = s.pkg := by simp [State.hold]
@[simp] theorem State.hold_nodeid (s : State) (w : Nat) (x : Wait) : (s.hold w x).nodeid = s.nodeid := by simp [State.hold]
@[simp] theorem State.hold_routes (s : State) (w : Nat) (x : Wait) : (s.hold w x).routes = s.routes := by simp [State.hold]
@[simp] theorem State.hold_incoming (s : State) (w : Nat) (x : Wait) : (s.hold w x).incoming = s.incoming := by simp [State.hold]
@[simp] theorem State.hold_agenda (s : State) (w : Nat) (x : Wait) : (s.hold w x).agenda = s.agenda := by simp [State.hold]
@[simp] theorem State.hold_cur (s : State) (w : Nat) (x : Wait) : (s.hold w x).cur = s.cur := by simp [State.hold]
@[simp] theorem State.hold_draws (s : State) (w : Nat) (x : Wait) : (s.hold w x).draws = s.draws := by simp [State.hold]
@[simp] theorem State.hold_nextId (s : State) (w : Nat) (x : Wait) : (s.hold w x).nextId = s.nextId := by simp [State.hold]
@[simp] theorem State.hold_uses (s : State) (w : Nat) (x : Wait) : (s.hold w x).uses = s.uses := by simp [State.hold]
@[simp] theorem State.hold_ports (s : State) (w : Nat) (x : Wait) : (s.hold w x).ports = s.ports := by simp [State.hold]

/-- Retirement changes the warps and the cores alone. -/
theorem State.retire_only (s : State) (w : Nat) (f : Frame) (b : Bool) :
    ∃ ws cs, s.retire w f b = { s with cores := cs, warps := ws } := by
  unfold State.retire
  split
  · exact ⟨_, _, rfl⟩
  · extract_lets
    split
    · rw [State.freeSlot_eq]; exact ⟨_, _, rfl⟩
    · exact ⟨_, _, rfl⟩

/-! ### retire -/

@[simp] theorem State.retire_clock (s : State) (w : Nat) (f : Frame) (b : Bool) : (s.retire w f b).clock = s.clock := by obtain ⟨_, _, h⟩ := s.retire_only w f b; rw [h]
@[simp] theorem State.retire_mem (s : State) (w : Nat) (f : Frame) (b : Bool) : (s.retire w f b).mem = s.mem := by obtain ⟨_, _, h⟩ := s.retire_only w f b; rw [h]
@[simp] theorem State.retire_marks (s : State) (w : Nat) (f : Frame) (b : Bool) : (s.retire w f b).marks = s.marks := by obtain ⟨_, _, h⟩ := s.retire_only w f b; rw [h]
@[simp] theorem State.retire_clusters (s : State) (w : Nat) (f : Frame) (b : Bool) : (s.retire w f b).clusters = s.clusters := by obtain ⟨_, _, h⟩ := s.retire_only w f b; rw [h]
@[simp] theorem State.retire_dies (s : State) (w : Nat) (f : Frame) (b : Bool) : (s.retire w f b).dies = s.dies := by obtain ⟨_, _, h⟩ := s.retire_only w f b; rw [h]
@[simp] theorem State.retire_procs (s : State) (w : Nat) (f : Frame) (b : Bool) : (s.retire w f b).procs = s.procs := by obtain ⟨_, _, h⟩ := s.retire_only w f b; rw [h]
@[simp] theorem State.retire_scopes (s : State) (w : Nat) (f : Frame) (b : Bool) : (s.retire w f b).scopes = s.scopes := by obtain ⟨_, _, h⟩ := s.retire_only w f b; rw [h]
@[simp] theorem State.retire_generation (s : State) (w : Nat) (f : Frame) (b : Bool) : (s.retire w f b).generation = s.generation := by obtain ⟨_, _, h⟩ := s.retire_only w f b; rw [h]
@[simp] theorem State.retire_ensembles (s : State) (w : Nat) (f : Frame) (b : Bool) : (s.retire w f b).ensembles = s.ensembles := by obtain ⟨_, _, h⟩ := s.retire_only w f b; rw [h]
@[simp] theorem State.retire_flights (s : State) (w : Nat) (f : Frame) (b : Bool) : (s.retire w f b).flights = s.flights := by obtain ⟨_, _, h⟩ := s.retire_only w f b; rw [h]
@[simp] theorem State.retire_held (s : State) (w : Nat) (f : Frame) (b : Bool) : (s.retire w f b).held = s.held := by obtain ⟨_, _, h⟩ := s.retire_only w f b; rw [h]
@[simp] theorem State.retire_saved (s : State) (w : Nat) (f : Frame) (b : Bool) : (s.retire w f b).saved = s.saved := by obtain ⟨_, _, h⟩ := s.retire_only w f b; rw [h]
@[simp] theorem State.retire_saving (s : State) (w : Nat) (f : Frame) (b : Bool) : (s.retire w f b).saving = s.saving := by obtain ⟨_, _, h⟩ := s.retire_only w f b; rw [h]
@[simp] theorem State.retire_transit (s : State) (w : Nat) (f : Frame) (b : Bool) : (s.retire w f b).transit = s.transit := by obtain ⟨_, _, h⟩ := s.retire_only w f b; rw [h]
@[simp] theorem State.retire_taking (s : State) (w : Nat) (f : Frame) (b : Bool) : (s.retire w f b).taking = s.taking := by obtain ⟨_, _, h⟩ := s.retire_only w f b; rw [h]
@[simp] theorem State.retire_notices (s : State) (w : Nat) (f : Frame) (b : Bool) : (s.retire w f b).notices = s.notices := by obtain ⟨_, _, h⟩ := s.retire_only w f b; rw [h]
@[simp] theorem State.retire_runtime (s : State) (w : Nat) (f : Frame) (b : Bool) : (s.retire w f b).runtime = s.runtime := by obtain ⟨_, _, h⟩ := s.retire_only w f b; rw [h]
@[simp] theorem State.retire_hotness (s : State) (w : Nat) (f : Frame) (b : Bool) : (s.retire w f b).hotness = s.hotness := by obtain ⟨_, _, h⟩ := s.retire_only w f b; rw [h]
@[simp] theorem State.retire_halvings (s : State) (w : Nat) (f : Frame) (b : Bool) : (s.retire w f b).halvings = s.halvings := by obtain ⟨_, _, h⟩ := s.retire_only w f b; rw [h]
@[simp] theorem State.retire_samples (s : State) (w : Nat) (f : Frame) (b : Bool) : (s.retire w f b).samples = s.samples := by obtain ⟨_, _, h⟩ := s.retire_only w f b; rw [h]
@[simp] theorem State.retire_promotions (s : State) (w : Nat) (f : Frame) (b : Bool) : (s.retire w f b).promotions = s.promotions := by obtain ⟨_, _, h⟩ := s.retire_only w f b; rw [h]
@[simp] theorem State.retire_workSeq (s : State) (w : Nat) (f : Frame) (b : Bool) : (s.retire w f b).workSeq = s.workSeq := by obtain ⟨_, _, h⟩ := s.retire_only w f b; rw [h]
@[simp] theorem State.retire_pkg (s : State) (w : Nat) (f : Frame) (b : Bool) : (s.retire w f b).pkg = s.pkg := by obtain ⟨_, _, h⟩ := s.retire_only w f b; rw [h]
@[simp] theorem State.retire_nodeid (s : State) (w : Nat) (f : Frame) (b : Bool) : (s.retire w f b).nodeid = s.nodeid := by obtain ⟨_, _, h⟩ := s.retire_only w f b; rw [h]
@[simp] theorem State.retire_routes (s : State) (w : Nat) (f : Frame) (b : Bool) : (s.retire w f b).routes = s.routes := by obtain ⟨_, _, h⟩ := s.retire_only w f b; rw [h]
@[simp] theorem State.retire_incoming (s : State) (w : Nat) (f : Frame) (b : Bool) : (s.retire w f b).incoming = s.incoming := by obtain ⟨_, _, h⟩ := s.retire_only w f b; rw [h]
@[simp] theorem State.retire_agenda (s : State) (w : Nat) (f : Frame) (b : Bool) : (s.retire w f b).agenda = s.agenda := by obtain ⟨_, _, h⟩ := s.retire_only w f b; rw [h]
@[simp] theorem State.retire_cur (s : State) (w : Nat) (f : Frame) (b : Bool) : (s.retire w f b).cur = s.cur := by obtain ⟨_, _, h⟩ := s.retire_only w f b; rw [h]
@[simp] theorem State.retire_draws (s : State) (w : Nat) (f : Frame) (b : Bool) : (s.retire w f b).draws = s.draws := by obtain ⟨_, _, h⟩ := s.retire_only w f b; rw [h]
@[simp] theorem State.retire_nextId (s : State) (w : Nat) (f : Frame) (b : Bool) : (s.retire w f b).nextId = s.nextId := by obtain ⟨_, _, h⟩ := s.retire_only w f b; rw [h]
@[simp] theorem State.retire_uses (s : State) (w : Nat) (f : Frame) (b : Bool) : (s.retire w f b).uses = s.uses := by obtain ⟨_, _, h⟩ := s.retire_only w f b; rw [h]
@[simp] theorem State.retire_ports (s : State) (w : Nat) (f : Frame) (b : Bool) : (s.retire w f b).ports = s.ports := by obtain ⟨_, _, h⟩ := s.retire_only w f b; rw [h]

end Sys2Proof.Machine
end

