-- ==== Sys2Proof/Laws/Tables.lean ====
section
/-! SUPPORT. Tables and the bytes of memory: what a read finds after a write, and that every write keeps the canonical form. -/

namespace Sys2Proof.Machine

/-! ## Tables -/

@[simp] theorem Tbl.get?_nil {α : Type} (k : Nat) : Tbl.get? ([] : Tbl α) k = none := rfl

@[simp] theorem Tbl.get?_set_self {α : Type} (t : Tbl α) (k : Nat) (v : α) : (t.set k v).get? k = some v := by
  induction t with
  | nil => simp [Tbl.set, Tbl.get?]
  | cons p t ih =>
    obtain ⟨i, y⟩ := p
    unfold Tbl.set
    split
    · simp [Tbl.get?]
    · split
      · simp [Tbl.get?]
      · next h => simp [Tbl.get?, h, ih]

theorem Tbl.get?_set_ne {α : Type} (t : Tbl α) {k j : Nat} (v : α) (h : j ≠ k) : (t.set k v).get? j = t.get? j := by
  induction t with
  | nil => simp [Tbl.set, Tbl.get?, h]
  | cons p t ih =>
    obtain ⟨i, y⟩ := p
    unfold Tbl.set
    split
    · simp [Tbl.get?, h]
    · split
      · next e => subst e; simp [Tbl.get?, h]
      · simp [Tbl.get?, ih]

theorem Tbl.get?_set {α : Type} (t : Tbl α) (k j : Nat) (v : α) : (t.set k v).get? j = if j = k then some v else t.get? j := by
  split
  · next h => subst h; simp
  · next h => exact Tbl.get?_set_ne t v h

theorem Tbl.get?_erase {α : Type} (t : Tbl α) (k j : Nat) : (t.erase k).get? j = if j = k then none else t.get? j := by
  unfold Tbl.erase
  induction t with
  | nil => simp [Tbl.get?]
  | cons p t ih =>
    obtain ⟨i, y⟩ := p
    rw [List.filter_cons]
    by_cases h : i = k
    · subst h
      simp only [bne_self_eq_false, Bool.false_eq_true, if_false, ih]
      by_cases e : j = i <;> simp [e, Tbl.get?]
    · simp only [bne_iff_ne, ne_eq, h, not_false_eq_true, if_true, Tbl.get?, ih]
      by_cases e : j = i
      · subst e; simp [h]
      · simp [e]

@[simp] theorem Tbl.get?_erase_self {α : Type} (t : Tbl α) (k : Nat) : (t.erase k).get? k = none := by simp [Tbl.get?_erase]

theorem Tbl.get?_erase_ne {α : Type} (t : Tbl α) {k j : Nat} (h : j ≠ k) : (t.erase k).get? j = t.get? j := by simp [Tbl.get?_erase, h]

/-- A second write of an entry replaces the first. -/
@[simp] theorem Tbl.set_set {α : Type} (t : Tbl α) (k : Nat) (u v : α) : (t.set k u).set k v = t.set k v := by
  induction t with
  | nil => simp [Tbl.set]
  | cons p t ih =>
    obtain ⟨i, y⟩ := p
    by_cases h : k < i
    · simp [Tbl.set, h]
    · by_cases e : k = i
      · simp [Tbl.set, e]
      · simp [Tbl.set, h, e, ih]

/-! ## Memory -/

theorem Mem.wf_cons_iff (a : Nat) (b : Byte) (m : List Host.Cell) :
    Mem.wf ((a, b) :: m) = true ↔ b ≠ Mem.unlisted ∧ Mem.wf m = true ∧ ∀ c ∈ m, a < c.1 := by
  induction m generalizing a b with
  | nil => simp [Mem.wf]
  | cons p m ih =>
    obtain ⟨c, d⟩ := p
    simp only [Mem.wf, Bool.and_eq_true, decide_eq_true_eq, bne_iff_ne, ih, List.mem_cons, forall_eq_or_imp]
    constructor
    · rintro ⟨⟨h1, h2⟩, h3, h4, h5⟩
      exact ⟨h2, ⟨h3, h4, h5⟩, h1, fun q hq => lt_trans h1 (h5 q hq)⟩
    · rintro ⟨h2, ⟨h3, h4, h5⟩, h1, _⟩
      exact ⟨⟨h1, h2⟩, h3, h4, h5⟩

theorem Mem.put_subset (m : List Host.Cell) (k : Nat) (v : Byte) : ∀ c ∈ Mem.put m k v, c = (k, v) ∨ c ∈ m := by
  induction m with
  | nil => simp [Mem.put]
  | cons p m ih =>
    obtain ⟨a, b⟩ := p
    intro c hc
    unfold Mem.put at hc
    split at hc
    · exact List.mem_cons.1 hc
    · split at hc
      · rcases List.mem_cons.1 hc with h | h
        · exact .inl h
        · exact .inr (List.mem_cons_of_mem _ h)
      · rcases List.mem_cons.1 hc with h | h
        · simp [h]
        · rcases ih c h with h | h
          · exact .inl h
          · exact .inr (List.mem_cons_of_mem _ h)

/-- Listed bytes that pass a test keep the canonical form. -/
theorem Mem.filter_wf {m : List Host.Cell} (h : Mem.wf m = true) (p : Host.Cell → Bool) : Mem.wf (m.filter p) = true := by
  induction m with
  | nil => rfl
  | cons c m ih =>
    obtain ⟨a, b⟩ := c
    have h' := (Mem.wf_cons_iff _ _ _).1 h
    rw [List.filter_cons]
    split
    · exact (Mem.wf_cons_iff _ _ _).2 ⟨h'.1, ih h'.2.1, fun c hc => h'.2.2 c (List.mem_filter.1 hc).1⟩
    · exact ih h'.2.1

theorem Mem.drop_wf {m : List Host.Cell} (h : Mem.wf m = true) (k : Nat) : Mem.wf (Mem.drop m k) = true := Mem.filter_wf h _

theorem Mem.put_wf {m : List Host.Cell} (h : Mem.wf m = true) (k : Nat) {v : Byte} (hv : v ≠ Mem.unlisted) : Mem.wf (Mem.put m k v) = true := by
  induction m with
  | nil => simp [Mem.put, Mem.wf, hv]
  | cons p m ih =>
    obtain ⟨a, b⟩ := p
    have h' := (Mem.wf_cons_iff _ _ _).1 h
    unfold Mem.put
    split
    · next hk =>
      refine (Mem.wf_cons_iff _ _ _).2 ⟨hv, h, fun c hc => ?_⟩
      rcases List.mem_cons.1 hc with e | e
      · simp [e, hk]
      · exact lt_trans hk (h'.2.2 c e)
    · split
      · next e => exact (Mem.wf_cons_iff _ _ _).2 ⟨hv, h'.2.1, fun c hc => by rw [e]; exact h'.2.2 c hc⟩
      · next h1 h2 =>
        refine (Mem.wf_cons_iff _ _ _).2 ⟨h'.1, ih h'.2.1, fun c hc => ?_⟩
        rcases Mem.put_subset m k v c hc with e | e
        · simp [e]; omega
        · exact h'.2.2 c e

/-- A write of one byte keeps the canonical form. -/
theorem Mem.write_wf {m : List Host.Cell} (h : Mem.wf m = true) (k : Nat) (v : Byte) : Mem.wf (Mem.write m k v) = true := by
  unfold Mem.write
  split
  · exact Mem.drop_wf h k
  · next hv => exact Mem.put_wf h k hv

/-- Writes of bytes keep the canonical form. -/
theorem Mem.writeAll_wf {m : List Host.Cell} (h : Mem.wf m = true) (ks : List Nat) (bs : List Byte) : Mem.wf (Mem.writeAll m ks bs) = true := by
  induction ks generalizing m bs with
  | nil => simpa [Mem.writeAll] using h
  | cons k ks ih =>
    cases bs with
    | nil => simpa [Mem.writeAll] using h
    | cons b bs => exact ih (Mem.write_wf h k b) bs

theorem Mem.clear_wf {m : List Host.Cell} (h : Mem.wf m = true) (lo n : Nat) : Mem.wf (Mem.clear m lo n) = true := Mem.filter_wf h _

theorem Mem.read_put (m : List Host.Cell) (k j : Nat) (v : Byte) : Mem.read (Mem.put m k v) j = if j = k then v else Mem.read m j := by
  induction m with
  | nil => simp [Mem.put, Mem.read]
  | cons p m ih =>
    obtain ⟨a, b⟩ := p
    unfold Mem.put
    split
    · simp [Mem.read]
    · split
      · next e => subst e; by_cases hj : j = k <;> simp [Mem.read, hj]
      · next h2 =>
        simp only [Mem.read, ih]
        by_cases hj : j = a
        · simp [hj, show a ≠ k from fun e => h2 e.symm]
        · simp [hj]

theorem Mem.read_drop (m : List Host.Cell) (k j : Nat) : Mem.read (Mem.drop m k) j = if j = k then Mem.unlisted else Mem.read m j := by
  unfold Mem.drop
  induction m with
  | nil => simp [Mem.read]
  | cons p m ih =>
    obtain ⟨a, b⟩ := p
    rw [List.filter_cons]
    by_cases h : a = k
    · subst h
      simp only [bne_self_eq_false, Bool.false_eq_true, if_false, ih]
      by_cases e : j = a <;> simp [e, Mem.read]
    · simp only [bne_iff_ne, ne_eq, h, not_false_eq_true, if_true, Mem.read, ih]
      by_cases e : j = a
      · subst e; simp [h]
      · simp [e]

/-- A byte written reads back, and no other byte changes. -/
theorem Mem.read_write (m : List Host.Cell) (k j : Nat) (v : Byte) : Mem.read (Mem.write m k v) j = if j = k then v else Mem.read m j := by
  unfold Mem.write
  split
  · next e => rw [Mem.read_drop, e]
  · exact Mem.read_put m k j v

/-- Bytes outside those written read as before. -/
theorem Mem.read_writeAll_out (m : List Host.Cell) (ks : List Nat) (bs : List Byte) {j : Nat} (hj : j ∉ ks) :
    Mem.read (Mem.writeAll m ks bs) j = Mem.read m j := by
  induction ks generalizing m bs with
  | nil => simp [Mem.writeAll]
  | cons k ks ih =>
    cases bs with
    | nil => simp [Mem.writeAll]
    | cons b bs =>
      rw [Mem.writeAll, ih _ bs (fun x => hj (List.mem_cons_of_mem _ x)), Mem.read_write]
      simp [show j ≠ k from fun e => hj (by simp [e])]

@[simp] theorem State.byte_setWarp (s : State) (w : Nat) (x : Warp) (k : Nat) : (s.setWarp w x).byte k = s.byte k := rfl

end Sys2Proof.Machine
end

