-- ==== Sys2Proof/Laws/Issue.lean ====
section
/-! SUPPORT. What the issue of an instruction does, said once: the state in which its body acts, and how reading, releasing and writing registers
change a warp. -/

namespace Sys2Proof.Machine

/-! ## Warps and their table -/

@[simp] theorem State.warp?_setWarp_self (s : State) (w : Nat) (x : Warp) : (s.setWarp w x).warp? w = some x := by
  simp [State.warp?, State.setWarp]

theorem State.warp?_setWarp_ne (s : State) {w v : Nat} (x : Warp) (h : v ≠ w) : (s.setWarp w x).warp? v = s.warp? v := by
  simp [State.warp?, State.setWarp, Tbl.get?_set_ne _ _ h]

@[simp] theorem State.setWarp_setWarp (s : State) (w : Nat) (x y : Warp) : (s.setWarp w x).setWarp w y = s.setWarp w y := by
  simp [State.setWarp]

@[simp] theorem State.modWarp_setWarp (s : State) (w : Nat) (x : Warp) (g : Warp → Warp) :
    (s.setWarp w x).modWarp w g = s.setWarp w (g x) := by
  simp [State.modWarp]

theorem State.modWarp_eq {s : State} {w : Nat} {x : Warp} (h : s.warp? w = some x) (g : Warp → Warp) : s.modWarp w g = s.setWarp w (g x) := by
  unfold State.warp? at h
  simp [State.modWarp, h]

/-! ## What an instruction does not touch -/

/-- `y` differs from `x` at most in its registers, their kept values, its wait, and the flag and pending trap of poison. -/
structure SameBut (x y : Warp) : Prop where
  still : y.still = x.still
  hw : y.hw = x.hw
  run : y.run = x.run

theorem SameBut.refl (x : Warp) : SameBut x x := ⟨rfl, rfl, rfl⟩
theorem SameBut.trans {x y z : Warp} (a : SameBut x y) (b : SameBut y z) : SameBut x z := ⟨b.still.trans a.still, b.hw.trans a.hw, b.run.trans a.run⟩

theorem SameBut.owner {x y : Warp} (h : SameBut x y) : y.owner = x.owner := (congrArg Warp.owner h.still : _)
theorem SameBut.preds {x y : Warp} (h : SameBut x y) : y.preds = x.preds := (congrArg Warp.preds h.still : _)
theorem SameBut.fp {x y : Warp} (h : SameBut x y) : y.fp = x.fp := (congrArg Warp.fp h.still : _)

theorem foldl_same {α : Type} (g : Warp → α → Warp) (hg : ∀ y a, SameBut y (g y a)) (l : List α) (x : Warp) : SameBut x (l.foldl g x) := by
  induction l generalizing x with
  | nil => exact .refl x
  | cons a l ih => exact (hg x a).trans (ih _)

theorem foldl_keeps {α β : Type} (g : Warp → α → Warp) (p : Warp → β) (hg : ∀ y a, p (g y a) = p y) (l : List α) (x : Warp) : p (l.foldl g x) = p x := by
  induction l generalizing x with
  | nil => rfl
  | cons a l ih => exact (ih _).trans (hg x a)

theorem Warp.poisonSeen_same (x : Warp) (pc : BitVec 57) : SameBut x (x.poisonSeen pc) := by
  refine ⟨?_, rfl, rfl⟩
  simp only [Warp.poisonSeen, Warp.still]
  split <;> rfl

@[simp] theorem Warp.poisonSeen_lbind (x : Warp) (pc : BitVec 57) (n : Nat) : (x.poisonSeen pc).lbind n = x.lbind n := rfl
@[simp] theorem Warp.poisonSeen_ubind (x : Warp) (pc : BitVec 57) (n : Nat) : (x.poisonSeen pc).ubind n = x.ubind n := rfl

theorem Warp.touch_same (x : Warp) (r : Reg) (stamp : Nat) : SameBut x (x.touch r stamp) := by
  cases r <;> simp only [Warp.touch] <;> split <;> exact ⟨rfl, rfl, rfl⟩

@[simp] theorem Warp.touch_trap (x : Warp) (r : Reg) (stamp : Nat) : (x.touch r stamp).trap = x.trap := by
  cases r <;> simp only [Warp.touch] <;> split <;> rfl

@[simp] theorem Warp.touch_psn (x : Warp) (r : Reg) (stamp : Nat) : (x.touch r stamp).psn = x.psn := by
  cases r <;> simp only [Warp.touch] <;> split <;> rfl

@[simp] theorem Warp.touch_lbind (x : Warp) (r : Reg) (stamp n : Nat) : (x.touch r stamp).lbind n = x.lbind n := by
  cases r with
  | x m =>
    simp only [Warp.touch]
    split
    · next q h =>
      simp only [Warp.lbind, Tbl.get?_set]
      split
      · next e => subst e; simp [h, LReg.plain]
      · rfl
    · rfl
  | k m => simp only [Warp.touch]; split <;> rfl

@[simp] theorem Warp.touch_ubind (x : Warp) (r : Reg) (stamp n : Nat) : (x.touch r stamp).ubind n = x.ubind n := by
  cases r with
  | k m =>
    simp only [Warp.touch]
    split
    · next q h =>
      simp only [Warp.ubind, Tbl.get?_set]
      split
      · next e => subst e; simp [h, UReg.plain]
      · rfl
    · rfl
  | x m => simp only [Warp.touch]; split <;> rfl

/-! ## Reading and releasing -/

/-- The flags that reading one register may raise (R26, R27). -/
def Warp.readOne (y : Warp) (x : Warp) (act : Mask) (pc : BitVec 57) (r : Reg) : Warp :=
  let (unbound, bad) := x.readFlaws r act
  let y := if unbound then { y with psn := true } else y
  if bad then y.poisonSeen pc else y

theorem Warp.readAll_def (x : Warp) (sh : Shape) (f : Frame) (act : Mask) (pc : BitVec 57) (stamp : Nat) :
    x.readAll sh f act pc stamp =
      ((sh.reads f).map (·.1)).foldl (fun y r => y.touch r stamp)
        (if act = 0 then x else ((sh.reads f).map (·.1)).foldl (fun y r => y.readOne x act pc r) x) := rfl

theorem Warp.readOne_same (y x : Warp) (act : Mask) (pc : BitVec 57) (r : Reg) : SameBut y (y.readOne x act pc r) := by
  unfold Warp.readOne
  have h : ∀ b : Bool, SameBut y (if b then { y with psn := true } else y) := by intro b; cases b <;> exact ⟨rfl, rfl, rfl⟩
  split
  dsimp only
  split
  · exact (h _).trans (Warp.poisonSeen_same _ _)
  · exact h _

theorem Warp.readOne_lbind (y x : Warp) (act : Mask) (pc : BitVec 57) (r : Reg) (n : Nat) : (y.readOne x act pc r).lbind n = y.lbind n := by
  unfold Warp.readOne
  split
  extract_lets u
  have h : u.lbind n = y.lbind n := by simp only [u]; split <;> rfl
  split
  · rw [Warp.poisonSeen_lbind, h]
  · exact h

theorem Warp.readOne_ubind (y x : Warp) (act : Mask) (pc : BitVec 57) (r : Reg) (n : Nat) : (y.readOne x act pc r).ubind n = y.ubind n := by
  unfold Warp.readOne
  split
  extract_lets u
  have h : u.ubind n = y.ubind n := by simp only [u]; split <;> rfl
  split
  · rw [Warp.poisonSeen_ubind, h]
  · exact h

theorem Warp.readAll_same (x : Warp) (sh : Shape) (f : Frame) (act : Mask) (pc : BitVec 57) (stamp : Nat) : SameBut x (x.readAll sh f act pc stamp) := by
  rw [Warp.readAll_def]
  refine SameBut.trans ?_ (foldl_same _ (fun y r => Warp.touch_same y r stamp) _ _)
  split
  · exact .refl x
  · exact foldl_same _ (fun y r => Warp.readOne_same y x act pc r) _ _

theorem Warp.readAll_lbind (x : Warp) (sh : Shape) (f : Frame) (act : Mask) (pc : BitVec 57) (stamp n : Nat) :
    (x.readAll sh f act pc stamp).lbind n = x.lbind n := by
  rw [Warp.readAll_def, foldl_keeps _ (fun y => y.lbind n) (fun y r => Warp.touch_lbind y r stamp n)]
  split
  · rfl
  · exact foldl_keeps _ (fun y => y.lbind n) (fun y r => Warp.readOne_lbind y x act pc r n) _ _

theorem Warp.readAll_ubind (x : Warp) (sh : Shape) (f : Frame) (act : Mask) (pc : BitVec 57) (stamp n : Nat) :
    (x.readAll sh f act pc stamp).ubind n = x.ubind n := by
  rw [Warp.readAll_def, foldl_keeps _ (fun y => y.ubind n) (fun y r => Warp.touch_ubind y r stamp n)]
  split
  · rfl
  · exact foldl_keeps _ (fun y => y.ubind n) (fun y r => Warp.readOne_ubind y x act pc r n) _ _

theorem Warp.readAll_flaws (x : Warp) (sh : Shape) (f : Frame) (act : Mask) (pc : BitVec 57) (stamp : Nat)
    (h : act = 0 ∨ ∀ p ∈ sh.reads f, x.readFlaws p.1 act = (false, false)) :
    (x.readAll sh f act pc stamp).psn = x.psn ∧ (x.readAll sh f act pc stamp).trap = x.trap := by
  rw [Warp.readAll_def, foldl_keeps _ (fun y => y.psn) (fun y r => Warp.touch_psn y r stamp),
    foldl_keeps _ (fun y => y.trap) (fun y r => Warp.touch_trap y r stamp)]
  split
  · exact ⟨rfl, rfl⟩
  · next ha =>
    have h := h.resolve_left ha
    have key : ∀ (l : List Reg) (y : Warp), (∀ r ∈ l, x.readFlaws r act = (false, false)) → l.foldl (fun y r => y.readOne x act pc r) y = y := by
      intro l
      induction l with
      | nil => intros; rfl
      | cons r l ih =>
        intro y hl
        have h1 : y.readOne x act pc r = y := by simp [Warp.readOne, hl r (by simp)]
        rw [List.foldl_cons, h1]
        exact ih y fun q hq => hl q (List.mem_cons_of_mem _ hq)
    have e := key ((sh.reads f).map (·.1)) x (by
      intro r hr
      obtain ⟨p, hp, rfl⟩ := List.mem_map.1 hr
      exact h p hp)
    rw [e]
    exact ⟨rfl, rfl⟩

theorem Warp.release_same (x : Warp) (r : Reg) (keep : Bool) : SameBut x (x.release r keep) := by
  cases r <;> exact ⟨rfl, rfl, rfl⟩

theorem Warp.release_lbind (x : Warp) (r : Reg) (keep : Bool) (n : Nat) : (x.release r keep).lbind n = if r = .x n then none else x.lbind n := by
  cases r with
  | x m =>
    simp only [Warp.release, Warp.lbind, Tbl.get?_erase, Reg.x.injEq]
    by_cases h : n = m
    · simp [h]
    · simp [h, show m ≠ n from fun e => h e.symm]
  | k m => simp [Warp.release, Warp.lbind]

theorem Warp.release_ubind (x : Warp) (r : Reg) (keep : Bool) (n : Nat) : (x.release r keep).ubind n = if r = .k n then none else x.ubind n := by
  cases r with
  | k m =>
    simp only [Warp.release, Warp.ubind, Tbl.get?_erase, Reg.k.injEq]
    by_cases h : n = m
    · simp [h]
    · simp [h, show m ≠ n from fun e => h e.symm]
  | x m => simp [Warp.release, Warp.ubind]

theorem Warp.release_flaws (x : Warp) (r : Reg) (keep : Bool) : (x.release r keep).psn = x.psn ∧ (x.release r keep).trap = x.trap := by
  cases r <;> exact ⟨rfl, rfl⟩

theorem Warp.releaseAll_lbind (x : Warp) (rs : List (Reg × Bool)) (n : Nat) :
    (x.releaseAll rs).lbind n = if rs.any (·.1 == .x n) then none else x.lbind n := by
  unfold Warp.releaseAll
  induction rs generalizing x with
  | nil => rfl
  | cons p rs ih =>
    rw [List.foldl_cons, ih, Warp.release_lbind, List.any_cons]
    by_cases h : p.1 = Reg.x n <;> simp [h]

theorem Warp.releaseAll_ubind (x : Warp) (rs : List (Reg × Bool)) (n : Nat) :
    (x.releaseAll rs).ubind n = if rs.any (·.1 == .k n) then none else x.ubind n := by
  unfold Warp.releaseAll
  induction rs generalizing x with
  | nil => rfl
  | cons p rs ih =>
    rw [List.foldl_cons, ih, Warp.release_ubind, List.any_cons]
    by_cases h : p.1 = Reg.k n <;> simp [h]

theorem Warp.releaseAll_same (x : Warp) (rs : List (Reg × Bool)) : SameBut x (x.releaseAll rs) :=
  foldl_same (fun (y : Warp) (p : Reg × Bool) => y.release p.1 p.2) (fun y p => Warp.release_same y p.1 p.2) _ _

/-- Reading and releasing leave the rest of a warp, and every register but for the released ones, as they were. -/
theorem Warp.opened_same (x : Warp) (e : Entry) (sh : Shape) (f : Frame) (stamp : Nat) : SameBut x (x.opened e sh f stamp) := by
  have h := (Warp.readAll_same x sh f (x.active f e) e.pc stamp).trans (Warp.releaseAll_same _ (sh.releases f))
  exact ⟨h.still, h.hw, h.run⟩

theorem Warp.opened_lbind (x : Warp) (e : Entry) (sh : Shape) (f : Frame) (stamp n : Nat) :
    (x.opened e sh f stamp).lbind n = if frees sh f (.x n) then none else x.lbind n := by
  have h : (x.opened e sh f stamp).lbind n = ((x.readAll sh f (x.active f e) e.pc stamp).releaseAll (sh.releases f)).lbind n := rfl
  rw [h, Warp.releaseAll_lbind, Warp.readAll_lbind]; rfl

theorem Warp.opened_ubind (x : Warp) (e : Entry) (sh : Shape) (f : Frame) (stamp n : Nat) :
    (x.opened e sh f stamp).ubind n = if frees sh f (.k n) then none else x.ubind n := by
  have h : (x.opened e sh f stamp).ubind n = ((x.readAll sh f (x.active f e) e.pc stamp).releaseAll (sh.releases f)).ubind n := rfl
  rw [h, Warp.releaseAll_ubind, Warp.readAll_ubind]; rfl

theorem Warp.opened_flaws (x : Warp) (e : Entry) (sh : Shape) (f : Frame) (stamp : Nat) : Unflawed x (x.opened e sh f stamp) sh f (x.active f e) := by
  intro h
  have a := Warp.readAll_flaws x sh f (x.active f e) e.pc stamp h
  have b : ∀ (rs : List (Reg × Bool)) (y : Warp), (y.releaseAll rs).psn = y.psn ∧ (y.releaseAll rs).trap = y.trap := by
    intro rs y
    exact ⟨foldl_keeps (fun (y : Warp) (p : Reg × Bool) => y.release p.1 p.2) (fun y => y.psn) (fun y (p : Reg × Bool) => (Warp.release_flaws y p.1 p.2).1) _ _,
      foldl_keeps (fun (y : Warp) (p : Reg × Bool) => y.release p.1 p.2) (fun y => y.trap) (fun y (p : Reg × Bool) => (Warp.release_flaws y p.1 p.2).2) _ _⟩
  have c := b (sh.releases f) (x.readAll sh f (x.active f e) e.pc stamp)
  exact ⟨c.1.trans a.1, congrArg TrapRegs.poison (c.2.trans a.2)⟩

/-! ## The issue of a ready instruction -/

/-- What an answer of a body makes of the state. -/
def Act.after (a : Act) (s : State) (w : Nat) (f : Frame) (e : Entry) : State :=
  match a with
  | .trap code info => s.takeTrap w code info e.pc
  | .hold wt => (s.hold w wt).modWarp w fun q => { q with waitLen := f.form.bytes }
  | .stall wt => s.modWarp w fun q => { q with wait := some wt }
  | .suspend t wt => (t.hold w wt).modWarp w fun q => { q with waitLen := f.form.bytes, run := 0 }
  | .next t => t.retire w f true
  | .jump t => t.retire w f false
  | .done t => t

/-- A ready instruction answers what its body answers in the opened state. -/
theorem Ready.issue {i : Instr} {s : State} {x : Warp} {e : Entry} {sh : Shape} {f : Frame} (h : Ready i s x e sh f) (body : Issue → State → Act) :
    s.issue i body = .next ((body (s.sees x e sh f) (s.opened x e sh f)).after s s.cur f e) := by
  obtain ⟨hw, hh, hf, _, hg⟩ := h
  unfold State.issue
  rw [hw, hf]
  cases hx : x.hw with
  | nil => simp [hx] at hh
  | cons e' es =>
    obtain rfl : e' = e := by simpa [hx] using hh
    simp only [hx, hg]
    rfl

theorem Ready.issueOnce {i : Instr} {s : State} {x : Warp} {e : Entry} {sh : Shape} {f : Frame} (h : Ready i s x e sh f) (body : Issue → State → Act) :
    s.issueOnce i body = .next ((if x.active f e = 0 then Act.next (s.opened x e sh f)
      else body (s.sees x e sh f) (s.opened x e sh f)).after s s.cur f e) := by
  unfold State.issueOnce
  rw [h.issue]
  rfl

/-- A wait or a trap of the gate is the answer, with no effect of the instruction. -/
theorem State.issue_gate {i : Instr} {s : State} {x : Warp} {e : Entry} {sh : Shape} {f : Frame} {a : Act} (hw : s.warp? s.cur = some x)
    (hh : x.hw.head? = some e) (hf : i.shape = (sh, some f)) (hg : s.gate s.cur x sh f (x.active f e) = some a) (body : Issue → State → Act) :
    s.issue i body = .next (a.after s s.cur f e) := by
  unfold State.issue
  rw [hw, hf]
  cases hx : x.hw with
  | nil => simp [hx] at hh
  | cons e' es =>
    obtain rfl : e' = e := by simpa [hx] using hh
    simp only [hx, hg]
    cases a <;> rfl

/-! ## Where code lies does not depend on warps or on issue slots -/

theorem State.skipPads_congr {s t : State} (h : ∀ w x va, t.codeWord w x va = s.codeWord w x va) (w : Nat) (x : Warp) (n : Nat) (pc : BitVec 57) :
    t.skipPads w x n pc = s.skipPads w x n pc := by
  induction n generalizing pc with
  | zero => rfl
  | succ n ih => simp [State.skipPads, h, ih]

end Sys2Proof.Machine
end

