-- ==== Sys2Proof/Laws/Code.lean ====
section
/-! SUPPORT. Translation and the place of code depend on memory, processes, dies, the package, clusters and the cached leaves and code alone; what retirement and issue
slots change. -/

namespace Sys2Proof.Machine

/-- Two states translate and fetch alike: they differ in nothing that a walk or a code word looks at. -/
structure SameCode (s t : State) : Prop where
  mem : t.mem = s.mem
  procs : t.procs = s.procs
  dies : t.dies = s.dies
  pkg : t.pkg = s.pkg
  clusters : t.clusters = s.clusters
  tlb : ∀ c, (t.core c).tlb = (s.core c).tlb
  icache : ∀ c, (t.core c).icache = (s.core c).icache

theorem SameCode.refl (s : State) : SameCode s s := ⟨rfl, rfl, rfl, rfl, rfl, fun _ => rfl, fun _ => rfl⟩
theorem SameCode.trans {s t u : State} (a : SameCode s t) (b : SameCode t u) : SameCode s u :=
  ⟨b.mem.trans a.mem, b.procs.trans a.procs, b.dies.trans a.dies, b.pkg.trans a.pkg, b.clusters.trans a.clusters,
   fun c => (b.tlb c).trans (a.tlb c), fun c => (b.icache c).trans (a.icache c)⟩

theorem SameCode.read {s t : State} (h : SameCode s t) (k n : Nat) : t.read k n = s.read k n := by
  have e : t.byte = s.byte := by funext j; simp only [State.byte, h.mem]
  simp only [State.read, State.bytes, e]

theorem SameCode.homeFault {s t : State} (h : SameCode s t) (k : Nat) : t.homeFault k = s.homeFault k := by
  simp only [State.homeFault, State.dieState, State.cxlCode, State.die, h.pkg, h.dies]
  rfl

theorem SameCode.asid {s t : State} (h : SameCode s t) (p : Nat) : t.asid p = s.asid p := by
  simp only [State.asid, State.proc?, h.procs]

theorem SameCode.redirect {s t : State} (h : SameCode s t) (k : Nat) : t.redirect k = s.redirect k := by
  simp only [State.redirect, State.slotAt, State.allSlots, h.dies]

theorem SameCode.readTable {s t : State} (h : SameCode s t) (k : Nat) : t.readTable k = s.readTable k := by
  simp only [State.readTable, h.redirect, h.read]

theorem SameCode.walkFrom {s t : State} (h : SameCode s t) (c : List WalkLine) (a : BitVec 16) (p va n table : Nat) :
    t.walkFrom c a p va n table = s.walkFrom c a p va n table := by
  induction n generalizing table with
  | zero => rfl
  | succ n ih => simp only [State.walkFrom, h.homeFault, h.readTable, h.redirect, h.pkg, State.keyLoaded, ih]; rfl

theorem SameCode.walkWith {s t : State} (h : SameCode s t) (c : List WalkLine) (p va : Nat) : t.walkWith c p va = s.walkWith c p va := by
  simp only [State.walkWith, State.proc?, h.procs, h.walkFrom]

theorem SameCode.walk {s t : State} (h : SameCode s t) (p va : Nat) : t.walk p va = s.walk p va := h.walkWith [] p va

theorem SameCode.lookup {s t : State} (h : SameCode s t) (core p va perm : Nat) : t.lookup core p va perm = s.lookup core p va perm := by
  simp only [State.lookup, State.cachedLeaf, State.walkOn, State.cluster, State.die, h.tlb, h.asid, h.clusters, h.dies, h.walkWith]

theorem SameCode.codeAt {s t : State} (h : SameCode s t) (core k : Nat) : t.codeAt core k = s.codeAt core k := by
  have e : t.codeByte core = s.codeByte core := by funext k; simp only [State.codeByte, h.icache, h.redirect, State.byte, h.mem]
  simp only [State.codeAt, e]

theorem SameCode.codeWord {s t : State} (h : SameCode s t) (w : Nat) {x y : Warp} (ho : y.owner = x.owner) (va : Nat) :
    t.codeWord w y va = s.codeWord w x va := by
  simp only [State.codeWord, State.codeWalk, h.lookup, h.codeAt, ho]

/-- Code lies where it lay. -/
theorem SameCode.land {s t : State} (h : SameCode s t) (w : Nat) {x y : Warp} (ho : y.owner = x.owner) (pc : BitVec 57) :
    t.land w y pc = s.land w x pc := by
  simp only [State.land]
  have key : ∀ n pc, t.skipPads w y n pc = s.skipPads w x n pc := by
    intro n
    induction n with
    | zero => intro; rfl
    | succ n ih => intro pc; simp only [State.skipPads, h.codeWord w ho, ih]
  exact key _ _

theorem SameCode.setWarp (s : State) (w : Nat) (x : Warp) : SameCode s (s.setWarp w x) := ⟨rfl, rfl, rfl, rfl, rfl, fun _ => rfl, fun _ => rfl⟩

@[simp] theorem State.core_setWarp (s : State) (w : Nat) (x : Warp) (c : Nat) : (s.setWarp w x).core c = s.core c := rfl

theorem State.core_setCore (s : State) (c d : Nat) (x : Core) : (s.setCore c x).core d = if d = c then x else s.core d := by
  simp only [State.core, State.setCore, Tbl.getD, Tbl.get?_set]
  split <;> rfl

/-- Giving up an issue slot changes the queues of arbitration alone. -/
theorem State.freeSlot_core (s : State) (w c : Nat) : ∃ q, (s.freeSlot w).core c = { s.core c with quads := q } := by
  unfold State.freeSlot
  dsimp only
  split
  · split
    · rw [State.core_setCore]
      split
      · next e => rw [e]; exact ⟨_, rfl⟩
      · exact ⟨_, rfl⟩
    · exact ⟨_, rfl⟩
  · exact ⟨_, rfl⟩

/-- The warp after retirement (R36, R40, R51). -/
def Warp.retired (s : State) (w : Nat) (x : Warp) (f : Frame) (advance : Bool) : Warp :=
  let y := if advance then
      match x.hw with
      | e :: _ => x.replaceHead [{ e with pc := s.land w x (e.pc + BitVec.ofNat 57 f.form.bytes) }]
      | [] => x
    else x
  { y with run := if f.eor then 0 else y.run + 1, kept := if f.eor || y.wait.isSome then [] else y.kept }

theorem State.retire_setWarp (s : State) (w : Nat) (x : Warp) (f : Frame) (b : Bool) :
    (s.setWarp w x).retire w f b =
      if f.eor || (Warp.retired s w x f b).wait.isSome || (Warp.retired s w x f b).hw.isEmpty
      then (s.setWarp w (Warp.retired s w x f b)).freeSlot w else s.setWarp w (Warp.retired s w x f b) := by
  have hl : ∀ pc, (s.setWarp w x).land w x pc = s.land w x pc := fun pc => (SameCode.setWarp s w x).land w rfl pc
  unfold State.retire
  rw [State.warp?_setWarp_self]
  simp only [hl, State.setWarp_setWarp]
  rfl

/-- Retirement of a state in which only the current warp has changed: the warp is retired, and only issue slots change beside it. -/
theorem State.retire_only_warp (s : State) (x : Warp) (f : Frame) (b : Bool) :
    ((s.setWarp s.cur x).retire s.cur f b).warp? s.cur = some (Warp.retired s s.cur x f b) ∧ OnlyWarp s ((s.setWarp s.cur x).retire s.cur f b) := by
  rw [State.retire_setWarp]
  split
  · refine ⟨?_, ?_, ?_, ?_⟩
    · rw [State.warp?, State.freeSlot_warps]; exact State.warp?_setWarp_self _ _ _
    · intro w hw
      rw [State.warp?, State.freeSlot_warps]
      exact State.warp?_setWarp_ne _ _ hw
    · intro c
      exact State.freeSlot_core _ _ c
    · rw [State.freeSlot_eq]; rfl
  · exact ⟨by simp, fun w hw => State.warp?_setWarp_ne _ _ hw, fun c => ⟨_, rfl⟩, rfl⟩

/-- `y` is what the body of an instruction on registers made of the warp. -/
structure Wrote (x y : Warp) (e : Entry) (sh : Shape) (f : Frame) : Prop where
  hw : y.hw = x.hw
  run : y.run = x.run
  wait : y.wait = none
  owner : y.owner = x.owner
  regs : KeepsRegs x y sh f
  flaws : Unflawed x y sh f (x.active f e)

/-- A ready instruction whose body only changes its warp passes. -/
theorem Ready.passes {i : Instr} {s : State} {x z : Warp} {e : Entry} {sh : Shape} {f : Frame} (h : Ready i s x e sh f) (hz : Wrote x z e sh f) :
    Passes s ((s.setWarp s.cur z).retire s.cur f true) x (Warp.retired s s.cur z f true) e sh f := by
  obtain ⟨hw, ho⟩ := State.retire_only_warp s z f true
  have hd := h.head
  cases hx : x.hw with
  | nil => simp [hx] at hd
  | cons e' es =>
    obtain rfl : e' = e := by simpa [hx] using hd
    have hzx : z.hw = e' :: es := hz.hw.trans hx
    have hl : ∀ pc, s.land s.cur z pc = s.land s.cur x pc := fun pc => (SameCode.refl s).land s.cur hz.owner pc
    refine ⟨hw, ⟨?_, ?_, ?_⟩, ho, ⟨?_, ?_⟩, ?_⟩
    · simp [Warp.retired, hzx, Warp.replaceHead, hx, hl]
    · simp [Warp.retired, hzx, Warp.replaceHead, hz.run]
    · simp [Warp.retired, hzx, Warp.replaceHead, hz.wait]
    · intro n hn
      rw [← hz.regs.lanes n hn]
      simp [Warp.retired, hzx, Warp.replaceHead, Warp.lbind]
    · intro n hn
      rw [← hz.regs.unis n hn]
      simp [Warp.retired, hzx, Warp.replaceHead, Warp.ubind]
    · intro ha
      have := hz.flaws ha
      simpa [Warp.retired, hzx, Warp.replaceHead] using this

/-- Retirement keeps what a warp's registers and predicates hold. -/
theorem Warp.retired_x (s : State) (w : Nat) (x : Warp) (f : Frame) (b : Bool) : (Warp.retired s w x f b).x = x.x := by
  unfold Warp.retired; extract_lets y; simp only [y]; split <;> [split; skip] <;> rfl
theorem Warp.retired_k (s : State) (w : Nat) (x : Warp) (f : Frame) (b : Bool) : (Warp.retired s w x f b).k = x.k := by
  unfold Warp.retired; extract_lets y; simp only [y]; split <;> [split; skip] <;> rfl
theorem Warp.retired_preds (s : State) (w : Nat) (x : Warp) (f : Frame) (b : Bool) : (Warp.retired s w x f b).preds = x.preds := by
  unfold Warp.retired; extract_lets y; simp only [y]; split <;> [split; skip] <;> rfl
theorem Warp.retired_still (s : State) (w : Nat) (x : Warp) (f : Frame) (b : Bool) : (Warp.retired s w x f b).still = x.still := by
  unfold Warp.retired; extract_lets y; simp only [y]; split <;> [split; skip] <;> rfl

end Sys2Proof.Machine
end

