-- ==== Sys2Proof/Laws/Exec.lean ====
section
/-! SUPPORT. The meaning that each operation and event calls. -/

namespace Sys2Proof.Machine

theorem exec_iadd (f : Frame) (s : State) : exec (.iadd f) s = execIadd f s := rfl
theorem exec_isub (f : Frame) (s : State) : exec (.isub f) s = execIsub f s := rfl
theorem exec_iaddc (f : Frame) (s : State) : exec (.iaddc f) s = execIaddc f s := rfl
theorem exec_isubb (f : Frame) (s : State) : exec (.isubb f) s = execIsubb f s := rfl
theorem exec_ineg (f : Frame) (s : State) : exec (.ineg f) s = execIneg f s := rfl
theorem exec_iabs (f : Frame) (s : State) : exec (.iabs f) s = execIabs f s := rfl
theorem exec_imin (f : Frame) (s : State) : exec (.imin f) s = execImin f s := rfl
theorem exec_imax (f : Frame) (s : State) : exec (.imax f) s = execImax f s := rfl
theorem exec_imul (f : Frame) (s : State) : exec (.imul f) s = execImul f s := rfl
theorem exec_imulhi (f : Frame) (s : State) : exec (.imulhi f) s = execImulhi f s := rfl
theorem exec_imad (f : Frame) (s : State) : exec (.imad f) s = execImad f s := rfl
theorem exec_imadw (f : Frame) (s : State) : exec (.imadw f) s = execImadw f s := rfl
theorem exec_isad (f : Frame) (s : State) : exec (.isad f) s = execIsad f s := rfl
theorem exec_dot4 (f : Frame) (s : State) : exec (.dot4 f) s = execDot4 f s := rfl
theorem exec_dot8 (f : Frame) (s : State) : exec (.dot8 f) s = execDot8 f s := rfl
theorem exec_shl (f : Frame) (s : State) : exec (.shl f) s = execShl f s := rfl
theorem exec_shr (f : Frame) (s : State) : exec (.shr f) s = execShr f s := rfl
theorem exec_sar (f : Frame) (s : State) : exec (.sar f) s = execSar f s := rfl
theorem exec_shf (f : Frame) (s : State) : exec (.shf f) s = execShf f s := rfl
theorem exec_rot (f : Frame) (s : State) : exec (.rot f) s = execRot f s := rfl
theorem exec_and (f : Frame) (s : State) : exec (.and f) s = execAnd f s := rfl
theorem exec_or (f : Frame) (s : State) : exec (.or f) s = execOr f s := rfl
theorem exec_xor (f : Frame) (s : State) : exec (.xor f) s = execXor f s := rfl
theorem exec_lop3 (f : Frame) (s : State) : exec (.lop3 f) s = execLop3 f s := rfl
theorem exec_popc (f : Frame) (s : State) : exec (.popc f) s = execPopc f s := rfl
theorem exec_clz (f : Frame) (s : State) : exec (.clz f) s = execClz f s := rfl
theorem exec_ctz (f : Frame) (s : State) : exec (.ctz f) s = execCtz f s := rfl
theorem exec_brev (f : Frame) (s : State) : exec (.brev f) s = execBrev f s := rfl
theorem exec_bfx (f : Frame) (s : State) : exec (.bfx f) s = execBfx f s := rfl
theorem exec_bfi (f : Frame) (s : State) : exec (.bfi f) s = execBfi f s := rfl
theorem exec_prmt (f : Frame) (s : State) : exec (.prmt f) s = execPrmt f s := rfl
theorem exec_icmp (f : Frame) (s : State) : exec (.icmp f) s = execIcmp f s := rfl
theorem exec_icmp64 (f : Frame) (s : State) : exec (.icmp64 f) s = execIcmp64 f s := rfl
theorem exec_isel (f : Frame) (s : State) : exec (.isel f) s = execIsel f s := rfl
theorem exec_mov (f : Frame) (s : State) : exec (.mov f) s = execMov f s := rfl
theorem exec_movi (f : Frame) (s : State) : exec (.movi f) s = execMovi f s := rfl
theorem exec_lea (f : Frame) (s : State) : exec (.lea f) s = execLea f s := rfl
theorem exec_iadd64 (f : Frame) (s : State) : exec (.iadd64 f) s = execIadd64 f s := rfl
theorem exec_sext (f : Frame) (s : State) : exec (.sext f) s = execSext f s := rfl
theorem exec_zext (f : Frame) (s : State) : exec (.zext f) s = execZext f s := rfl
theorem exec_clampi (f : Frame) (s : State) : exec (.clampi f) s = execClampi f s := rfl
theorem exec_fadd (f : Frame) (s : State) : exec (.fadd f) s = execFadd f s := rfl
theorem exec_fsub (f : Frame) (s : State) : exec (.fsub f) s = execFsub f s := rfl
theorem exec_fmul (f : Frame) (s : State) : exec (.fmul f) s = execFmul f s := rfl
theorem exec_fma (f : Frame) (s : State) : exec (.fma f) s = execFma f s := rfl
theorem exec_fmin (f : Frame) (s : State) : exec (.fmin f) s = execFmin f s := rfl
theorem exec_fmax (f : Frame) (s : State) : exec (.fmax f) s = execFmax f s := rfl
theorem exec_fcmp (f : Frame) (s : State) : exec (.fcmp f) s = execFcmp f s := rfl
theorem exec_frnd (f : Frame) (s : State) : exec (.frnd f) s = execFrnd f s := rfl
theorem exec_fclass (f : Frame) (s : State) : exec (.fclass f) s = execFclass f s := rfl
theorem exec_hadd2 (f : Frame) (s : State) : exec (.hadd2 f) s = execHadd2 f s := rfl
theorem exec_hmul2 (f : Frame) (s : State) : exec (.hmul2 f) s = execHmul2 f s := rfl
theorem exec_hfma2 (f : Frame) (s : State) : exec (.hfma2 f) s = execHfma2 f s := rfl
theorem exec_hmnx2 (f : Frame) (s : State) : exec (.hmnx2 f) s = execHmnx2 f s := rfl
theorem exec_bfma2 (f : Frame) (s : State) : exec (.bfma2 f) s = execBfma2 f s := rfl
theorem exec_cvt (f : Frame) (s : State) : exec (.cvt f) s = execCvt f s := rfl
theorem exec_cvtsr (f : Frame) (s : State) : exec (.cvtsr f) s = execCvtsr f s := rfl
theorem exec_cvtpk (f : Frame) (s : State) : exec (.cvtpk f) s = execCvtpk f s := rfl
theorem exec_cvtmx (f : Frame) (s : State) : exec (.cvtmx f) s = execCvtmx f s := rfl
theorem exec_bra (f : Frame) (s : State) : exec (.bra f) s = execBra f s := rfl
theorem exec_brx (f : Frame) (s : State) : exec (.brx f) s = execBrx f s := rfl
theorem exec_call (f : Frame) (s : State) : exec (.call f) s = execCall f s := rfl
theorem exec_callx (f : Frame) (s : State) : exec (.callx f) s = execCallx f s := rfl
theorem exec_ret (f : Frame) (s : State) : exec (.ret f) s = execRet f s := rfl
theorem exec_exit (f : Frame) (s : State) : exec (.exit f) s = execExit f s := rfl
theorem exec_nop (f : Frame) (s : State) : exec (.nop f) s = execNop f s := rfl
theorem exec_yield (f : Frame) (s : State) : exec (.yield f) s = execYield f s := rfl
theorem exec_setprio (f : Frame) (s : State) : exec (.setprio f) s = execSetprio f s := rfl
theorem exec_brk (f : Frame) (s : State) : exec (.brk f) s = execBrk f s := rfl
theorem exec_waitRegs (f : Frame) (s : State) : exec (.waitRegs f) s = execWaitRegs f s := rfl
theorem exec_waitSt (f : Frame) (s : State) : exec (.waitSt f) s = execWaitSt f s := rfl
theorem exec_waitAll (f : Frame) (s : State) : exec (.waitAll f) s = execWaitAll f s := rfl
theorem exec_sleep (f : Frame) (s : State) : exec (.sleep f) s = execSleep f s := rfl
theorem exec_waitaddr (f : Frame) (s : State) : exec (.waitaddr f) s = execWaitaddr f s := rfl
theorem exec_pset (f : Frame) (s : State) : exec (.pset f) s = execPset f s := rfl
theorem exec_plop (f : Frame) (s : State) : exec (.plop f) s = execPlop f s := rfl
theorem exec_pmov (f : Frame) (s : State) : exec (.pmov f) s = execPmov f s := rfl
theorem exec_shfl (f : Frame) (s : State) : exec (.shfl f) s = execShfl f s := rfl
theorem exec_vote (f : Frame) (s : State) : exec (.vote f) s = execVote f s := rfl
theorem exec_redux (f : Frame) (s : State) : exec (.redux f) s = execRedux f s := rfl
theorem exec_scan (f : Frame) (s : State) : exec (.scan f) s = execScan f s := rfl
theorem exec_matchLanes (f : Frame) (s : State) : exec (.matchLanes f) s = execMatchLanes f s := rfl
theorem exec_lanes (f : Frame) (s : State) : exec (.lanes f) s = execLanes f s := rfl
theorem exec_rcp (f : Frame) (s : State) : exec (.rcp f) s = execRcp f s := rfl
theorem exec_rsq (f : Frame) (s : State) : exec (.rsq f) s = execRsq f s := rfl
theorem exec_sqrt (f : Frame) (s : State) : exec (.sqrt f) s = execSqrt f s := rfl
theorem exec_ex2 (f : Frame) (s : State) : exec (.ex2 f) s = execEx2 f s := rfl
theorem exec_lg2 (f : Frame) (s : State) : exec (.lg2 f) s = execLg2 f s := rfl
theorem exec_sin (f : Frame) (s : State) : exec (.sin f) s = execSin f s := rfl
theorem exec_cos (f : Frame) (s : State) : exec (.cos f) s = execCos f s := rfl
theorem exec_tanh (f : Frame) (s : State) : exec (.tanh f) s = execTanh f s := rfl
theorem exec_sigm (f : Frame) (s : State) : exec (.sigm f) s = execSigm f s := rfl
theorem exec_erf (f : Frame) (s : State) : exec (.erf f) s = execErf f s := rfl
theorem exec_syscall (f : Frame) (s : State) : exec (.syscall f) s = execSyscall f s := rfl
theorem exec_tmsetRel (f : Frame) (s : State) : exec (.tmsetRel f) s = execTmsetRel f s := rfl
theorem exec_tmsetAbs (f : Frame) (s : State) : exec (.tmsetAbs f) s = execTmsetAbs f s := rfl
theorem exec_tmsetOff (f : Frame) (s : State) : exec (.tmsetOff f) s = execTmsetOff f s := rfl
theorem exec_trapret (f : Frame) (s : State) : exec (.trapret f) s = execTrapret f s := rfl
theorem exec_oplogRetry (f : Frame) (s : State) : exec (.oplogRetry f) s = execOplogRetry f s := rfl
theorem exec_oplogKill (f : Frame) (s : State) : exec (.oplogKill f) s = execOplogKill f s := rfl
theorem exec_psnclr (f : Frame) (s : State) : exec (.psnclr f) s = execPsnclr f s := rfl
theorem exec_psnclrReg (f : Frame) (s : State) : exec (.psnclrReg f) s = execPsnclrReg f s := rfl
theorem exec_getsr (f : Frame) (s : State) : exec (.getsr f) s = execGetsr f s := rfl
theorem exec_setsr (f : Frame) (s : State) : exec (.setsr f) s = execSetsr f s := rfl
theorem exec_tlbinvWrite (f : Frame) (s : State) : exec (.tlbinvWrite f) s = execTlbinvWrite f s := rfl
theorem exec_fltresRetry (die : Nat) (id : W32) (s : State) : exec (.fltresRetry die id) s = execFltresRetry die id s := rfl
theorem exec_fltresGiveup (die : Nat) (id : W32) (s : State) : exec (.fltresGiveup die id) s = execFltresGiveup die id s := rfl
theorem exec_errinjWrite (f : Frame) (s : State) : exec (.errinjWrite f) s = execErrinjWrite f s := rfl
theorem exec_nodeqSt (f : Frame) (s : State) : exec (.nodeqSt f) s = execNodeqSt f s := rfl
theorem exec_nodeqMap (f : Frame) (s : State) : exec (.nodeqMap f) s = execNodeqMap f s := rfl
theorem exec_ldl (f : Frame) (s : State) : exec (.ldl f) s = execLdl f s := rfl
theorem exec_stl (f : Frame) (s : State) : exec (.stl f) s = execStl f s := rfl
theorem exec_lds (f : Frame) (s : State) : exec (.lds f) s = execLds f s := rfl
theorem exec_sts (f : Frame) (s : State) : exec (.sts f) s = execSts f s := rfl
theorem exec_ldp (f : Frame) (s : State) : exec (.ldp f) s = execLdp f s := rfl
theorem exec_ldc (f : Frame) (s : State) : exec (.ldc f) s = execLdc f s := rfl
theorem exec_stc (f : Frame) (s : State) : exec (.stc f) s = execStc f s := rfl
theorem exec_ldo (f : Frame) (s : State) : exec (.ldo f) s = execLdo f s := rfl
theorem exec_sto (f : Frame) (s : State) : exec (.sto f) s = execSto f s := rfl
theorem exec_ldg (f : Frame) (s : State) : exec (.ldg f) s = execLdg f s := rfl
theorem exec_stg (f : Frame) (s : State) : exec (.stg f) s = execStg f s := rfl
theorem exec_prfg (f : Frame) (s : State) : exec (.prfg f) s = execPrfg f s := rfl
theorem exec_ldh (f : Frame) (s : State) : exec (.ldh f) s = execLdh f s := rfl
theorem exec_sth (f : Frame) (s : State) : exec (.sth f) s = execSth f s := rfl
theorem exec_fenceAr (f : Frame) (s : State) : exec (.fenceAr f) s = execFenceAr f s := rfl
theorem exec_fenceAcq (f : Frame) (s : State) : exec (.fenceAcq f) s = execFenceAcq f s := rfl
theorem exec_fenceRel (f : Frame) (s : State) : exec (.fenceRel f) s = execFenceRel f s := rfl
theorem exec_fencePath (f : Frame) (s : State) : exec (.fencePath f) s = execFencePath f s := rfl
theorem exec_migw (f : Frame) (s : State) : exec (.migw f) s = execMigw f s := rfl
theorem exec_atoms (f : Frame) (s : State) : exec (.atoms f) s = execAtoms f s := rfl
theorem exec_atomc (f : Frame) (s : State) : exec (.atomc f) s = execAtomc f s := rfl
theorem exec_atomo (f : Frame) (s : State) : exec (.atomo f) s = execAtomo f s := rfl
theorem exec_atomg (f : Frame) (s : State) : exec (.atomg f) s = execAtomg f s := rfl
theorem exec_redg (f : Frame) (s : State) : exec (.redg f) s = execRedg f s := rfl
theorem exec_redgDet (f : Frame) (s : State) : exec (.redgDet f) s = execRedgDet f s := rfl
theorem exec_atomh (f : Frame) (s : State) : exec (.atomh f) s = execAtomh f s := rfl
theorem exec_detcommit (f : Frame) (s : State) : exec (.detcommit f) s = execDetcommit f s := rfl
theorem exec_cpy (f : Frame) (s : State) : exec (.cpy f) s = execCpy f s := rfl
theorem exec_cpyt (f : Frame) (s : State) : exec (.cpyt f) s = execCpyt f s := rfl
theorem exec_cpym (f : Frame) (s : State) : exec (.cpym f) s = execCpym f s := rfl
theorem exec_cpyr (f : Frame) (s : State) : exec (.cpyr f) s = execCpyr f s := rfl
theorem exec_cpyq (f : Frame) (s : State) : exec (.cpyq f) s = execCpyq f s := rfl
theorem exec_cpyx (f : Frame) (s : State) : exec (.cpyx f) s = execCpyx f s := rfl
theorem exec_mzero (f : Frame) (s : State) : exec (.mzero f) s = execMzero f s := rfl
theorem exec_mma (f : Frame) (s : State) : exec (.mma f) s = execMma f s := rfl
theorem exec_madd (f : Frame) (s : State) : exec (.madd f) s = execMadd f s := rfl
theorem exec_mcopy (f : Frame) (s : State) : exec (.mcopy f) s = execMcopy f s := rfl
theorem exec_mscl (f : Frame) (s : State) : exec (.mscl f) s = execMscl f s := rfl
theorem exec_mdrainS (f : Frame) (s : State) : exec (.mdrainS f) s = execMdrainS f s := rfl
theorem exec_mdrainR (f : Frame) (s : State) : exec (.mdrainR f) s = execMdrainR f s := rfl
theorem exec_mfill (f : Frame) (s : State) : exec (.mfill f) s = execMfill f s := rfl
theorem exec_mspill (f : Frame) (s : State) : exec (.mspill f) s = execMspill f s := rfl
theorem exec_mchk (f : Frame) (s : State) : exec (.mchk f) s = execMchk f s := rfl
theorem exec_mchkFix (f : Frame) (s : State) : exec (.mchkFix f) s = execMchkFix f s := rfl
theorem exec_mfenceAll (f : Frame) (s : State) : exec (.mfenceAll f) s = execMfenceAll f s := rfl
theorem exec_mfenceRd (f : Frame) (s : State) : exec (.mfenceRd f) s = execMfenceRd f s := rfl
theorem exec_mstat (f : Frame) (s : State) : exec (.mstat f) s = execMstat f s := rfl
theorem exec_barsync (f : Frame) (s : State) : exec (.barsync f) s = execBarsync f s := rfl
theorem exec_bararr (f : Frame) (s : State) : exec (.bararr f) s = execBararr f s := rfl
theorem exec_barwait (f : Frame) (s : State) : exec (.barwait f) s = execBarwait f s := rfl
theorem exec_rwaitE (f : Frame) (s : State) : exec (.rwaitE f) s = execRwaitE f s := rfl
theorem exec_rwaitF (f : Frame) (s : State) : exec (.rwaitF f) s = execRwaitF f s := rfl
theorem exec_rput (f : Frame) (s : State) : exec (.rput f) s = execRput f s := rfl
theorem exec_rget (f : Frame) (s : State) : exec (.rget f) s = execRget f s := rfl
theorem exec_rfree (f : Frame) (s : State) : exec (.rfree f) s = execRfree f s := rfl
theorem exec_rfreeInit (f : Frame) (s : State) : exec (.rfreeInit f) s = execRfreeInit f s := rfl
theorem exec_spawn (f : Frame) (s : State) : exec (.spawn f) s = execSpawn f s := rfl
theorem exec_spawnx (f : Frame) (s : State) : exec (.spawnx f) s = execSpawnx f s := rfl
theorem exec_launch (f : Frame) (s : State) : exec (.launch f) s = execLaunch f s := rfl
theorem exec_scnew (f : Frame) (s : State) : exec (.scnew f) s = execScnew f s := rfl
theorem exec_cancel (f : Frame) (s : State) : exec (.cancel f) s = execCancel f s := rfl
theorem exec_cancelEnd (f : Frame) (s : State) : exec (.cancelEnd f) s = execCancelEnd f s := rfl
theorem exec_cchk (f : Frame) (s : State) : exec (.cchk f) s = execCchk f s := rfl
theorem exec_cchkT (f : Frame) (s : State) : exec (.cchkT f) s = execCchkT f s := rfl
theorem exec_preempt (f : Frame) (s : State) : exec (.preempt f) s = execPreempt f s := rfl
theorem exec_pmig (f : Frame) (s : State) : exec (.pmig f) s = execPmig f s := rfl
theorem exec_pstat (f : Frame) (s : State) : exec (.pstat f) s = execPstat f s := rfl
theorem exec_phot (f : Frame) (s : State) : exec (.phot f) s = execPhot f s := rfl
theorem exec_pabort (f : Frame) (s : State) : exec (.pabort f) s = execPabort f s := rfl
theorem exec_issueArbitration (core q : Nat) (s : State) : exec (.issueArbitration core q) s = execIssueArbitration core q s := rfl
theorem exec_ageingRaise (w : Nat) (s : State) : exec (.ageingRaise w) s = execAgeingRaise w s := rfl
theorem exec_producerResult (w k : Nat) (s : State) : exec (.producerResult w k) s = execProducerResult w k s := rfl
theorem exec_registerSpill (core q : Nat) (lanePool : Bool) (s : State) : exec (.registerSpill core q lanePool) s = execRegisterSpill core q lanePool s := rfl
theorem exec_registerRefill (w : Nat) (r : Reg) (s : State) : exec (.registerRefill w r) s = execRegisterRefill w r s := rfl
theorem exec_frontierMove (w : Nat) (s : State) : exec (.frontierMove w) s = execFrontierMove w s := rfl
theorem exec_icacheFill (core line : Nat) (s : State) : exec (.icacheFill core line) s = execIcacheFill core line s := rfl
theorem exec_boundaryTrap (w : Nat) (s : State) : exec (.boundaryTrap w) s = execBoundaryTrap w s := rfl
theorem exec_timer (w : Nat) (s : State) : exec (.timer w) s = execTimer w s := rfl
theorem exec_exceptionReply (w : Nat) (s : State) : exec (.exceptionReply w) s = execExceptionReply w s := rfl
theorem exec_fifthFaultRetry (w : Nat) (s : State) : exec (.fifthFaultRetry w) s = execFifthFaultRetry w s := rfl
theorem exec_replay (w e : Nat) (s : State) : exec (.replay w e) s = execReplay w e s := rfl
theorem exec_syscallReply (w : Nat) (s : State) : exec (.syscallReply w) s = execSyscallReply w s := rfl
theorem exec_callRingNotice (k : Nat) (s : State) : exec (.callRingNotice k) s = execCallRingNotice k s := rfl
theorem exec_redirection (k : Nat) (s : State) : exec (.redirection k) s = execRedirection k s := rfl
theorem exec_waitaddrEvaluation (w : Nat) (s : State) : exec (.waitaddrEvaluation w) s = execWaitaddrEvaluation w s := rfl
theorem exec_waitaddrDeadline (w : Nat) (s : State) : exec (.waitaddrDeadline w) s = execWaitaddrDeadline w s := rfl
theorem exec_waitaddrPeriodic (w : Nat) (s : State) : exec (.waitaddrPeriodic w) s = execWaitaddrPeriodic w s := rfl
theorem exec_sleepExpiry (w : Nat) (s : State) : exec (.sleepExpiry w) s = execSleepExpiry w s := rfl
theorem exec_fenceComplete (w : Nat) (s : State) : exec (.fenceComplete w) s = execFenceComplete w s := rfl
theorem exec_migwArrival (k : Nat) (s : State) : exec (.migwArrival k) s = execMigwArrival k s := rfl
theorem exec_writeBufferDrain (core : Nat) (s : State) : exec (.writeBufferDrain core) s = execWriteBufferDrain core s := rfl
theorem exec_commandStart (core : Nat) (store : Bool) (s : State) : exec (.commandStart core store) s = execCommandStart core store s := rfl
theorem exec_burstTranslation (core : Nat) (store : Bool) (s : State) : exec (.burstTranslation core store) s = execBurstTranslation core store s := rfl
theorem exec_burstComplete (core : Nat) (store : Bool) (k : Nat) (s : State) : exec (.burstComplete core store k) s = execBurstComplete core store k s := rfl
theorem exec_commandRelease (core : Nat) (store : Bool) (k : Nat) (s : State) : exec (.commandRelease core store k) s = execCommandRelease core store k s := rfl
theorem exec_mmaEstimate (core q ix : Nat) (s : State) : exec (.mmaEstimate core q ix) s = execMmaEstimate core q ix s := rfl
theorem exec_matrixQueueStart (core q : Nat) (s : State) : exec (.matrixQueueStart core q) s = execMatrixQueueStart core q s := rfl
theorem exec_matrixComplete (core q : Nat) (s : State) : exec (.matrixComplete core q) s = execMatrixComplete core q s := rfl
theorem exec_pairPhaseMessage (cluster g : Nat) (s : State) : exec (.pairPhaseMessage cluster g) s = execPairPhaseMessage cluster g s := rfl
theorem exec_ringUpdate (cluster k : Nat) (s : State) : exec (.ringUpdate cluster k) s = execRingUpdate cluster k s := rfl
theorem exec_detUpdateArrival (k : Nat) (s : State) : exec (.detUpdateArrival k) s = execDetUpdateArrival k s := rfl
theorem exec_windowFold (cluster g : Nat) (s : State) : exec (.windowFold cluster g) s = execWindowFold cluster g s := rfl
theorem exec_homeAccess (k : Nat) (s : State) : exec (.homeAccess k) s = execHomeAccess k s := rfl
theorem exec_hotnessHalving (s : State) : exec (Instr.hotnessHalving) s = execHotnessHalving s := rfl
theorem exec_remoteScopeFlush (core : Nat) (s : State) : exec (.remoteScopeFlush core) s = execRemoteScopeFlush core s := rfl
theorem exec_hostCompletion (k : Nat) (ok : Bool) (s : State) : exec (.hostCompletion k ok) s = execHostCompletion k ok s := rfl
theorem exec_pageWalk (core : Nat) (asid : BitVec 16) (va : W64) (s : State) : exec (.pageWalk core asid va) s = execPageWalk core asid va s := rfl
theorem exec_lineCopy (die slot : Nat) (s : State) : exec (.lineCopy die slot) s = execLineCopy die slot s := rfl
theorem exec_lineFlip (die slot line : Nat) (s : State) : exec (.lineFlip die slot line) s = execLineFlip die slot line s := rfl
theorem exec_lineCopyBack (die slot : Nat) (s : State) : exec (.lineCopyBack die slot) s = execLineCopyBack die slot s := rfl
theorem exec_migrationRingRoom (die slot : Nat) (s : State) : exec (.migrationRingRoom die slot) s = execMigrationRingRoom die slot s := rfl
theorem exec_launchDeposit (p : Nat) (r : BitVec 512) (s : State) : exec (.launchDeposit p r) s = execLaunchDeposit p r s := rfl
theorem exec_launchValidation (p : Nat) (s : State) : exec (.launchValidation p) s = execLaunchValidation p s := rfl
theorem exec_launchPlacement (p cls : Nat) (s : State) : exec (.launchPlacement p cls) s = execLaunchPlacement p cls s := rfl
theorem exec_ensembleEnd (e : Nat) (s : State) : exec (.ensembleEnd e) s = execEnsembleEnd e s := rfl
theorem exec_taskDispatch (die : Nat) (s : State) : exec (.taskDispatch die) s = execTaskDispatch die s := rfl
theorem exec_markingArrival (die scope : Nat) (s : State) : exec (.markingArrival die scope) s = execMarkingArrival die scope s := rfl
theorem exec_killPoint (w : Nat) (s : State) : exec (.killPoint w) s = execKillPoint w s := rfl
theorem exec_preemptionSave (k : Nat) (s : State) : exec (.preemptionSave k) s = execPreemptionSave k s := rfl
theorem exec_restore (k : Nat) (at_ : List Nat) (s : State) : exec (.restore k at_) s = execRestore k at_ s := rfl
theorem exec_timeSliceExpiry (p die : Nat) (s : State) : exec (.timeSliceExpiry p die) s = execTimeSliceExpiry p die s := rfl
theorem exec_pcreate (s : State) : exec (Instr.pcreate) s = execPcreate s := rfl
theorem exec_pdestroy (s : State) : exec (Instr.pdestroy) s = execPdestroy s := rfl
theorem exec_grant (s : State) : exec (Instr.grant) s = execGrant s := rfl
theorem exec_slice (s : State) : exec (Instr.slice) s = execSlice s := rfl
theorem exec_setrt (s : State) : exec (Instr.setrt) s = execSetrt s := rfl
theorem exec_dierst (s : State) : exec (Instr.dierst) s = execDierst s := rfl
theorem exec_wreg (s : State) : exec (Instr.wreg) s = execWreg s := rfl
theorem exec_rreg (s : State) : exec (Instr.rreg) s = execRreg s := rfl
theorem exec_memmap (s : State) : exec (Instr.memmap) s = execMemmap s := rfl
theorem exec_warmResetRefusal (die : Nat) (s : State) : exec (.warmResetRefusal die) s = execWarmResetRefusal die s := rfl
theorem exec_dieWriteBack (die : Nat) (s : State) : exec (.dieWriteBack die) s = execDieWriteBack die s := rfl
theorem exec_dieRetraining (die : Nat) (s : State) : exec (.dieRetraining die) s = execDieRetraining die s := rfl
theorem exec_dieReadmission (die : Nat) (s : State) : exec (.dieReadmission die) s = execDieReadmission die s := rfl
theorem exec_coldReset (ok : BitVec 4) (s : State) : exec (.coldReset ok) s = execColdReset ok s := rfl
theorem exec_functionLevelReset (s : State) : exec (Instr.functionLevelReset) s = execFunctionLevelReset s := rfl
theorem exec_linkTraining (die : Nat) (link : Link) (port : Nat) (state : BitVec 2) (s : State) : exec (.linkTraining die link port state) s = execLinkTraining die link port state s := rfl
theorem exec_getVersion (s : State) : exec (Instr.getVersion) s = execGetVersion s := rfl
theorem exec_getCapabilities (s : State) : exec (Instr.getCapabilities) s = execGetCapabilities s := rfl
theorem exec_negotiateAlgorithms (s : State) : exec (Instr.negotiateAlgorithms) s = execNegotiateAlgorithms s := rfl
theorem exec_getDigests (s : State) : exec (Instr.getDigests) s = execGetDigests s := rfl
theorem exec_getCertificate (s : State) : exec (Instr.getCertificate) s = execGetCertificate s := rfl
theorem exec_challenge (s : State) : exec (Instr.challenge) s = execChallenge s := rfl
theorem exec_getMeasurements (s : State) : exec (Instr.getMeasurements) s = execGetMeasurements s := rfl
theorem exec_keyExchange (s : State) : exec (Instr.keyExchange) s = execKeyExchange s := rfl
theorem exec_finish (ok : Bool) (s : State) : exec (.finish ok) s = execFinish ok s := rfl
theorem exec_keySlotLoad (slot : Nat) (procs : List Nat) (s : State) : exec (.keySlotLoad slot procs) s = execKeySlotLoad slot procs s := rfl
theorem exec_keySlotUnload (slot : Nat) (s : State) : exec (.keySlotUnload slot) s = execKeySlotUnload slot s := rfl
theorem exec_cxlPortDown (die : Nat) (lost : Bool) (s : State) : exec (.cxlPortDown die lost) s = execCxlPortDown die lost s := rfl
theorem exec_memoryOutOfService (tier base size : Nat) (s : State) : exec (.memoryOutOfService tier base size) s = execMemoryOutOfService tier base size s := rfl
theorem exec_hbmLaneRepair (channel : Nat) (s : State) : exec (.hbmLaneRepair channel) s = execHbmLaneRepair channel s := rfl
theorem exec_leneoLaneRepair (die port : Nat) (s : State) : exec (.leneoLaneRepair die port) s = execLeneoLaneRepair die port s := rfl
theorem exec_guardBandSample (core : Nat) (margin : BitVec 8) (worn : Option (Fin 12)) (s : State) : exec (.guardBandSample core margin worn) s = execGuardBandSample core margin worn s := rfl
theorem exec_chmapChange (core : Nat) (s : State) : exec (.chmapChange core) s = execChmapChange core s := rfl
theorem exec_powerBudgetAdjust (die : Nat) (pwr : BitVec 16) (s : State) : exec (.powerBudgetAdjust die pwr) s = execPowerBudgetAdjust die pwr s := rfl
theorem exec_remoteRequest (r : RemoteReq) (s : State) : exec (.remoteRequest r) s = execRemoteRequest r s := rfl
theorem exec_nodeUnreachable (k : Nat) (s : State) : exec (.nodeUnreachable k) s = execNodeUnreachable k s := rfl
theorem exec_cxlPortRetrain (die : Nat) (s : State) : exec (.cxlPortRetrain die) s = execCxlPortRetrain die s := rfl
theorem exec_linkStateChange (die : Nat) (link : Link) (port : Nat) (state : BitVec 2) (s : State) : exec (.linkStateChange die link port state) s = execLinkStateChange die link port state s := rfl
theorem exec_warmModuleReset (s : State) : exec (Instr.warmModuleReset) s = execWarmModuleReset s := rfl
theorem exec_hostAccess (a : HostAcc) (s : State) : exec (.hostAccess a) s = execHostAccess a s := rfl
theorem exec_doorbell (seq : W32) (s : State) : exec (.doorbell seq) s = execDoorbell seq s := rfl
theorem exec_remoteFaultResolution (k : Nat) (giveup : Bool) (s : State) : exec (.remoteFaultResolution k giveup) s = execRemoteFaultResolution k giveup s := rfl

end Sys2Proof.Machine
end

