-- ==== Sys2Proof/Laws/PerInstr.lean ====
section
/-! SUPPORT. Facts about instructions as syntax, one lemma per constructor. -/

namespace Sys2Proof.Laws.Opcode

open Form

/-- The opcode of a legal instruction, with its fields, selects that instruction (R53, R64). -/
def Statement (i : Instr) : Prop := ∀ f, i.frame? = some f → i.legal = true → instrOf i.op f = some i

/-- An event has no encoding. -/
theorem event {i : Instr} (h : i.frame? = none) : Statement i := fun _ hf _ => by simp [h] at hf

/-- The property of the shape that a legal instruction has. -/
theorem ok_of_legal {i : Instr} {f : Frame} (hf : i.frame? = some f) (hl : i.legal = true) : i.shape.1.ok = true := by
  unfold Instr.legal at hl
  unfold Instr.frame? at hf
  rcases h : i.shape with ⟨sh, o⟩
  rw [h] at hl hf
  obtain rfl : o = some f := hf
  simp only [Shape.legal, Bool.and_eq_true] at hl
  exact hl.1.1.1.1.1.1.1.1.2

theorem v_eq (f : Frame) (n : BitVec 3) : (f.v = n) = (f.vn = n.toNat) := by
  rw [Frame.vn, BitVec.toNat_inj]

theorem iadd (f : Frame) : Statement (.iadd f) := fun _ h _ => by cases h; rfl
theorem isub (f : Frame) : Statement (.isub f) := fun _ h _ => by cases h; rfl
theorem iaddc (f : Frame) : Statement (.iaddc f) := fun _ h _ => by cases h; rfl
theorem isubb (f : Frame) : Statement (.isubb f) := fun _ h _ => by cases h; rfl
theorem ineg (f : Frame) : Statement (.ineg f) := fun _ h _ => by cases h; rfl
theorem iabs (f : Frame) : Statement (.iabs f) := fun _ h _ => by cases h; rfl
theorem imin (f : Frame) : Statement (.imin f) := fun _ h _ => by cases h; rfl
theorem imax (f : Frame) : Statement (.imax f) := fun _ h _ => by cases h; rfl
theorem imul (f : Frame) : Statement (.imul f) := fun _ h _ => by cases h; rfl
theorem imulhi (f : Frame) : Statement (.imulhi f) := fun _ h _ => by cases h; rfl
theorem imad (f : Frame) : Statement (.imad f) := fun _ h _ => by cases h; rfl
theorem imadw (f : Frame) : Statement (.imadw f) := fun _ h _ => by cases h; rfl
theorem isad (f : Frame) : Statement (.isad f) := fun _ h _ => by cases h; rfl
theorem dot4 (f : Frame) : Statement (.dot4 f) := fun _ h _ => by cases h; rfl
theorem dot8 (f : Frame) : Statement (.dot8 f) := fun _ h _ => by cases h; rfl
theorem shl (f : Frame) : Statement (.shl f) := fun _ h _ => by cases h; rfl
theorem shr (f : Frame) : Statement (.shr f) := fun _ h _ => by cases h; rfl
theorem sar (f : Frame) : Statement (.sar f) := fun _ h _ => by cases h; rfl
theorem shf (f : Frame) : Statement (.shf f) := fun _ h _ => by cases h; rfl
theorem rot (f : Frame) : Statement (.rot f) := fun _ h _ => by cases h; rfl
theorem and (f : Frame) : Statement (.and f) := fun _ h _ => by cases h; rfl
theorem or (f : Frame) : Statement (.or f) := fun _ h _ => by cases h; rfl
theorem xor (f : Frame) : Statement (.xor f) := fun _ h _ => by cases h; rfl
theorem lop3 (f : Frame) : Statement (.lop3 f) := fun _ h _ => by cases h; rfl
theorem popc (f : Frame) : Statement (.popc f) := fun _ h _ => by cases h; rfl
theorem clz (f : Frame) : Statement (.clz f) := fun _ h _ => by cases h; rfl
theorem ctz (f : Frame) : Statement (.ctz f) := fun _ h _ => by cases h; rfl
theorem brev (f : Frame) : Statement (.brev f) := fun _ h _ => by cases h; rfl
theorem bfx (f : Frame) : Statement (.bfx f) := fun _ h _ => by cases h; rfl
theorem bfi (f : Frame) : Statement (.bfi f) := fun _ h _ => by cases h; rfl
theorem prmt (f : Frame) : Statement (.prmt f) := fun _ h _ => by cases h; rfl
theorem icmp (f : Frame) : Statement (.icmp f) := fun _ h _ => by cases h; rfl
theorem icmp64 (f : Frame) : Statement (.icmp64 f) := fun _ h _ => by cases h; rfl
theorem isel (f : Frame) : Statement (.isel f) := fun _ h _ => by cases h; rfl
theorem mov (f : Frame) : Statement (.mov f) := fun _ h _ => by cases h; rfl
theorem movi (f : Frame) : Statement (.movi f) := fun _ h _ => by cases h; rfl
theorem lea (f : Frame) : Statement (.lea f) := fun _ h _ => by cases h; rfl
theorem iadd64 (f : Frame) : Statement (.iadd64 f) := fun _ h _ => by cases h; rfl
theorem sext (f : Frame) : Statement (.sext f) := fun _ h _ => by cases h; rfl
theorem zext (f : Frame) : Statement (.zext f) := fun _ h _ => by cases h; rfl
theorem clampi (f : Frame) : Statement (.clampi f) := fun _ h _ => by cases h; rfl
theorem fadd (f : Frame) : Statement (.fadd f) := fun _ h _ => by cases h; rfl
theorem fsub (f : Frame) : Statement (.fsub f) := fun _ h _ => by cases h; rfl
theorem fmul (f : Frame) : Statement (.fmul f) := fun _ h _ => by cases h; rfl
theorem fma (f : Frame) : Statement (.fma f) := fun _ h _ => by cases h; rfl
theorem fmin (f : Frame) : Statement (.fmin f) := fun _ h _ => by cases h; rfl
theorem fmax (f : Frame) : Statement (.fmax f) := fun _ h _ => by cases h; rfl
theorem fcmp (f : Frame) : Statement (.fcmp f) := fun _ h _ => by cases h; rfl
theorem frnd (f : Frame) : Statement (.frnd f) := fun _ h _ => by cases h; rfl
theorem fclass (f : Frame) : Statement (.fclass f) := fun _ h _ => by cases h; rfl
theorem hadd2 (f : Frame) : Statement (.hadd2 f) := fun _ h _ => by cases h; rfl
theorem hmul2 (f : Frame) : Statement (.hmul2 f) := fun _ h _ => by cases h; rfl
theorem hfma2 (f : Frame) : Statement (.hfma2 f) := fun _ h _ => by cases h; rfl
theorem hmnx2 (f : Frame) : Statement (.hmnx2 f) := fun _ h _ => by cases h; rfl
theorem bfma2 (f : Frame) : Statement (.bfma2 f) := fun _ h _ => by cases h; rfl
theorem cvt (f : Frame) : Statement (.cvt f) := fun _ h _ => by cases h; rfl
theorem cvtsr (f : Frame) : Statement (.cvtsr f) := fun _ h _ => by cases h; rfl
theorem cvtpk (f : Frame) : Statement (.cvtpk f) := fun _ h _ => by cases h; rfl
theorem cvtmx (f : Frame) : Statement (.cvtmx f) := fun _ h _ => by cases h; rfl
theorem bra (f : Frame) : Statement (.bra f) := fun _ h _ => by cases h; rfl
theorem brx (f : Frame) : Statement (.brx f) := fun _ h _ => by cases h; rfl
theorem call (f : Frame) : Statement (.call f) := fun _ h _ => by cases h; rfl
theorem callx (f : Frame) : Statement (.callx f) := fun _ h _ => by cases h; rfl
theorem ret (f : Frame) : Statement (.ret f) := fun _ h _ => by cases h; rfl
theorem exit (f : Frame) : Statement (.exit f) := fun _ h _ => by cases h; rfl
theorem nop (f : Frame) : Statement (.nop f) := fun _ h _ => by cases h; rfl
theorem yield (f : Frame) : Statement (.yield f) := fun _ h _ => by cases h; rfl
theorem setprio (f : Frame) : Statement (.setprio f) := fun _ h _ => by cases h; rfl
theorem brk (f : Frame) : Statement (.brk f) := fun _ h _ => by cases h; rfl
theorem waitRegs (f : Frame) : Statement (.waitRegs f) := by
  intro g hg hl
  cases hg
  have ok : (f.vn == 0) = true := ok_of_legal (i := .waitRegs f) rfl hl
  simp at ok
  show (some (if f.v = 1 then .waitSt f else if f.v = 2 then .waitAll f else .waitRegs f) : Option Instr) = _
  simp [v_eq, ok]
theorem waitSt (f : Frame) : Statement (.waitSt f) := by
  intro g hg hl
  cases hg
  have ok : (f.vn == 1) = true := ok_of_legal (i := .waitSt f) rfl hl
  simp at ok
  show (some (if f.v = 1 then .waitSt f else if f.v = 2 then .waitAll f else .waitRegs f) : Option Instr) = _
  simp [v_eq, ok]
theorem waitAll (f : Frame) : Statement (.waitAll f) := by
  intro g hg hl
  cases hg
  have ok : (f.vn == 2) = true := ok_of_legal (i := .waitAll f) rfl hl
  simp at ok
  show (some (if f.v = 1 then .waitSt f else if f.v = 2 then .waitAll f else .waitRegs f) : Option Instr) = _
  simp [v_eq, ok]
theorem sleep (f : Frame) : Statement (.sleep f) := fun _ h _ => by cases h; rfl
theorem waitaddr (f : Frame) : Statement (.waitaddr f) := fun _ h _ => by cases h; rfl
theorem pset (f : Frame) : Statement (.pset f) := fun _ h _ => by cases h; rfl
theorem plop (f : Frame) : Statement (.plop f) := fun _ h _ => by cases h; rfl
theorem pmov (f : Frame) : Statement (.pmov f) := fun _ h _ => by cases h; rfl
theorem shfl (f : Frame) : Statement (.shfl f) := fun _ h _ => by cases h; rfl
theorem vote (f : Frame) : Statement (.vote f) := fun _ h _ => by cases h; rfl
theorem redux (f : Frame) : Statement (.redux f) := fun _ h _ => by cases h; rfl
theorem scan (f : Frame) : Statement (.scan f) := fun _ h _ => by cases h; rfl
theorem matchLanes (f : Frame) : Statement (.matchLanes f) := fun _ h _ => by cases h; rfl
theorem lanes (f : Frame) : Statement (.lanes f) := fun _ h _ => by cases h; rfl
theorem rcp (f : Frame) : Statement (.rcp f) := fun _ h _ => by cases h; rfl
theorem rsq (f : Frame) : Statement (.rsq f) := fun _ h _ => by cases h; rfl
theorem sqrt (f : Frame) : Statement (.sqrt f) := fun _ h _ => by cases h; rfl
theorem ex2 (f : Frame) : Statement (.ex2 f) := fun _ h _ => by cases h; rfl
theorem lg2 (f : Frame) : Statement (.lg2 f) := fun _ h _ => by cases h; rfl
theorem sin (f : Frame) : Statement (.sin f) := fun _ h _ => by cases h; rfl
theorem cos (f : Frame) : Statement (.cos f) := fun _ h _ => by cases h; rfl
theorem tanh (f : Frame) : Statement (.tanh f) := fun _ h _ => by cases h; rfl
theorem sigm (f : Frame) : Statement (.sigm f) := fun _ h _ => by cases h; rfl
theorem erf (f : Frame) : Statement (.erf f) := fun _ h _ => by cases h; rfl
theorem syscall (f : Frame) : Statement (.syscall f) := fun _ h _ => by cases h; rfl
theorem tmsetRel (f : Frame) : Statement (.tmsetRel f) := by
  intro g hg hl
  cases hg
  have ok : (f.vn == 0) = true := ok_of_legal (i := .tmsetRel f) rfl hl
  simp at ok
  show (some (if f.v = 1 then .tmsetAbs f else if f.v = 2 then .tmsetOff f else .tmsetRel f) : Option Instr) = _
  simp [v_eq, ok]
theorem tmsetAbs (f : Frame) : Statement (.tmsetAbs f) := by
  intro g hg hl
  cases hg
  have ok : (f.vn == 1) = true := ok_of_legal (i := .tmsetAbs f) rfl hl
  simp at ok
  show (some (if f.v = 1 then .tmsetAbs f else if f.v = 2 then .tmsetOff f else .tmsetRel f) : Option Instr) = _
  simp [v_eq, ok]
theorem tmsetOff (f : Frame) : Statement (.tmsetOff f) := by
  intro g hg hl
  cases hg
  have ok : (f.vn == 2) = true := ok_of_legal (i := .tmsetOff f) rfl hl
  simp at ok
  show (some (if f.v = 1 then .tmsetAbs f else if f.v = 2 then .tmsetOff f else .tmsetRel f) : Option Instr) = _
  simp [v_eq, ok]
theorem trapret (f : Frame) : Statement (.trapret f) := fun _ h _ => by cases h; rfl
theorem oplogRetry (f : Frame) : Statement (.oplogRetry f) := by
  intro g hg hl
  cases hg
  have ok : (f.vn == 0) = true := ok_of_legal (i := .oplogRetry f) rfl hl
  simp at ok
  show (some (if f.v = 1 then .oplogKill f else .oplogRetry f) : Option Instr) = _
  simp [v_eq, ok]
theorem oplogKill (f : Frame) : Statement (.oplogKill f) := by
  intro g hg hl
  cases hg
  have ok : (f.vn == 1) = true := ok_of_legal (i := .oplogKill f) rfl hl
  simp at ok
  show (some (if f.v = 1 then .oplogKill f else .oplogRetry f) : Option Instr) = _
  simp [v_eq, ok]
theorem psnclr (f : Frame) : Statement (.psnclr f) := by
  intro g hg hl
  cases hg
  have ok : (f.vn == 0) = true := ok_of_legal (i := .psnclr f) rfl hl
  simp at ok
  show (some (if f.v = 1 then .psnclrReg f else .psnclr f) : Option Instr) = _
  simp [v_eq, ok]
theorem psnclrReg (f : Frame) : Statement (.psnclrReg f) := by
  intro g hg hl
  cases hg
  have ok : (f.vn == 1) = true := ok_of_legal (i := .psnclrReg f) rfl hl
  simp at ok
  show (some (if f.v = 1 then .psnclrReg f else .psnclr f) : Option Instr) = _
  simp [v_eq, ok]
theorem getsr (f : Frame) : Statement (.getsr f) := fun _ h _ => by cases h; rfl
theorem setsr (f : Frame) : Statement (.setsr f) := by
  intro g hg hl
  cases hg
  have ok : ((Form.setsr f (srNum f != 0x112 && srNum f != 0x11B)).ok) = true := ok_of_legal (i := .setsr f) rfl hl
  simp [Form.setsr] at ok
  show (some (if Form.srNum f = 0x112 then .tlbinvWrite f else if Form.srNum f = 0x11B then .errinjWrite f else .setsr f) : Option Instr) = _
  simp [v_eq, ok]
theorem tlbinvWrite (f : Frame) : Statement (.tlbinvWrite f) := by
  intro g hg hl
  cases hg
  have ok : ((Form.setsr f (srNum f == 0x112)).ok) = true := ok_of_legal (i := .tlbinvWrite f) rfl hl
  simp [Form.setsr] at ok
  show (some (if Form.srNum f = 0x112 then .tlbinvWrite f else if Form.srNum f = 0x11B then .errinjWrite f else .setsr f) : Option Instr) = _
  simp [v_eq, ok]
theorem fltresRetry (die : Nat) (id : W32) : Statement (.fltresRetry die id) := event rfl
theorem fltresGiveup (die : Nat) (id : W32) : Statement (.fltresGiveup die id) := event rfl
theorem errinjWrite (f : Frame) : Statement (.errinjWrite f) := by
  intro g hg hl
  cases hg
  have ok : ((Form.setsr f (srNum f == 0x11B)).ok) = true := ok_of_legal (i := .errinjWrite f) rfl hl
  simp [Form.setsr] at ok
  show (some (if Form.srNum f = 0x112 then .tlbinvWrite f else if Form.srNum f = 0x11B then .errinjWrite f else .setsr f) : Option Instr) = _
  simp [v_eq, ok]
theorem nodeqSt (f : Frame) : Statement (.nodeqSt f) := by
  intro g hg hl
  cases hg
  have ok : (f.vn == 0) = true := ok_of_legal (i := .nodeqSt f) rfl hl
  simp at ok
  show (some (if f.v = 1 then .nodeqMap f else .nodeqSt f) : Option Instr) = _
  simp [v_eq, ok]
theorem nodeqMap (f : Frame) : Statement (.nodeqMap f) := by
  intro g hg hl
  cases hg
  have ok : ((page (f.vn == 1)).ok) = true := ok_of_legal (i := .nodeqMap f) rfl hl
  simp [Form.page] at ok
  show (some (if f.v = 1 then .nodeqMap f else .nodeqSt f) : Option Instr) = _
  simp [v_eq, ok]
theorem ldl (f : Frame) : Statement (.ldl f) := fun _ h _ => by cases h; rfl
theorem stl (f : Frame) : Statement (.stl f) := fun _ h _ => by cases h; rfl
theorem lds (f : Frame) : Statement (.lds f) := fun _ h _ => by cases h; rfl
theorem sts (f : Frame) : Statement (.sts f) := fun _ h _ => by cases h; rfl
theorem ldp (f : Frame) : Statement (.ldp f) := fun _ h _ => by cases h; rfl
theorem ldc (f : Frame) : Statement (.ldc f) := fun _ h _ => by cases h; rfl
theorem stc (f : Frame) : Statement (.stc f) := fun _ h _ => by cases h; rfl
theorem ldo (f : Frame) : Statement (.ldo f) := fun _ h _ => by cases h; rfl
theorem sto (f : Frame) : Statement (.sto f) := fun _ h _ => by cases h; rfl
theorem ldg (f : Frame) : Statement (.ldg f) := fun _ h _ => by cases h; rfl
theorem stg (f : Frame) : Statement (.stg f) := fun _ h _ => by cases h; rfl
theorem prfg (f : Frame) : Statement (.prfg f) := fun _ h _ => by cases h; rfl
theorem ldh (f : Frame) : Statement (.ldh f) := fun _ h _ => by cases h; rfl
theorem sth (f : Frame) : Statement (.sth f) := fun _ h _ => by cases h; rfl
theorem fenceAr (f : Frame) : Statement (.fenceAr f) := by
  intro g hg hl
  cases hg
  have ok : (f.vn == 0 && f.mf 3 3 ≤ 5) = true := ok_of_legal (i := .fenceAr f) rfl hl
  simp at ok
  show (some (if f.v = 1 then .fenceAcq f else if f.v = 2 then .fenceRel f else if f.v = 3 then .fencePath f else .fenceAr f) : Option Instr) = _
  simp [v_eq, ok]
theorem fenceAcq (f : Frame) : Statement (.fenceAcq f) := by
  intro g hg hl
  cases hg
  have ok : (f.vn == 1 && f.mf 3 3 ≤ 5) = true := ok_of_legal (i := .fenceAcq f) rfl hl
  simp at ok
  show (some (if f.v = 1 then .fenceAcq f else if f.v = 2 then .fenceRel f else if f.v = 3 then .fencePath f else .fenceAr f) : Option Instr) = _
  simp [v_eq, ok]
theorem fenceRel (f : Frame) : Statement (.fenceRel f) := by
  intro g hg hl
  cases hg
  have ok : (f.vn == 2 && f.mf 3 3 ≤ 5) = true := ok_of_legal (i := .fenceRel f) rfl hl
  simp at ok
  show (some (if f.v = 1 then .fenceAcq f else if f.v = 2 then .fenceRel f else if f.v = 3 then .fencePath f else .fenceAr f) : Option Instr) = _
  simp [v_eq, ok]
theorem fencePath (f : Frame) : Statement (.fencePath f) := by
  intro g hg hl
  cases hg
  have ok : (f.vn == 3 && (f.mf 3 3 == 1 || f.mf 3 3 == 2)) = true := ok_of_legal (i := .fencePath f) rfl hl
  simp at ok
  show (some (if f.v = 1 then .fenceAcq f else if f.v = 2 then .fenceRel f else if f.v = 3 then .fencePath f else .fenceAr f) : Option Instr) = _
  simp [v_eq, ok]
theorem migw (f : Frame) : Statement (.migw f) := fun _ h _ => by cases h; rfl
theorem atoms (f : Frame) : Statement (.atoms f) := fun _ h _ => by cases h; rfl
theorem atomc (f : Frame) : Statement (.atomc f) := fun _ h _ => by cases h; rfl
theorem atomo (f : Frame) : Statement (.atomo f) := fun _ h _ => by cases h; rfl
theorem atomg (f : Frame) : Statement (.atomg f) := fun _ h _ => by cases h; rfl
theorem redg (f : Frame) : Statement (.redg f) := by
  intro g hg hl
  cases hg
  have ok : (aopOk f && memOk f [0, 2] false false && f.mf 0 4 != 8 && f.mf 0 4 != 9 && !f.bit 9) = true := ok_of_legal (i := .redg f) rfl hl
  simp at ok
  show (some (if f.bit 9 then .redgDet f else .redg f) : Option Instr) = _
  simp [v_eq, ok]
theorem redgDet (f : Frame) : Statement (.redgDet f) := by
  intro g hg hl
  cases hg
  have ok : (f.vn == 0 && memOk f [0] false false && f.mf 0 4 == 10 && f.bit 9) = true := ok_of_legal (i := .redgDet f) rfl hl
  simp at ok
  show (some (if f.bit 9 then .redgDet f else .redg f) : Option Instr) = _
  simp [v_eq, ok]
theorem atomh (f : Frame) : Statement (.atomh f) := fun _ h _ => by cases h; rfl
theorem detcommit (f : Frame) : Statement (.detcommit f) := fun _ h _ => by cases h; rfl
theorem cpy (f : Frame) : Statement (.cpy f) := fun _ h _ => by cases h; rfl
theorem cpyt (f : Frame) : Statement (.cpyt f) := fun _ h _ => by cases h; rfl
theorem cpym (f : Frame) : Statement (.cpym f) := fun _ h _ => by cases h; rfl
theorem cpyr (f : Frame) : Statement (.cpyr f) := fun _ h _ => by cases h; rfl
theorem cpyq (f : Frame) : Statement (.cpyq f) := fun _ h _ => by cases h; rfl
theorem cpyx (f : Frame) : Statement (.cpyx f) := fun _ h _ => by cases h; rfl
theorem mzero (f : Frame) : Statement (.mzero f) := fun _ h _ => by cases h; rfl
theorem mma (f : Frame) : Statement (.mma f) := fun _ h _ => by cases h; rfl
theorem madd (f : Frame) : Statement (.madd f) := fun _ h _ => by cases h; rfl
theorem mcopy (f : Frame) : Statement (.mcopy f) := fun _ h _ => by cases h; rfl
theorem mscl (f : Frame) : Statement (.mscl f) := fun _ h _ => by cases h; rfl
theorem mdrainS (f : Frame) : Statement (.mdrainS f) := by
  intro g hg hl
  cases hg
  have ok : (f.vn == 0 && drainOk f false) = true := ok_of_legal (i := .mdrainS f) rfl hl
  simp at ok
  show (some (if f.v = 1 then .mdrainR f else .mdrainS f) : Option Instr) = _
  simp [v_eq, ok]
theorem mdrainR (f : Frame) : Statement (.mdrainR f) := by
  intro g hg hl
  cases hg
  have ok : (f.vn == 1 && drainOk f true) = true := ok_of_legal (i := .mdrainR f) rfl hl
  simp at ok
  show (some (if f.v = 1 then .mdrainR f else .mdrainS f) : Option Instr) = _
  simp [v_eq, ok]
theorem mfill (f : Frame) : Statement (.mfill f) := fun _ h _ => by cases h; rfl
theorem mspill (f : Frame) : Statement (.mspill f) := fun _ h _ => by cases h; rfl
theorem mchk (f : Frame) : Statement (.mchk f) := by
  intro g hg hl
  cases hg
  have ok : (v0 f && !f.bit 0) = true := ok_of_legal (i := .mchk f) rfl hl
  simp at ok
  show (some (if f.bit 0 then .mchkFix f else .mchk f) : Option Instr) = _
  simp [v_eq, ok]
theorem mchkFix (f : Frame) : Statement (.mchkFix f) := by
  intro g hg hl
  cases hg
  have ok : (v0 f && f.bit 0 && part f.a.num == 0) = true := ok_of_legal (i := .mchkFix f) rfl hl
  simp at ok
  show (some (if f.bit 0 then .mchkFix f else .mchk f) : Option Instr) = _
  simp [v_eq, ok]
theorem mfenceAll (f : Frame) : Statement (.mfenceAll f) := by
  intro g hg hl
  cases hg
  have ok : (f.vn == 0) = true := ok_of_legal (i := .mfenceAll f) rfl hl
  simp at ok
  show (some (if f.v = 1 then .mfenceRd f else .mfenceAll f) : Option Instr) = _
  simp [v_eq, ok]
theorem mfenceRd (f : Frame) : Statement (.mfenceRd f) := by
  intro g hg hl
  cases hg
  have ok : (f.vn == 1) = true := ok_of_legal (i := .mfenceRd f) rfl hl
  simp at ok
  show (some (if f.v = 1 then .mfenceRd f else .mfenceAll f) : Option Instr) = _
  simp [v_eq, ok]
theorem mstat (f : Frame) : Statement (.mstat f) := fun _ h _ => by cases h; rfl
theorem barsync (f : Frame) : Statement (.barsync f) := fun _ h _ => by cases h; rfl
theorem bararr (f : Frame) : Statement (.bararr f) := fun _ h _ => by cases h; rfl
theorem barwait (f : Frame) : Statement (.barwait f) := fun _ h _ => by cases h; rfl
theorem rwaitE (f : Frame) : Statement (.rwaitE f) := by
  intro g hg hl
  cases hg
  have ok : (f.vn == 0) = true := ok_of_legal (i := .rwaitE f) rfl hl
  simp at ok
  show (some (if f.v = 1 then .rwaitF f else .rwaitE f) : Option Instr) = _
  simp [v_eq, ok]
theorem rwaitF (f : Frame) : Statement (.rwaitF f) := by
  intro g hg hl
  cases hg
  have ok : (f.vn == 1) = true := ok_of_legal (i := .rwaitF f) rfl hl
  simp at ok
  show (some (if f.v = 1 then .rwaitF f else .rwaitE f) : Option Instr) = _
  simp [v_eq, ok]
theorem rput (f : Frame) : Statement (.rput f) := fun _ h _ => by cases h; rfl
theorem rget (f : Frame) : Statement (.rget f) := fun _ h _ => by cases h; rfl
theorem rfree (f : Frame) : Statement (.rfree f) := by
  intro g hg hl
  cases hg
  have ok : (f.vn == 0) = true := ok_of_legal (i := .rfree f) rfl hl
  simp at ok
  show (some (if f.v = 1 then .rfreeInit f else .rfree f) : Option Instr) = _
  simp [v_eq, ok]
theorem rfreeInit (f : Frame) : Statement (.rfreeInit f) := by
  intro g hg hl
  cases hg
  have ok : (f.vn == 1) = true := ok_of_legal (i := .rfreeInit f) rfl hl
  simp at ok
  show (some (if f.v = 1 then .rfreeInit f else .rfree f) : Option Instr) = _
  simp [v_eq, ok]
theorem spawn (f : Frame) : Statement (.spawn f) := fun _ h _ => by cases h; rfl
theorem spawnx (f : Frame) : Statement (.spawnx f) := fun _ h _ => by cases h; rfl
theorem launch (f : Frame) : Statement (.launch f) := fun _ h _ => by cases h; rfl
theorem scnew (f : Frame) : Statement (.scnew f) := fun _ h _ => by cases h; rfl
theorem cancel (f : Frame) : Statement (.cancel f) := by
  intro g hg hl
  cases hg
  have ok : (f.vn == 0) = true := ok_of_legal (i := .cancel f) rfl hl
  simp at ok
  show (some (if f.v = 1 then .cancelEnd f else .cancel f) : Option Instr) = _
  simp [v_eq, ok]
theorem cancelEnd (f : Frame) : Statement (.cancelEnd f) := by
  intro g hg hl
  cases hg
  have ok : (f.vn == 1) = true := ok_of_legal (i := .cancelEnd f) rfl hl
  simp at ok
  show (some (if f.v = 1 then .cancelEnd f else .cancel f) : Option Instr) = _
  simp [v_eq, ok]
theorem cchk (f : Frame) : Statement (.cchk f) := by
  intro g hg hl
  cases hg
  have ok : (f.vn == 0) = true := ok_of_legal (i := .cchk f) rfl hl
  simp at ok
  show (some (if f.v = 1 then .cchkT f else .cchk f) : Option Instr) = _
  simp [v_eq, ok]
theorem cchkT (f : Frame) : Statement (.cchkT f) := by
  intro g hg hl
  cases hg
  have ok : (f.vn == 1) = true := ok_of_legal (i := .cchkT f) rfl hl
  simp at ok
  show (some (if f.v = 1 then .cchkT f else .cchk f) : Option Instr) = _
  simp [v_eq, ok]
theorem preempt (f : Frame) : Statement (.preempt f) := fun _ h _ => by cases h; rfl
theorem pmig (f : Frame) : Statement (.pmig f) := fun _ h _ => by cases h; rfl
theorem pstat (f : Frame) : Statement (.pstat f) := fun _ h _ => by cases h; rfl
theorem phot (f : Frame) : Statement (.phot f) := fun _ h _ => by cases h; rfl
theorem pabort (f : Frame) : Statement (.pabort f) := fun _ h _ => by cases h; rfl
theorem issueArbitration (core q : Nat) : Statement (.issueArbitration core q) := event rfl
theorem ageingRaise (w : Nat) : Statement (.ageingRaise w) := event rfl
theorem producerResult (w k : Nat) : Statement (.producerResult w k) := event rfl
theorem registerSpill (core q : Nat) (lanePool : Bool) : Statement (.registerSpill core q lanePool) := event rfl
theorem registerRefill (w : Nat) (r : Reg) : Statement (.registerRefill w r) := event rfl
theorem frontierMove (w : Nat) : Statement (.frontierMove w) := event rfl
theorem icacheFill (core line : Nat) : Statement (.icacheFill core line) := event rfl
theorem boundaryTrap (w : Nat) : Statement (.boundaryTrap w) := event rfl
theorem timer (w : Nat) : Statement (.timer w) := event rfl
theorem exceptionReply (w : Nat) : Statement (.exceptionReply w) := event rfl
theorem fifthFaultRetry (w : Nat) : Statement (.fifthFaultRetry w) := event rfl
theorem replay (w e : Nat) : Statement (.replay w e) := event rfl
theorem syscallReply (w : Nat) : Statement (.syscallReply w) := event rfl
theorem callRingNotice (k : Nat) : Statement (.callRingNotice k) := event rfl
theorem redirection (k : Nat) : Statement (.redirection k) := event rfl
theorem waitaddrEvaluation (w : Nat) : Statement (.waitaddrEvaluation w) := event rfl
theorem waitaddrDeadline (w : Nat) : Statement (.waitaddrDeadline w) := event rfl
theorem waitaddrPeriodic (w : Nat) : Statement (.waitaddrPeriodic w) := event rfl
theorem sleepExpiry (w : Nat) : Statement (.sleepExpiry w) := event rfl
theorem fenceComplete (w : Nat) : Statement (.fenceComplete w) := event rfl
theorem migwArrival (k : Nat) : Statement (.migwArrival k) := event rfl
theorem writeBufferDrain (core : Nat) : Statement (.writeBufferDrain core) := event rfl
theorem commandStart (core : Nat) (store : Bool) : Statement (.commandStart core store) := event rfl
theorem burstTranslation (core : Nat) (store : Bool) : Statement (.burstTranslation core store) := event rfl
theorem burstComplete (core : Nat) (store : Bool) (k : Nat) : Statement (.burstComplete core store k) := event rfl
theorem commandRelease (core : Nat) (store : Bool) (k : Nat) : Statement (.commandRelease core store k) := event rfl
theorem mmaEstimate (core q i : Nat) : Statement (.mmaEstimate core q i) := event rfl
theorem matrixQueueStart (core q : Nat) : Statement (.matrixQueueStart core q) := event rfl
theorem matrixComplete (core q : Nat) : Statement (.matrixComplete core q) := event rfl
theorem pairPhaseMessage (cluster g : Nat) : Statement (.pairPhaseMessage cluster g) := event rfl
theorem ringUpdate (cluster k : Nat) : Statement (.ringUpdate cluster k) := event rfl
theorem detUpdateArrival (k : Nat) : Statement (.detUpdateArrival k) := event rfl
theorem windowFold (cluster g : Nat) : Statement (.windowFold cluster g) := event rfl
theorem homeAccess (k : Nat) : Statement (.homeAccess k) := event rfl
theorem hotnessHalving : Statement .hotnessHalving := event rfl
theorem remoteScopeFlush (core : Nat) : Statement (.remoteScopeFlush core) := event rfl
theorem hostCompletion (k : Nat) (ok : Bool) : Statement (.hostCompletion k ok) := event rfl
theorem pageWalk (core : Nat) (asid : BitVec 16) (va : W64) : Statement (.pageWalk core asid va) := event rfl
theorem lineCopy (die slot : Nat) : Statement (.lineCopy die slot) := event rfl
theorem lineFlip (die slot line : Nat) : Statement (.lineFlip die slot line) := event rfl
theorem lineCopyBack (die slot : Nat) : Statement (.lineCopyBack die slot) := event rfl
theorem migrationRingRoom (die slot : Nat) : Statement (.migrationRingRoom die slot) := event rfl
theorem launchDeposit (p : Nat) (r : BitVec 512) : Statement (.launchDeposit p r) := event rfl
theorem launchValidation (p : Nat) : Statement (.launchValidation p) := event rfl
theorem launchPlacement (p cls : Nat) : Statement (.launchPlacement p cls) := event rfl
theorem ensembleEnd (e : Nat) : Statement (.ensembleEnd e) := event rfl
theorem taskDispatch (die : Nat) : Statement (.taskDispatch die) := event rfl
theorem markingArrival (die scope : Nat) : Statement (.markingArrival die scope) := event rfl
theorem killPoint (w : Nat) : Statement (.killPoint w) := event rfl
theorem preemptionSave (k : Nat) : Statement (.preemptionSave k) := event rfl
theorem restore (k : Nat) (at_ : List Nat) : Statement (.restore k at_) := event rfl
theorem timeSliceExpiry (p die : Nat) : Statement (.timeSliceExpiry p die) := event rfl
theorem pcreate : Statement .pcreate := event rfl
theorem pdestroy : Statement .pdestroy := event rfl
theorem grant : Statement .grant := event rfl
theorem slice : Statement .slice := event rfl
theorem setrt : Statement .setrt := event rfl
theorem dierst : Statement .dierst := event rfl
theorem wreg : Statement .wreg := event rfl
theorem rreg : Statement .rreg := event rfl
theorem memmap : Statement .memmap := event rfl
theorem warmResetRefusal (die : Nat) : Statement (.warmResetRefusal die) := event rfl
theorem dieWriteBack (die : Nat) : Statement (.dieWriteBack die) := event rfl
theorem dieRetraining (die : Nat) : Statement (.dieRetraining die) := event rfl
theorem dieReadmission (die : Nat) : Statement (.dieReadmission die) := event rfl
theorem coldReset (ok : BitVec 4) : Statement (.coldReset ok) := event rfl
theorem functionLevelReset : Statement .functionLevelReset := event rfl
theorem linkTraining (die : Nat) (link : Link) (port : Nat) (state : BitVec 2) : Statement (.linkTraining die link port state) := event rfl
theorem getVersion : Statement .getVersion := event rfl
theorem getCapabilities : Statement .getCapabilities := event rfl
theorem negotiateAlgorithms : Statement .negotiateAlgorithms := event rfl
theorem getDigests : Statement .getDigests := event rfl
theorem getCertificate : Statement .getCertificate := event rfl
theorem challenge : Statement .challenge := event rfl
theorem getMeasurements : Statement .getMeasurements := event rfl
theorem keyExchange : Statement .keyExchange := event rfl
theorem finish (ok : Bool) : Statement (.finish ok) := event rfl
theorem keySlotLoad (slot : Nat) (procs : List Nat) : Statement (.keySlotLoad slot procs) := event rfl
theorem keySlotUnload (slot : Nat) : Statement (.keySlotUnload slot) := event rfl
theorem cxlPortDown (die : Nat) (lost : Bool) : Statement (.cxlPortDown die lost) := event rfl
theorem memoryOutOfService (tier base size : Nat) : Statement (.memoryOutOfService tier base size) := event rfl
theorem hbmLaneRepair (channel : Nat) : Statement (.hbmLaneRepair channel) := event rfl
theorem leneoLaneRepair (die port : Nat) : Statement (.leneoLaneRepair die port) := event rfl
theorem guardBandSample (core : Nat) (margin : BitVec 8) (worn : Option (Fin 12)) : Statement (.guardBandSample core margin worn) := event rfl
theorem chmapChange (core : Nat) : Statement (.chmapChange core) := event rfl
theorem powerBudgetAdjust (die : Nat) (pwr : BitVec 16) : Statement (.powerBudgetAdjust die pwr) := event rfl
theorem remoteRequest (r : RemoteReq) : Statement (.remoteRequest r) := event rfl
theorem nodeUnreachable (k : Nat) : Statement (.nodeUnreachable k) := event rfl
theorem cxlPortRetrain (die : Nat) : Statement (.cxlPortRetrain die) := event rfl
theorem linkStateChange (die : Nat) (link : Link) (port : Nat) (state : BitVec 2) : Statement (.linkStateChange die link port state) := event rfl
theorem warmModuleReset : Statement .warmModuleReset := event rfl
theorem hostAccess (a : HostAcc) : Statement (.hostAccess a) := event rfl
theorem doorbell (seq : W32) : Statement (.doorbell seq) := event rfl
theorem remoteFaultResolution (k : Nat) (giveup : Bool) : Statement (.remoteFaultResolution k giveup) := event rfl

end Sys2Proof.Laws.Opcode
end

