-- ==== Sys2Proof/Laws/Results.lean ====
section
/-! SUPPORT. What the writes of results make of a warp: the destination, and every other register as it was. -/

namespace Sys2Proof.Machine

/-! ## Bits -/

theorem Lanes.merge_get (old : Lanes W32) (m : Mask) (v : Fin 32 → W32) (l : Fin 32) :
    (Lanes.merge old m v)[l.val] = if m[l.val] then v l else old[l.val] := by
  simp [Lanes.merge]

theorem allLanes_get (l : Fin 32) : (4294967295#32)[l.val] = true := by revert l; decide

/-! ## One lane register -/

theorem Warp.putLane_same (x : Warp) (n : Nat) (m : Mask) (v : Fin 32 → W32) (t : Mask) (stamp : Nat) (b : Bool) :
    SameBut x (x.putLane n m v t stamp b) := by
  unfold Warp.putLane; split <;> exact ⟨rfl, rfl, rfl⟩

theorem Warp.putLane_ubind (x : Warp) (n : Nat) (m : Mask) (v : Fin 32 → W32) (t : Mask) (stamp : Nat) (b : Bool) (j : Nat) :
    (x.putLane n m v t stamp b).ubind j = x.ubind j := by
  unfold Warp.putLane; split <;> rfl

theorem Warp.putLane_lbind_ne (x : Warp) {n : Nat} (m : Mask) (v : Fin 32 → W32) (t : Mask) (stamp : Nat) (b : Bool) {j : Nat} (h : j ≠ n) :
    (x.putLane n m v t stamp b).lbind j = x.lbind j := by
  unfold Warp.putLane
  split
  · rfl
  · simp [Warp.lbind, Tbl.get?_set_ne _ _ h]

theorem Warp.putLane_get_ne (x : Warp) {n : Nat} (m : Mask) (v : Fin 32 → W32) (t : Mask) (stamp : Nat) (b : Bool) {j : Nat} (h : j ≠ n) :
    (x.putLane n m v t stamp b).x.get? j = x.x.get? j := by
  unfold Warp.putLane
  split
  · rfl
  · simp [Tbl.get?_set_ne _ _ h]

theorem Warp.putLane_flaws (x : Warp) (n : Nat) (m : Mask) (v : Fin 32 → W32) (t : Mask) (stamp : Nat) (b : Bool) :
    (x.putLane n m v t stamp b).psn = x.psn ∧ (x.putLane n m v t stamp b).trap = x.trap := by
  unfold Warp.putLane; split <;> exact ⟨rfl, rfl⟩

theorem Warp.putLane_wait (x : Warp) (n : Nat) (m : Mask) (v : Fin 32 → W32) (t : Mask) (stamp : Nat) (b : Bool) :
    (x.putLane n m v t stamp b).wait = x.wait := by
  unfold Warp.putLane; split <;> rfl

/-- A write of a register that holds what it held when the instruction issued. -/
theorem LaneHolds.put {x y : Warp} {sh : Shape} {f : Frame} {n : Nat} (h : y.lbind n = if frees sh f (.x n) then none else x.lbind n)
    (act : Mask) (v : Fin 32 → W32) (t : Mask) (stamp : Nat) :
    LaneHolds x (y.putLane n act (fun l => if t.getLsbD l.val then poison32 else v l) t stamp) sh f act n v t := by
  intro hn
  unfold Warp.putLane
  rw [if_neg hn]
  refine ⟨_, Tbl.get?_set_self _ _ _, rfl, rfl, fun l => ?_⟩
  have hl : l.val < 32 := l.isLt
  dsimp only
  by_cases ha : act[l.val] = true
  · simp [Lanes.merge_get, ha]
  · have ha : act[l.val] = false := by simpa using ha
    by_cases hf : frees sh f (.x n) = true
    · rw [if_pos hf] at h
      have hy : y.x.get? n = none := by simpa [Warp.lbind] using h
      simp [Lanes.merge_get, ha, hy, hf, poisonLanes, allLanes, allLanes_get]
    · rw [if_neg hf] at h
      cases hx : x.x.get? n with
      | none =>
        have hy : y.x.get? n = none := by simpa [Warp.lbind, hx] using h
        simp [Lanes.merge_get, ha, hy, hf, poisonLanes, allLanes, allLanes_get]
      | some o =>
        cases hy : y.x.get? n with
        | none => simp [Warp.lbind, hx, hy] at h
        | some q =>
          simp only [Warp.lbind, hx, hy, Option.map_some, Option.some.injEq, LReg.plain, LReg.mk.injEq] at h
          obtain ⟨h1, h2, h3, -⟩ := h
          simp [Lanes.merge_get, ha, h1, h2, h3, hf]

/-- Later writes of other registers leave it. -/
theorem LaneHolds.keep {x y z : Warp} {sh : Shape} {f : Frame} {act : Mask} {n : Nat} {v : Fin 32 → W32} {t : Mask}
    (h : LaneHolds x y sh f act n v t) (e : z.x.get? n = y.x.get? n) : LaneHolds x z sh f act n v t := by
  intro hn
  obtain ⟨r, hr, h⟩ := h hn
  exact ⟨r, e.trans hr, h⟩

/-! ## One uniform register -/

theorem Warp.putUni_same (x : Warp) (n : Nat) (v : W64) (t : Bool) (stamp : Nat) (b : Bool) : SameBut x (x.putUni n v t stamp b) := ⟨rfl, rfl, rfl⟩

theorem Warp.putUni_ubind_ne (x : Warp) {n : Nat} (v : W64) (t : Bool) (stamp : Nat) (b : Bool) {j : Nat} (h : j ≠ n) :
    (x.putUni n v t stamp b).ubind j = x.ubind j := by simp [Warp.putUni, Warp.ubind, Tbl.get?_set_ne _ _ h]

theorem UniHolds.put (x : Warp) (n : Nat) (v : W64) (t : Bool) (stamp : Nat) : UniHolds (x.putUni n (if t then poison64 else v) t stamp) n v t :=
  ⟨_, Tbl.get?_set_self _ _ _, rfl, rfl, rfl, rfl, rfl⟩

/-! ## Predicates -/

theorem one_shift_get (k l : Fin 32) : (1#32 <<< k.val)[l.val] = (l == k) := by revert k l; decide

theorem maskOf_get (g : Fin 32 → Bool) (l : Fin 32) : (maskOf g)[l.val] = g l := by
  have key : ∀ (ls : List (Fin 32)) (m : Mask), ((ls.foldl (fun m k => if g k then m ||| (1#32 <<< k.val) else m) m)[l.val]) =
      (m[l.val] || (ls.contains l && g l)) := by
    intro ls
    induction ls with
    | nil => simp
    | cons k ls ih =>
      intro m
      rw [List.foldl_cons, ih, List.contains_cons]
      have h1 : (1#32 <<< k.val)[l.val] = (l == k) := one_shift_get k l
      by_cases hg : g k = true
      · rw [if_pos hg, BitVec.getElem_or, h1]
        by_cases hk : l = k
        · subst hk; simp [hg]
        · have hb : (l == k) = false := by simpa using hk
          rw [hb]; simp
      · rw [if_neg hg]
        by_cases hk : l = k
        · subst hk; simp [hg]
        · have hb : (l == k) = false := by simpa using hk
          rw [hb]; simp
  unfold maskOf
  rw [key]
  simp

theorem Warp.putPred_get (x : Warp) (n : Nat) (m v : Mask) (j : Nat) (hj : j < 7) :
    (x.putPred n m v).pred j = if j = n then (x.pred j &&& ~~~m) ||| (v &&& m) else x.pred j := by
  unfold Warp.putPred
  by_cases h : n < 7
  · rw [dif_pos h]
    by_cases e : j = n
    · subst e; simp [Warp.pred, hj]
    · simp [Warp.pred, hj, e, show ¬ n = j from fun q => e q.symm]
  · rw [dif_neg h, if_neg (by omega)]

theorem PredHolds.put {x y : Warp} (h : y.preds = x.preds) (act : Mask) (n : Nat) (v : Fin 32 → Bool) (t : Mask) :
    PredHolds x (y.putPred n act (maskOf v &&& ~~~t)) act n v t := by
  intro m hm l
  have hp : y.pred m = x.pred m := by simp [Warp.pred, h]
  have hl := l.isLt
  rw [Warp.putPred_get _ _ _ _ _ hm, hp]
  by_cases e : m = n
  · by_cases ha : act[l.val] = true <;> simp [ha, e, maskOf_get]
  · simp [e]

/-! ## The result of a ready instruction -/

theorem Issue.writeLane_setWarp (i : Issue) (s : State) (x : Warp) (n : Nat) (v : Fin 32 → W32) (t : Mask) (h : i.act ≠ 0) :
    i.writeLane (s.setWarp i.w x) n v t =
      s.setWarp i.w (x.putLane n i.act (fun l => if t.getLsbD l.val then poison32 else v l) t s.clock) := by
  unfold Issue.writeLane
  rw [if_neg h, State.modWarp_setWarp]
  rfl

theorem Issue.writeUni_setWarp (i : Issue) (s : State) (x : Warp) (n : Nat) (v : W64) (t : Bool) (h : i.act ≠ 0) :
    i.writeUni (s.setWarp i.w x) n v t = s.setWarp i.w (x.putUni n (if t then poison64 else v) t s.clock) := by
  unfold Issue.writeUni
  rw [if_neg h, State.modWarp_setWarp]
  rfl

theorem Issue.writePred_setWarp (i : Issue) (s : State) (x : Warp) (n : Nat) (v : Fin 32 → Bool) (t : Mask) :
    i.writePred (s.setWarp i.w x) n v t = s.setWarp i.w (x.putPred n i.act (maskOf v &&& ~~~t)) := by
  unfold Issue.writePred
  rw [State.modWarp_setWarp]

/-- A lane register among the destinations is written. -/
theorem Ready.lanePut {i : Instr} {s : State} {x : Warp} {e : Entry} {sh : Shape} {f : Frame} (_ : Ready i s x e sh f) (n : Nat)
    (hn : n ≠ 255 → Reg.x n ∈ sh.writes f) (v : Fin 32 → W32) (t : Mask) (stamp : Nat) {y : Warp} (hy : Wrote x y e sh f) :
    Wrote x (y.putLane n (x.active f e) v t stamp) e sh f := by
  have hs := Warp.putLane_same y n (x.active f e) v t stamp false
  refine ⟨hs.hw.trans hy.hw, hs.run.trans hy.run, (Warp.putLane_wait ..).trans hy.wait, hs.owner.trans hy.owner, ⟨?_, ?_⟩, ?_⟩
  · intro j hj
    by_cases e' : j = n
    · by_cases h255 : n = 255
      · have : y.putLane n (x.active f e) v t stamp = y := by simp [Warp.putLane, h255]
        rw [this]; exact hy.regs.lanes j hj
      · exact absurd (e' ▸ hn h255) hj
    · rw [Warp.putLane_lbind_ne _ _ _ _ _ _ e']
      exact hy.regs.lanes j hj
  · intro j hj
    rw [Warp.putLane_ubind]
    exact hy.regs.unis j hj
  · intro ha
    have := Warp.putLane_flaws y n (x.active f e) v t stamp false
    have h2 := hy.flaws ha
    exact ⟨this.1.trans h2.1, (congrArg TrapRegs.poison this.2).trans h2.2⟩

/-- The warp of a ready instruction before its body writes. -/
theorem Ready.wrote {i : Instr} {s : State} {x : Warp} {e : Entry} {sh : Shape} {f : Frame} (_ : Ready i s x e sh f) :
    Wrote x (x.opened e sh f s.clock) e sh f := by
  have hs := Warp.opened_same x e sh f s.clock
  exact ⟨hs.hw, hs.run, rfl, hs.owner, ⟨fun n _ => Warp.opened_lbind x e sh f s.clock n, fun n _ => Warp.opened_ubind x e sh f s.clock n⟩,
    Warp.opened_flaws x e sh f s.clock⟩

theorem mem_writes_lane {sh : Shape} {f : Frame} {n : Nat} (hd : sh.d = .lane n) {j : Nat} (hj : j < n) (h1 : f.xd ≠ 255) (h2 : f.xd + j ≠ 255) :
    Reg.x (f.xd + j) ∈ sh.writes f := by
  have h0 : ¬ f.d = 255 := fun e => h1 (by simp [Frame.xd, e])
  simp only [Shape.writes, hd, Opd.regs, if_neg h0, List.mem_filterMap, List.mem_map, List.mem_range]
  exact ⟨f.xd + j, ⟨j, hj, rfl⟩, by simp [h2]⟩

/-- The result that DU places (R82, R83): the instruction passes and its destination holds the result. -/
theorem Ready.result {i : Instr} {s : State} {x : Warp} {e : Entry} {sh : Shape} {f : Frame} (h : Ready i s x e sh f) (hact : x.active f e ≠ 0)
    (du pair : Bool) (hd : sh.d = Form.sel du (if pair then 2 else 1)) (hdu : (f.du && sh.mDef &&& 0x400 != 0) = du)
    (v : Fin 32 → W64) (t : Mask) (u : W64 → W64) :
    ∃ y, Passes s (((s.sees x e sh f).writeD (s.opened x e sh f) pair v t u).retire s.cur f true) x y e sh f ∧ y.still = x.still ∧
      DestHolds x y sh f (x.active f e) du pair v t u := by
  have hw := h.wrote
  have ha : (s.sees x e sh f).act ≠ 0 := hact
  have hc : s.cur = (s.sees x e sh f).w := rfl
  have hst := (Warp.opened_same x e sh f s.clock).still
  have fin : ∀ z : Warp, Wrote x z e sh f → z.still = x.still → DestHolds x z sh f (x.active f e) du pair v t u →
      ∃ y, Passes s ((s.setWarp s.cur z).retire s.cur f true) x y e sh f ∧ y.still = x.still ∧ DestHolds x y sh f (x.active f e) du pair v t u := by
    intro z hz hs hD
    refine ⟨_, h.passes hz, (Warp.retired_still ..).trans hs, ?_⟩
    unfold DestHolds at hD ⊢
    unfold UniHolds LaneHolds at *
    rw [Warp.retired_x, Warp.retired_k]
    exact hD
  unfold Issue.writeD
  cases du with
  | true =>
    rw [if_pos (by exact hdu), State.opened, hc, Issue.writeUni_setWarp _ _ _ _ _ _ ha, ← hc]
    refine fin _ ⟨hw.hw, hw.run, hw.wait, hw.owner, ⟨hw.regs.lanes, ?_⟩, hw.flaws⟩ hst ?_
    · intro j hj
      rw [Warp.putUni_ubind_ne]
      · exact hw.regs.unis j hj
      · rintro rfl
        exact hj (by simp [Shape.writes, hd, Form.sel, Opd.regs, Frame.kd, State.sees])
    · exact UniHolds.put ..
  | false =>
    rw [if_neg (by rw [show ((s.sees x e sh f).f.du && (s.sees x e sh f).sh.mDef &&& 0x400 != 0) = false from hdu]; simp)]
    have hx0 : f.xd ≠ 255 → Reg.x f.xd ∈ sh.writes f := by
      intro h1
      have := @mem_writes_lane sh f (if pair then 2 else 1) (by simpa [Form.sel] using hd) 0 (by cases pair <;> simp) h1 (by simpa using h1)
      simpa using this
    have hb : ∀ n, (x.opened e sh f s.clock).lbind n = if frees sh f (.x n) then none else x.lbind n := Warp.opened_lbind x e sh f s.clock
    cases pair with
    | false =>
      rw [if_neg (by simp), State.opened, hc, Issue.writeLane_setWarp _ _ _ _ _ _ ha, ← hc]
      refine fin _ (h.lanePut _ hx0 _ _ _ hw) ((Warp.putLane_same ..).still.trans hst) ?_
      exact ⟨LaneHolds.put (hb _) _ _ _ _, fun hp => absurd hp (by simp)⟩
    | true =>
      rw [if_pos rfl]
      unfold Issue.writePair
      have hxd : (s.sees x e sh f).f.xd = f.xd := rfl
      rw [hxd]
      by_cases h255 : f.xd = 255
      · rw [if_pos h255]
        exact fin _ hw hst ⟨fun q => absurd h255 q, fun _ q => absurd h255 q⟩
      · rw [if_neg h255, State.opened, hc, Issue.writeLane_setWarp _ _ _ _ _ _ ha, Issue.writeLane_setWarp _ _ _ _ _ _ ha, ← hc]
        have hx1 : f.xd + 1 ≠ 255 → Reg.x (f.xd + 1) ∈ sh.writes f := by
          intro h1
          exact @mem_writes_lane sh f 2 (by simpa [Form.sel] using hd) 1 (by simp) h255 h1
        refine fin _ (h.lanePut _ hx1 _ _ _ (h.lanePut _ hx0 _ _ _ hw))
          ((Warp.putLane_same ..).still.trans ((Warp.putLane_same ..).still.trans hst)) ?_
        refine ⟨(LaneHolds.put (hb _) _ _ _ _).keep (Warp.putLane_get_ne _ _ _ _ _ _ (by omega)), fun _ _ => LaneHolds.put ?_ _ _ _ _⟩
        rw [Warp.putLane_lbind_ne _ _ _ _ _ _ (by omega)]
        exact hb _

/-- A predicate result (R84): the instruction passes and the predicate holds it. -/
theorem Ready.predResult {i : Instr} {s : State} {x : Warp} {e : Entry} {sh : Shape} {f : Frame} (h : Ready i s x e sh f)
    (n : Nat) (v : Fin 32 → Bool) (t : Mask) :
    ∃ y, Passes s (((s.sees x e sh f).writePred (s.opened x e sh f) n v t).retire s.cur f true) x y e sh f ∧
      y.still = { x.still with preds := y.preds } ∧ PredHolds x y (x.active f e) n v t := by
  have hw := h.wrote
  have hs := Warp.opened_same x e sh f s.clock
  have hc : s.cur = (s.sees x e sh f).w := rfl
  rw [State.opened, hc, Issue.writePred_setWarp, ← hc]
  have hp := PredHolds.put hs.preds (x.active f e) n v t
  have same : ∀ y : Warp, ∀ m w, (y.putPred n m w).x = y.x ∧ (y.putPred n m w).k = y.k ∧ (y.putPred n m w).hw = y.hw ∧ (y.putPred n m w).run = y.run ∧
      (y.putPred n m w).wait = y.wait ∧ (y.putPred n m w).owner = y.owner ∧ (y.putPred n m w).psn = y.psn ∧ (y.putPred n m w).trap = y.trap ∧
      (y.putPred n m w).still = { y.still with preds := (y.putPred n m w).preds } := by
    intro y m w
    unfold Warp.putPred
    split <;> exact ⟨rfl, rfl, rfl, rfl, rfl, rfl, rfl, rfl, rfl⟩
  obtain ⟨h1, h2, h3, h4, h5, h6, h7, h8, h9⟩ := same (x.opened e sh f s.clock) (x.active f e) (maskOf v &&& ~~~t)
  refine ⟨_, h.passes (z := (x.opened e sh f s.clock).putPred n (x.active f e) (maskOf v &&& ~~~t))
    ⟨h3.trans hw.hw, h4.trans hw.run, h5.trans hw.wait, h6.trans hw.owner, ⟨?_, ?_⟩, ?_⟩, ?_, ?_⟩
  · intro j hj; rw [Warp.lbind, h1]; exact hw.regs.lanes j hj
  · intro j hj; rw [Warp.ubind, h2]; exact hw.regs.unis j hj
  · intro ha; rw [h7, h8]; exact hw.flaws ha
  · rw [Warp.retired_still, Warp.retired_preds, h9, hs.still]
  · intro m hm l
    have : (Warp.retired s s.cur ((x.opened e sh f s.clock).putPred n (x.active f e) (maskOf v &&& ~~~t)) f true).pred m =
        ((x.opened e sh f s.clock).putPred n (x.active f e) (maskOf v &&& ~~~t)).pred m := by
      simp only [Warp.pred, Warp.retired_preds]
    rw [this]
    exact hp m hm l

end Sys2Proof.Machine
end

