-- ==== Sys2Proof/Tests/Demo.lean ====
section
/-! SUPPORT. Small states and fields from which tests and witnesses are built. -/

namespace Sys2Proof.Demo

open Machine

/-! ## Fields -/

def src (n : Nat) : Src := ⟨BitVec.ofNat 8 n, false, false, false⟩

/-- A 64-bit form with the end-of-run bit, for every lane. -/
def fields (v d a b m : Nat) : Frame :=
  { form := .f64, eor := true, guard := 7, gneg := false, v := BitVec.ofNat 3 v, d := BitVec.ofNat 8 d, a := src a, b := src b, c := Src.zero, ah := 0, bh := 0,
    ch := 0, dh := 0, m := BitVec.ofNat 14 m, imm := 0, wt := 0, bad := false }

/-- The same with REX, with an immediate, and with both. -/
def withC (c : Nat) (f : Frame) : Frame := { f with form := .f96r, c := src c }
def withImm (n : Nat) (f : Frame) : Frame := { f with form := .f96i, imm := BitVec.ofNat 32 n }
def withBoth (c n : Nat) (f : Frame) : Frame := { f with form := .f128, c := src c, imm := BitVec.ofNat 32 n }

/-- The same without the end-of-run bit, and under a guard. -/
def goesOn (f : Frame) : Frame := { f with eor := false }
def guarded (p : Nat) (f : Frame) : Frame := { f with guard := BitVec.ofNat 3 p }

/-! ## A warp -/

def laneReg (g : Nat → Nat) (tag : Mask) : LReg := { val := Vector.ofFn fun l => BitVec.ofNat 32 (g l.val), tag := tag }
def uniReg (v : Nat) (tag : Bool) : UReg := { val := BitVec.ofNat 64 v, tag := tag }

/-- The head entry: every lane at one address. -/
def entry : Entry := { prio := 8, pc := 0x40, mask := allLanes }

/-- A warp of process 0 with 16 lane registers, `x0` holding 16 for each lane and lane 3 of `x5` poisoned, and 16 uniform registers. -/
def warp : Warp :=
  { owner := { proc := 0, ensemble := none, task := false, priv := true }, role := 0, prio := 8, eprio := 8, lregs := 64, uregs := 64, hw := [entry]
    x := (List.range 16).map fun n => (n, laneReg (fun l => if n = 0 then 16 * l else n * 0x01030507 + l * 0x00110011) (if n = 5 then 8 else 0))
    k := (List.range 16).map fun n => (n, uniReg (n * 0x100) false)
    preds := Vector.ofFn fun n => BitVec.ofNat 32 (0x01020304 * (n.val + 1)) }

def setX (n : Nat) (g : Nat → Nat) (x : Warp) : Warp := { x with x := x.x.set n (laneReg g 0) }
def setK (n v : Nat) (x : Warp) : Warp := { x with k := x.k.set n (uniReg v false) }
def tagK (n : Nat) (x : Warp) : Warp := { x with k := x.k.set n (uniReg 0 true) }
def tagX (n : Nat) (x : Warp) : Warp := { x with x := x.x.set n (laneReg (fun _ => 0) allLanes) }

/-! ## A state -/

/-- Process 0 with its tables: the page at address 0 lies in frame 6 of tier 0. -/
def base : State := State.reset.withFetchWord 64 0

/-- A state in which `x` is the current warp, in slot 0 of core 0. -/
def at_ (x : Warp) : State := { base with warps := [(0, x)] }

/-- An instruction is ready: what `Ready` asks, with the warp and its head given. -/
theorem ready {i : Instr} {s : State} {x : Warp} {e : Entry} {f : Frame}
    (h : s.warp? s.cur = some x ∧ x.hw.head? = some e ∧ i.frame? = some f ∧ WellFormed i = true ∧ (s.gate s.cur x i.shape.1 f (x.active f e)).isNone = true) :
    Ready i s x e i.shape.1 f :=
  let ⟨cur, head, frame, wellFormed, gate⟩ := h
  ⟨cur, head, Prod.ext rfl frame, wellFormed, Option.isNone_iff_eq_none.1 gate⟩

/-- The same as a check. -/
def isReady (s : State) (i : Instr) : Bool :=
  match s.warp? s.cur with
  | some x => match x.hw.head?, i.frame? with
    | some e, some f => WellFormed i && (s.gate s.cur x i.shape.1 f (x.active f e)).isNone && x.active f e != 0
    | _, _ => false
  | none => false

theorem ready_of_check {s : State} {i : Instr} (h : isReady s i = true) : ∃ x e sh f, Ready i s x e sh f ∧ x.active f e ≠ 0 := by
  unfold isReady at h
  split at h
  · next x hx =>
    split at h
    · next e f he hf =>
      simp only [Bool.and_eq_true, bne_iff_ne] at h
      exact ⟨x, e, i.shape.1, f, ready ⟨hx, he, hf, h.1.1, h.1.2⟩, h.2⟩
    · simp at h
  · simp at h

/-! ## Samples -/

/-! One instruction of each constructor that has an encoding. -/

def intSamples : List Instr :=
  let a := fields 0 8 1 2 0
  let u := fields 1 8 1 2 0
  let one := fields 1 8 1 0 0
  [.iadd a, .isub a, .iaddc (fields 1 8 1 2 0), .isubb (fields 1 8 1 2 0), .ineg (fields 0 8 1 0 0), .iabs (fields 0 8 1 0 0), .imin a, .imax a, .imul a, .imulhi a,
   .imad (withC 4 a), .imadw (withC 4 a), .isad (withC 4 a), .dot4 (withC 4 (fields 4 8 1 2 0)), .dot8 (withC 4 a), .shl u, .shr u, .sar a, .shf (withC 4 u), .rot u,
   .and u, .or u, .xor u, .lop3 (withC 4 u), .popc one, .clz one, .ctz one, .brev one, .bfx a, .bfi (withC 4 u), .prmt (withC 4 u), .icmp (fields 0 2 1 2 0),
   .icmp64 (fields 6 2 2 4 0), .isel u, .mov one, .movi (withImm 7 (fields 0 8 0 0 0)), .lea (withImm 16 (fields 6 8 1 2 1)), .iadd64 (fields 6 8 2 4 0),
   .sext a, .zext u, .clampi (withC 4 a)]

def floatSamples : List Instr :=
  let a := fields 0 8 1 2 0
  [.fadd a, .fsub a, .fmul a, .fma (withC 4 a), .fmin a, .fmax a, .fcmp (fields 0 2 1 2 0), .frnd (fields 0 8 1 0 0), .fclass (fields 0 8 1 0 0), .hadd2 a, .hmul2 a,
   .hfma2 (withC 4 a), .hmnx2 a, .bfma2 (withC 4 a), .cvt (fields 0 8 1 0 0x800), .cvtsr (fields 0 8 1 0 0x90), .cvtpk (fields 0 8 1 2 0x90), .cvtmx (fields 0 8 1 0 0xB0)]

def flowSamples : List Instr :=
  let z := fields 0 0 0 0 0
  [.bra (withImm 64 z), .brx (fields 0 0 0 0 0), .call (withImm 64 (fields 0 8 0 0 0)), .callx (fields 0 8 0 0 0), .ret (fields 0 0 2 0 0), .exit z, .nop z, .yield z, .setprio z, .brk z,
   .waitRegs z, .waitSt (fields 1 0 0 0 0), .waitAll (fields 2 0 0 0 0), .sleep (withImm 9 (fields 0 0 0 0 0x1000)), .waitaddr (fields 1 2 4 0 0)]

def crossSamples : List Instr :=
  [.pset (fields 0 2 1 2 0), .plop (fields 0 2 1 2 0x96), .pmov (fields 0 8 0 0 0), .shfl (fields 0 8 1 2 0x2A), .vote (fields 0 2 1 0 4), .redux (fields 0 8 1 0 0), .scan (fields 0 8 1 0 0),
   .matchLanes (fields 0 8 1 0 0), .lanes (fields 0 8 0 0 0)]

def sfuSamples : List Instr :=
  ([.rcp, .rsq, .sqrt, .ex2, .lg2, .sin, .cos, .tanh, .sigm, .erf] : List (Frame → Instr)).map (fun i => i (fields 0 8 1 0 0))

def systemSamples : List Instr :=
  let z := fields 0 0 0 0 0
  [.syscall (withImm 5 (fields 0 8 1 0 0)), .tmsetRel (withImm 9 (fields 0 0 0 0 0x1000)), .tmsetAbs (fields 1 0 4 0 0), .tmsetOff (fields 2 0 0 0 0), .trapret z, .oplogRetry z,
   .oplogKill (fields 1 0 0 0 0), .psnclr z, .psnclrReg (fields 1 5 0 0 0), .getsr (withImm 0x020 (fields 0 4 0 0 0x400)), .setsr (withImm 0x021 (fields 0 0 4 0 0x800)),
   .tlbinvWrite (withImm 0x112 (fields 0 0 4 0 0x800)), .errinjWrite (withImm 0x11B (fields 0 0 4 0 0x800)), .nodeqSt (fields 0 8 4 0 0), .nodeqMap (fields 1 8 255 4 0)]

def memorySamples : List Instr :=
  [.ldl (fields 0 8 0 0 0), .stl (fields 0 0 0 2 0), .lds (fields 0 8 0 0 0), .sts (fields 0 0 0 2 0), .ldp (fields 0 8 0 1 0), .ldc (fields 0 8 0 0 0), .stc (fields 0 0 0 2 0),
   .ldo (fields 0 8 0 0 0), .sto (fields 0 0 0 2 0), .ldg (fields 0 8 0 0 0), .stg (withC 2 (fields 0 0 0 0 0)), .prfg (fields 0 0 0 0 0), .ldh (fields 0 8 0 0 0), .sth (withC 2 (fields 0 0 0 0 0)),
   .fenceAr (fields 0 0 0 0 8), .fenceAcq (fields 1 0 0 0 8), .fenceRel (fields 2 0 0 0 8), .fencePath (fields 3 0 0 0 8), .migw (fields 0 2 4 0 0),
   .atoms (fields 0 8 0 2 0), .atomc (fields 0 8 0 2 0), .atomo (fields 0 8 0 2 0), .atomg (withC 2 (fields 0 8 0 0 0)), .redg (withC 2 (fields 0 0 0 0 0)), .redgDet (withC 2 (fields 0 1 0 0 0x20A)),
   .atomh (withC 2 (fields 0 8 0 0 0)), .detcommit (fields 0 0 1 0 0)]

def copySamples : List Instr :=
  [.cpy (fields 0 0 4 0 0), .cpyt (fields 0 0 4 0 0), .cpym (withImm 1 (fields 0 0 4 0 0)), .cpyr (fields 0 0 4 0 0), .cpyq (fields 0 8 0 0 0), .cpyx (fields 0 8 0 0 0)]

def matrixSamples : List Instr :=
  let z := fields 0 0 0 0 0
  [.mzero (fields 0 0 0 0 0), .mma (withImm 0x11000004 (fields 0 0 4 8 0)), .madd (fields 0 0 1 0 0), .mcopy (fields 0 0 1 0 0), .mscl (withImm 3 (fields 0 0 0 0 0)), .mdrainS (fields 0 0 0 4 0x2800),
   .mdrainR (fields 1 8 0 4 0x2800), .mfill (fields 0 0 0 4 0), .mspill (fields 0 0 0 4 0), .mchk (fields 0 8 0 0 0), .mchkFix (fields 0 8 0 0 1), .mfenceAll z, .mfenceRd (fields 1 0 0 0 0),
   .mstat (fields 0 8 0 0 0)]

def workSamples : List Instr :=
  let z := fields 0 0 0 0 0
  [.barsync (fields 0 2 1 0 0), .bararr (fields 0 0 1 0 0), .barwait (fields 0 2 1 0 0), .rwaitE (fields 0 8 1 4 0), .rwaitF (fields 1 8 1 4 0), .rput (fields 0 0 1 4 0), .rget (fields 0 8 1 0 0),
   .rfree (fields 0 0 1 4 0), .rfreeInit (fields 1 0 1 4 0), .spawn (fields 0 2 8 0 0), .spawnx (withImm 1 (fields 0 2 8 0 0)), .launch (fields 0 2 8 0 0), .scnew (fields 0 8 0 4 0),
   .cancel (fields 0 8 4 0 0), .cancelEnd (fields 1 8 4 0 0), .cchk z, .cchkT (fields 1 2 0 0 0), .preempt (fields 0 8 4 0 0), .pmig (fields 0 8 255 4 0), .pstat (fields 0 8 255 4 0),
   .phot (fields 0 8 255 4 0), .pabort (fields 0 8 255 4 0)]

def samples : List Instr := intSamples ++ floatSamples ++ flowSamples ++ crossSamples ++ sfuSamples ++ systemSamples ++ memorySamples ++ copySamples ++ matrixSamples ++ workSamples

end Sys2Proof.Demo
end

