-- ==== Sys2Proof/Tests/Slice0.lean ====
section
/-! SUPPORT. Tests: words of the spec's encodings, ill-formed terms, examples of the spec, and states that meet the hypotheses of the obligations. -/

open Sys2Proof Sys2Proof.Machine Sys2Proof.Demo

namespace Sys2Proof.Tests

set_option Elab.async false

/-! ## Decoding

One word for each encoded instruction, put together by hand from the base layout of R57, the extension words of R59 to R61 and the opcodes of R64. -/

def intWords : List Nat :=
  [0x80084000BC, 0x800840013C, 0x80084101BC, 0x800841023C, 0x84002BC, 0x840033C, 0x80084003BC, 0x800840043C, 0x80084004BC, 0x800840053C, 0x40080000080084005BD,
   0x400800000800840063D, 0x40080000080084006BD, 0x400800000800844073D, 0x40080000080084007BD, 0x800841083C, 0x80084108BC, 0x800840093C, 0x40080000080084109BD,
   0x8008410A3C, 0x8008410ABC, 0x8008410B3C, 0x8008410BBC, 0x4008000008008410C3D, 0x8410CBC, 0x8410D3C, 0x8410DBC, 0x8410E3C, 0x8008400EBC,
   0x4008000008008410F3D, 0x4008000008008410FBD, 0x800810103C, 0x1001016133C, 0x80084110BC, 0x841113C, 0x700000000004011BD, 0x10000200800846123D,
   0x100104612BC, 0x80084013BC, 0x800841143C, 0x40080000080084014BD]

theorem test_int_decode : intWords.map (decodeTableWord 128) = intSamples.map some := by decide +kernel

def floatWords : List Nat :=
  [0x800840203C, 0x80084020BC, 0x800840213C, 0x40080000080084021BD, 0x800840223C, 0x80084022BC, 0x800810233C, 0x84023BC, 0x840243C, 0x80084024BC, 0x800840253C,
   0x40080000080084025BD, 0x800840263C, 0x40080000080084026BD, 0x100000000840273C, 0x1200000084027BC, 0x12000800840283C, 0x1600000084028BC]

theorem test_float_decode : floatWords.map (decodeTableWord 128) = floatSamples.map some := by decide +kernel

def flowWords : List Nat :=
  [0x40000000000000403D, 0x40BC, 0x40000000000040413D, 0x4041BC, 0x1000423C, 0x42BC, 0x433C, 0x43BC, 0x443C, 0x44BC, 0x453C, 0x1453C, 0x2453C,
   0x920000000000045BD, 0x2011463C]

theorem test_flow_decode : flowWords.map (decodeTableWord 128) = flowSamples.map some := by decide +kernel

def crossWords : List Nat :=
  [0x800810503C, 0x12C0080081050BC, 0x40513C, 0x540080084051BC, 0x800000810523C, 0x84052BC, 0x840533C, 0x84053BC, 0x40543C]

theorem test_cross_decode : crossWords.map (decodeTableWord 128) = crossSamples.map some := by decide +kernel

def sfuWords : List Nat :=
  [0x840603C, 0x84060BC, 0x840613C, 0x84061BC, 0x840623C, 0x84062BC, 0x840633C, 0x84063BC, 0x840643C, 0x84064BC]

theorem test_sfu_decode : sfuWords.map (decodeTableWord 128) = sfuSamples.map some := by decide +kernel

def systemWords : List Nat :=
  [0x5000000000840703D, 0x920000000000070BD, 0x200170BC, 0x270BC, 0x713C, 0x71BC, 0x171BC, 0x723C, 0x29723C, 0x2008000000002072BD, 0x21100000002000733D,
   0x112100000002000733D, 0x11B100000002000733D, 0x204073BC, 0x107F84173BC]

theorem test_system_decode : systemWords.map (decodeTableWord 128) = systemSamples.map some := by decide +kernel

def memoryWords : List Nat :=
  [0x40803C, 0x80000080BC, 0x40813C, 0x80000081BC, 0x400040823C, 0x4082BC, 0x800000833C, 0x4083BC, 0x800000843C, 0x4084BC, 0x200800000000000853D, 0x85BC,
   0x40863C, 0x20080000000000086BD, 0x1000000000873C, 0x1000000001873C, 0x1000000002873C, 0x1000000003873C, 0x201087BC, 0x800040A03C, 0x800040A0BC,
   0x800040A13C, 0x200800000000040A1BD, 0x200800000000000A23D, 0x200841400000008A23D, 0x200800000000040A2BD, 0x800A33C]

theorem test_memory_decode : memoryWords.map (decodeTableWord 128) = memorySamples.map some := by decide +kernel

def copyWords : List Nat :=
  [0x2000B03C, 0x2000B0BC, 0x1000000002000B1BD, 0x2000B13C, 0x40B23C, 0x40B2BC]

theorem test_copy_decode : copyWords.map (decodeTableWord 128) = copySamples.map some := by decide +kernel

def matrixWords : List Nat :=
  [0xC03C, 0x11000004000002002000C0BD, 0x800C13C, 0x800C1BC, 0x3000000000000C23D, 0x500001000000C2BC, 0x500001000041C2BC, 0x1000000C33C, 0x1000000C3BC,
   0x40C43C, 0x200000040C43C, 0xC4BC, 0x1C4BC, 0x40C53C]

theorem test_matrix_decode : matrixWords.map (decodeTableWord 128) = matrixSamples.map some := by decide +kernel

def workWords : List Nat :=
  [0x810E03C, 0x800E0BC, 0x810E13C, 0x1000840E1BC, 0x1000841E1BC, 0x1000800E23C, 0x840E2BC, 0x1000800E33C, 0x1000801E33C, 0x4010F03C, 0x1000000004010F0BD,
   0x4010F13C, 0x1000040F1BC, 0x2040F23C, 0x2041F23C, 0xF2BC, 0x11F2BC, 0x2040F33C, 0x107F840F3BC, 0x107F840F43C, 0x107F840F4BC, 0x107F840F53C]

theorem test_work_decode : workWords.map (decodeTableWord 128) = workSamples.map some := by decide +kernel

/-! ### The worked encodings of the spec -/

def marks (lu keep ep : Bool) (n : Nat) : Src := ⟨BitVec.ofNat 8 n, lu, keep, ep⟩

/-- *Matrix Instructions*, *The Cluster*, *Die Memory*: `mma.q4.bs.mxf4.mxf4 a3.h1, k8, k10, 256 ;;`, `barsync.mx p1, g3 ;;` and
`redg.det.fadd.f32 g2, [k4, x3*4 + 0x40], x8`. -/
theorem test_worked_matrix_cluster_memory :
    decodeTableWord 96 0x44000100_0004_0280_4219_C0BD = some (.mma (withImm 0x44000100 (fields 1 0x43 8 10 2))) ∧
    decodeTableWord 64 0x0002_0000_1808_E03C = some (.barsync (fields 0 1 3 0 1)) ∧
    decodeTableWord 128 0x00000040_00000800_04540100_1810A23A = some (.redgDet (goesOn (withBoth 8 0x40 (fields 0 2 3 4 0x22A)))) := by decide +kernel

/-- *Lane Integer*, *Traps*, *The Core*, *The Transfer Unit*: `iaddc.b32 x8, p1, x4^, x6^, !p7`, `syscall x6, x2^, k3, 0x42 ;;`,
`sts.b32.rot5 [x1^ + 0x40], x2 ;;` and `cpy.g2s.rel.cl.fl64 t1, k4, k8`. -/
theorem test_worked_lanes_calls_core_copies :
    decodeTableWord 64 0x009E_4188_2041_01B8 = some (.iaddc { goesOn (fields 1 8 4 6 0x4F) with a := marks true false false 4, b := marks true false false 6 }) ∧
    decodeTableWord 96 0x00000042_0002_00C8_1030_703D = some (.syscall { withImm 0x42 (fields 0 6 2 3 1) with a := marks true false false 2 }) ∧
    decodeTableWord 96 0x00000040_00A0_0088_0800_81BD = some (.sts { withImm 0x40 (fields 0 0 1 2 0x50) with a := marks true false false 1 }) ∧
    decodeTableWord 64 0x2B12_0200_2000_B038 = some (.cpy (goesOn (fields 0 0 4 8 0x1589))) := by decide +kernel

/-- *Pages*, *Tasks*, *Programs*, *The Fabric*: `pmig.hbm2 k5, [k4 + 0x10000]`, `spawnx p2, k8, 16`, `cancel k12, k12` and `nodeq.st k5, k4`. -/
theorem test_worked_pages_tasks_fabric :
    decodeTableWord 96 0x00010000_0000_0107_F82A_F3B9 = some (.pmig (goesOn (withImm 0x10000 (fields 2 5 255 4 0)))) ∧
    decodeTableWord 96 0x0000000F_0000_0000_4010_F0B9 = some (.spawnx (goesOn (withImm 15 (fields 0 2 8 0 0)))) ∧
    decodeTableWord 64 0x0000_0000_6060_F238 = some (.cancel (goesOn (fields 0 12 12 0 0))) ∧
    decodeTableWord 64 0x0000_0000_2028_73B8 = some (.nodeqSt (goesOn (fields 0 5 4 0 0))) := by decide +kernel

/-- R64: opcode 0, the reserved opcodes and those between families decode to nothing, and neither does LEN 3. -/
theorem test_unassigned : ∀ w ∈ [0x0, 0x38, 0x1F0 * 128, 0x02A * 128 + 60, 0x1FF * 128, 0x0E8 * 128, 0x147 * 128, 0x3, 0x83], decodeTableWord 64 w = none := by decide +kernel

/-- Every sample is well formed, and its encoding decodes to it (R53 to R61). -/
theorem test_samples_encode : ∀ i ∈ samples, WellFormed i = true ∧ (encode i).length ≠ 0 ∧
    decodeWords ((encode i).getD 0 0) ((encode i).getD 1 0) ((encode i).getD 2 0) ((encode i).getD 3 0) = .ok i := by decide +kernel

/-! ## Ill-formed terms -/

/-- R58: an undefined variant. -/
theorem test_ill_variant : ∀ i ∈ [Instr.iadd (fields 6 8 1 2 0), .imulhi (fields 2 8 1 2 0), .fadd (fields 1 8 1 2 0), .shfl (fields 4 8 1 2 0x2A), .lds (fields 7 8 0 0 0),
    .sts (fields 4 0 0 2 0), .pmig (fields 6 8 255 4 0), .rget (fields 3 8 1 0 0), .scnew (fields 2 8 0 4 0), .mstat (fields 5 8 0 0 0), .cvt (fields 1 8 1 0 0x800)],
    WellFormed i = false := by decide +kernel

/-- R58: an undefined bit of M. -/
theorem test_ill_modifier : ∀ i ∈ [Instr.iadd (fields 0 8 1 2 2), .imin (fields 0 8 1 2 1), .nop (fields 0 0 0 0 1), .bra (withImm 64 (fields 0 0 0 0 0x100)), .lds (fields 0 8 0 0 8),
    .spawn (fields 0 2 8 0 1), .cpyx (fields 0 8 0 0 0x100), .pstat (fields 0 8 255 4 1), .vote (fields 1 2 1 0 1), .cvtsr (fields 0 8 1 0 0x91)], WellFormed i = false := by decide +kernel

/-- R57, R81: a pair or group at an odd register, an unused field that is not 0, a predicate, ring or window number out of range, and a page base that is not `xz`. -/
theorem test_ill_fields : ∀ i ∈ [Instr.iadd64 (fields 6 9 2 4 0), .icmp64 (fields 6 2 3 4 0), .lds (fields 2 6 0 0 0), .mov (fields 1 8 1 2 0), .nop (fields 0 1 0 0 0), .icmp (fields 0 8 1 2 0),
    .rput (fields 0 0 32 4 0), .ldp (fields 0 8 0 8 0), .phot (fields 0 8 254 4 0), .spawn (fields 0 2 9 0 0), .mzero (fields 0 0x60 0 0 0), .cpy (fields 0 0 5 0 0)],
    WellFormed i = false := by decide +kernel

/-- R25, R57: last-use, keep and EP marks stand on register sources alone. -/
theorem test_ill_marks : ∀ i ∈ [Instr.vote { fields 0 2 1 0 4 with a := marks true false false 1 }, .barsync { fields 0 2 1 0 0 with a := marks false true false 1 },
    .bra { withImm 64 (fields 0 0 0 0 0) with b := marks false false true 3 }], WellFormed i = false := by decide +kernel

/-- R59 to R62: an immediate or a third source that the form does not carry, an immediate that nothing uses, REX bits without REX, and a reserved bit. -/
theorem test_ill_form : ∀ i ∈ [Instr.imad (fields 0 8 1 2 0), .iadd (withImm 5 (fields 0 8 1 2 0)), .iadd { fields 0 8 1 2 0 with imm := 5 }, .iadd { fields 0 8 1 2 0 with dh := 1 },
    .iadd { fields 0 8 1 2 0 with wt := 1 }, .iadd { fields 0 8 1 2 0 with bad := true }, .iadd { withC 0 (fields 0 8 1 2 0) with dh := 1 }, .stg (fields 0 0 0 0 0)],
    WellFormed i = false := by decide +kernel

/-- Instructions that are well formed, and not with the end of their run taken away. -/
theorem ends_of {l : List Instr} (h : (l.all fun i => WellFormed i && i.frame?.all fun f => !WellFormed ((instrOf i.op (goesOn f)).getD i)) = true) :
    ∀ i ∈ l, WellFormed i = true ∧ ∀ f, i.frame? = some f → WellFormed ((instrOf i.op (goesOn f)).getD i) = false := fun i hi => by
  have ⟨whole, part⟩ := Bool.and_eq_true_iff.1 (List.all_eq_true.1 h i hi)
  refine ⟨whole, fun f hf => ?_⟩
  rw [hf] at part
  simpa only [Option.all_some, Bool.not_eq_true'] using part

/-- R41: these forms carry the end of the run. -/
theorem test_ill_run : ∀ i ∈ ([.bra (withImm 64 (fields 0 0 0 0 0)), .exit (fields 0 0 0 0 0), .yield (fields 0 0 0 0 0), .waitAll (fields 2 0 0 0 0), .fenceRel (fields 2 0 0 0 8),
    .migw (fields 0 2 4 0 0), .barsync (fields 0 2 1 0 0), .mfenceRd (fields 1 0 0 0 0), .cchk (fields 0 0 0 0 0), .preempt (fields 0 8 4 0 0), .syscall (withImm 5 (fields 0 8 1 0 0)),
    .trapret (fields 0 0 0 0 0), .detcommit (fields 0 0 1 0 0)] : List Instr),
    WellFormed i = true ∧ (∀ f, i.frame? = some f → WellFormed ((instrOf i.op (goesOn f)).getD i) = false) := ends_of (by decide +kernel)

/-- R82, R83, R99: operand classes that exclude each other, a lane operand under DU, a rounding code beyond 4. -/
theorem test_ill_classes : ∀ i ∈ [Instr.iadd (fields 0 8 1 2 0x3000), .iadd (fields 0 8 1 2 0x400), .imad (withBoth 0 5 (fields 0 8 1 0 0x1100)), .fadd (fields 0 8 1 2 5), .dot4 (withC 4 (fields 5 8 1 2 2)),
    .sleep (fields 0 0 0 4 0x3000), .sleep (fields 0 0 0 0 0)], WellFormed i = false := by decide +kernel

/-- R110 to R117: the limits of conversions. -/
theorem test_ill_conversions : ∀ i ∈ [Instr.cvt (fields 0 8 1 0 0xE00), .cvt (fields 0 8 1 0 0x805), .cvt (fields 0 8 1 0 0x988), .cvtsr (fields 0 8 1 0 0x80), .cvtpk (fields 0 8 1 2 0x1090),
    .cvtpk (fields 0 8 1 2 0xD8), .cvtmx (fields 0 8 1 0 0xA0)], WellFormed i = false := by decide +kernel

/-- R123, R202, R94, R174: a branch offset off its words, a scratchpad offset or a constant bit field beyond its bits, a number that no register carries, `LANEID` into a
uniform register, a call number above 0x7FFF. -/
theorem test_ill_immediates : ∀ i ∈ [Instr.bra (withImm 66 (fields 0 0 0 0 0)), .lds (withImm 0x100000 (fields 0 8 0 0 0)), .bfx (withImm 0x20 (fields 0 8 1 0 0x1000)),
    .prmt (withBoth 0 0x20 (fields 1 8 1 2 0x100)), .getsr (withImm 0x003 (fields 0 8 0 0 0)), .getsr (withImm 0x010 (fields 0 8 0 0 0x400)), .setsr (withImm 0x1021 (fields 0 0 4 0 0x800)),
    .syscall (withImm 0x8000 (fields 0 8 1 0 0)), .spawnx (withImm 0x100 (fields 0 2 8 0 0))], WellFormed i = false := by decide +kernel

/-- R207, R344, R345, R135: an order that the form does not take, a scope beyond `.sy` or without an order, a scale beyond 16, a promotion without an acquire, and
operation codes of atomics. -/
theorem test_ill_memory : ∀ i ∈ [Instr.ldg (fields 0 8 0 0 0x100), .ldg (fields 0 8 0 0 0x800), .ldg (fields 0 8 0 0 0x3080), .ldg (fields 0 8 0 0 0x50), .ldg (fields 0 8 0 0 0x200),
    .ldh (fields 0 8 0 0 0x1080), .atoms (fields 0 8 0 2 11), .atoms (fields 1 8 0 2 10), .redg (withC 2 (fields 0 0 0 0 9)), .redgDet (withC 2 (fields 0 1 0 0 0x200)),
    .atomh (withC 2 (fields 0 8 0 0 1)), .fencePath (fields 3 0 0 0 0x18), .fenceAr (fields 0 0 0 0 0x30), .waitaddr (fields 1 2 4 0 8)], WellFormed i = false := by decide +kernel

/-- R220, R271, R285, R289: copies and matrix instructions. -/
theorem test_ill_copies_matrix : ∀ i ∈ [Instr.cpy (fields 0 0 4 0 0x80), .cpy (fields 0 0 4 0 1), .cpy (fields 0 0 4 0 0x800), .cpyt (fields 0 0 4 0 0x10), .cpyr (fields 2 0 4 0 0),
    .cpym (withImm 0x20 (fields 0 0 4 0 0)), .mma (withImm 0x11000002 (fields 0 0 4 8 0)), .mma (withImm 0x11000004 (fields 1 0 4 8 0)), .mma (withImm 0x44000004 (fields 0 0 4 8 0)),
    .madd (fields 0 0x20 1 0 0), .mdrainR (fields 1 8 0 4 0x2C10), .mdrainS (withImm 0x100 (fields 0 0 0 4 0x2800)), .mfill (fields 0 0x20 0 4 0), .mchkFix (fields 0 8 0x20 0 1)],
    WellFormed i = false := by decide +kernel

/-- An event of the world has no encoding. -/
theorem test_ill_event : WellFormed (.timer 0) = false ∧ WellFormed (.homeAccess 0) = false ∧ encode (.timer 0) = [] := by decide +kernel

/-! ## Examples of the spec -/

/-- The next state of an instruction at a state, and what a lane register, a predicate or a pending result then holds in a lane. -/
def after (i : Instr) (s : State) : Option State := match exec i s with | .next t => some t | _ => none
def warpAfter (i : Instr) (s : State) : Option Warp := (after i s).bind fun t => t.warp? s.cur
def laneAfter (i : Instr) (s : State) (n : Nat) (l : Fin 32) : Option Nat := (warpAfter i s).map fun y => (y.lane n).1[l].toNat
def predAfter (i : Instr) (s : State) (n l : Nat) : Option Bool := (warpAfter i s).map fun y => (y.pred n).getLsbD l
def pendingLane (i : Instr) (s : State) (l : Fin 32) : Option Nat :=
  (warpAfter i s).bind fun y => match y.results with | [{ puts := [.x _ _ v _], .. }] => some v[l].toNat | _ => none
def pendingUni (i : Instr) (s : State) : Option Nat :=
  (warpAfter i s).bind fun y => match y.results with | [{ puts := [.k _ v _], .. }] => some v.toNat | _ => none

def all (n v : Nat) (x : Warp) : Warp := setX n (fun _ => v) x
def only (m : Mask) (x : Warp) : Warp := { x with hw := [{ entry with mask := m }] }

/-- R80, R88: the table of `iadd.i8.sat`, `iadd.i8`, `iadd.b8` and `isub.b8.sat`. -/
theorem test_narrow_addition :
    let s := at_ (all 1 0x12345678 (all 2 0x10 warp))
    laneAfter (.iadd (fields 4 3 1 2 1)) s 3 0 = some 0x7F ∧ laneAfter (.iadd (fields 4 3 1 2 0)) s 3 31 = some 0xFFFFFF88 ∧
    laneAfter (.iadd (fields 5 3 1 2 0)) s 3 0 = some 0x88 ∧ laneAfter (.isub (fields 5 3 2 1 1)) s 3 0 = some 0 := by decide +kernel

/-- R89: the first instruction of the 64-bit addition, `iaddc.b32 x8, p1, x4^, x6^, !p7`. -/
theorem test_carry :
    let s := at_ (all 4 0xFFFFFFF0 (all 6 0x20 warp))
    laneAfter (.iaddc (fields 1 8 4 6 0x4F)) s 8 5 = some 0x10 ∧ predAfter (.iaddc (fields 1 8 4 6 0x4F)) s 1 5 = some true := by decide +kernel

/-- R88: `iabs.i32` of −2^31, without and with `.sat`. R93: `lop3` with `0xE8` is the majority. R94, R96: `bfx` of bits [11:4], and `prmt` with `0x0001_0203`, which reverses. -/
theorem test_bits :
    let s := at_ (all 1 0x80000000 (all 2 0x0F0 (all 6 0x12345678 (all 7 0x00010203 warp))))
    laneAfter (.iabs (fields 0 3 1 0 0)) s 3 0 = some 0x80000000 ∧ laneAfter (.iabs (fields 0 3 1 0 1)) s 3 0 = some 0x7FFFFFFF ∧
    laneAfter (.lop3 (withC 7 (fields 1 3 2 6 0xE8))) s 3 0 = some (0x0F0 &&& 0x12345678 ||| 0x0F0 &&& 0x00010203 ||| 0x12345678 &&& 0x00010203) ∧
    laneAfter (.bfx (withImm 0xB04 (fields 0 3 6 0 0x1000))) s 3 0 = some 0x67 ∧ laneAfter (.bfx (withImm 0xB04 (fields 0 3 2 0 0x1000))) s 3 0 = some 0xF ∧
    laneAfter (.prmt (withC 7 (fields 1 3 6 2 0))) s 3 0 = some 0x78563412 := by decide +kernel

/-- R115: `cvtsr.bf16.f32` of `0x3F80_E000` with STATE 1 and lane 0 alone gives `0x3F81`, sets NX and moves STATE to `0x0004_2021`. -/
theorem test_stochastic_rounding :
    let s := at_ (only 1 { all 1 0x3F80E000 warp with fp := { seed := 1 } })
    let i := Instr.cvtsr (fields 0 2 1 0 0xA0)
    laneAfter i s 2 0 = some 0x3F81 ∧ (warpAfter i s).map (fun y => (y.fp.seed.toNat, y.fp.ctl.toNat)) = some (0x42021, 1) := by decide +kernel

/-- R125: a 96-bit `call x10, f` at `0x2000` with RPRIO 50 writes `0x3200_0000_0000_0803`. -/
theorem test_link :
    let s := at_ { warp with hw := [{ entry with pc := 0x2000 }] }
    let i := Instr.call (withImm 0x100 (fields 0 10 0 50 8))
    laneAfter i s 10 4 = some 0x803 ∧ laneAfter i s 11 4 = some 0x32000000 ∧ (warpAfter i s).map (fun y => y.hw.map fun e => e.pc) = some [0x2100] := by decide +kernel

/-- R123: the diamond. `(p1) bra C ;;` at `0x1034` with TPRIO and FPRIO 30, p1 true in lanes 0 to 15. -/
theorem test_diamond :
    let s := at_ { warp with hw := [{ prio := 30, pc := 0x1034, mask := allLanes }], preds := Vector.replicate 7 0xFFFF }
    (warpAfter (.bra (guarded 1 (withImm 0xCC (fields 0 0 0 30 0x1E)))) s).map (·.hw) =
      some [{ prio := 30, pc := 0x1040, mask := 0xFFFF0000 }, { prio := 30, pc := 0x1100, mask := 0xFFFF }] := by decide +kernel

/-- R143: `shfl.rot.s8 x3, p2, x1, 3` gives lane 6 the value 1, `shfl.rev.s4 x3, x1` lane 9 the value 10. R144: `vote.ge p3, p2, 17`. -/
theorem test_shuffle_and_vote :
    let s := at_ { setX 1 (fun l => l) warp with preds := Vector.replicate 7 0x1FFFF }
    pendingLane (.shfl (withImm 3 (fields 1 3 1 0 0x101A))) s 6 = some 1 ∧ pendingLane (.shfl (fields 3 3 1 0 0x17)) s 9 = some 10 ∧
    predAfter (.vote (fields 0 3 2 0 17)) s 3 31 = some true ∧ predAfter (.vote (fields 0 3 2 0 18)) s 3 0 = some false := by decide +kernel

/-- R146, R147: 2^24, 1, 1 and −2^24 under `redux.fadd` and `scan.fadd`, both orders as they stand. R148: 7, 9, 7, 7 under `match`. -/
theorem test_orders_and_matches :
    let v := fun l : Nat => ([0x4B800000, 0x3F800000, 0x3F800000, 0xCB800000] : List Nat).getD l 0
    let s := at_ (only 0xF (setX 1 v (setX 2 (fun l => if l = 1 then 9 else 7) warp)))
    pendingUni (.redux (fields 6 3 1 0 0x400)) s = some 0x3F800000 ∧
    [0, 1, 2, 3].map (pendingLane (.scan (fields 6 5 1 0 0)) s) = [some 0x4B800000, some 0x4B800000, some 0x4B800000, some 0] ∧
    [0, 1, 2, 3].map (pendingLane (.scan (fields 6 5 1 0 0x10)) s) = [some 0x80000000, some 0x4B800000, some 0x4B800000, some 0x4B800000] ∧
    [0, 1, 2, 3].map (pendingLane (.matchLanes (fields 0 3 2 0 0)) s) = [some 0, some 1, some 0, some 0] ∧
    [0, 1, 2, 3].map (pendingLane (.matchLanes (fields 1 3 2 0 0)) s) = [some 0xD, some 2, some 0xD, some 0xD] ∧
    [0, 1, 2, 3].map (pendingLane (.matchLanes (fields 2 3 2 0 0)) s) = [some 3, some 1, some 3, some 3] ∧
    pendingLane (.matchLanes (fields 3 3 2 0 0)) s 0 = some 0 := by decide +kernel

/-- R154: points of the special functions. -/
theorem test_special_points :
    let s := at_ (setX 1 (fun l => ([0x7F800000, 0xFF800000, 0, 0x80000000, 0x3F800000, 0x7FA00000] : List Nat).getD l 0) warp)
    [0, 1, 2, 4, 5].map (pendingLane (.rcp (fields 0 3 1 0 0)) s) = [some 0, some 0x80000000, some 0x7F800000, some 0x3F800000, some 0x7FC00000] ∧
    [0, 1, 2].map (pendingLane (.ex2 (fields 0 3 1 0 0)) s) = [some 0x7F800000, some 0, some 0x3F800000] ∧
    [0, 1, 4].map (pendingLane (.sqrt (fields 0 3 1 0 0)) s) = [some 0x7F800000, some 0x7FC00000, some 0x3F800000] := by decide +kernel

/-- R177: `tmset.rel 2000` at CLOCK 10,000 sets TMCMP to `0x8000_0000_0000_2EE0`. -/
theorem test_timer_compare :
    let s : State := { at_ warp with clock := 10000 }
    (warpAfter (.tmsetRel (withImm 2000 (fields 0 0 0 0 0x1000))) s).map (fun y => s.sysReg 0 y 0x021) = some 0x8000000000002EE0 := by decide +kernel

/-- R160, R161: a breakpoint with its vector enabled enters the handler. -/
theorem test_breakpoint :
    let i := Instr.brk (fields 0 0 0 0 3)
    ((warpAfter i (at_ { warp with trap := { tvBase := 0x10, tvEn := 0xFF } })).map fun y => (y.trap.act, y.trap.code, y.trap.info.toNat, y.hw.length, y.call.report)) = some (true, 0x20, 3, 1, none) := by decide +kernel

/-- R207: 32 lanes of `atoms.fadd.f32` of 1.0 on a word that holds 0: lane l receives l, and the word ends at 32.0. -/
theorem test_atomic_lanes :
    let s := at_ { all 1 0x3F800000 warp with spwin := 1 }
    let i := Instr.atoms (fields 0 3 255 1 10)
    [0, 1, 2, 31].map (pendingLane i s) = [some 0, some 0x3F800000, some 0x40000000, some 0x41F80000] ∧
    (after i s).map (fun t => ofBytes ((scratchKeys 0 0 0 0 4).map (t.portView 0).byte)) = some 0x42000000 := by decide +kernel

/-- R241: the residues of −1,000 in the ten channels. -/
theorem test_residues : (List.range 10).map (fun c => residue c (-1000)) = [195, 165, 145, 135, 115, 55, 194, 182, 4, 205] := by decide +kernel

/-- R361: four updates fold in issuer order, whatever their arrival: 2^24 + 1 + 1 − 2^24 ends as +0. -/
theorem test_fold_order : ([0x4B800000, 0x3F800000, 0x3F800000, 0xCB800000] : List W32).foldl fadd32 0 = 0 ∧
    ([0xCB800000, 0x3F800000, 0x3F800000, 0x4B800000] : List W32).foldl fadd32 0 = 0x40000000 := by decide +kernel

/-- R9, R484: the state after reset, and what comes of a word placed at its fetch: the very next step runs it. -/
theorem test_first_step :
    (match step (State.reset.withFetchWord 96 0x7_00000000_004011BD) with | .next t => (t.warp? 0).map fun y => (y.lane 8).1[(3 : Fin 32)].toNat | _ => none) = some 7 := by
  decide +kernel

/-! ## States that meet the hypotheses of the obligations

Every sample is ready at a small state, with an active lane. -/

theorem test_ready_int : ∀ i ∈ intSamples, isReady (at_ warp) i = true := by decide +kernel
theorem test_ready_float : ∀ i ∈ floatSamples, isReady (at_ warp) i = true := by decide +kernel
theorem test_ready_flow : ∀ i ∈ flowSamples, isReady (at_ warp) i = true := by decide +kernel
theorem test_ready_cross : ∀ i ∈ crossSamples, isReady (at_ warp) i = true := by decide +kernel
theorem test_ready_sfu : ∀ i ∈ sfuSamples, isReady (at_ warp) i = true := by decide +kernel
theorem test_ready_system : ∀ i ∈ systemSamples, isReady (at_ warp) i = true := by decide +kernel
theorem test_ready_memory : ∀ i ∈ memorySamples, isReady (at_ warp) i = true := by decide +kernel
theorem test_ready_copies : ∀ i ∈ copySamples, isReady (at_ warp) i = true := by decide +kernel
theorem test_ready_matrix : ∀ i ∈ matrixSamples, isReady (at_ warp) i = true := by decide +kernel
theorem test_ready_work : ∀ i ∈ workSamples, isReady (at_ warp) i = true := by decide +kernel

end Sys2Proof.Tests
end

