-- ==== Sys2Proof/Tests/Witnesses.lean ====
section
/-! SUPPORT. Concrete states and operands that meet the hypotheses of the obligations, clause by clause. `test_ready_int` to `test_ready_work` of Slice0 do so for
the clauses that ask no more than a ready instruction with an active lane. -/

open Sys2Proof Sys2Proof.Machine Sys2Proof.Demo

namespace Sys2Proof.Tests

set_option Elab.async false

/-! ## Ready instructions with more conditions -/

/-- `i` is ready in `s` with an active lane, and its warp, head and fields meet `P`. -/
def Meets (i : Instr) (s : State) (P : Warp → Entry → Shape → Frame → Prop) : Prop :=
  ∃ x e sh f, Ready i s x e sh f ∧ x.active f e ≠ 0 ∧ P x e sh f

/-- The same with the form of a memory instruction. -/
def MeetsMem (i : Instr) (s : State) (P : Warp → Entry → Shape → Frame → MemForm → Prop) : Prop :=
  ∃ x e sh f m, (i, m) ∈ memForms x f ∧ Ready i s x e sh f ∧ x.active f e ≠ 0 ∧ P x e sh f m

def meets (i : Instr) (s : State) (P : Warp → Entry → Shape → Frame → Bool) : Bool :=
  match s.warp? s.cur with
  | some x => match x.hw.head?, i.frame? with
    | some e, some f => WellFormed i && (s.gate s.cur x i.shape.1 f (x.active f e)).isNone && x.active f e != 0 && P x e i.shape.1 f
    | _, _ => false
  | none => false

theorem meets_some {i : Instr} {s : State} {P : Warp → Entry → Shape → Frame → Prop} [d : ∀ x e sh f, Decidable (P x e sh f)]
    (h : meets i s (fun x e sh f => decide (P x e sh f)) = true) : Meets i s P := by
  unfold meets at h
  split at h
  · next x hx =>
    split at h
    · next e f he hf =>
      simp only [Bool.and_eq_true, bne_iff_ne, decide_eq_true_eq] at h
      exact ⟨x, e, i.shape.1, f, ready ⟨hx, he, hf, h.1.1.1, h.1.1.2⟩, h.1.2, h.2⟩
    · simp at h
  · simp at h

theorem meets_mem {i : Instr} {s : State} {P : Warp → Entry → Shape → Frame → MemForm → Prop} [d : ∀ x e sh f m, Decidable (P x e sh f m)]
    (h : meets i s (fun x e sh f => match (memForms x f).find? (fun p => decide (p.1 = i)) with | some p => decide (P x e sh f p.2) | none => false) = true) :
    MeetsMem i s P := by
  unfold meets at h
  split at h
  · next x hx =>
    split at h
    · next e f he hf =>
      simp only [Bool.and_eq_true, bne_iff_ne] at h
      obtain ⟨⟨⟨hw, hg⟩, ha⟩, hp⟩ := h
      split at hp
      · next p hm =>
        have hi : p.1 = i := of_decide_eq_true (by simpa using List.find?_some hm)
        refine ⟨x, e, i.shape.1, f, p.2, ?_, ready ⟨hx, he, hf, hw, hg⟩, ha, of_decide_eq_true hp⟩
        rw [← hi]; exact List.mem_of_find?_eq_some hm
      · simp at hp
    · simp at h
  · simp at h

/-- Nothing moves in a state whose dies are all at their reset values. -/
theorem quiet_of (s : State) (h : s.dies = []) : Quiet s :=
  have hd : ∀ d, s.die d = {} := fun d => by unfold State.die; rw [h]; rfl
  ⟨by simp [h], fun d => by rw [hd]; decide, fun d => by rw [hd]; decide⟩

/-- A source marked EP. -/
def epSrc (n : Nat) : Src := ⟨BitVec.ofNat 8 n, false, false, true⟩

/-! ## Issue, control and traps -/

/-- Clauses of `BranchesAndTheirTraps`: clean and tagged targets and operands. -/
theorem witness_BranchesAndTheirTraps :
    (∀ i ∈ [Instr.brx (fields 0 0 1 0 0), .callx (fields 0 8 1 0 0)], Meets i (at_ warp) fun x e _ f =>
      ((x.lane f.xa).2 ||| if (x.uni f.kb).2 then allLanes else 0) &&& x.active f e = 0) ∧
    (∀ i ∈ [Instr.brx (fields 0 0 5 0 0), .callx (fields 0 8 5 0 0)], Meets i (at_ warp) fun x e _ f =>
      ((x.lane f.xa).2 ||| if (x.uni f.kb).2 then allLanes else 0) &&& x.active f e ≠ 0) ∧
    Meets (.ret (fields 0 0 2 0 0)) (at_ warp) (fun x e _ f => (x.laneOpr f.xa true).tag &&& x.active f e = 0) ∧
    Meets (.ret (fields 0 0 4 0 0)) (at_ warp) (fun x e _ f => (x.laneOpr f.xa true).tag &&& x.active f e ≠ 0) ∧
    Meets (.sleep (fields 0 0 0 4 0x2000)) (at_ (tagK 4 warp)) (fun x _ _ f => f.bu = true ∧ (x.uni f.kb).2 = true) ∧
    Meets (.tmsetRel (fields 0 0 4 0 0)) (at_ (tagK 4 warp)) (fun x _ _ f => f.bi = false ∧ (x.uni f.ka).2 = true) ∧
    Meets (.tmsetAbs (fields 1 0 4 0 0)) (at_ (tagK 4 warp)) (fun x _ _ f => (x.uni f.ka).2 = true) ∧
    Meets (.setsr (withImm 0x021 (fields 0 0 4 0 0x800))) (at_ (tagK 4 warp)) (fun x e _ f =>
      if f.au then (x.uni f.ka).2 = true else ∃ l : Fin 32, firstLane (x.active f e) = some l ∧ (x.lane f.xa).2.getLsbD l.val = true) ∧
    Meets (.tlbinvWrite (withImm 0x112 (fields 0 0 9 0 0))) (at_ (tagX 9 warp)) (fun x e _ f =>
      if f.au then (x.uni f.ka).2 = true else ∃ l : Fin 32, firstLane (x.active f e) = some l ∧ (x.lane f.xa).2.getLsbD l.val = true) :=
  by
  simp only [List.forall_mem_cons, List.not_mem_nil, false_implies, implies_true, and_true]
  repeat' apply And.intro
  all_goals exact meets_some (by decide +kernel)

def logged (a : Access) : LogEntry := { state := .pending, code := 1, acc := a }

/-- An access of the current warp. -/
def acc (sp : Space) (op : AccOp) (ls : List LaneAcc) : Access :=
  { id := 5, w := 0, instr := .ldg (fields 0 8 0 0 0), pc := 0x20, space := sp, op := op, width := 4, dest := .lane 8 1, lanes := ls, act := 3, ord := 0, scope := 0 }

/-- An ensemble of process 0 in cluster 0 under scope 1, and a warp of it. -/
def ens : Ensemble := { proc := 0, scope := 1, pcls := 0, clusters := [0], straddle := false, done := 0, doneVal := 7, scratch := 0, seq := 0, live := 2 }
def inEns (x : Warp) : Warp := { x with owner := { x.owner with ensemble := some 3, scope := 1 } }
def scope1 : Scope := { proc := 0, parent := some 0, depth := 1, coop := false, count := 1 }
def scope0 : Scope := { proc := 0, parent := none, depth := 0, coop := false, count := 1 }
def run (x : Warp) : State := { at_ (inEns x) with ensembles := [(3, ens)], scopes := [(0, scope0), (1, scope1)] }

/-- Clauses of `ExitEndsLanes`. -/
theorem witness_ExitEndsLanes :
    let i := Instr.exit (fields 0 0 0 0 0)
    Meets (.exit (guarded 1 (fields 0 0 0 0 0))) (at_ warp) (fun x e _ f => x.log = [] ∧ x.fifth = none ∧ e.mask &&& ~~~(x.active f e) ≠ 0) ∧
    Meets i (at_ warp) (fun x e _ f => x.log = [] ∧ x.fifth = none ∧ e.mask &&& ~~~(x.active f e) = 0 ∧ x.hw.tail = [] ∧ x.sp = []) ∧
    Meets i (run warp) (fun x e _ f => x.log = [] ∧ x.fifth = none ∧ e.mask &&& ~~~(x.active f e) = 0 ∧ x.hw.tail = [] ∧ x.sp = [] ∧ x.members = [] ∧ x.results = [] ∧
      x.owner.task = false ∧ x.owner.ensemble = some 3 ∧ (run warp).ensembles.get? 3 = some ens ∧ (run warp).flightsOf (run warp).cur = [] ∧ x.call.call = none ∧ x.call.posts = []) ∧
    Meets i (at_ { warp with log := [(0, logged (acc .global .store []))] }) (fun x _ _ _ => x.log ≠ [] ∨ x.fifth ≠ none) :=
  ⟨meets_some (by decide +kernel), meets_some (by decide +kernel), meets_some (by decide +kernel), meets_some (by decide +kernel)⟩

/-- Clauses of `NopsWaitsAndBreaks`: conditions that hold, and conditions that do not. -/
theorem witness_NopsWaitsAndBreaks :
    let clean := fun x : Warp => (∀ r ∈ x.x, r.2.empty = false) ∧ ∀ r ∈ x.k, r.2.empty = false
    let stores := fun (s : State) (x : Warp) => (∀ a ∈ s.flights, a.w = s.cur → a.writes = false) ∧ x.log = [] ∧ x.fifth = none
    let clear := fun x : Warp => ∀ c ∈ x.copy.cnt, c.2 = 0
    let hot := { warp with k := warp.k.set 3 { uniReg 0 false with empty := true } }
    let owes : State := { at_ warp with flights := [acc .global .store [{ lane := 0, addr := 0, keys := [0] }]] }
    let late := { warp with copy := { warp.copy with cnt := [(1, 2)] } }
    Meets (.brk (fields 0 0 0 0 3)) (at_ { warp with trap := { tvEn := 0xFF } }) (fun x e _ _ => x.takes 0x20 = true ∧ e.mask ≠ 0) ∧
    Meets (.waitRegs (fields 0 0 0 0 0)) (at_ warp) (fun x _ _ _ => clean x) ∧ Meets (.waitRegs (fields 0 0 0 0 0)) (at_ hot) (fun x _ _ _ => ¬ clean x) ∧
    Meets (.waitSt (fields 1 0 0 0 0)) (at_ warp) (fun x _ _ _ => stores (at_ warp) x) ∧ Meets (.waitSt (fields 1 0 0 0 0)) owes (fun x _ _ _ => ¬ stores owes x) ∧
    Meets (.waitAll (fields 2 0 0 0 0)) (at_ warp) (fun x _ _ _ => clean x ∧ stores (at_ warp) x ∧ clear x) ∧
    Meets (.waitAll (fields 2 0 0 0 0)) (at_ late) (fun x _ _ _ => ¬ (clean x ∧ stores (at_ late) x ∧ clear x)) ∧
    Meets (.sleep (withImm 9 (fields 0 0 0 0 0x1000))) (at_ warp) (fun x _ _ f => f.bu = true → (x.uni f.kb).2 = false) :=
  by
  intro _ _ _ _ _ _
  repeat' apply And.intro
  all_goals exact meets_some (by decide +kernel)

/-- Clauses of `GatesHoldsAndGuards`. -/
theorem witness_GatesHoldsAndGuards :
    let f := fields 0 8 1 2 0
    let sh := (Instr.iadd f).shape.1
    let empty := fun n => { warp with x := warp.x.set n { laneReg (fun _ => 0) 0 with empty := true } }
    let ep : Frame := { f with a := epSrc 1 }
    (∃ i : Nat, i < 8 ∧ ({ f with wt := 2 } : Frame).wt.getLsbD i = true ∧ ({ warp with copy := { warp.copy with cnt := [(1, 2)] } } : Warp).copy.cnt.getD i 0 ≠ 0) ∧
    (∃ r src, (sh.reads f).find? (fun p => (empty 1).isEmpty p.1) = some (r, src) ∧ src.ep = false) ∧
    (∃ r src, ((Instr.iadd ep).shape.1.reads ep).find? (fun p => (empty 1).isEmpty p.1) = some (r, src) ∧ src.ep = true) ∧
    ((∀ p ∈ sh.reads f, (empty 8).isEmpty p.1 = false) ∧ ∃ r, (sh.writes f).find? (empty 8).isEmpty = some r) ∧
    ((∀ p ∈ sh.reads f, warp.isEmpty p.1 = false ∧ warp.isSpilled p.1 = false) ∧
      (∀ r ∈ sh.writes f, warp.isBound r = true ∧ warp.isEmpty r = false ∧ warp.isSpilled r = false) ∧ ∀ r ∈ sh.writes f, frees sh f r = false) ∧
    (match (at_ (empty 1)).gate 0 (empty 1) sh f allLanes with | some (.hold (.regs [.x 1])) => true | _ => false) = true ∧
    (match (at_ (empty 1)).gate 0 (empty 1) (Instr.iadd ep).shape.1 ep allLanes with | some (.trap 8 1) => true | _ => false) = true ∧
    ∃ x e sh g, Ready (.iadd { f with gneg := true }) (at_ warp) x e sh g ∧ x.active g e = 0 :=
  ⟨⟨1, by decide +kernel⟩, ⟨.x 1, src 1, by decide +kernel⟩, ⟨.x 1, epSrc 1, by decide +kernel⟩, ⟨by decide +kernel, .x 8, by decide +kernel⟩, by decide +kernel,
   by decide +kernel, by decide +kernel, ⟨warp, entry, _, { fields 0 8 1 2 0 with gneg := true }, ready (by decide +kernel), by decide +kernel⟩⟩

/-- Clauses of `TrapsAndReturns`. -/
theorem witness_TrapsAndReturns :
    (let x := { warp with trap := { tvEn := 0xFF } }
     (at_ x).warp? 0 = some x ∧ x.takes 9 = true ∧ x.hw.head? = some entry ∧ entry.mask ≠ 0) ∧
    ((at_ warp).warp? 0 = some warp ∧ warp.hw.head? = some entry ∧ warp.takes 9 = false ∧ (∀ g ∈ (at_ warp).flights, g.w ≠ 0) ∧ warp.call.posts = []) ∧
    (∃ g ∈ ({ at_ warp with flights := [acc .global .store []] } : State).flights, g.w = 0) ∧
    Meets (.trapret (fields 0 0 0 0 0)) (at_ { warp with trap := { act := true } }) (fun x _ _ _ => x.trap.act = true) ∧
    Meets (.trapret (fields 0 0 0 0 0)) (at_ warp) (fun x _ _ _ => x.trap.act = false) :=
  ⟨by decide +kernel, by decide +kernel, by decide +kernel, meets_some (by decide +kernel), meets_some (by decide +kernel)⟩

/-- Clauses of `TimersAndBoundaries`. -/
theorem witness_TimersAndBoundaries :
    Meets (.tmsetRel (fields 0 0 4 0 0)) (at_ warp) (fun x _ _ f => f.bi = false → (x.uni f.ka).2 = false) ∧
    Meets (.tmsetAbs (fields 1 0 4 0 0)) (at_ warp) (fun x _ _ f => (x.uni f.ka).2 = false) ∧
    (∃ x : Warp, (at_ x).warp? 0 = some x ∧ x.marks.ended = false ∧ x.hw = [entry] ∧ (at_ x).atBoundary 0 x = true ∧
      x.log.find? (fun p => p.2.state == .failed && !p.2.raised) = some (2, { logged (acc .global .store []) with state := .failed })) ∧
    (∃ x : Warp, (at_ x).warp? 0 = some x ∧ x.hw = [entry] ∧ (at_ x).atBoundary 0 x = true ∧ (∀ p ∈ x.log, p.2.state = .failed → p.2.raised = true) ∧ x.trap.poison = some 0x40) ∧
    (∃ x : Warp, (at_ x).warp? 0 = some x ∧ x.hw = [entry] ∧ (at_ x).atBoundary 0 x = true ∧ (∀ p ∈ x.log, p.2.state = .failed → p.2.raised = true) ∧ x.trap.poison = none ∧
      x.trap.fired = some 9 ∧ x.trap.act = false) ∧
    ∃ x : Warp, (at_ x).warp? 0 = some x ∧ x.hw = [entry] ∧ (at_ x).atBoundary 0 x = true ∧ (∀ p ∈ x.log, p.2.state = .failed → p.2.raised = true) ∧ x.trap.poison = none ∧
      x.trap.fired = some 9 ∧ x.trap.act = true :=
  ⟨meets_some (by decide +kernel), meets_some (by decide +kernel), ⟨{ warp with wait := some (.sleep 9), log := [(2, { logged (acc .global .store []) with state := .failed })] }, by decide +kernel⟩,
   ⟨{ warp with wait := some (.sleep 9), trap := { poison := some 0x40 } }, by decide +kernel⟩, ⟨{ warp with wait := some (.sleep 9), trap := { fired := some 9 } }, by decide +kernel⟩,
   ⟨{ warp with wait := some (.sleep 9), trap := { fired := some 9, act := true } }, by decide +kernel⟩⟩

/-- Clauses of `SpecialRegisters`: a register of the warp, WSTAT, MXBUD, CALLWIN, MIGPOL and MIGFRM, from a uniform register and from the lowest active lane. -/
theorem witness_SpecialRegisters :
    (∀ n ∈ [0x021, 0x000, 0x072, 0x110, 0x115, 0x116], Meets (.setsr (withImm n (fields 0 0 4 0 0x800))) (at_ warp) fun x _ _ f =>
      f.immf 0 12 = n ∧ f.au = true ∧ x.uni f.ka = (0x400, false)) ∧
    Meets (.setsr (withImm 0x031 (fields 0 0 1 0 0))) (at_ warp) (fun x e _ f => f.au = false ∧
      ∃ l : Fin 32, firstLane (x.active f e) = some l ∧ (x.lane f.xa).2.getLsbD l.val = false) ∧
    ((at_ warp).proc? warp.owner.proc).isSome = true ∧ warp.prio < 16 := by
  simp only [List.forall_mem_cons, List.not_mem_nil, false_implies, implies_true, and_true]
  exact ⟨⟨meets_some (by decide +kernel), meets_some (by decide +kernel), meets_some (by decide +kernel), meets_some (by decide +kernel), meets_some (by decide +kernel),
    meets_some (by decide +kernel)⟩, meets_some (by decide +kernel), by decide +kernel, by decide +kernel⟩

/-! ## Fetch and decoding -/

/-- A state that fetches a word, with changes to its warp. -/
def fetches (nbits w : Nat) (g : Warp → Warp) : State := (State.reset.withFetchWord nbits w).modWarp 0 g

/-- What `StepRunsDecoded` and `DecodeAndIssueTraps` ask of a state before its words are read, and then of the words. -/
def fetchable (s : State) (P : Warp → Entry → (Nat → W32) → Bool) : Bool :=
  match s.warp? s.cur with
  | some x => match x.hw with
    | en :: _ => match s.codeWalk s.cur x en.pc.toNat with
      | .leaf pte _ =>
        s.agenda.isEmpty && x.wait.isNone && !x.moveDue && !x.marks.ended && s.holdsSlot s.cur && (s.beforeIssue s.cur x).isNone && decide (pteTier pte ≠ 3) &&
          (s.codeFault (coreOf s.cur) (leafKey pte en.pc.toNat)).isNone && P x en fun n => s.codeAt (coreOf s.cur) (leafKey pte en.pc.toNat + 4 * n)
      | _ => false
    | [] => false
  | none => false

/-- The words decode to an instruction of which `P` holds. -/
def decoded (w : Nat → W32) (P : Instr → Shape → Frame → Bool) : Bool :=
  match decodeWords (w 0) (w 1) (w 2) (w 3) with
  | .ok i => match i.shape with | (sh, some f) => P i sh f | _ => false
  | _ => false

def beyond (x : Warp) (sh : Shape) (f : Frame) : List Reg :=
  ((sh.reads f).map (·.1) ++ sh.writes f).filter fun r => match r with | .x n => decide (x.lregs ≤ n) | .k n => decide (x.uregs ≤ n)

/-- `StepRunsDecoded`: `movi x8, 7 ;;` at the head. -/
theorem witness_StepRunsDecoded : fetchable (fetches 96 0x7_00000000_004011BD id) (fun x en w => decide (en.pc.toNat % 32 + lenBytes (w 0) ≤ 32) && decoded w fun i sh f =>
    i.permitted x.owner.priv x.mx.unchk && i.role?.all (x.role = ·) && WellFormed i && (f.wt == 0 || x.run == 0) && (beyond x sh f).isEmpty && (x.run < 23 || f.eor)) = true := by
  decide +kernel

/-- `DecodeAndIssueTraps`, check by check: a straddling word, a bad pad, an opcode that is free, privilege, role, a rule of the form, a register beyond the declared
ones, and a 24th instruction that does not end its run. -/
theorem witness_DecodeAndIssueTraps :
    let movi := 0x7_00000000_004011BD
    let inRange := fun (en : Entry) (w : Nat → W32) => decide (en.pc.toNat % 32 + lenBytes (w 0) ≤ 32) && decide ((w 0).extractLsb' 0 2 ≠ 3)
    fetchable (fetches 32 7 fun x => { x with hw := [{ prio := 8, pc := 28, mask := allLanes }] }) (fun _ en w => decide (32 < en.pc.toNat % 32 + lenBytes (w 0))) = true ∧
    fetchable (fetches 32 7 id) (fun _ _ w => decide ((w 0).extractLsb' 0 2 = 3 ∧ w 0 ≠ 3)) = true ∧
    fetchable (fetches 64 0xFFBC id) (fun _ en w => inRange en w && (instrOf ((w 0).extractLsb' 7 9) (frameOf (w 1 ++ w 0) (w 2) (w 3))).isNone) = true ∧
    fetchable (fetches 64 0x2040F33C fun x => { x with owner := { x.owner with priv := false } }) (fun x en w => inRange en w && decoded w fun i _ _ =>
      !i.permitted x.owner.priv x.mx.unchk) = true ∧
    fetchable (fetches 64 0xC4BC fun x => { x with role := 0 }) (fun x en w => inRange en w && decoded w fun i _ _ =>
      i.permitted x.owner.priv x.mx.unchk && !i.role?.all (x.role = ·)) = true ∧
    fetchable (fetches 64 0x8433C id) (fun x en w => inRange en w && decoded w fun i _ _ =>
      i.permitted x.owner.priv x.mx.unchk && i.role?.all (x.role = ·) && !WellFormed i) = true ∧
    fetchable (fetches 96 movi fun x => { x with lregs := 4 }) (fun x en w => inRange en w && decoded w fun i sh f =>
      i.permitted x.owner.priv x.mx.unchk && i.role?.all (x.role = ·) && WellFormed i && !(beyond x sh f).isEmpty) = true ∧
    fetchable (fetches 96 (movi - 4) fun x => { x with run := 23 }) (fun x en w => inRange en w && decoded w fun i sh f =>
      i.permitted x.owner.priv x.mx.unchk && i.role?.all (x.role = ·) && WellFormed i && f.wt == 0 && (beyond x sh f).isEmpty && decide (23 ≤ x.run) && !f.eor) = true := by
  decide +kernel

/-- `MemoryBytes` and `StepKeepsMemoryCanonical`: memories in canonical form, and a step that answers a next state. -/
theorem witness_memory : Mem.wf State.reset.mem = true ∧ Mem.wf (at_ warp).mem = true ∧ Mem.wf ([] : List Host.Cell) = true ∧ Goes (step (at_ warp)) = true := by decide +kernel

/-! ## Memory instructions -/

/-- The resolution of an access fails with one of these codes. -/
def failsWith (s : State) (x : Warp) (a : Access) (cs : List Nat) : Bool := match (s.resolve x a).1 with | .error (c, _, _) => cs.contains c | .ok _ => false
/-- It succeeds, and its lanes meet `P`. -/
def resolves (s : State) (x : Warp) (a : Access) (P : List LaneAcc → Bool) : Bool := match (s.resolve x a).1 with | .error _ => false | .ok ls => P ls

def full : Tbl LogEntry := (List.range 4).map fun n => (n, logged (acc .global .store []))

/-- Clauses of `MisalignedAndFaulting`: a misaligned lane; an address outside its memory, a page that does not translate, and the same with a full log. -/
theorem witness_MisalignedAndFaulting :
    (∀ i ∈ [Instr.lds (fields 0 8 1 0 0), .stg (withC 2 (fields 0 0 1 0 0)), .atomo (fields 0 8 1 2 0)], MeetsMem i (at_ warp) fun x e _ f m =>
      ((lanesFor m (x.active f e)).find? (fun l => !(m.addr l).2 && (m.addr l).1 % m.width != 0)).isSome = true) ∧
    (∀ i ∈ [Instr.ldc (fields 0 8 0 0 0), .sts (fields 0 0 0 2 0)], MeetsMem i (at_ warp) fun x e sh f m => Aligned (lanesFor m (x.active f e)) m ∧
      (m.ord < 2 ∨ x.log = [] ∧ x.fifth = none) ∧ failsWith (at_ warp) x (((at_ warp).sees x e sh f).request (at_ warp) i m (at_ warp).nextId) [2] = true) ∧
    (let i := Instr.ldg (withImm 0x4000 (fields 0 8 0 0 0))
     MeetsMem i (at_ { warp with log := full }) fun x e sh f m => Aligned (lanesFor m (x.active f e)) m ∧ m.ord < 2 ∧ x.log.free 0 4 = none ∧
      let s := at_ { warp with log := full }
      let a := (s.sees x e sh f).request s i m s.nextId
      (∀ b ∈ x.log, s.sharePage x a b.2.acc = false) ∧ failsWith s x a [1] = true) := by
  simp only [List.forall_mem_cons, List.not_mem_nil, false_implies, implies_true, and_true]
  refine ⟨⟨meets_mem ?_, meets_mem ?_, meets_mem ?_⟩, ⟨?_, ?_⟩, ?_⟩
  · decide +kernel
  · decide +kernel
  · decide +kernel
  all_goals (unfold Aligned; exact meets_mem (by decide +kernel))

/-- The state with the lines of the page at 0 in the L1 of core 0. -/
def cached : State := (at_ warp).modCore 0 fun c => { c with l1 := (List.range 4).map fun n => { asid := 0, line := n, data := List.replicate 128 0, marks := 0 } }

/-- Clauses of `AccessesSetOut`: loads that miss, a store, accesses to a cluster window and a Grotto window, and a load that the L1 holds. -/
theorem witness_AccessesSetOut :
    let wide := at_ { warp with cswin := 1 }
    let grotto : State := (at_ warp).modProc 0 fun p => { p with grwin := 0x1_0000_0000 }
    let sets := fun (s : State) (i : Instr) (P : MemForm → List LaneAcc → Bool) => MeetsMem i s fun x e sh f m => m.space ≠ .scratch ∧ m.space ≠ .slice ∧
      (∀ l ∈ lanesFor m (x.active f e), (m.addr l).2 = false → (m.addr l).1 % m.width = 0) ∧ x.log = [] ∧ x.fifth = none ∧
      (∃ l ∈ lanesFor m (x.active f e), (m.addr l).2 = false) ∧ resolves s x ((s.sees x e sh f).request s i m s.nextId) (P m) = true
    sets (at_ warp) (.ldg (fields 0 8 0 0 0)) (fun m ls => decide (m.space = .global) && ls.all fun l => ((at_ warp).l1Line? 0 ((at_ warp).asid 0) l.addr).isNone) ∧
    sets (at_ warp) (.stg (withC 2 (fields 0 0 0 0 0))) (fun _ _ => true) ∧ sets wide (.ldc (fields 0 8 0 0 0)) (fun _ _ => true) ∧
    sets grotto (.atomo (fields 0 8 0 2 0)) (fun _ _ => true) ∧ sets (at_ warp) (.ldh (fields 0 8 0 0 0)) (fun _ _ => true) ∧
    sets cached (.ldg (fields 0 8 0 0 0)) (fun m ls => decide (m.space = .global ∧ m.op = .load 0 ∧ m.ord = 0) && ls.all fun l => (cached.l1Line? 0 (cached.asid 0) l.addr).isSome) ∧
    Quiet cached ∧ (∀ g ∈ cached.flights, g.w ≠ cached.cur) ∧ cached.promotions = [] ∧ warp.call.posts = [] ∧ warp.marks.ended = false := by
  refine ⟨meets_mem ?_, meets_mem ?_, meets_mem ?_, meets_mem ?_, meets_mem ?_, meets_mem ?_, quiet_of _ (by decide +kernel), ?_⟩ <;> decide +kernel

/-- Clauses of `WhereBytesLie`: an address inside and outside of each space. -/
theorem witness_WhereBytesLie : ((at_ warp).proc? (acc .grotto .store []).proc).isSome = true ∧
    ∀ sp ∈ [Space.scratch, .cluster, .grotto, .host], ∃ a : Access, a.space = sp := by
  refine ⟨by decide +kernel, fun sp _ => ⟨acc sp .store [], rfl⟩⟩

/-- Clauses of `ScratchpadAccesses`: aligned lanes inside the scratchpad of 2 KiB. -/
theorem witness_ScratchpadAccesses :
    let s := at_ { warp with spwin := 1 }
    (∀ i ∈ [Instr.lds (fields 0 8 0 0 0), .sts (fields 0 0 0 2 0), .atoms (fields 0 8 0 2 0)], Meets i s fun x e _ f => x.marks.ended = false ∧ x.log = [] ∧ x.fifth = none ∧
      x.call.posts = [] ∧ (∀ l : Fin 32, (x.active f e).getLsbD l.val = true →
        ((x.lane f.xa).1[l] + (f.imm.setWidth 20).signExtend 32).toNat % 4 = 0 ∧ ((x.lane f.xa).1[l] + (f.imm.setWidth 20).signExtend 32).toNat + 4 ≤ x.spwin * 2048)) ∧
    (∀ g ∈ s.flights, g.w ≠ s.cur) ∧ s.initsDone s.cur = true := by
  simp only [List.forall_mem_cons, List.not_mem_nil, false_implies, implies_true, and_true]
  exact ⟨⟨meets_some (by decide +kernel), meets_some (by decide +kernel), meets_some (by decide +kernel)⟩, by decide +kernel, by decide +kernel⟩

/-- Clauses of `SlicesAndWindows`: slices that translate, and an unbound window, a bound one, and lanes beyond its bound. -/
theorem witness_SlicesAndWindows :
    let priv := at_ { warp with lprivBase := 0, lprivSize := 1 }
    let one := { warp with pwin := warp.pwin.set 0 (BitVec.ofNat 64 (2 ^ 63 + 64 * 2 ^ 47)) }
    let none_ := { warp with pwin := warp.pwin.set 0 (BitVec.ofNat 64 (2 ^ 63)) }
    Meets (.ldp (fields 0 8 0 0 0)) (at_ warp) (fun x _ _ f => (x.pwin.toList.getD f.xb 0).getLsbD 63 = false) ∧
    Meets (.ldp (fields 0 8 0 0 0)) (at_ one) (fun x e _ f => (x.pwin.toList.getD f.xb 0).getLsbD 63 = true ∧
      ∀ l ∈ lanesOf (x.active f e), ((x.lane f.xa).1[l]).toNat % 4 = 0 ∧ ((x.lane f.xa).1[l]).toNat + 4 ≤ bits (x.pwin.toList.getD f.xb 0) 47 16 * 16) ∧
    Meets (.ldp (fields 0 8 0 0 0)) (at_ none_) (fun x e _ f => (x.pwin.toList.getD f.xb 0).getLsbD 63 = true ∧
      ∀ l ∈ lanesOf (x.active f e), ¬ ((x.lane f.xa).1[l]).toNat + 4 ≤ bits (x.pwin.toList.getD f.xb 0) 47 16 * 16) ∧
    (∀ i ∈ [Instr.ldl (fields 0 8 255 0 0), .stl (fields 0 0 255 2 0)], MeetsMem i priv fun x e sh f m => m.space = .slice ∧ x.log = [] ∧ x.call.posts = [] ∧ x.marks.ended = false ∧
      (∀ l ∈ lanesOf (x.active f e), (m.addr l).2 = false → (m.addr l).1 % m.width = 0) ∧ priv.l1Takes 0 1 ∧
      resolves priv x ((priv.sees x e sh f).request priv i m priv.nextId) (fun ls => ((ls.flatMap x.sliceSpots).eraseDups.all fun p =>
        (priv.keyFault p.2).isNone && p.2 % 128 == 0 && (priv.sliceLine? 0 (priv.asid 0) p.1).isNone) && (ls.flatMap x.sliceSpots).eraseDups.length == 1 &&
        ls.all fun l => decide l.keys.Nodup && l.keys.all fun k => (ls.flatMap x.sliceSpots).eraseDups.any fun p => p.2 ≤ k && k < p.2 + 128) = true) ∧ Quiet priv := by
  simp only [List.forall_mem_cons, List.not_mem_nil, false_implies, implies_true, and_true]
  unfold State.l1Takes
  refine ⟨meets_some ?_, meets_some ?_, meets_some ?_, ⟨meets_mem ?_, meets_mem ?_⟩, quiet_of _ (by decide +kernel)⟩ <;> decide +kernel

/-! ## Homes, results, replays -/

/-- One lane at the first word of the page at 0, in frame 6. -/
def word0 : LaneAcc := { lane := 0, addr := 0, keys := [24576, 24577, 24578, 24579], data := [1, 2, 3, 4] }
def fly (a : Access) : State := { at_ warp with flights := [a], nextId := 9 }

/-- Clauses of `HomesPerform`: a load, a store and an atomic that may perform, one that may not, one that fails at its home, and host requests. -/
theorem witness_HomesPerform :
    (∀ op ∈ [AccOp.load 0, .store, .atomic 0],
      let a := acc .global op [word0]
      let s := fly a
      s.flight? 5 = some a ∧ a.chunk = [word0] ∧ a.op = op ∧ a.space = .global ∧ word0.node = none ∧ word0.keys ≠ [] ∧ word0.keys.Nodup ∧ word0.keys.length = a.width ∧
        word0.data.length = word0.keys.length ∧ (s.mayPerform a [word0] && !word0.keys.any fun j => s.portHolds a.core a.issuedAt (s.redirect j)) = true ∧
        s.keyFault (word0.keys.headD 0) = none) ∧
    (let s : State := { fly (acc .global .store [word0]) with pkg := { outOfService := [(0, 0x6000, 4096)] } }
     s.keyFault (word0.keys.headD 0) = some 8 ∧ s.mayPerform (acc .global .store [word0]) [word0] = true) ∧
    (let first : Access := { acc .global .store [word0] with id := 4 }
     let s : State := { at_ warp with flights := [first, acc .global .store [word0]] }
     s.flight? 5 = some (acc .global .store [word0]) ∧ s.mayPerform (acc .global .store [word0]) [word0] = false) ∧
    (let l : LaneAcc := { lane := 0, addr := 64, keys := span (hostKey 64) 4, data := [1, 2, 3, 4] }
     ∀ op ∈ [AccOp.load 0, .store, .atomic 0],
       let a := acc .host op [l]
       let s := fly a
       s.flight? 5 = some a ∧ a.space = .host ∧ a.chunk = [l] ∧ l.node = none ∧ s.mayPerform a [l] = true ∧ l.keys = span (hostKey l.addr) a.width ∧ l.data.length = a.width ∧
         s.anyMarked l.keys = false ∧ l.tag = false) ∧
    (∀ op, Quiet (fly (acc .global op [word0]))) ∧
    ((at_ warp).l1Line? 0 ((at_ warp).asid 0) 0 = none ∧ (cached.l1Line? 0 (cached.asid 0) 0).isSome = true ∧ ∀ g ∈ cached.flights, g.core ≠ 0) := by
  exact ⟨by decide +kernel, by decide +kernel, by decide +kernel, by decide +kernel, fun op => quiet_of _ rfl, by decide +kernel⟩

/-- Clauses of `ResultsArrive`. -/
theorem witness_ResultsArrive :
    let a := acc .global (.load 0) [word0]
    let ended : Access := { a with done := [(0, [1, 2, 3, 4], false)] }
    let bad : Access := { a with failed := [(0, 8)] }
    ((at_ warp).warp? a.w = some warp ∧ warp.marks.ended = false ∧ warp.call.posts = [] ∧ warp.wait ≠ some (.access a.id a.scope) ∧ a.entry = none ∧
      (∀ r ∈ a.dest.regs, warp.isSpilled r = false) ∧ a.todo ≠ []) ∧
    (ended.todo = [] ∧ ended.failed = [] ∧ bad.todo = [] ∧ bad.failed = [(0, 8)] ∧ bad.space ≠ .host ∧ warp.log.free 0 4 = some 0) ∧
    ∃ x r, (at_ x).warp? 0 = some x ∧ x.results.find? (fun q => q.id == 7) = some r ∧ r.marking = none ∧ r.psn = false ∧ x.marks.ended = false ∧ x.call.posts = [] ∧
      r.puts = [.x 8 allLanes (Vector.replicate 32 9) 1] := by
  refine ⟨by decide +kernel, by decide +kernel, { warp with results := [{ id := 7, puts := [.x 8 allLanes (Vector.replicate 32 9) 1] }] }, { id := 7, puts := [.x 8 allLanes (Vector.replicate 32 9) 1] }, by decide +kernel⟩

/-- An entry of the operand log that is to be replayed. -/
def waiting : LogEntry := { state := .queued, code := 1, acc := acc .global (.load 0) [word0] }

theorem load_ne (f g : Frame) : Instr.ldg f ≠ .waitaddr g := nofun

/-- Clauses of `OrderAndReplays`. -/
theorem witness_OrderAndReplays :
    (let old : Access := { acc .global .store [word0] with id := 4 }
     let new : Access := { acc .global .store [word0] with ord := 2, scope := 2 }
     let s : State := { at_ warp with flights := [old, new] }
     s.flight? 5 = some new ∧ new.chunk = [word0] ∧ ∃ b ∈ s.flights, b.id < new.id ∧ b.w = new.w ∧ ∃ m ∈ b.left, ∃ n ∈ [word0], ∃ j ∈ n.keys, j ∈ m.keys) ∧
    (let m : MigSlot := { asid := 0, proc := 0, va := 0, size := 4096, src := 24576, dst := 65536, ptePlace := 0, pte := 0, auto := false, locked := [0] }
     let s : State := { fly (acc .global .store [word0]) with dies := [(0, { slots := [(0, m)] })] }
     (acc .global .store [word0]).writes = true ∧ ∃ j ∈ word0.keys, s.lockedLine j = true) ∧
    (let s := at_ { warp with log := [(1, waiting)] }
     let a : Access := { waiting.acc with w := 0, core := coreOf 0, issuedAt := s.clock }
     (∀ b ∈ s.flights, b.w ≠ waiting.acc.w) ∧ waiting.acc.space ≠ .scratch ∧ waiting.acc.space ≠ .slice ∧
       resolves s { warp with log := [(1, waiting)] } a (fun ls => ({ a with lanes := ls } : Access).todo != [] && ls.all fun l => (s.l1Line? a.core (s.asid a.proc) l.addr).isNone) = true) ∧
    (∀ g, waiting.acc.instr ≠ .waitaddr g) ∧ (warp.log.free 0 4).isSome = true ∧ ({ warp with fifth := some waiting.acc, log := full } : Warp).log.free 0 4 = none := by
  exact ⟨by decide +kernel, by decide +kernel, by decide +kernel, fun g => load_ne _ g, by decide +kernel, by decide +kernel⟩

/-! ## Fences, watches, determinism, moves -/

/-- A state in which nothing is on its way satisfies every fence. -/
theorem fence_idle (s : State) (w kind scope : Nat) (hw : (s.core (coreOf w)).wbuf = []) (hf : s.flights = []) (hc : ∀ c ∈ s.cores, c.2.csbuf = [])
    (hm : ∀ c ∈ s.clusters, c.2.msgs = []) : FenceHolds s w kind scope := by
  have hb : ∀ c ∈ s.cores, ∀ b ∈ c.2.csbuf, b.w ≠ w := fun c h b hb => by rw [hc c h] at hb; simp at hb
  unfold FenceHolds
  split
  · trivial
  · exact ⟨by simp [hw], by simp [hf], Or.inr hb⟩
  · exact ⟨Or.inr ⟨by simp [hf], fun c h m hmm => by rw [hm c h] at hmm; simp at hmm⟩, Or.inr hb, Or.inr fun _ _ a ha => by rw [hf] at ha; simp at ha⟩

theorem at_core (x : Warp) (c : Nat) : (at_ x).core c = base.core c := by simp only [at_, State.core]
theorem at_cores (x : Warp) : (at_ x).cores = base.cores := by simp only [at_]
theorem at_clusters (x : Warp) : (at_ x).clusters = base.clusters := by simp only [at_]
theorem at_flights (x : Warp) : (at_ x).flights = base.flights := by simp only [at_]

theorem idle_holds (x : Warp) (kind scope : Nat) : FenceHolds (at_ x) 0 kind scope :=
  fence_idle _ _ _ _ (by rw [at_core]; decide +kernel) (by rw [at_flights]; decide +kernel) (by rw [at_cores]; decide +kernel) (by rw [at_clusters]; decide +kernel)

/-- A store of the current warp is on its way. -/
def storing (x : Warp) : State := { at_ x with flights := [acc .global .store [word0]] }

/-- Clauses of `FencesAndDrains`: fences that complete and fences that wait, at issue and later, drains of both buffers, a flush. -/
theorem witness_FencesAndDrains :
    (∀ i ∈ [Instr.fenceAr (fields 0 0 0 0 0x10), .fenceAcq (fields 1 0 0 0 0x10), .fenceRel (fields 2 0 0 0 0x10), .fencePath (fields 3 0 0 0 0x10)],
      Meets i (at_ warp) (fun x _ _ f => x.log = [] ∧ x.fifth = none ∧ f.mf 3 3 = 2) ∧ Meets i (storing warp) (fun x _ _ f => x.log = [] ∧ x.fifth = none ∧ f.mf 3 3 = 2) ∧
      Meets i (at_ { warp with log := full }) fun x _ _ _ => x.log ≠ [] ∨ x.fifth ≠ none) ∧
    (∀ kind, FenceHolds (at_ warp) (at_ warp).cur kind 2) ∧ (∀ kind ∈ [0, 2], ¬ FenceHolds (storing warp) (storing warp).cur kind 2) ∧
    (∀ kind, kind ≤ 3 → ∃ x, (at_ x).warp? 0 = some x ∧ x.wait = some (.fence kind 2) ∧ x.log = [] ∧ x.fifth = none ∧ (at_ x).killDue 0 x = false ∧ FenceHolds (at_ x) 0 kind 2) ∧
    (let b : Buffered := { w := 0, keys := [scratchKey 0 4], data := [9], mark := none }
     let s := (at_ warp).modCore 0 fun c => { c with wbuf := [b] }
     let t := (at_ warp).modCore 0 fun c => { c with csbuf := [b] }
     (s.core 0).wbuf = [b] ∧ (s.core 0).csbuf = [] ∧ (t.core 0).wbuf = [] ∧ (t.core 0).csbuf = [b]) ∧
    ∃ x, (at_ x).warps = [(0, x)] ∧ x.wait = some (.flush [0] 4 2) ∧ ∀ f ∈ (at_ x).flights, f.core = 0 → (at_ x).early f = false := by
  refine ⟨?_, fun k => idle_holds warp k 2, ?_, ?_, by decide +kernel, { warp with wait := some (.flush [0] 4 2) }, by decide +kernel⟩
  · simp only [List.forall_mem_cons, List.not_mem_nil, false_implies, implies_true, and_true]
    refine ⟨⟨meets_some ?_, meets_some ?_, meets_some ?_⟩, ⟨meets_some ?_, meets_some ?_, meets_some ?_⟩, ⟨meets_some ?_, meets_some ?_, meets_some ?_⟩,
      ⟨meets_some ?_, meets_some ?_, meets_some ?_⟩⟩ <;> decide +kernel
  · intro k hk h
    have hs : acc .global .store [word0] ∈ (storing warp).flights ∧ (acc .global .store [word0]).w = (storing warp).cur ∧ (acc .global .store [word0]).writes = true := by decide +kernel
    simp only [List.mem_cons, List.not_mem_nil, or_false] at hk
    rcases hk with rfl | rfl <;> rcases h.1 with h | ⟨h, -⟩ <;> exact absurd h (by decide)
  · intro k hk
    refine ⟨{ warp with wait := some (.fence k 2) }, ?_⟩
    interval_cases k <;> exact ⟨by decide +kernel, by decide +kernel, by decide +kernel, by decide +kernel, by decide +kernel, idle_holds _ _ _⟩

/-- A walk that ends at a leaf of which `P` holds. -/
def walksTo (r : Walk) (P : W64 → Nat → Bool) : Bool := match r with | .leaf pte place => P pte place | _ => false

/-- Clauses of `PrefetchAndWalk`: a cluster TLB with the leaf, room in the L1, and a page that translates. -/
theorem witness_PrefetchAndWalk :
    let leaf : W64 := BitVec.ofNat 64 (leafEntry 6)
    let s : State := (at_ warp).modCluster 0 fun c => { c with tlb := [{ asid := 0, vpn := 0, size := 0, pte := leaf }] }
    Meets (.prfg (fields 0 0 0 0 0)) s (fun _ _ _ f => f.vn = 0) ∧ s.l1Takes 0 32 ∧ Quiet s ∧ tlbFind (s.cluster 0).tlb (s.asid 0) 0 = some leaf ∧ pteRd leaf = true ∧ pteTier leaf ≠ 3 ∧
    s.keyFault (leafKey leaf 0) = none ∧ (∃ pr, s.procs = [(0, pr)]) ∧ walksTo (s.walk 0 0) (fun pte _ => pteRd pte) = true ∧ (s.die 0).walks = [] := by
  unfold State.l1Takes
  refine ⟨meets_some ?_, ?_, quiet_of _ ?_, ?_, ?_, ?_, ?_, ⟨_, rfl⟩, ?_, ?_⟩ <;> decide +kernel

/-- Clauses of `Watches`: tagged, misaligned, met and not met at issue; a watch at its events; a sleep at its end. -/
theorem witness_Watches :
    let i := Instr.waitaddr (fields 1 2 4 0 0)
    let reads := fun (s : State) => walksTo (s.translate (coreOf s.cur) 0 0 0).1 fun pte _ =>
      decide (pteTier pte ≠ 3) && (s.keyFault (leafKey pte 0)).isNone && !(s.coreView (coreOf s.cur) fun _ => true).anyMarked ((List.range 4).map fun n => leafKey pte n)
    Meets i (at_ (tagK 4 warp)) (fun x _ _ f => (x.uni f.kb).2 || (x.uni f.ka).2 || (f.bit 6 && (x.uni f.kc).2)) ∧
    Meets (.waitaddr (withImm 2 (fields 1 2 4 0 0))) (at_ warp) (fun x _ _ f => ((x.uni f.kb).2 || (x.uni f.ka).2 || (f.bit 6 && (x.uni f.kc).2)) = false ∧
      ((x.uni f.kb).1 + f.imm.signExtend 64).toNat % (if f.vn = 7 then 8 else 4) ≠ 0) ∧
    (∀ v ∈ [0, 0x400], let s := at_ (setK 4 v warp)
      Meets i s (fun x _ _ f => ((x.uni f.kb).2 || (x.uni f.ka).2 || (f.bit 6 && (x.uni f.kc).2)) = false ∧ ((x.uni f.kb).1 + f.imm.signExtend 64).toNat = 0 ∧ x.log = []) ∧
      (∀ g ∈ s.flights, g.w ≠ s.cur) ∧ Quiet s ∧ reads s = true) ∧
    (let q : Watch := { acc := { acc .global (.load 0) [{ word0 with keys := [] }] with instr := i }, cmp := 1, cond := 0, acq := none, pd := 2, deadline := some 9, lastEval := 0 }
     let x := { warp with wait := some (.watch q) }
     let s : State := { at_ x with clock := 20000 }
     s.warp? 0 = some x ∧ q.faulted = false ∧ q.acc.space = .global ∧ q.acc.op = .load 0 ∧ q.acc.done = [] ∧ q.acc.ord = 0 ∧ q.acc.rel = none ∧ q.acc.proc = x.owner.proc ∧ x.log = [] ∧
       0 < q.acc.width ∧ s.interrupted 0 x = false ∧ (∃ d, q.deadline = some d ∧ d < s.clock) ∧ q.lastEval + 16384 ≤ s.clock ∧ reads s = true) ∧
    ∃ x, (at_ x).warp? 0 = some x ∧ x.wait = some (.sleep 0) := by
  simp only [List.forall_mem_cons, List.not_mem_nil, false_implies, implies_true, and_true]
  exact ⟨meets_some (by decide +kernel), meets_some (by decide +kernel),
    ⟨⟨meets_some (by decide +kernel), by decide +kernel, quiet_of _ (by decide +kernel), by decide +kernel⟩,
      meets_some (by decide +kernel), by decide +kernel, quiet_of _ (by decide +kernel), by decide +kernel⟩,
    by decide +kernel, { warp with wait := some (.sleep 0) }, by decide +kernel⟩

/-- A gang of one member, number 1 of ensemble 3, in cluster 0, and its member. -/
def gang1 : Gang := { ensemble := 3, num := 1, memb := 1 }
def member1 (x : Warp) : Warp := { inEns x with members := [{ gang := 1, ord := 0 }] }
def ganged (g : Gang) (x : Warp) : State := ({ at_ x with ensembles := [(3, ens)], scopes := [(0, scope0), (1, scope1)] } : State).modCluster 0 fun c => { c with gangs := [g] }

/-- Clauses of `DeterministicReductions`: outside the gang and in it; a commit; an arrival; a fold; the end of the window. -/
theorem witness_DeterministicReductions :
    let i := Instr.redgDet (withC 2 (fields 0 1 0 0 0x20A))
    let c := Instr.detcommit (fields 0 0 1 0 0)
    let s := ganged gang1 (member1 warp)
    Meets i (at_ warp) (fun x _ _ f => x.member? f.d.toNat = none) ∧
    Meets i s (fun x e _ f => (x.member? f.d.toNat).isSome = true ∧ x.log = [] ∧ (x.uni f.kb).2 = false ∧
      (∀ l ∈ lanesOf (x.active f e), (x.lane f.xa).2.getLsbD l.val = false ∧ ((x.uni f.kb).1 + ((x.lane f.xa).1[l].setWidth 64 <<< f.mf 4 3) + f.imm.signExtend 64).toNat % 4 = 0) ∧
      resolves s x { acc .global (.det 1 0 0) [{ word0 with keys := [] }] with id := 0, instr := i } (fun _ => true) = true) ∧
    Meets c (at_ warp) (fun x _ _ f => x.member? f.xa = none) ∧
    Meets c s (fun x _ _ f => (∃ m ∈ x.members, x.member? f.xa = some m ∧ m.committed = false) ∧ x.owner.ensemble = some 3 ∧ x.log = [] ∧ x.fifth = none ∧
      (∀ b ∈ s.flights, b.w ≠ s.cur) ∧ s.gang? (clusterOf (coreOf s.cur)) 3 f.xa = some gang1) ∧
    (let a := acc .global (.det 1 0 0) [word0]
     let t : State := { s with flights := [a] }
     (t.flight? 5 = some a ∧ a.todo = [word0] ∧ t.warp? a.w = some (member1 warp) ∧ (member1 warp).owner.ensemble = some 3 ∧ t.mayPerform a [word0] = true) ∧ Quiet t ∧
       word0.node = none ∧ word0.keys.head? = some 24576 ∧ t.keyFault 24576 = none ∧ t.held.length < 32) ∧
    (let h : Held := { cluster := 0, ensemble := 3, gang := 1, window := 0, proc := 0, key := 24576, buf := [{ issuer := 0, seq := 0, val := 5, poison := false }, { issuer := 1, seq := 0, val := 6, poison := false }] }
     let q := { gang1 with commits := 1 }
     let t : State := { ganged q (member1 warp) with held := [h] }
     ((t.cluster 0).gangs = [q] ∧ t.windowClosed 0 q = true ∧ h.cluster = t.windowPlace 0 q.ensemble ∧ h.ensemble = q.ensemble ∧ h.window = q.window ∧ h.runs = []) ∧ Quiet t ∧
       t.homeFault h.key = none ∧ h.buf.Pairwise (fun a b => a.issuer < b.issuer ∨ a.issuer = b.issuer ∧ a.seq < b.seq)) ∧
    (let q := { gang1 with commits := 1 }
     let x := { member1 warp with wait := some (.commit 1) }
     let t := ganged q x
     (t.cluster 0).gangs = [q] ∧ t.windowClosed 0 q = true ∧ t.held = [] ∧ t.warps = [(0, x)] ∧ clusterOf (coreOf 0) = 0 ∧ x.owner.ensemble = some q.ensemble) := by
  exact ⟨meets_some (by decide +kernel), meets_some (by decide +kernel), meets_some (by decide +kernel), meets_some (by decide +kernel),
    ⟨by decide +kernel, quiet_of _ (by decide +kernel), by decide +kernel⟩, ⟨by decide +kernel, quiet_of _ (by decide +kernel), by decide +kernel⟩, by decide +kernel⟩

/-- Nothing of the current warp is outstanding (R212). -/
def moves (s : State) (x : Warp) : Bool :=
  decide (x.log = [] ∧ x.fifth = none ∧ (∀ r ∈ x.x, r.2.empty = false) ∧ (∀ r ∈ x.k, r.2.empty = false) ∧ (∀ c ∈ x.copy.cnt, c.2 = 0) ∧ x.results = []) &&
  decide ((∀ a ∈ s.flights, a.w ≠ s.cur) ∧ s.sharedDrained s.cur = true ∧ s.initsDone s.cur = true ∧ s.commandsOf s.cur = [])

/-- Clauses of `WarpMoves`: a tagged operand, outstanding accesses, its own core, a core that refuses, a core that takes the warp; an arrival. -/
theorem witness_WarpMoves :
    let i := Instr.migw (fields 0 2 4 0 0)
    Meets i (at_ (tagK 4 warp)) (fun x _ _ f => (x.uni f.ka).2 = true) ∧ Meets i (storing warp) (fun x _ _ f => (x.uni f.ka).2 = false ∧ moves (storing warp) x = false) ∧
    (∀ v ∈ [0, 1, 0x400], let s := run (setK 4 v warp)
      Meets i s fun x _ _ f => (x.uni f.ka).2 = false ∧ moves s x = true ∧ (x.uni f.ka).1.toNat = v ∧
        (v != 1 || (s.moveTarget s.cur x (x.uni f.ka).1).isSome) = true ∧ s.cpd ≤ 24) ∧
    (let m : Transit := { id := 4, warp := warp, target := 64 }
     let s : State := { at_ warp with transit := [m] }
     s.transit = [m] ∧ s.spillUsed (coreOf m.target) + 256 + 136 * (m.warp.x.length + m.warp.k.length) ≤ 2 ^ 17 ∧ s.warp? m.target = none ∧ (s.core (coreOf m.target)).slices = []) := by
  simp only [List.forall_mem_cons, List.not_mem_nil, false_implies, implies_true, and_true]
  exact ⟨meets_some (by decide +kernel), meets_some (by decide +kernel), ⟨meets_some (by decide +kernel), meets_some (by decide +kernel), meets_some (by decide +kernel)⟩, by decide +kernel⟩

/-! ## Calls, the operand log, system operations, scheduling -/

/-- A call ring with one entry that is full: TAIL is 1. -/
def ringFull1 : State := State.reset.withFetchWord 64 1

/-- The pages of the call window are pinned (R179). -/
def pinned (x : Warp) : State := { at_ x with procs := (at_ x).procs.map fun p => (p.1, { p.2 with callPins := [(0, 4096, 24576)] }) }

theorem span_nodup (k n : Nat) : (span k n).Nodup := List.nodup_range.map fun a b h => by simpa using h
theorem span_apart {a b n m : Nat} (h : a + n ≤ b) : ∀ j ∈ span a n, j ∉ span b m := fun j hj hk => by
  simp only [span, List.mem_map, List.mem_range] at hj hk
  omega

/-- Clauses of `CallsAndRings`: a call and what it waits for. -/
theorem witness_CallsAndRings_call :
    let i := Instr.syscall (withImm 5 (fields 0 8 1 0 0))
    Meets i (pinned warp) (fun x _ _ _ => x.call.call = none ∧ x.log = [] ∧ x.fifth = none ∧ x.call.posts = []) ∧ (∀ g ∈ (pinned warp).flights, g.w ≠ 0) ∧
    ((pinned warp).slotKeys warp 0 256 1 = some (span 24576 256) ∧ (span 24576 256).Nodup) ∧ Quiet (pinned warp) ∧
    Meets i (at_ { warp with call := { call := some (3, 1, 1) } }) (fun x _ _ _ => x.call.call ≠ none) ∧
    Meets i (at_ { warp with log := full }) (fun x _ _ _ => x.call.call = none ∧ (x.log ≠ [] ∨ x.fifth ≠ none)) ∧
    Meets i (storing warp) (fun x _ _ _ => x.call.call = none ∧ x.log = [] ∧ x.fifth = none) ∧ ∃ g ∈ (storing warp).flights, g.w = (storing warp).cur :=
  ⟨meets_some (by decide +kernel), by decide +kernel, ⟨by decide +kernel, span_nodup _ _⟩, quiet_of _ (by decide +kernel), meets_some (by decide +kernel), meets_some (by decide +kernel),
   meets_some (by decide +kernel), by decide +kernel⟩

/-- The reply to a call, whose sequence number stands in the record or not, and the reply to a report. -/
theorem witness_CallsAndRings_reply :
    (∀ n ∈ [0, 1], let x := { warp with call := { call := some (3, 1, BitVec.ofNat 32 n) } }
      (pinned x).warp? 0 = some x ∧ x.marks.ended = false ∧ (pinned x).readSlot x 384 8 = some 0 ∧ (pinned x).slotKeys x 256 128 0 = some (span 24832 128)) ∧
    let x := { warp with call := { report := some 0x20 } }
    (pinned x).warp? 0 = some x ∧ x.hw = [entry] ∧ (pinned x).readSlot x 896 8 = some 0 ∧ (pinned x).readSlot x 768 8 = some 0 := by
  simp only [List.forall_mem_cons, List.not_mem_nil, false_implies, implies_true, and_true]
  exact ⟨⟨⟨rfl, rfl, by decide +kernel, by decide +kernel⟩, ⟨rfl, rfl, by decide +kernel, by decide +kernel⟩⟩, ⟨rfl, rfl, by decide +kernel, by decide +kernel⟩⟩

def oneNotice : Notice := { proc := 0, ix := 0, seq := 1, num := 5, exc := false, runtime := true, since := 0 }
def noticed (s : State) : State := { s with notices := [oneNotice], runtime := some (0, 0) }

/-- A notice whose ring has room. -/
theorem witness_CallsAndRings_notice :
    let n := oneNotice
    let s := noticed base
    s.notices = [n] ∧ s.noticeRing n = some (0, 0) ∧ s.callRing 0 0 = some (0, 0, 1) ∧ Quiet s ∧ s.virtKeys 0 64 16 1 = some (span 24640 16) ∧ (span 24640 16 ++ span 24576 4).Nodup ∧
    (s.writeBytes (span 24640 16) (toBytes 4 n.proc ++ toBytes 4 n.ix.toNat ++ toBytes 4 n.seq.toNat ++ toBytes 4 (n.num.toNat + n.exc.toNat * 2 ^ 16 + n.redir.toNat * 2 ^ 17))).virtKeys
      0 0 4 1 = some (span 24576 4) :=
  ⟨rfl, by decide +kernel, by decide +kernel, quiet_of _ (by decide +kernel), by decide +kernel, by decide +kernel, by decide +kernel⟩

/-- A notice whose ring is full, and whose age is that of a redirection. -/
theorem witness_CallsAndRings_full :
    let n := oneNotice
    let s : State := { noticed ringFull1 with clock := 2 ^ 20 }
    s.notices = [n] ∧ s.noticeRing n = some (0, 0) ∧ s.callRing 0 0 = some (1, 0, 1) ∧ Quiet s ∧ n.since + 2 ^ 20 ≤ s.clock :=
  ⟨rfl, by decide +kernel, by decide +kernel, quiet_of _ (by decide +kernel), by decide +kernel⟩

def failedLoad : LogEntry := logged (acc .global (.load 0) [word0])
def failedStore : LogEntry := { logged (acc .global .store []) with record := some (0, 3) }
def oneRecord : FaultRec := { id := 3, asid := 0, vpn := 0, pages := 1, waiters := [.log 0 1] }
def storeWarp : Warp := { warp with log := [(1, failedStore)] }
def recorded : State := { State.reset with warps := [(0, storeWarp)], dies := [(0, { faults := [oneRecord] })] }

/-- Clauses of `LogEntriesResolve`: no entry, an entry to queue or complete, an entry that waits for a record. -/
theorem witness_LogEntriesResolve :
    let x := { warp with log := [(0, failedLoad)] }
    Meets (.oplogRetry (fields 0 0 0 0 0)) (at_ warp) (fun x _ _ f => x.log.get? (f.mf 0 2) = none) ∧
    Meets (.oplogRetry (fields 0 0 0 0 0)) (at_ x) (fun x _ _ f => x.log.get? (f.mf 0 2) = some failedLoad) ∧
    Meets (.oplogKill (fields 1 0 0 0 0)) (at_ x) (fun x _ _ f => x.log.get? (f.mf 0 2) = some failedLoad ∧ x.isSpilled (.x 8) = false) ∧
    (failedLoad.state ≠ .queued ∧ failedLoad.acc.w = 0 ∧ failedLoad.acc.dest = .lane 8 1 ∧ ∀ g, failedLoad.acc.instr ≠ .waitaddr g) :=
  ⟨meets_some (by decide +kernel), meets_some (by decide +kernel), meets_some (by decide +kernel), by decide +kernel, rfl, by decide +kernel, fun g h => by simp [failedLoad, logged, acc] at h⟩

theorem witness_LogEntriesResolve_record :
    (recorded.die 0).faults.find? (fun q => q.id == 3 && q.written) = some oneRecord ∧ oneRecord.waiters = [.log 0 1] ∧ (∀ q ∈ (recorded.die 0).faults, q.written = true) ∧
    recorded.warps = [(0, storeWarp)] ∧ storeWarp.log = [(1, failedStore)] ∧ failedStore.record = some (0, 3) ∧ recorded.saved = [] ∧ recorded.cores = [] :=
  ⟨by decide +kernel, rfl, by decide +kernel, rfl, rfl, rfl, rfl, rfl⟩

/-- Clauses of `SystemOperations`: a shoot-down that nothing holds back and one that an access holds back, an injection, both queries of nodes. -/
theorem witness_SystemOperations :
    let all : Nat := 7 * 2 ^ 61
    let one := fun x : Warp => setK 4 all x
    Meets (.tlbinvWrite (withImm 0x112 (fields 0 0 4 0 0x800))) (at_ (one warp)) (fun x _ _ f => f.au = true ∧ x.uni f.ka = (BitVec.ofNat 64 all, false)) ∧
    ((∀ g ∈ (at_ (one warp)).flights, (at_ (one warp)).asid g.proc ≠ 0) ∧ ∀ c ∈ (at_ (one warp)).cores, c.2.loadQ = [] ∧ c.2.storeQ = []) ∧
    Meets (.tlbinvWrite (withImm 0x112 (fields 0 0 4 0 0x800))) (storing (one warp)) (fun x _ _ f => f.au = true ∧ x.uni f.ka = (BitVec.ofNat 64 all, false)) ∧
    (∃ g ∈ (storing (one warp)).flights, (storing (one warp)).asid g.proc = (BitVec.ofNat 64 all).extractLsb' 45 16 ∧ g.space = .global ∧ (BitVec.ofNat 64 all).toNat / 2 ^ 61 % 8 = 7) ∧
    (∀ i ∈ [Instr.errinjWrite (withImm 0x11B (fields 0 0 4 0 0x800)), .nodeqSt (fields 0 8 4 0 0), .nodeqMap (fields 1 8 255 4 0)], Meets i (at_ warp) fun x _ _ _ => (x.uni 4).2 = false) ∧
    (∀ i ∈ [Instr.nodeqSt (fields 0 8 4 0 0), .nodeqMap (fields 1 8 255 4 0)], Meets i (at_ (tagK 4 warp)) fun x _ _ _ => (x.uni 4).2 = true) ∧
    walksTo ((at_ warp).walk 0 0x400) (fun _ _ => true) = true := by
  simp only [List.forall_mem_cons, List.not_mem_nil, false_implies, implies_true, and_true]
  refine ⟨meets_some ?_, ?_, meets_some ?_, ?_, ⟨meets_some ?_, meets_some ?_, meets_some ?_⟩, ⟨meets_some ?_, meets_some ?_⟩, ?_⟩ <;> decide +kernel

/-- `n` bindings, the last `m` of them spilled. -/
def bindings (n m : Nat) : Tbl LReg := (List.range n).map fun r => (r, { laneReg (fun _ => 0) 0 with spilled := decide (n ≤ r + m), stamp := r })

/-- A full pool of quadrant 0: a warp with 16 entries that needs one, and four warps with 252 each. -/
def pressed : State :=
  { base with warps := (0, { warp with x := bindings 17 1, wait := some (.refill (.x 16)) }) :: [1, 2, 3, 4].map fun w => (w, { warp with x := bindings 252 0, owner := { warp.owner with seq := w } }) }

theorem bindings_nodup (n m : Nat) : ((bindings n m).map (·.1)).Nodup := by
  have h : (bindings n m).map (·.1) = List.range n := by simp [bindings, Function.comp_def]
  rw [h]; exact List.nodup_range

/-- Clauses of `SchedulingAndSpills`: a free slot with a contender, a frontier too long and one with spilled entries, a line that is there and one that is not, a
victim for a spill, a refill. -/
theorem witness_SchedulingAndSpills :
    (let s := (at_ warp).modCore 0 fun c => { c with quads := Vector.replicate 4 {}, icache := [192, 193].map fun n => { line := n, data := List.replicate 128 0 } }
     (s.warps.map (·.1)).Nodup ∧ ((s.core 0).quads.toList.getD 0 {}).holder = none ∧ s.contenders 0 0 ≠ []) ∧
    16 < (List.replicate 17 entry).length ∧ (∃ x : Warp, x.hw.length < 16 ∧ x.sp = [entry]) ∧
    (let holds := fun (s : State) (n : Nat) => ∃ l ∈ (s.core 0).icache, l.line = n
     let s := (at_ warp).modCore 0 fun c => { c with icache := [{ line := 5, data := [] }] }
     holds s 5 ∧ ¬ holds s 192 ∧ ¬ holds s 193 ∧ s.codeFault 0 (192 * 128) = none ∧ s.codeFault 0 (193 * 128) = none ∧ Quiet s ∧
       ((s.core 0).icache.filter fun l => l.line % 64 == 192 % 64).length < 8 ∧ ((s.core 0).icache.filter fun l => l.line % 64 == 193 % 64).length < 8) ∧
    ((pressed.warps.map (·.1)).Nodup ∧ (∀ p ∈ pressed.warps, (p.2.x.map (·.1)).Nodup ∧ (p.2.k.map (·.1)).Nodup) ∧
      (∃ w x, pressed.spillFor 0 0 true = some (w, x) ∧ (pressed.victim 0 0 true w (pressed.headNames w x)).isSome = true) ∧ pressed.spillUsed 0 + 128 ≤ 2 ^ 17) ∧
    (let x := { warp with x := bindings 17 1 }
     (at_ x).warp? 0 = some x ∧ x.isSpilled (.x 16) = true ∧ (at_ x).hasRoom 0 true 1 = true) := by
  refine ⟨by decide +kernel, by decide +kernel, ⟨{ warp with sp := [entry] }, by decide +kernel⟩,
    ⟨by decide +kernel, by decide +kernel, by decide +kernel, by decide +kernel, by decide +kernel, quiet_of _ (by decide +kernel), by decide +kernel, by decide +kernel⟩,
    ⟨by decide +kernel, ?_, ?_, by decide +kernel⟩, by decide +kernel⟩
  · have hk : (warp.k.map (·.1)).Nodup := by decide +kernel
    intro p hp
    simp only [pressed, List.map_cons, List.map_nil, List.mem_cons, List.not_mem_nil, or_false] at hp
    rcases hp with rfl | rfl | rfl | rfl | rfl <;> exact ⟨bindings_nodup _ _, hk⟩
  · have h : (match pressed.spillFor 0 0 true with
      | some (w, x) => (pressed.victim 0 0 true w (pressed.headNames w x)).isSome
      | none => false) = true := by decide +kernel
    split at h
    · next w x hx => exact ⟨w, x, hx, h⟩
    · simp at h

/-! ## Copies and tiles -/

/-- The operands of a copy of 16 bytes between address 0 and the near address 0. -/
def copies (x : Warp) : Warp := setK 5 (16 * 2 ^ 32) (setK 4 0 x)
def cmd : Cmd := { id := 3, w := 0, kind := .cpy, grotto := false, out := false, cluster := false, ops := #v[0, BitVec.ofNat 64 (16 * 2 ^ 32), 0, 0], scope := 2, rel := false, acq := true, flag := none,
                   rot := 0, token := some 1, spwin := 1 }
def queued (c : Cmd) (x : Warp) : State := (at_ x).modCore 0 fun k => { k with loadQ := [c] }

/-- Clauses of `CopyInstructions`: a tagged operand, a misaligned one, a mask without a core, a command that enters its queue, one that waits for the operand log and
one for an entry. -/
theorem witness_CopyInstructions :
    let i := Instr.cpy (fields 0 0 4 0 0)
    let clean := fun (x : Warp) (f : Frame) (n : Nat) => (List.range n).any (fun j => (x.uni (f.ka + j)).2) = false
    let aligned := fun (x : Warp) (f : Frame) => (x.uni f.ka).1.toNat % 4 = 0 ∧ (x.uni (f.ka + 1)).1.toNat % 4 = 0 ∧ (x.uni (f.ka + 1)).1.toNat / 2 ^ 32 % 4 = 0
    let crowd : State := (at_ (copies warp)).modCore 0 fun k => { k with loadQ := List.replicate 16 cmd }
    Meets i (at_ (tagK 4 warp)) (fun x _ _ f => ¬ clean x f 2) ∧ Meets i (at_ (setK 4 2 (copies warp))) (fun x _ _ f => clean x f 2 ∧ ¬ aligned x f) ∧
    Meets (.cpym (withImm 0x10 (fields 0 0 4 0 0))) (at_ (copies warp)) (fun x _ _ f => clean x f 4 ∧ f.imm.toNat % 16 = 0) ∧
    Meets i (at_ (copies warp)) (fun x _ _ f => clean x f 2 ∧ aligned x f ∧ f.bit 10 = false ∧ ((at_ (copies warp)).queue 0 (f.v.getLsbD 1)).length < 16) ∧
    Meets (.cpy (fields 0 0 4 0 0x1400)) (at_ { copies warp with log := full }) (fun x _ _ f => clean x f 2 ∧ aligned x f ∧ f.bit 10 = true ∧ x.log ≠ []) ∧
    Meets i crowd (fun x _ _ f => clean x f 2 ∧ aligned x f ∧ f.bit 10 = false ∧ 16 ≤ (crowd.queue 0 (f.v.getLsbD 1)).length) ∧
    (∀ j ∈ [Instr.cpyt (fields 0 0 4 0 0), .cpym (withImm 1 (fields 0 0 4 0 0)), .cpyr (fields 0 0 4 0 0)], Meets j (at_ (setK 6 0 (setK 7 0 (copies warp)))) fun x _ _ f => clean x f 4) ∧
    (((queued cmd warp).commands 0).map (·.id)).Nodup := by
  simp only [List.forall_mem_cons, List.not_mem_nil, false_implies, implies_true, and_true]
  refine ⟨meets_some ?_, meets_some ?_, meets_some ?_, meets_some ?_, meets_some ?_, meets_some ?_, ⟨meets_some ?_, meets_some ?_, meets_some ?_⟩, ?_⟩ <;> decide +kernel

theorem plain_of {s : State} {c : Cmd} {x : Warp} (h : c.owned = true ∧ s.warp? c.w = some x ∧ x.marks.ended = false ∧ x.call.posts = [] ∧ x.copy.stl = false ∧
    s.killNow c.w = false ∧ ∀ d ∈ s.commands 0, d.state ≠ .stalled) : Plain s 0 c x :=
  let ⟨owned, warp, lives, posts, flows, spared, others⟩ := h
  { owned, warp, lives, posts, flows, spared, others }

/-- Clauses of `CopiesRun`: a command that starts, one whose record is bad, one whose warp owes an access; a burst that translates, one that fails and one that
stalls; a burst that completes; a release with and without a flag. -/
theorem witness_CopiesRun :
    let far := fun (s : State) (c : Cmd) => s.farKeys 0 c 0 ((List.range c.burst).map fun j => c.farAt (c.at_ + j))
    let bad : Cmd := { cmd with ops := #v[0, BitVec.ofNat 64 (2 ^ 16 * 2 ^ 32), 0, 0] }
    let act : Cmd := { cmd with state := .active }
    let lost : Cmd := { act with ops := #v[0x4000, BitVec.ofNat 64 (16 * 2 ^ 32), 0, 0] }
    let front := fun (c : Cmd) => frontCmd ((queued c warp).queue 0 false) = some c ∧ (((queued c warp).queue 0 false).map (·.id)).Nodup
    let good := fun (c : Cmd) => (c.op 1).toNat % 2 ^ 32 + (c.op 1).toNat / 2 ^ 32 ≤ c.spwin * 2048
    let moving : Cmd := { act with at_ := 4, bursts := [{ first := 0, count := 4, far := [24576, 24580, 24584, 24588] }] }
    let last : Cmd := { cmd with state := .releasing }
    (front cmd ∧ good cmd ∧ Plain (queued cmd warp) 0 cmd warp ∧ ¬ ((∃ a ∈ (queued cmd warp).flights, a.w = cmd.w ∧ a.id < cmd.before) ∨ (queued cmd warp).initsDone cmd.w = false) ∧ warp.log = []) ∧
    (front bad ∧ ¬ good bad ∧ bad.bursts = [] ∧ Plain (queued bad warp) 0 bad warp) ∧
    (let s : State := { queued { cmd with before := 6 } warp with flights := [acc .global .store [word0]] }
     ∃ a ∈ s.flights, a.w = cmd.w ∧ a.id < 6) ∧
    (front act ∧ Plain (queued act warp) 0 act warp ∧ (match (far (queued act warp) act).1 with | .ok _ => true | _ => false) = true ∧
      ∀ d, d < 4 → (queued act warp).dieState d ≠ 1 ∧ (queued act warp).dieState d ≠ 2) ∧
    (let s : State := { queued act warp with pkg := { outOfService := [(0, 0x6000, 4096)] } }
     (match (far s act).1 with | .error (8, _) => true | _ => false) = true ∧ Plain s 0 act warp) ∧
    (let s : State := { queued act warp with pkg := { diest := 3 } }
     (match (far s act).1 with | .error (c, _) => c == 6 || c == 1 | _ => false) = true) ∧
    ((queued moving warp).queue 0 false = [moving] ∧ Plain (queued moving warp) 0 moving warp ∧ Quiet (queued moving warp) ∧
      (∀ k ∈ [24576, 24580, 24584, 24588], (queued moving warp).homeFault k = none) ∧ ((queued moving warp).core 0).wbuf = [] ∧
      ((List.range 4).flatMap fun j => scratchKeys 0 moving.spbase moving.nearRot (moving.nearAt j) 4 ++ span ([24576, 24580, 24584, 24588].getD j 0) 4).Nodup) ∧
    (((queued last warp).queue 0 false)[0]? = some last ∧ Plain (queued last warp) 0 last warp ∧ last.failing = none ∧ (queued last warp).killNow last.w = false ∧ last.flag = none) ∧
    (let c : Cmd := { last with flag := some (64, 9, true) }
     (match ((queued c warp).farKeys 0 { c with grotto := false } 1 [64]).1 with | .ok ([some k], none) => k == 24640 | _ => false) = true ∧ Quiet (queued c warp) ∧
       (queued c warp).promotions = [] ∧ ∀ g ∈ (queued c warp).flights, g.core ≠ 0) := by
  refine ⟨⟨?_, ?_, plain_of ?_, ?_, ?_⟩, ⟨?_, ?_, ?_, plain_of ?_⟩, ?_, ⟨?_, plain_of ?_, ?_, ?_⟩, ⟨?_, plain_of ?_⟩, ?_, ⟨?_, plain_of ?_, quiet_of _ ?_, ?_, ?_, ?_⟩,
    ⟨?_, plain_of ?_, ?_, ?_, ?_⟩, ⟨?_, quiet_of _ ?_, ?_, ?_⟩⟩ <;> decide +kernel

/-! ## The matrix unit -/

/-- A matrix instruction of warp 0 on the operand areas at 0 of a scratchpad of 64 units. -/
def mxCmd (i : Instr) : MxCmd :=
  { id := 3, w := 0, instr := i, ops := #v[0, 64, 0, 64, 0, 64], eft := 0, seed := 1, spwin := 64, spbase := 0, act := allLanes, order := 0, started := true }
def mxState (l : List MxCmd) (sl : Tbl Slot) (x : Warp) : State := { at_ x with cores := [(0, { mxq := #v[l, [], [], []], slots := sl })] }

/-- One of each instruction that works on a part. -/
def mxSamples : List Instr := matrixSamples.filter fun i => match i with | .mfenceAll _ => false | .mfenceRd _ => false | _ => true

theorem mx_core (l : List MxCmd) (sl : Tbl Slot) (x : Warp) : (mxState l sl x).core 0 = { mxq := #v[l, [], [], []], slots := sl } := rfl

theorem mx_last (m : MxCmd) (sl : Tbl Slot) (x : Warp) (hm : m.started = true ∧ m.left = 0 ∧ m.owned = true) (hx : ∀ all, x.wait ≠ some (.matrix all))
    (hs : ∀ t ∈ sl, t.2.erased = []) : LastOp (mxState [m] sl x) 0 0 m where
  queue := rfl
  others r hr := by rw [mx_core]; match r, hr with | 1, _ => rfl | 2, _ => rfl | 3, _ => rfl | _ + 4, _ => rfl
  started := hm
  calm p hp all := by simp only [mxState, at_, List.mem_cons, List.not_mem_nil, or_false] at hp; subst hp; exact hx all
  drained := rfl
  whole n := by
    show ((sl.get? n).getD {}).erased = []
    induction sl with
    | nil => rfl
    | cons t r ih =>
      simp only [Tbl.get?]
      split
      · exact hs t (by simp)
      · exact ih fun u hu => hs u (by simp [hu])

theorem rotated_none (a : Nat) : rotated 0 a = a := by
  unfold rotated
  simp only [if_true, Nat.xor_zero]
  omega

/-- The bytes of an image lie at different places, and none is marked. -/
theorem image_nodup : (scratchKeys 0 0 0 0 41216).Nodup := by
  simp only [scratchKeys, rotated_none]
  exact List.nodup_range.map fun a b h => by simpa [scratchKey] using h

/-- Clauses of `MatrixEntersQueue`: clean and tagged operands, a full queue, for each of its instructions. -/
theorem witness_MatrixEntersQueue :
    (∀ i ∈ mxSamples, Meets i (at_ warp) fun x _ _ f => ((List.range 12).all fun n => !(x.uni n).2) = true ∧ f.ka < 8 ∧ f.kb < 10 ∧ f.kc < 10 ∧ (((at_ warp).core 0).mxq.toList.getD 0 []).length < 8) ∧
    Meets (.mma (withImm 0x11000004 (fields 0 0 4 8 0))) (at_ (tagK 5 warp)) (fun x _ _ f => (x.uni (f.ka + 1)).2 = true) ∧
    let s := mxState (List.replicate 8 { mxCmd (.mzero (fields 0 0 0 0 0)) with started := false }) [] warp
    Meets (.mzero (fields 0 0 0 0 0)) s fun _ _ _ _ => 8 ≤ (((s.core 0).mxq.toList.getD 0 []).filter fun m => !m.started).length := by
  refine ⟨?_, meets_some (by decide +kernel), meets_some (by decide +kernel)⟩
  have h : mxSamples.all (fun i => meets i (at_ warp) fun x e sh f => decide (((List.range 12).all fun n => !(x.uni n).2) = true ∧ f.ka < 8 ∧ f.kb < 10 ∧ f.kc < 10 ∧
      (((at_ warp).core 0).mxq.toList.getD 0 []).length < 8)) = true := by decide +kernel
  exact fun i hi => meets_some (List.all_eq_true.1 h i hi)

/-- Clauses of `MatrixStarts`: an estimate to take; a head that is held and one that starts; `mfence` with nothing and with something of its warp. -/
theorem witness_MatrixStarts :
    let mm := { mxCmd (.mma (withImm 0x11000004 (fields 0 0 4 8 0))) with started := false }
    let z := { mxCmd (.mzero (fields 0 0 0 0 0)) with started := false }
    let s := mxState [z] [] warp
    ((((mxState [mm] [] warp).core 0).mxq.toList.getD 0 [])[0]? = some mm ∧ mm.estimate = none) ∧ mmaValid (withImm 0x11000004 (fields 0 0 4 8 0)) mm = true ∧
    (mxHead [mm] = some mm ∧ ∀ v, mm.estimate = some v → 0 < v) ∧
    (mxHead [{ mm with estimate := some 70000 }] = some { mm with estimate := some 70000 } ∧ ((mxState [mm] [] warp).core 0).mxbud.toNat / 2 ^ 32 % 2 ^ 16 < 70000) ∧
    (mxHead [z] = some z ∧ s.mxAll 0 = [z] ∧ ((s.core 0).mxbud.toNat % 2 ^ 16 ≤ (s.core 0).mxbud.toNat / 2 ^ 32 % 2 ^ 16) ∧ s.loadsDone z.w z.after = true) ∧
    (∀ i ∈ [Instr.mfenceAll (fields 0 0 0 0 0), .mfenceRd (fields 1 0 0 0 0)], Meets i (at_ warp) fun _ _ _ _ => (at_ warp).mxAll 0 = []) ∧
    ∀ i ∈ [Instr.mfenceAll (fields 0 0 0 0 0), .mfenceRd (fields 1 0 0 0 0)], Meets i (mxState [mm] [] warp) fun _ _ _ _ =>
      (mxState [mm] [] warp).mxAll 0 = [mm] ∧ mm.w = (mxState [mm] [] warp).cur ∧ mm.owned = true := by
  simp only [List.forall_mem_cons, List.not_mem_nil, false_implies, implies_true, and_true]
  refine ⟨?_, ?_, ⟨?_, nofun⟩, ?_, ?_, ⟨meets_some ?_, meets_some ?_⟩, ⟨meets_some ?_, meets_some ?_⟩⟩ <;> decide +kernel

/-- A slot whose part `q0` has a tag, so that it is not clear. -/
def filled (t : Nat) : Slot := Slot.setPart {} 0 { clr := false, tag := BitVec.ofNat 16 t }
def partOf (sl : Tbl Slot) (n : Nat) : Part := (sl.getD n {}).part 0

/-- Clauses of `TileOperations`: every instruction completes in a state of `LastOp`; descriptors that are valid and ones that are not; parts that are clear and ones
that are not, whose tags differ by little or by much. -/
theorem witness_TileOperations :
    (∀ i ∈ mxSamples, LastOp (mxState [mxCmd i] [] warp) 0 0 (mxCmd i) ∧ LastOp (mxState [mxCmd i] [(0, filled 0), (1, filled 2)] warp) 0 0 (mxCmd i)) ∧
    (let f := withImm 0x11000004 (fields 0 0 4 8 0)
     mmaValid f (mxCmd (.mma f)) = true ∧ mmaValid f { mxCmd (.mma f) with spwin := 0 } = false ∧ f.bit 1 = false ∧ f.immf 28 4 ≤ 3 ∧ f.immf 24 4 ≤ 3) ∧
    (∀ i ∈ [Instr.madd (fields 0 0 1 0 0), .mcopy (fields 0 0 1 0 0)], accOf (fields 0 0 1 0 0).a.num = (1, 0) ∧ accOf (fields 0 0 1 0 0).d = (0, 0) ∧ i ∈ mxSamples) ∧
    ((partOf [] 0).clr = true ∧ (partOf [(0, filled 0)] 0).clr = false ∧ (partOf [(0, filled 0)] 0).tag.toInt = 0 ∧ (partOf [(1, filled 2)] 1).tag.toInt = 2 ∧ (partOf [(1, filled 40)] 1).tag.toInt = 40 ∧
     (partOf [(0, filled 32767)] 0).tag.toInt + (((withImm 0x7F0003 (fields 0 0 0 0 0)).imm >>> 16).setWidth 8 : BitVec 8).toInt > 32767) ∧
    (scratchKeys 0 0 0 0 41216).Nodup ∧ 41216 ≤ (mxCmd (.mfill (fields 0 0 0 4 0))).spwin * 2048 ∧ ∀ k ∈ scratchKeys 0 0 0 0 41216, (mxState [] [] warp).marked k = false := by
  have hc : ∀ i : Instr, (mxCmd i).started = true ∧ (mxCmd i).left = 0 ∧ (mxCmd i).owned = true := fun _ => ⟨rfl, rfl, rfl⟩
  refine ⟨fun i _ => ⟨mx_last _ _ _ (hc i) nofun (by simp), mx_last _ _ _ (hc i) nofun (by decide +kernel)⟩, by decide +kernel, ?_, by decide +kernel, image_nodup, by decide +kernel, fun k _ => ?_⟩
  · simp only [List.forall_mem_cons, List.not_mem_nil, false_implies, implies_true, and_true]
    exact ⟨⟨by decide +kernel, by decide +kernel, by decide +kernel⟩, by decide +kernel, by decide +kernel, by decide +kernel⟩
  · have hm : (mxState [] [] warp).marks = [] := rfl
    simp [State.marked, hm]

/-- Clauses of `DrainsAndChecks`: a drain whose descriptor is valid and one whose is not. -/
theorem witness_DrainsAndChecks :
    (∀ i ∈ [Instr.mdrainS (fields 0 0 0 4 0x2800), .mdrainR (fields 1 8 0 4 0x2800), .mchk (fields 0 8 0 0 0), .mchkFix (fields 0 8 0 0 1)],
      LastOp (mxState [mxCmd i] [(0, filled 0)] warp) 0 0 (mxCmd i)) ∧
    (let d := descOf 0 256
     (fields 0 0 0 4 0x2800).mf 10 4 = 10 ∧ (fields 0 0 0 4 0x2800).bit 5 = false ∧ drainValid 10 false d (64 * 2048) = true ∧ drainValid 10 false (descOf 0 64) (64 * 2048) = false) ∧
    (fields 1 8 0 4 0x2800).xd < 254 ∧ (partOf [(0, filled 0)] 0).clr = false := by
  refine ⟨fun i _ => mx_last _ _ _ ⟨rfl, rfl, rfl⟩ nofun (by decide +kernel), by decide +kernel, by decide +kernel, by decide +kernel⟩

/-! ## Barriers, rings, scopes -/

theorem inGang_of {s : State} {x : Warp} {g ens : Nat} {m : Member} {q : Gang} (h : x.members = [m] ∧ (m.gang = g ∧ q.num = g ∧ q.ensemble = ens ∧ q.ahead = false) ∧ x.owner.ensemble = some ens ∧
    (s.cluster (clusterOf (coreOf s.cur))).gangs = [q] ∧ x.straddle = false ∧ (s.warps.map (·.1)).Nodup) : InGang s x g ens m q :=
  let ⟨member, of_, owner, gang, alone, keys⟩ := h
  { member, of_, owner, gang, alone, keys }

/-- A member with nothing on its way may release. -/
theorem mayRelease_of {s : State} {x : Warp} (mx : Bool) (hx : x.log = [] ∧ x.fifth = none ∧ x.role = 0) (hw : (s.core (coreOf s.cur)).wbuf = []) (hf : s.flights = [])
    (hc : ∀ c ∈ s.cores, c.2.csbuf = []) (hm : ∀ c ∈ s.clusters, c.2.msgs = []) : MayRelease s x mx :=
  ⟨⟨hx.1, hx.2.1⟩, by simp [hf], fence_idle _ _ _ _ hw hf hc hm, fun _ => ⟨fence_idle _ _ _ _ hw hf hc hm, fun h => by rw [hx.2.2] at h; exact absurd h (by decide)⟩⟩

/-- A member of gang 1, arrived in phase `ap` or not. -/
def memberAt (arr ap : Bool) (x : Warp) : Warp := { inEns x with members := [{ gang := 1, ord := 0, arr := arr, ap := ap }] }

/-- A state whose member is in its gang, with `arr` and `ap` as given. -/
def MeetsGang (i : Instr) (s : State) (q : Gang) (arr ap : Bool) : Prop :=
  Meets i s fun x _ _ f => InGang s x f.xa 3 { gang := 1, ord := 0, arr := arr, ap := ap } q

theorem meetsGang_of {i : Instr} {q : Gang} {arr ap : Bool}
    (h : Meets i (ganged q (memberAt arr ap warp)) fun x _ _ f => x.members = [{ gang := 1, ord := 0, arr := arr, ap := ap }] ∧ f.xa = 1 ∧ x.owner.ensemble = some 3 ∧ x.straddle = false ∧
      q.num = 1 ∧ q.ensemble = 3 ∧ q.ahead = false ∧ ((ganged q (memberAt arr ap warp)).cluster (clusterOf (coreOf (ganged q (memberAt arr ap warp)).cur))).gangs = [q]) :
    MeetsGang i (ganged q (memberAt arr ap warp)) q arr ap := by
  obtain ⟨x, e, sh, f, hr, ha, member, num, owner, alone, same, ens, ahead, gang⟩ := h
  exact ⟨x, e, sh, f, hr, ha, { member, owner, gang, alone, of_ := ⟨num.symm, same.trans num.symm, ens, ahead⟩, keys := List.nodup_singleton _ }⟩

theorem storing_blocks (mx : Bool) : ¬ MayRelease (storing warp) warp mx := fun h => absurd (h.2.1 (acc .global .store [word0]) (by simp [storing])) (by decide)

/-- Two halves of a pair's gang. -/
def paired (q o : Gang) : State := { at_ warp with clusters := [(0, { gangs := [q] }), (partner 0, { gangs := [o] })] }

/-- Clauses of `Barriers`: no member; a member that has not arrived, in a gang that its arrival completes and in one that it does not; one that has arrived in the
open phase and one whose phase is over; what a release waits for; the messages between the halves of a pair. -/
theorem witness_Barriers :
    (∀ i ∈ [Instr.barsync (fields 0 2 1 0 0), .bararr (fields 0 0 1 0 0), .barwait (fields 0 2 1 0 0)], Meets i (at_ warp) (fun x _ _ f => x.member? f.xa = none)) ∧
    (∀ i ∈ [Instr.barsync (fields 0 2 1 0 0), .bararr (fields 0 0 1 0 0)], ∀ n ∈ [1, 2], let q := { gang1 with memb := n }
      MeetsGang i (ganged q (memberAt false false warp)) q false false) ∧
    (∀ i ∈ [Instr.barsync (fields 0 2 1 0 0), .bararr (fields 0 0 1 0 0), .barwait (fields 0 2 1 0 0)], let q := { gang1 with memb := 2, arrv := 1 }
      MeetsGang i (ganged q (memberAt true false warp)) q true false) ∧
    (let q := { gang1 with ph := true }
     MeetsGang (.barwait (fields 0 2 1 0 0)) (ganged q (memberAt true false warp)) q true false) ∧
    (∀ n ∈ [1, 2], let s := ganged { gang1 with memb := n } (memberAt false false warp)
      s.unmarked ∧ MayRelease s (memberAt false false warp) false ∧ MayRelease s (memberAt false false warp) true) ∧
    (∃ x : Warp, ¬ LogFree x) ∧ (∃ s x, LogFree x ∧ ¬ MayRelease s x false ∧ ¬ MayRelease s x true) ∧
    (let q := gang1
     ∀ o ∈ [{ q with sent := false }, { q with sent := true }, { q with ph := true }], ∀ a ∈ [0, 1], let s := paired { q with arrv := a } o
       (s.cluster 0).gangs = [{ q with arrv := a }] ∧ (s.cluster (partner 0)).gangs = [o] ∧ o.num = 1 ∧ o.ensemble = 3 ∧ q.rph = q.ph ∧ o.memb ≠ 0 ∧ s.unmarked) := by
  have hu : ∀ s : State, s.warps.all (fun p => s.cancelledAt p.2.owner.scope (dieOf (coreOf p.1)) == false) = true → s.unmarked := fun s h p hp => by
    simpa using List.all_eq_true.1 h p hp
  have halves : ∀ o ∈ [{ gang1 with sent := false }, { gang1 with sent := true }, { gang1 with ph := true }], ∀ a ∈ [0, 1], let s := paired { gang1 with arrv := a } o
      ((s.cluster 0).gangs = [{ gang1 with arrv := a }] ∧ (s.cluster (partner 0)).gangs = [o] ∧ o.num = 1 ∧ o.ensemble = 3 ∧ gang1.rph = gang1.ph ∧ o.memb ≠ 0) ∧
        s.warps.all (fun p => s.cancelledAt p.2.owner.scope (dieOf (coreOf p.1)) == false) = true := by decide +kernel
  have last : ∀ o ∈ [{ gang1 with sent := false }, { gang1 with sent := true }, { gang1 with ph := true }], ∀ a ∈ [0, 1], let s := paired { gang1 with arrv := a } o
      (s.cluster 0).gangs = [{ gang1 with arrv := a }] ∧ (s.cluster (partner 0)).gangs = [o] ∧ o.num = 1 ∧ o.ensemble = 3 ∧ gang1.rph = gang1.ph ∧ o.memb ≠ 0 ∧ s.unmarked :=
    fun o ho a ha => let ⟨⟨own, other, number, same, phase, members⟩, marks⟩ := halves o ho a ha
      ⟨own, other, number, same, phase, members, hu _ marks⟩
  simp only [List.forall_mem_cons, List.not_mem_nil, false_implies, implies_true, and_true] at last ⊢
  refine ⟨⟨meets_some ?_, meets_some ?_, meets_some ?_⟩,
    ⟨⟨meetsGang_of (meets_some ?_), meetsGang_of (meets_some ?_)⟩, meetsGang_of (meets_some ?_), meetsGang_of (meets_some ?_)⟩,
    ⟨meetsGang_of (meets_some ?_), meetsGang_of (meets_some ?_), meetsGang_of (meets_some ?_)⟩, meetsGang_of (meets_some ?_),
    ⟨⟨hu _ ?_, mayRelease_of _ ?_ ?_ ?_ ?_ ?_, mayRelease_of _ ?_ ?_ ?_ ?_ ?_⟩, hu _ ?_, mayRelease_of _ ?_ ?_ ?_ ?_ ?_, mayRelease_of _ ?_ ?_ ?_ ?_ ?_⟩,
    ⟨{ warp with log := full }, fun h => absurd h.1 (by decide)⟩, ⟨storing warp, warp, ⟨rfl, rfl⟩, storing_blocks _, storing_blocks _⟩,
    last⟩
  all_goals decide +kernel

def ring1 : Ring := { ensemble := 3, num := 1 }
def ringed (r : Ring) (ms : List RingMsg) (x : Warp) : State := ({ run x with flights := [] } : State).modCluster 0 fun c => { c with rings := [r], msgs := ms }

/-- Clauses of `StageRings`: a tagged item, no ring, a slot that is ready and one that is not; a release that goes out; the end of a wait; a message that is served
and one that another has to wait behind. -/
theorem witness_StageRings :
    let s := ringed ring1 [] (setK 4 0 warp)
    let met := fun (x : Warp) (f : Frame) (full : Bool) => (x.uni f.kb).2 = false ∧ s.ring? s.cur x f.xa = some ring1 ∧
      ((ring1.slots.getD ((x.uni f.kb).1.toNat % ring1.n) {}).full = full ∧ (((ring1.slots.getD ((x.uni f.kb).1.toNat % ring1.n) {}).ph = decide ((x.uni f.kb).1.toNat / ring1.n % 2 = 1)) ↔ full = false))
    (∀ i ∈ [Instr.rwaitE (fields 0 8 1 4 0), .rwaitF (fields 1 8 1 4 0), .rput (fields 0 0 1 4 0), .rfree (fields 0 0 1 4 0), .rfreeInit (fields 1 0 1 4 0), .rget (fields 2 8 1 4 0)],
      Meets i (at_ (tagK 4 warp)) (fun x _ _ f => (x.uni f.kb).2 = true) ∧ Meets i (at_ warp) (fun x _ _ f => (x.uni f.kb).2 = false ∧ (at_ warp).ring? (at_ warp).cur x f.xa = none)) ∧
    Meets (.rwaitE (fields 0 8 1 4 0)) s (fun x _ _ f => met x f false) ∧ Meets (.rwaitF (fields 1 8 1 4 0)) s (fun x _ _ f => (x.uni f.kb).2 = false ∧ s.ring? s.cur x f.xa = some ring1 ∧ ¬ met x f true) ∧
    (∀ v ∈ [(0, 0), (1, 0), (2, 4)], Meets (.rget (fields v.1 8 1 v.2 0)) s fun x _ _ f => (x.uni f.kb).2 = false ∧ s.ring? s.cur x f.xa = some ring1) ∧
    (∀ i ∈ [Instr.rput (fields 0 0 1 4 0), .rfree (fields 0 0 1 4 0), .rfreeInit (fields 1 0 1 4 0)], Meets i s fun x _ _ f => (x.uni f.kb).2 = false ∧ (x.uni (f.kb + 1)).2 = false ∧
      s.ring? s.cur x f.xa = some ring1 ∧ x.owner.ensemble = some 3 ∧ x.log = [] ∧ x.fifth = none ∧ x.role = 0) ∧
    ((s.core (coreOf s.cur)).wbuf = [] ∧ s.flights = [] ∧ (∀ c ∈ s.cores, c.2.csbuf = []) ∧ ∀ c ∈ s.clusters, c.2.msgs = []) ∧
    (∀ full ∈ [true, false], let x := { inEns warp with wait := some (.ring 1 full 0 8) }
      let t := ringed ring1 [] { warp with wait := some (.ring 1 full 0 8) }
      t.warps = [(0, x)] ∧ t.ring? 0 x 1 = some ring1 ∧ t.cancelledAt x.owner.scope (dieOf (coreOf 0)) = false) ∧
    ∀ o ∈ [RingOp.put 0, .put 1, .free 0, .init 0 0, .init (BitVec.ofNat 64 (2 ^ 36)) (BitVec.ofNat 64 (2 ^ 20 + 2 ^ 8 + 1))], ∀ n ∈ [0, 3],
      let m : RingMsg := { ensemble := 3, num := 1, op := o, w := 0 }
      let r := { ring1 with served := (0, n) }
      let t := ringed r [m] warp
      (t.cluster 0).msgs = [m] ∧ (t.cluster 0).rings = [r] ∧ t.clock = 0 ∧ (if clusterOf (coreOf m.w) = 0 then 0 else 4) + (coreOf m.w % 4 + 4 - t.clock % 4) % 4 = 0 := by
  simp only [List.forall_mem_cons, List.not_mem_nil, false_implies, implies_true, and_true]
  refine ⟨⟨⟨meets_some ?_, meets_some ?_⟩, ⟨meets_some ?_, meets_some ?_⟩, ⟨meets_some ?_, meets_some ?_⟩, ⟨meets_some ?_, meets_some ?_⟩, ⟨meets_some ?_, meets_some ?_⟩, meets_some ?_, meets_some ?_⟩,
    meets_some ?_, meets_some ?_, ⟨meets_some ?_, meets_some ?_, meets_some ?_⟩, ⟨meets_some ?_, meets_some ?_, meets_some ?_⟩, ?_, ?_, ?_⟩ <;> decide +kernel

/-- Scopes 0 and 1, scope 1 with the state and the count given. -/
def inScopes (st : ScopeState) (count : Nat) (seen : List Nat) (x : Warp) : State :=
  { at_ x with scopes := [(0, { scope0 with count := 2 }), (1, { scope1 with state := st, count := count, seen := seen, ack := 64 })] }

theorem under_leaf (st : ScopeState) (count : Nat) (seen : List Nat) (x : Warp) (j : Nat) (hj : j ≠ 1) : (inScopes st count seen x).under 1 65 j = false := by
  rcases eq_or_ne j 0 with rfl | h
  · rfl
  · simp [State.under, inScopes, Tbl.get?, h, hj]

/-- A warp of a cancelled scope that waits and is not a member, a task or in a call. -/
def killable (q : Wait) : Bool :=
  let x := { inEns warp with wait := some q }
  let s := inScopes .cancelled 1 [0] x
  decide (s.warp? 0 = some x ∧ x.hw ≠ [] ∧ x.marks.ended = false ∧ x.marks.stopped = false ∧ x.call.report = none ∧ s.cancelledAt x.owner.scope (dieOf (coreOf 0)) = true ∧ x.members = [] ∧
    x.owner.task = false ∧ x.call.call = none ∧ x.call.posts = [])

/-- Clauses of `CancelScopes`. -/
theorem witness_CancelScopes :
    let one := fun st count => inScopes st count [] (setK 4 1 warp)
    Meets (.scnew (fields 0 8 0 4 0)) (at_ (tagK 4 warp)) (fun x _ _ f => (x.uni f.kb).2 = true) ∧
    Meets (.scnew (fields 0 8 0 4 0)) (inScopes .live 1 [] (setK 4 64 warp)) (fun x _ _ f => (x.uni f.kb).2 = false ∧ x.owner.scope = 0 ∧ (x.uni f.kb).1.toNat % 8 = 0) ∧
    Meets (.scnew (fields 0 8 0 4 0)) (inScopes .live 1 [] (setK 4 7 warp)) (fun x _ _ f => (x.uni f.kb).2 = false ∧ x.owner.scope = 0 ∧ (x.uni f.kb).1.toNat % 8 ≠ 0) ∧
    (∀ i ∈ [Instr.cancel (fields 0 8 4 0 0), .cancelEnd (fields 1 8 4 0 0)],
      Meets i (at_ (tagK 4 warp)) (fun x _ _ f => (x.uni f.ka).2 = true) ∧ Meets i (at_ (setK 4 65536 warp)) (fun x _ _ f => (x.uni f.ka).2 = false ∧ 65536 ≤ (x.uni f.ka).1.toNat) ∧
      Meets i (inScopes .live 1 [] (setK 4 0 warp)) (fun x _ _ f => (x.uni f.ka).2 = false ∧ (x.uni f.ka).1.toNat = 0) ∧
      (∀ p ∈ [(ScopeState.cancelled, 1), (.live, 1), (.live, 0)], Meets i (one p.1 p.2) fun x _ _ f => (x.uni f.ka).2 = false ∧ (x.uni f.ka).1.toNat = 1)) ∧
    ((∀ j, j ≠ 1 → (one .live 0).under 1 65 j = false) ∧ Quiet (one .live 0) ∧ (one .live 0).virtKeys 0 64 8 1 = some (span 24640 8) ∧ (span 24640 8).Nodup ∧
      ∀ d ∈ (one .live 1).scopes, d.2.count ≠ 0) ∧
    (∀ i ∈ [Instr.cchk (fields 0 0 0 0 0), .cchkT (fields 1 2 0 0 0)],
      Meets i (run warp) (fun x _ _ _ => (run warp).cancelledAt x.owner.scope 0 = false) ∧
      Meets i (inScopes .cancelled 1 [0] (inEns warp)) fun x _ _ _ => (inScopes .cancelled 1 [0] (inEns warp)).cancelledAt x.owner.scope 0 = true ∧ x.members = [] ∧ x.owner.task = false ∧
        x.call.call = none ∧ x.call.posts = []) ∧
    (∀ q ∈ [Wait.oplog, .waitRegs, .waitSt, .waitAll, .arrival true, .migw, .queue true, .queue false, .matrix true, .matrix false, .sleep 0, .ring 1 true 0 8, .commit 1, .pool 1, .fence 0 2,
        .barrier 1 none 1, .watch { acc := acc .global (.load 0) [], cmp := 0, cond := 0, acq := none, pd := 0, deadline := none, lastEval := 0 }],
      killable q = true) ∧
    (let r : TaskRec := { words := Vector.replicate 8 0, proc := 0, scope := 1 }
     (∀ st : ScopeState, ∀ d, let s : State := { inScopes st 2 d warp with dies := [(1, { pools := [r] })] }
        ∃ c, s.scopes.get? 1 = some c ∧ c.state = st ∧ c.seen = d ∧ c.count = 2 ∧ (s.scopes.map (·.1)).Nodup) ∧
     let s : State := { inScopes .cancelled 2 [] warp with dies := [(1, { pools := [r] })] }
     (∀ r ∈ (s.die 1).pools.filter fun r => r.scope = 1, r.words[3] = 0) ∧ ((s.die 1).pools.filter fun r => r.scope = 1).length < 2 ∧ (s.die 1).owed = [] ∧ s.saved = []) := by
  simp only [List.forall_mem_cons, List.not_mem_nil, false_implies, implies_true, and_true]
  refine ⟨meets_some ?_, meets_some ?_, meets_some ?_, ⟨⟨meets_some ?_, meets_some ?_, meets_some ?_, meets_some ?_, meets_some ?_, meets_some ?_⟩, meets_some ?_, meets_some ?_, meets_some ?_,
    meets_some ?_, meets_some ?_, meets_some ?_⟩, ⟨under_leaf _ _ _ _, quiet_of _ ?_, ?_, ?_, ?_⟩, ⟨⟨meets_some ?_, meets_some ?_⟩, meets_some ?_, meets_some ?_⟩, ?_,
    fun st d => ⟨_, rfl, rfl, rfl, rfl, by simp [inScopes]⟩, ?_⟩ <;> decide +kernel

/-! ## Launches, tasks, pre-emption -/

/-- The descriptor of a kernel at address 256 (a task kernel where `kind` is 1), a process that holds every core, and scope 0. -/
def kernelState (kind owner : Nat) (st : ScopeState) (q : Proc → Proc) : State :=
  let s := (((((base.writeNat (24576 + 256) 8 0x40).writeNat (24576 + 264) 1 8).writeNat (24576 + 265) 1 8).writeNat (24576 + 266) 2 16).writeNat (24576 + 268) 1 kind).writeNat (24576 + 272) 4 2048
  let s := s.writeNat (24576 + 280) 2 1
  { s with warps := [], procs := s.procs.map fun p => (p.1, q { p.2 with grants := Vector.replicate 4 (BitVec.allOnes 96) }), scopes := [(0, { scope0 with proc := owner, state := st })],
           pkg := { s.pkg with ready := true } }

/-- A record that launches that kernel in one cluster under scope 0, without a window table and with `DONE` at 64. -/
def launchRec : BitVec 512 := BitVec.ofNat 512 0x5000000000000004000000000000000000000000000000000000000010000000000000000000000000000000000000100
def deposit : Deposit := { record := launchRec, counted := false }
def queueOf (l : List Deposit) (q : Proc) : Proc := { q with queue := l }
def placeOf (q : Proc) : Proc := { q with placing := [launchRec] }
def validState (owner : Nat) (st : ScopeState) : State := kernelState 0 owner st (queueOf [deposit])

/-- What the record of the queue needs for its validation. -/
def launchable (s : State) : Bool :=
  match s.readKernel 0 256, s.windows 0 0 with
  | some k, some _ => k.kind == 0 && k.inRange && k.straddle == recStr launchRec && recClus launchRec == 1 && (List.range 4).all (fun c => decide ((k.counts.map fun n => (n + 3 - c) / 4).sum ≤ 64)) &&
      decide (1 ≤ ((placeUnits k.straddle).filter fun u => u.all fun cl => cl % 24 < s.cpd && s.holdsCluster 0 cl).length) && (List.range 8).all (fun i => k.pwsz.getD i 0 == 0) && !recPriv launchRec
  | _, _ => false

theorem refuses_not {s : State} (h : launchable s = true) (code : Nat) (hc : code ≤ 4) : ¬ Refuses s 0 launchRec code := by
  unfold launchable at h
  split at h
  · next k ws hk hw =>
    simp only [Bool.and_eq_true, beq_iff_eq, List.all_eq_true, List.mem_range, decide_eq_true_eq, Bool.not_eq_true'] at h
    obtain ⟨⟨⟨⟨⟨⟨⟨h1, h2⟩, h3⟩, h4⟩, h5⟩, h6⟩, h7⟩, h8⟩ := h
    have hd : recDesc launchRec = 256 := by decide +kernel
    have ht : recWtab launchRec = 0 := by decide +kernel
    match code, hc with
    | 0, _ => exact id
    | 1, _ => intro r; rcases r k (by rw [hd]; exact hk) with r | r | r
              · exact r h1
              · rw [h2] at r; exact absurd r (by decide)
              · exact r h3
    | 2, _ => intro r; rcases r k (by rw [hd]; exact hk) with r | ⟨c, hc, r⟩ | r
              · omega
              · exact absurd (h5 c hc) (by omega)
              · omega
    | 3, _ => intro r; obtain ⟨i, hi, r, -⟩ := r k ws (by rw [hd]; exact hk) (by rw [ht]; exact hw)
              exact r (h7 i hi)
    | 4, _ => intro r; have := r.1; rw [h8] at this; exact absurd this (by decide)
  · simp at h

theorem valid_proc (o : Nat) (st : ScopeState) : ∃ q, (validState o st).proc? 0 = some q ∧ q.queue = [deposit] := ⟨_, rfl, rfl⟩
theorem valid_scope (o : Nat) (st : ScopeState) : (validState o st).scopes.get? 0 = some { scope0 with proc := o, state := st } := rfl
theorem valid_quiet (o : Nat) (st : ScopeState) : Quiet (validState o st) := quiet_of _ rfl
theorem rec_scope : recScope launchRec = 0 := by decide +kernel

/-- A process whose queue is full. -/
def crowd : State := { at_ warp with procs := (at_ warp).procs.map fun p => (p.1, { p.2 with queue := List.replicate 16 deposit }) }
def queueLength (s : State) : Nat := (s.proc? 0).elim 100 fun q => q.queue.length + q.placing.length

/-- Clauses of `LaunchesAndTasks`, the deposits: a tagged operand, a full queue and one with room, an unknown process. -/
theorem witness_LaunchesAndTasks_deposit :
    Meets (.launch (fields 0 2 0 0 0)) (at_ (tagK 4 warp)) (fun x _ _ f => (x.uni (f.ka + 4)).2 = true) ∧
    (Meets (.launch (fields 0 2 8 0 0)) (at_ warp) (fun x _ _ f => ((List.range 8).all fun j => !(x.uni (f.ka + j)).2) = true) ∧ queueLength (at_ warp) < 16) ∧
    (Meets (.launch (fields 0 2 8 0 0)) crowd (fun x _ _ f => ((List.range 8).all fun j => !(x.uni (f.ka + j)).2) = true) ∧ 16 ≤ queueLength crowd ∧ queueLength crowd < 100) ∧
    (validState 0 .live).pkg.ready = true ∧ (validState 0 .live).proc? 7 = none ∧ base.pkg.ready = false :=
  ⟨meets_some (by decide +kernel), ⟨meets_some (by decide +kernel), by decide +kernel⟩, ⟨meets_some (by decide +kernel), by decide +kernel⟩, by decide +kernel⟩

/-- The records of the queue: a validation that passes, and one whose scope is another process's. -/
def valids : List (Nat × ScopeState) := [(0, .live), (1, .live)]

theorem valid_launchable : ∀ p ∈ valids, launchable (validState p.1 p.2) = true := by decide +kernel
theorem valid_done : ∀ p ∈ valids, (validState p.1 p.2).performedBefore deposit.after = true ∧ (validState p.1 p.2).virtKeys 0 (recDone launchRec) 8 1 = some (span 24640 8) := by decide +kernel
theorem refuses5_not {s : State} {r : BitVec 512} {c : Scope} (h : s.scopes.get? (recScope r) = some c) (hp : c.proc = 0) : ¬ Refuses s 0 r 5 := fun k => k c h hp
theorem refuses6_not {s : State} {r : BitVec 512} {c : Scope} (h : s.scopes.get? (recScope r) = some c) (hp : c.state = .live) : ¬ Refuses s 0 r 6 := fun k => k c h hp
theorem valid_own (st : ScopeState) : ¬ Refuses (validState 0 st) 0 launchRec 5 := refuses5_not (by rw [rec_scope]; exact valid_scope 0 st) rfl

theorem witness_LaunchesAndTasks_validation :
    (∀ p ∈ valids, (∃ q, (validState p.1 p.2).proc? 0 = some q ∧ q.queue = [deposit]) ∧ Quiet (validState p.1 p.2)) ∧ recDone launchRec ≠ 0 ∧ (storing warp).performedBefore [5] = false :=
  ⟨fun _ _ => ⟨valid_proc _ _, valid_quiet _ _⟩, by decide +kernel, by decide +kernel⟩

theorem witness_LaunchesAndTasks_passes (code : Nat) : ¬ Refuses (validState 0 .live) 0 launchRec code :=
  match code with
  | 0 => refuses_not (valid_launchable (0, .live) (by simp [valids])) 0 (by omega)
  | 1 => refuses_not (valid_launchable (0, .live) (by simp [valids])) 1 (by omega)
  | 2 => refuses_not (valid_launchable (0, .live) (by simp [valids])) 2 (by omega)
  | 3 => refuses_not (valid_launchable (0, .live) (by simp [valids])) 3 (by omega)
  | 4 => refuses_not (valid_launchable (0, .live) (by simp [valids])) 4 (by omega)
  | 5 => valid_own _
  | 6 => refuses6_not (by rw [rec_scope]; exact valid_scope 0 .live) rfl
  | _ + 7 => id

theorem witness_LaunchesAndTasks_refused5 : Refuses (validState 1 .live) 0 launchRec 5 ∧ ∀ b, b < 5 → ¬ Refuses (validState 1 .live) 0 launchRec b :=
  ⟨fun c hc => by rw [rec_scope, valid_scope] at hc; cases hc; decide, fun b hb => refuses_not (valid_launchable (1, .live) (by simp [valids])) b (by omega)⟩

/-- An ensemble that is over, and one that is not. -/
def overState : State := { run warp with ensembles := [(3, { ens with live := 0, done := 64 })], cores := [] }

theorem witness_LaunchesAndTasks_end :
    overState.ensembles.get? 3 = some { ens with live := 0, done := 64 } ∧ (∀ k ∈ overState.cores, ∀ d ∈ k.2.loadQ ++ k.2.storeQ, d.ensemble ≠ some 3) ∧ (∀ core, (overState.core core).slotOwner ≠ some 3) ∧
    (∀ h ∈ overState.held, h.ensemble ≠ 3) ∧ ens.clusters = [0] ∧ overState.scopes.get? ens.scope = some scope1 ∧ scope1.state = .live ∧ Quiet overState ∧
    overState.virtKeys 0 64 8 1 = some (span 24640 8) ∧ (run warp).ensembles.get? 3 = some ens ∧ ens.live ≠ 0 := by
  have hc : overState.cores = [] := rfl
  exact ⟨rfl, by simp [hc], fun core => by simp [State.core, hc, Tbl.getD, Tbl.get?], by decide +kernel, rfl, by decide +kernel, rfl, quiet_of _ (by decide +kernel), by decide +kernel, by decide +kernel, by decide⟩

/-- A task record of that kernel in the pool of die 0. -/
def taskRec : TaskRec := { words := #v[256, 7, 0, 0, 0, 0, 0, 0], proc := 0, scope := 0 }
def taskState (s : State) : State := { s with dies := [(0, { pools := [taskRec] })] }

/-- Clauses of `LaunchesAndTasks`, the admission: `spawn` and `spawnx` on tagged operands, without a scope, with room and without; a placement; a task record with a
scope and without. -/
theorem witness_LaunchesAndTasks_admission :
    (∀ i ∈ [Instr.spawn (fields 0 2 0 0 0), .spawnx (withImm 1 (fields 0 2 0 0 0))],
      Meets i (at_ (tagK 4 warp)) (fun x _ _ f => ((List.range 8).any fun j => (x.uni (f.ka + j)).2) = true) ∧
      Meets i (at_ warp) (fun x _ _ f => ((List.range 8).any fun j => (x.uni (f.ka + j)).2) = false ∧ (at_ warp).scopes.get? 0 = none ∧ x.owner.scope = 0 ∧ (x.uni (f.ka + 2)).1.toNat / 2 ^ 48 = 0) ∧
      Meets i (inScopes .live 1 [] warp) fun x _ _ f => ((List.range 8).any fun j => (x.uni (f.ka + j)).2) = false ∧ x.owner.scope = 0 ∧ x.owner.proc = 0 ∧ x.owner.priv = true ∧
        (x.uni (f.ka + 2)).1.toNat / 2 ^ 48 = 0 ∧ (x.uni (f.ka + 4)).1.toNat % 8 < 8 ∧ (inScopes .live 1 [] warp).poolLength 0 0 0 + 2 ≤ 4096) ∧
    (∃ s : State, s.poolTakes 0 0 0 2 = false) ∧
    (let s := kernelState 0 0 .live placeOf
     ∃ q k ws, s.procs = [(0, q)] ∧ q.placing = [launchRec] ∧ recPcls launchRec = 0 ∧ s.saved = [] ∧ s.warps = [] ∧ s.transit = [] ∧ s.readKernel 0 (recDesc launchRec) = some k ∧
       s.windows 0 (recWtab launchRec) = some ws ∧ k.straddle = false ∧ k.gangs = [] ∧ k.counts = [1, 0, 0] ∧ recClus launchRec = 1 ∧ s.clusterOpen 0 = true ∧ s.holdsCluster 0 0 = true ∧
       ((∀ c, c < 4 → (s.core (coreIn 0 c)).spAlloc = [] ∧ (s.core (coreIn 0 c)).slices = []) ∧ (s.cluster 0).csAlloc = Vector.replicate 4 [] ∧ (s.cluster 0).gangs = []) ∧
       k.scratch ≤ 2 ^ 18 ∧ k.cshared ≤ 2 ^ 19) ∧
    (let s := taskState (kernelState 1 0 .live id)
     let t : State := { s with scopes := [] }
     t.scopes.get? taskRec.scope = none ∧ taskRec.words[3] = 0 ∧ taskRec.after = [] ∧
     ∃ q c k, s.procs = [(0, q)] ∧ (s.die 0).pools = [taskRec] ∧ s.scopes.get? taskRec.scope = some c ∧ c.proc = 0 ∧ c.state = .live ∧ s.saved = [] ∧ s.warps = [] ∧ s.transit = [] ∧ s.taking = [] ∧
       s.taskKernel taskRec = some k ∧ k.scratch ≤ 2 ^ 18 ∧ s.coreExists 0 0 = true ∧ s.granted 0 0 = true ∧ s.dieRuns 0 = true ∧ (s.core 0).spAlloc = [] ∧ (s.core 0).slices = []) := by
  simp only [List.forall_mem_cons, List.not_mem_nil, false_implies, implies_true, and_true]
  refine ⟨⟨⟨meets_some (by decide +kernel), meets_some (by decide +kernel), meets_some (by decide +kernel)⟩, meets_some (by decide +kernel), meets_some (by decide +kernel), meets_some (by decide +kernel)⟩,
    ⟨{ State.reset with dies := [(0, { pools := List.replicate 4096 taskRec })] }, by decide +kernel⟩, ?_, rfl, rfl, rfl, ?_⟩
  · have h : (match (kernelState 0 0 .live placeOf).readKernel 0 (recDesc launchRec), (kernelState 0 0 .live placeOf).windows 0 (recWtab launchRec) with
      | some k, some _ => k.straddle == false && k.gangs == [] && k.counts == [1, 0, 0] && decide (k.scratch ≤ 2 ^ 18) && decide (k.cshared ≤ 2 ^ 19)
      | _, _ => false) = true := by decide +kernel
    split at h
    · next k ws hk hw =>
      simp only [Bool.and_eq_true, beq_iff_eq, decide_eq_true_eq] at h
      exact ⟨_, k, ws, rfl, rfl, by decide +kernel, by decide +kernel, rfl, by decide +kernel, hk, hw, h.1.1.1.1, h.1.1.1.2, h.1.1.2, by decide +kernel, by decide +kernel, by decide +kernel,
        by decide +kernel, h.1.2, h.2⟩
    · simp at h
  · have h : (match (taskState (kernelState 1 0 .live id)).taskKernel taskRec with | some k => decide (k.scratch ≤ 2 ^ 18) | none => false) = true := by decide +kernel
    split at h
    · next k hk =>
      exact ⟨_, _, k, rfl, rfl, rfl, rfl, rfl, by decide +kernel, rfl, by decide +kernel, by decide +kernel, hk, of_decide_eq_true h, by decide +kernel, by decide +kernel, by decide +kernel, by decide +kernel,
        by decide +kernel⟩
    · simp at h

def grantAll (s : State) : State := { s with procs := s.procs.map fun p => (p.1, { p.2 with grants := Vector.replicate 4 (BitVec.allOnes 96) }) }

/-- The number of cores that a `preempt` names, in die 0. -/
def picks (s : State) (n : Nat) : List Nat := s.chooseCores 0 0 fun d => n / 2 ^ (8 * d) % 256

/-- Clauses of `PreemptionAndSaves`, `preempt`: tagged and malformed operands, no core, cores to take, cores that are free by now. -/
theorem witness_PreemptionAndSaves_preempt :
    let i := Instr.preempt (fields 0 8 4 0 0)
    let s := { grantAll (at_ (setK 4 1 warp)) with taking := [(0, [5])] }
    Meets i (at_ (tagK 4 warp)) (fun x _ _ f => (x.uni f.ka).2 = true) ∧ Meets i (at_ (setK 4 97 warp)) (fun x _ _ f => (x.uni f.ka).2 = false ∧ 96 < (x.uni f.ka).1.toNat % 256) ∧
    Meets i (at_ (setK 4 0 warp)) (fun x _ _ f => (x.uni f.ka).1 = 0 ∧ (x.uni f.ka).2 = false) ∧ picks (at_ (setK 4 0 warp)) 0 = [] ∧
    Meets i (at_ (setK 4 1 warp)) (fun x _ _ f => (x.uni f.ka).1 = 1 ∧ (x.uni f.ka).2 = false) ∧ (picks (at_ (setK 4 1 warp)) 1).length = 1 ∧
    (∀ c ∈ picks (at_ (setK 4 1 warp)) 1, c < 384 ∧ (at_ (setK 4 1 warp)).foreign 0 c = []) ∧ ((at_ (setK 4 1 warp)).proc? 0).isSome = true ∧
    Meets i s (fun x _ _ f => (x.uni f.ka).1 = 1 ∧ (x.uni f.ka).2 = false) ∧ (s.granted 0 5 = true ∧ s.foreign 0 5 = []) :=
  ⟨meets_some (by decide +kernel), meets_some (by decide +kernel), meets_some (by decide +kernel), by decide +kernel, meets_some (by decide +kernel), by decide +kernel, by decide +kernel, by decide +kernel,
   meets_some (by decide +kernel), by decide +kernel⟩

/-- A process whose time slice on die 0 ends at 0, with a context area of `n` MiB, and its warp. -/
def sliced (n : Nat) (l : Tbl Warp) : State :=
  { base with warps := l, procs := base.procs.map fun p => (p.1, { p.2 with tslice := Vector.replicate 4 (BitVec.ofNat 64 (2 ^ 63)), ctxarea := Vector.replicate 4 (BitVec.ofNat 64 (2 ^ 63 + n)) }) }
def taskWarp : Warp := { warp with owner := { warp.owner with task := true } }
def sliceOf (s : State) : List Unit_ := (s.unitsOn 0 0).filter fun u => !s.straddlesOut 0 0 u

/-- The end of a time slice: not due; due, with contexts that do not fit; with none to save; with one that fits. -/
theorem witness_PreemptionAndSaves_slice :
    (∃ q, base.proc? 0 = some q ∧ (q.tslice.toList.getD 0 0).getLsbD 63 = false) ∧
    (∀ n, ∀ l, ∃ q, (sliced n l).proc? 0 = some q ∧ q.tslice.toList.getD 0 0 = BitVec.ofNat 64 (2 ^ 63)) ∧ (BitVec.ofNat 64 (2 ^ 63)).getLsbD 63 = true ∧ (BitVec.ofNat 64 (2 ^ 63)).toNat % 2 ^ 62 = 0 ∧
    (let s := sliced 0 [(0, taskWarp)]
     sliceOf s ≠ [] ∧ s.savesFit 0 0 (sliceOf s) = false) ∧
    (let s := sliced 1 []
     sliceOf s = [] ∧ s.savesFit 0 0 [] = true) ∧
    let s := sliced 1 [(0, taskWarp)]
    s.savesFit 0 0 (sliceOf s) = true ∧ s.saving = [] ∧ s.transit = [] ∧ coreOf 0 / 96 = 0 ∧ taskWarp.owner.ensemble = none ∧ taskWarp.marks.ended = false ∧ taskWarp.marks.stopped = false ∧
      s.cancelledAt taskWarp.owner.scope 0 = false :=
  ⟨⟨_, rfl, by decide +kernel⟩, fun _ _ => ⟨_, rfl, rfl⟩, by decide +kernel, by decide +kernel, by decide +kernel, by decide +kernel, by decide +kernel⟩

/-- A task warp that is being saved, stopped or not. -/
def savedWarp (stopped : Bool) : Warp := { taskWarp with marks := { taskWarp.marks with save := true, stopped := stopped }, spwin := 1 }
def savingState (stopped : Bool) : State := { at_ (savedWarp stopped) with saving := [{ id := 7, proc := 0, warps := [0], ensemble := none, clusters := [] }] }

/-- The save of a task warp: before it stops, while something of it is outstanding, and when nothing is. -/
theorem witness_PreemptionAndSaves_save :
    (∀ b, (savingState b).warp? 0 = some (savedWarp b) ∧ (savedWarp b).marks.save = true ∧ (savedWarp b).owner.ensemble = none ∧ (savedWarp b).marks.ended = false ∧
      (savingState b).cancelledAt (savedWarp b).owner.scope (dieOf (coreOf 0)) = false ∧ (savedWarp b).marks.stopped = b) ∧
    (∃ a ∈ ({ savingState true with flights := [acc .global .store [word0]] } : State).flights, a.w = 0) ∧
    let s := savingState true
    FenceHolds s 0 2 4 ∧ (savedWarp true).wait = none ∧ (savedWarp true).results = [] ∧ (savedWarp true).call.posts = [] ∧ (s.core (coreOf 0)).slices = [] ∧ Quiet s ∧ (∀ a ∈ s.flights, a.w ≠ 0) ∧
      s.commandsOf 0 = [] ∧ s.mxAll (coreOf 0) = [] ∧ (s.core (coreOf 0)).wbuf = [] ∧ (∀ r ∈ (savedWarp true).x, r.2.empty = false) ∧ (∀ r ∈ (savedWarp true).k, r.2.empty = false) ∧ s.taking = [] := by
  refine ⟨fun b => by cases b <;> decide +kernel, ⟨acc .global .store [word0], by simp, by decide⟩, fence_idle _ _ _ _ ?_ ?_ ?_ ?_, ?_, ?_, ?_, ?_, quiet_of _ ?_, ?_⟩ <;> decide +kernel

/-- A context of one task warp, and the state that restores it. -/
def context : Saved :=
  { id := 9, proc := 0, task := true, ensemble := none, clusters := [], die := 0, pcls := 0, warps := [(0, { taskWarp with spwin := 1 })]
    cores := [{ place := 0, scratch := [(3, 7)], scratchMarks := [], scratchSize := 2048, shared := [], sharedMarks := [], sharedSize := 0, slots := [], slotOwner := none }] }
def restoring : State := { grantAll base with warps := [], saved := [context] }

theorem witness_PreemptionAndSaves_restore :
    restoring.saved = [context] ∧ context.ensemble = none ∧ restoring.transit = [] ∧ restoring.taking = [] ∧ restoring.coreExists (dieOf 5) (5 % 96) = true ∧ restoring.dieRuns (dieOf 5) = true ∧
    restoring.granted context.proc 5 = true ∧ (restoring.core 5).spAlloc = [] ∧ (restoring.core 5).slices = [] ∧ taskWarp.wait = none ∧ taskWarp.x.length ≤ 1024 ∧ taskWarp.k.length ≤ 4096 := by
  decide +kernel

/-! ## Pages in motion -/

/-- The leaf of address 0 written anew. -/
def leafAt (v : Nat) (s : State) : State := s.writeNat (5 * 4096) 8 v
/-- A leaf of 64 KiB in frame 16, in a tier and a state (1 while it is copied), or pinned. -/
def leaf64 (tier st : Nat) (pin : Bool) : Nat := leafEntry 16 + 2 ^ 61 * st + 2 ^ 58 + 2 ^ 56 * tier + 2 ^ 44 * pin.toNat

/-- The walk of address 0 ends at a leaf with these fields. -/
def leafHas (s : State) (tier sz st : Nat) (rd pin : Bool) : Bool :=
  walksTo (s.walk 0 0) fun pte _ => pteTier pte == tier && pteSz pte == sz && pteSt pte == st && pteRd pte == rd && ptePin pte == pin

def slotOf (st : MigState) : MigSlot :=
  { asid := 0, proc := 0, va := 0, size := 2 ^ 16, src := 2 ^ 16, dst := 2 ^ 30, ptePlace := 5 * 4096, pte := BitVec.ofNat 64 (leaf64 0 1 false), auto := false, state := st }
def dieWith (l : Tbl MigSlot) (s : State) : State := { s with dies := [(0, { slots := l })] }

/-- Free frames: ring 2 of die 0 (tier 1) holds one entry, its headers at the start of tier 1. -/
def framed (s : State) : State :=
  let s : State := { s with dies := [(0, { migfrm := BitVec.ofNat 64 (2 ^ 63) })] }
  (((s.writeNat (s.ringHeader 0 2) 8 4096).writeNat (s.ringHeader 0 2 + 8) 4 1).writeNat (s.ringHeader 0 2 + 16) 4 1).writeNat (tierKey 1 4096) 8 (0x77 * 4096)

def pageInstrs (v : Nat) : List Instr := [.pmig (fields v 8 255 4 0), .pstat (fields 0 8 255 4 0), .phot (fields 0 8 255 4 0), .pabort (fields 0 8 255 4 0)]

/-- Clauses of `PageInstructions`: a tagged base, no page, pages of each kind, a destination with and without a frame or a slot, and a migration that copies. -/
theorem witness_PageInstructions :
    let low := at_ (setK 4 0 warp)
    let far := at_ (setK 4 (2 ^ 56) warp)
    (∀ i ∈ pageInstrs 4, Meets i (at_ (tagK 4 warp)) (fun x _ _ f => (x.uni f.kb).2 = true) ∧ Meets i far (fun x _ _ f => (x.uni f.kb) = (BitVec.ofNat 64 (2 ^ 56), false) ∧ f.imm = 0) ∧
      Meets i low fun x _ _ f => (x.uni f.kb) = (0, false) ∧ f.imm = 0) ∧
    (match far.walk 0 (2 ^ 56) with | .fault _ => true | _ => false) = true ∧
    (leafHas low 0 0 0 true false = true ∧ leafHas (leafAt (leaf64 0 0 false) low) 0 1 0 true false = true ∧ leafHas (leafAt (leaf64 0 1 false) low) 0 1 1 true false = true ∧
      leafHas (leafAt (leaf64 0 0 true) low) 0 1 0 true true = true ∧ leafHas (leafAt (leaf64 3 0 false) low) 3 1 0 true false = true ∧
      leafHas (leafAt (leaf64 0 0 false - 0x800) low) 0 1 0 false false = true) ∧
    (low.takeFrame 0 2 = none ∧ ((framed low).takeFrame 0 2).isSome = true ∧ (∀ n, n < 512 → ((dieWith [] low).die 0).slots.get? n = none) ∧ low.dieState 0 = 0 ∧
      ({ low with pkg := { low.pkg with diest := 7 } } : State).dieState 0 = 7) ∧
    (let s := dieWith [(0, slotOf .copying)] (leafAt (leaf64 0 1 false) low)
     let m := { slotOf .copying with c := [3], wr := [3] }
     let t := dieWith [(0, m)] (leafAt (leaf64 0 1 false) low)
     leafHas s 0 1 1 true false = true ∧ (s.die 0).slots.get? 0 = some (slotOf .copying) ∧ t.readTable m.ptePlace = m.pte ∧ t.redirect m.ptePlace = m.ptePlace ∧ t.sideDown m.src m.size = false ∧
       t.unreachable (m.dst + 256 * 3) = false) ∧
    (slotOf .committing).state ≠ .copying ∧ low.hotness.getD 0 0 < 256 := by
  simp only [pageInstrs, List.forall_mem_cons, List.not_mem_nil, false_implies, implies_true, and_true]
  refine ⟨⟨⟨meets_some ?_, meets_some ?_, meets_some ?_⟩, ⟨meets_some ?_, meets_some ?_, meets_some ?_⟩, ⟨meets_some ?_, meets_some ?_, meets_some ?_⟩, meets_some ?_, meets_some ?_, meets_some ?_⟩,
    ?_, ?_, ?_, ?_, ?_⟩ <;> decide +kernel

/-- A table of 512 slots, every number of them in use. -/
theorem witness_PageInstructions_slots : ∀ n, n < 512 → (Tbl.get? ((List.range 512).map fun n => (n, slotOf .copying)) n) ≠ none := by
  have h : ∀ (l : List Nat), ∀ n ∈ l, Tbl.get? (l.map fun n => (n, slotOf .copying)) n ≠ none := fun l => by
    induction l with
    | nil => simp
    | cons a r ih =>
      intro n hn
      simp only [List.map_cons, Tbl.get?]
      split
      · simp
      · next hne => exact ih n ((List.mem_cons.1 hn).resolve_left hne)
  exact fun n hn => h _ n (List.mem_range.2 hn)

/-- Clauses of `MigrationSteps`: a line to lock, eight that are locked, a line that flips, the last one, a line that goes back, frames that are owed, halvings. -/
theorem witness_MigrationSteps :
    let low := leafAt (leaf64 0 1 false) (at_ warp)
    let s := dieWith [(0, slotOf .copying)] low
    let m := { slotOf .copying with locked := [0] }
    let last := { slotOf .copying with locked := [255], c := List.range 255, next := 256 }
    let t : State := { dieWith [(0, last)] low with flights := [acc .global .store [{ word0 with keys := [2 ^ 16] }]] }
    let back := { slotOf .aborting with c := [1, 2], wr := [1] }
    let ret := { slotOf .committing with closed := true, rets := [(0, 5)] }
    ((slotOf .copying).next < (slotOf .copying).size / 256 ∧ s.unreachable (slotOf .copying).src = false ∧ s.unreachable (slotOf .copying).dst = false) ∧
    8 ≤ ({ slotOf .copying with locked := List.range 8 } : MigSlot).locked.length ∧
    (let u := dieWith [(0, m)] low
     (u.die 0).slots.get? 0 = some m ∧ u.injecting m.dst = false ∧ (∀ j ∈ span m.src 256, j ∉ span m.dst 256) ∧ m.c.length + 1 ≠ m.size / 256) ∧
    ((t.die 0).slots.get? 0 = some last ∧ last.c.length + 1 = last.size / 256 ∧ t.readTable last.ptePlace = last.pte ∧ t.redirect last.ptePlace = last.ptePlace ∧ (∀ c ∈ t.cores, c.2.slices = []) ∧
      (∀ j ∈ span last.ptePlace 8, j ∉ span (last.src + 256 * 255) 256 ∧ j ∉ span (last.dst + 256 * 255) 256) ∧ (∃ a ∈ t.flights, ∃ b ∈ a.lanes, last.src ∈ b.keys) ∧
      t.injecting (last.dst + 256 * 255) = false) ∧
    (let u := dieWith [(0, back)] low
     u.unreachable (back.dst + 256) = false ∧ back.bad = [] ∧ back.closed = false ∧ ∀ j ∈ span (back.src + 256) 256, j ∉ span (back.dst + 256) 256) ∧
    (let u := dieWith [(0, ret)] low
     u.putRing 0 6 (toBytes 8 5) = none ∧ ((u.writeNat (u.ringHeader 0 6 + 8) 4 1).putRing 0 6 (toBytes 8 5)).isSome = true) ∧
    (State.reset.hotness.map (·.1)).Nodup ∧ State.reset.clock / 2 ^ 20 ≤ State.reset.halvings ∧ ({ State.reset with clock := 2 ^ 20 } : State).halvings < ({ State.reset with clock := 2 ^ 20 } : State).clock / 2 ^ 20 := by
  refine ⟨?_, ?_, ⟨?_, ?_, span_apart (by decide), ?_⟩, ⟨?_, ?_, ?_, ?_, ?_, fun j hj => ⟨span_apart (by decide) j hj, span_apart (by decide) j hj⟩, ?_, ?_⟩, ⟨?_, ?_, ?_, span_apart (by decide)⟩, ?_, ?_⟩ <;>
    decide +kernel

/-! ## The package -/

/-- A device whose mailbox holds a command, in a state that is ready or not, with process 0 and scope 0. -/
def commanded (opc : Nat) (body : List Nat) (ready : Bool) : State :=
  { base with scopes := [(0, scope0)], pkg := { base.pkg with ready := ready, busy := true, booted := 15, command := some (opc, 9, body.map fun n => BitVec.ofNat 8 n) } }
def bodyOf (body : List Nat) : List Byte := body.map fun n => BitVec.ofNat 8 n
def upState (busy : Bool) (opc len : Nat) : State :=
  let s : State := { base with dies := [(0, { linkst := BitVec.ofNat 64 (2 * 2 ^ 16) })], pkg := { base.pkg with booted := 15, busy := busy } }
  ((s.writeNat (barKey 0) 4 opc).writeNat (barKey 4) 4 9).writeNat (barKey 8) 4 len

/-- Clauses of `Mailbox`, the doorbell: a busy mailbox, a command that is latched, an unknown one, one that is too long. -/
theorem witness_Mailbox_doorbell :
    let word := fun (s : State) o => ofBytes ((span (barKey o) 4).map s.byte)
    ((upState true 1 0).pkg.busy = true ∧ (upState false 1 8).pkg.busy = false ∧ (upState false 1 8).mailboxUp = true ∧ base.mailboxUp = false) ∧ word (upState false 1 8) 0 = 1 ∧ word (upState false 1 8) 8 = 8 ∧
    (word (upState false 12 8) 0 = 12 ∧ (upState false 12 8).mailboxUp = true) ∧ word (upState false 1 5000) 8 = 5000 ∧ (upState false 1 5000).mailboxUp = true := by
  decide +kernel

/-- Clauses of `Mailbox`, the commands: processes that exist or not, fields in and out of range. -/
theorem witness_Mailbox_commands :
    (∀ n, n < 10 → ((commanded n [] true).pkg.command = some (n, 9, []) ∧ (commanded n [] true).pkg.ready = true) ∧ (commanded n [] false).pkg.ready = false) ∧
    (let b := bodyOf [7, 0]
     field b 0 2 = 7 ∧ (word64 b 16).toNat = 0 ∧ (word64 b 40).getLsbD 63 = false ∧ base.proc? 7 = none ∧ (base.proc? 0).isSome = true ∧ (commanded 1 [7] true).scopes.get? 1 = none ∧
       (commanded 1 [7] true).scopes.get? 0 ≠ none) ∧
    (field (bodyOf [0, 4]) 0 2 = 1024 ∧ field (bodyOf [0xFF, 0xFF]) 0 2 = 0xFFFF ∧ field (bodyOf [0, 0, 4]) 2 1 = 4 ∧ field (bodyOf [0, 0, 3]) 2 1 = 3) ∧
    (let q : Proc := { priv := true, ending := true }
     let s : State := { commanded 2 [0] true with procs := [(0, q)] }
     let t : State := { s with scopes := [(0, { scope0 with count := 0 })] }
     (s.proc? 0 = some q ∧ ∃ c ∈ s.scopes, c.2.proc = 0 ∧ (c.2.parent ≠ none ∨ c.2.count ≠ 0)) ∧ t.proc? 0 = some q ∧ ∀ c ∈ t.scopes, c.2.proc = 0 → c.2.parent = none ∧ c.2.count = 0) ∧
    (∃ q r : Proc, q.priv = true ∧ r.priv = false) ∧
    (∀ n ∈ [0x113, 0x115, 0x116, 0x11B, 0x11E, 0x72, 0x20, 0x17, 0x11C, 0x11D, 0x110, 0x71, 0x73, 0x65], field (bodyOf [0, 0, 0, 0, n % 256, n / 256]) 4 2 = n) ∧
    (let s : State := { base with dies := [(0, { pwrctl := BitVec.ofNat 64 (2 ^ 63) })] }
     (s.die 0).pwrctl.getLsbD 63 = true ∧ (base.die 0).pwrctl.getLsbD 63 = false ∧ s.coreExists 0 0 = true) ∧
    ((∀ d, d < 4 → (base.die d).linkst.toNat / 2 ^ 8 % 4 ≠ 3) ∧ base.pkg.outOfService = [] ∧ ({ base with pkg := { base.pkg with outOfService := [(0, 4096, 4096)] } } : State).pkg.outOfService = [(0, 4096, 4096)]) := by
  refine ⟨by decide +kernel, by decide +kernel, by decide +kernel, by decide +kernel, ⟨{ priv := true }, { priv := false }, rfl, rfl⟩, by decide +kernel, by decide +kernel, by decide +kernel⟩

/-- Die 0 in a state of `DIEST`, without warps. -/
def inDiest (v : Nat) : State := { commanded 6 [0, 0, 0] true with warps := [], pkg := { (commanded 6 [0, 0, 0] true).pkg with diest := BitVec.ofNat 64 v } }

/-- Clauses of `WarmDieReset`: an unknown die, another reset under way, a die that does not run, one that starts; each step of the way; a window that refuses. -/
theorem witness_WarmDieReset :
    field (bodyOf [0, 0, 4]) 2 1 = 4 ∧ field (bodyOf [0, 0, 0]) 2 1 = 0 ∧ (1 ≤ (inDiest 8).dieState 1 ∧ (inDiest 8).dieState 1 ≤ 5) ∧
    ((∀ e, e < 4 → ¬ (1 ≤ (inDiest 7).dieState e ∧ (inDiest 7).dieState e ≤ 5)) ∧ (inDiest 7).dieRuns 0 = false) ∧
    ((∀ e, e < 4 → ¬ (1 ≤ (inDiest 0).dieState e ∧ (inDiest 0).dieState e ≤ 5)) ∧ (inDiest 0).dieRuns 0 = true ∧ (inDiest 0).warps = [] ∧ (inDiest 0).transit = [] ∧
      (∀ e ∈ (inDiest 0).dies, e.2.slots = []) ∧ ((inDiest 0).procs.map (·.1)).Nodup) ∧
    ((inDiest 1).dieState 0 = 1 ∧ (inDiest 1).quiesced 0 = true ∧ ({ inDiest 1 with warps := [(0, warp)] } : State).quiesced 0 = false) ∧
    (∀ v, v < 6 → (inDiest v).dieState 0 = v ∧ (inDiest v).saved = [] ∧ ∀ c ∈ (inDiest v).cores, c.2.loadQ = [] ∧ c.2.storeQ = []) ∧
    (let h : Held := { cluster := 0, ensemble := 3, gang := 1, window := 0, proc := 0, key := 24576, buf := [] }
     let s : State := { inDiest 1 with held := [h], clock := 2 ^ 24 }
     h ∈ s.held ∧ keyDie (s.redirect h.key) = 0 ∧ (s.die 0).quiesceSince + 2 ^ 24 ≤ s.clock) := by
  refine ⟨?_, ?_, ?_, ?_, ?_, ?_, ?_, ?_⟩ <;> decide +kernel

/-- The responder of die 0 in a state of its exchange. -/
def responding (p : Spdm) : State := { base with pkg := { base.pkg with booted := 1, spdm := p } }

/-- Clauses of `ResetsAndAttestation`. -/
theorem witness_ResetsAndAttestation :
    ((∀ c ∈ base.cores, c.2.chmapNext = none) ∧ base.pkg.wear.offs = [] ∧ base.pkg.wear.chmap = [] ∧ base.pkg.wear.slices = [] ∧ Mem.wf base.mem = true) ∧
    (∀ p : Spdm, (responding p).pkg.booted.getLsbD 0 = true ∧ (responding p).pkg.spdm = p) ∧ (1 ≤ 1 ∧ (1 : Nat) < 2048) := by
  exact ⟨by decide +kernel, fun p => by cases p <;> decide +kernel, by decide⟩

/-- A die whose links have the given states; the device is ready or not. -/
def linked (v : Nat) (ready : Bool) (booted : Nat) : State :=
  { base with dies := [(0, { linkst := BitVec.ofNat 64 v })], pkg := { base.pkg with ready := ready, booted := BitVec.ofNat 4 booted } }

/-- Clauses of `LinksWearAndPower`. -/
theorem witness_LinksWearAndPower :
    (linkBit 0 .pci 0 = some 16 ∧ (linked 0 false 1).pkg.booted.getLsbD 0 = true ∧ (linked 0 false 1).trainedBefore (linkRank .pci) = true ∧ linkRank .pci ≤ 6 ∧
      ∀ e ∈ (linked 0 false 1).dies, e.2.slots = []) ∧
    (linkBit 0 .ual 0 = some 22 ∧ (linked 0x2FFFF true 1).trainedBefore (linkRank .ual) = false ∧ (linked 0 true 0).pkg.booted.getLsbD 0 = false ∧ (linked 0 true 1).pkg.ready = true) ∧
    ((linked (2 * 2 ^ 18) true 1).die 0).linkst.toNat / 2 ^ 18 % 4 = 2 ∧ ((linked 0 true 1).die 0).linkst.toNat / 2 ^ 18 % 4 ≠ 2 ∧ 0 ∉ (linked 0 true 1).pkg.cxlLost ∧
    (∃ pa, 0 ≤ pa ∧ pa < 0 + 4096 ∧ pa < 2 ^ 44 ∧ base.homeFault (tierKey 0 pa) = none) ∧
    (base.coreExists (dieOf 0) (0 % 96) = true ∧ (base.core 0).gband.toNat % 64 < 63 ∧ channelOf (base.core 0).chmap 3 = some 3 ∧ (base.core 0).chmapNext = none ∧
      (base.core 0).chmap.toNat / 2 ^ 40 % 16 ≠ 15) ∧
    (let s := base.modCore 0 fun c => { c with gband := 63, chmapNext := some 5 }
     (s.core 0).gband.toNat % 64 = 63 ∧ (s.core 0).chmapNext = some 5 ∧ (∃ w ∈ (at_ { warp with role := 1 }).warps, coreOf w.1 = 0 ∧ w.2.role = 1) ∧
       (∀ w ∈ (at_ warp).warps, coreOf w.1 = 0 → w.2.role ≠ 1) ∧ s.saved = []) ∧
    (base.die 0).pwrctl.getLsbD 63 = false := by
  refine ⟨?_, ?_, ?_, ?_, ?_, ⟨0, ?_⟩, ?_, ?_, ?_⟩ <;> decide +kernel

/-- A request for the job of process 0, and that process. -/
def jobState (job : Nat) : State := { base with procs := base.procs.map fun p => (p.1, { p.2 with fjob := BitVec.ofNat 64 (2 ^ 63 + job) }) }
def request (k : RemoteKind) (job node : Nat) : RemoteReq := { node := BitVec.ofNat 20 node, job := BitVec.ofNat 32 job, va := 0, bytes := 4, port := 0, kind := k }
def farWord : LaneAcc := { word0 with node := some 7 }

/-- Clauses of `FabricAndHost`: a request of another job; an atomic from beyond the pod and one from within it; reads of whole and of poisoned bytes, a write; a remote
access that is late; an entry of the operand log that another node resolves; accesses of the host. -/
theorem witness_FabricAndHost :
    let s := jobState 5
    let t : State := { s with marks := [24576 / 8] }
    (∃ q, s.procs = [(0, q)] ∧ q.fjob.getLsbD 63 = true ∧ q.fjob.setWidth 32 = (request .read 5 0).job ∧ q.fjob.setWidth 32 ≠ (request .read 6 0).job) ∧
    ((request .read 5 5000).node.toNat / 1024 ≠ s.nodeid.toNat / 1024 ∧ (request .read 5 0).node.toNat / 1024 = s.nodeid.toNat / 1024) ∧
    (Quiet s ∧ Quiet t ∧ walksTo (s.walk 0 0) (fun pte _ => pteTier pte != 3 && pteRd pte && pteWr pte && permits 2 pte && leafKey pte 0 == 24576) = true ∧
      (∀ j ∈ span 24576 4, s.homeFault j = none ∧ t.homeFault j = none) ∧ s.anyMarked (span 24576 4) = false ∧ t.anyMarked (span 24576 4) = true) ∧
    (let a := acc .global .store [farWord]
     let u : State := { at_ warp with flights := [a], clock := 2 ^ 24 }
     u.flight? 5 = some a ∧ (a.todo.filter fun l => l.node.isSome) = [farWord] ∧ a.issuedAt + 2 ^ 24 ≤ u.clock) ∧
    (let e := { logged (acc .global .store [farWord]) with remote := true }
     let x := { warp with log := [(1, e)] }
     (at_ x).warps = [(0, x)] ∧ x.log = [(1, e)] ∧ e.remote = true ∧ e.state = .pending ∧ (at_ x).saved = [] ∧ ∀ c ∈ (at_ x).cores, c.2.loadQ = [] ∧ c.2.storeQ = []) ∧
    ((upState false 1 0).mailboxUp = true ∧ base.mailboxUp = false ∧ base.virtKeys 0 0 4 1 = some (span 24576 4) ∧ (span 24576 4).Nodup ∧ ∀ k ∈ span 24576 4, base.homeFault k = none) := by
  refine ⟨⟨_, rfl, ?_, ?_, ?_⟩, ?_, ⟨quiet_of _ ?_, quiet_of _ ?_, ?_⟩, ?_, ?_, ?_⟩ <;> decide +kernel

/-! ## Encodings -/

/-- Instructions that are well formed, of every family, with their words. -/
theorem witness_DecodeEncode : ∀ i ∈ samples, WellFormed i = true ∧ (match decodeWords ((encode i).getD 0 0) ((encode i).getD 1 0) ((encode i).getD 2 0) ((encode i).getD 3 0) with
    | .ok j => decide (j = i) | _ => false) = true := by decide +kernel

/-- The operands of `AtomicOperations`, at the ends of their ranges for both widths. -/
theorem witness_AtomicOperations : ∀ w ∈ [4, 8], (w = 4 ∨ w = 8) ∧ 0 < 2 ^ (8 * w) ∧ 2 ^ (8 * w) - 1 < 2 ^ (8 * w) := by decide

/-! ## Later clauses and shared conditions -/

theorem clean_of {s : State} {w : Nat} (h : (s.core (coreOf w)).slices = []) : s.sliceClean w := fun l hl => by rw [h] at hl; simp at hl

/-- Clauses of `ExitEndsLanes`: an `exit` whose guard holds in no lane. -/
theorem witness_ExitEndsLanes_none : ∃ x e sh g, Ready (.exit { fields 0 0 0 0 0 with gneg := true }) (at_ warp) x e sh g ∧ x.active g e = 0 ∧ e.mask ≠ 0 :=
  ⟨warp, entry, _, { fields 0 0 0 0 0 with gneg := true }, ready (by decide +kernel), by decide +kernel⟩

/-- Clauses of `AccessesSetOut` and `FencesAndDrains`: a warp without slice stores, and one with a dirty line; a load whose lines the L1 holds and whose home answers. -/
theorem witness_SliceStores :
    (at_ warp).sliceClean (at_ warp).cur ∧ cached.sliceClean cached.cur ∧
    MeetsMem (.ldg (fields 0 8 0 0 0)) cached (fun x e sh f m => m.space = .global ∧ m.ord = 0 ∧
      resolves cached x ((cached.sees x e sh f).request cached (.ldg (fields 0 8 0 0 0)) m cached.nextId)
        (fun ls => ls.all fun l => (cached.l1Line? 0 (cached.asid 0) l.addr).isSome && l.node.isNone && (cached.laneFault l).isNone) = true) ∧
    (let l : SliceLine := { w := 0, asid := 0, line := 0, key := 24576, data := List.replicate 128 7, marks := 0, dirty := true }
     let s := (at_ warp).modCore 0 fun c => { c with slices := [l] }
     (s.core (coreOf s.cur)).slices = [l] ∧ l.w = s.cur ∧ l.dirty = true ∧ l.data.length = 128 ∧ Quiet s) := by
  refine ⟨clean_of (by decide +kernel), clean_of (by decide +kernel), meets_mem (by decide +kernel), ?_⟩
  exact ⟨by decide +kernel, by decide +kernel, rfl, by decide +kernel, quiet_of _ (by decide +kernel)⟩

/-- Clauses of `HomesPerform`: two lanes of one access that host memory serves one after another. -/
theorem witness_HomesPerform_host :
    let l : LaneAcc := { lane := 0, addr := 64, keys := span (hostKey 64) 4, data := [1, 2, 3, 4] }
    let a := acc .host .store [l, { l with lane := 1 }]
    (fly a).flight? 5 = some a ∧ a.space = .host ∧ ∃ r, a.chunk = l :: r ∧ (fly a).mayPerform a (l :: r) = true :=
  ⟨by decide +kernel, rfl, _, rfl, by decide +kernel⟩

/-- A full pool of quadrant 0 in which nothing can be spilled: the warps wait for what they hold. -/
def crammed : State :=
  { pressed with warps := pressed.warps.map fun p => (p.1, { p.2 with x := p.2.x.map fun r => (r.1, { r.2 with empty := true }) }) }

/-- Clauses of `ResultsArrive`, `CallsAndRings` and `LogEntriesResolve`: a destination that has an entry of its pool, and one that is in the spill region. -/
theorem witness_Placed :
    ((at_ warp).warp? 0 = some warp ∧ warp.isBound (.x 8) = true ∧ warp.isSpilled (.x 8) = false ∧ (at_ warp).placeRegs 0 [.x 8] = (at_ warp, true) ∧
      ((at_ warp).placeRegs 0 [.x 8]).1.warp? 0 = some warp ∧ warp.marks.ended = false ∧ warp.call.posts = []) ∧
    (crammed.placeRegs 0 [.x 16]).2 = false :=
  ⟨by decide +kernel, by decide +kernel⟩

/-- Clauses of `Watches`: the conditions of a first look and of a later one; a time-out of 0; what waits. -/
theorem witness_Watches_looks :
    let s := at_ warp
    let q : Watch := { acc := { acc .global (.load 0) [{ word0 with keys := [] }] with instr := .waitaddr (fields 1 2 4 0 0) }, cmp := 1, cond := 0, acq := none, pd := 2, deadline := some 9, lastEval := 0 }
    let x := { warp with wait := some (.watch q) }
    let t : State := { at_ x with clock := 20000 }
    Meets (.waitaddr (withC 6 (fields 1 2 4 0 0x40))) (at_ (setK 6 0 warp)) (fun x _ _ f => f.bit 6 = true ∧ (x.uni f.kc) = (0, false) ∧ x.log = [] ∧ x.fifth = none) ∧
    s.portsOpen (span 24576 4) (s.homeRank 0 24576) = true ∧ warp.fifth = none ∧ x.log = [] ∧ x.fifth = none ∧ q.far = false ∧ q.sent = none ∧ q.acc.lanes = [{ word0 with keys := [] }] ∧
    (∀ g ∈ t.flights, g.w ≠ 0) ∧ Quiet t ∧ word0.addr < 2 ^ 57 ∧ (∃ d, q.deadline = some d ∧ d ≤ t.clock) ∧ t.portsOpen (span 24576 4) (t.homeRank 0 24576) = true ∧
    (at_ { warp with wait := some (.sleep 0) }).interrupted 0 { warp with wait := some (.sleep 0) } = false := by
  refine ⟨meets_some ?_, ?_, rfl, rfl, rfl, rfl, rfl, rfl, ?_, quiet_of _ ?_, ?_, ⟨9, rfl, ?_⟩, ?_, ?_⟩ <;> decide +kernel

/-- Clauses of `DeterministicReductions`: a member that has committed, in the open window and, after a save, at the same instruction in a later one. -/
theorem witness_DeterministicReductions_again :
    let c := Instr.detcommit (fields 0 0 1 0 0)
    let s := fun (m : Member) => ganged gang1 { member1 warp with members := [m] }
    let done : Member := { gang := 1, ord := 0, committed := true }
    let later : Member := { gang := 1, ord := 0, again := some 0x40 }
    Meets c (s done) (fun x _ _ f => x.member? f.xa = some done ∧ x.owner.ensemble = some 3 ∧ done.committed = true) ∧
    Meets c (s later) (fun x e _ f => x.member? f.xa = some later ∧ x.owner.ensemble = some 3 ∧ later.committed = false ∧ later.again = some e.pc) ∧
    Meets c (s { gang := 1, ord := 0 }) (fun x e _ f => ∃ m ∈ x.members, x.member? f.xa = some m ∧ m.committed = false ∧ m.again ≠ some e.pc) :=
  ⟨meets_some (by decide +kernel), meets_some (by decide +kernel), meets_some (by decide +kernel)⟩

/-- Clauses of `MovingAWarp` and `CallsAndRings`: nothing early that the warp may have read, nothing in the buffers of its slices, no ring under way. -/
theorem witness_Landed : (at_ warp).seenDone 0 (at_ warp).nextId = true ∧ (at_ warp).sharedDrained 0 = true ∧ (at_ warp).initsDone 0 = true ∧
    (pinned warp).seenDone 0 (pinned warp).nextId = true ∧ (pinned warp).sharedDrained 0 = true ∧ (pinned warp).initsDone 0 = true ∧ (pinned warp).sliceClean (pinned warp).cur := by
  refine ⟨?_, ?_, ?_, ?_, ?_, ?_, clean_of ?_⟩ <;> decide +kernel

/-- Clauses of `CopiesRun`: a burst whose homes take it, a release that carries one, a flag whose home takes it. -/
theorem witness_CopiesRun_ports :
    let act : Cmd := { cmd with state := .active }
    let b : Burst := { first := 0, count := 4, far := [24576, 24580, 24584, 24588] }
    let moving : Cmd := { act with at_ := 4, bursts := [b] }
    let last : Cmd := { cmd with state := .releasing, rel := true }
    b.stuck = false ∧ (queued moving warp).copyOpen 0 (b.far.flatMap fun k => span k 4) [] = true ∧ (last.rel = true ∧ 2 ≤ last.scope ∧ (queued last warp).seenDone last.w last.before = true ∧
      (queued last warp).sliceClean last.w) ∧ (queued last warp).copyOpen 0 [24640] [] = true ∧ warp.fifth = none := by
  refine ⟨rfl, ?_, ⟨rfl, ?_, ?_, clean_of ?_⟩, ?_, rfl⟩ <;> decide +kernel

/-- Clauses of `TileOperations`: operands of every kind, a part added to itself. -/
theorem witness_TileOperations_operands :
    let mma := fun (b : Nat) (imm : Nat) => Instr.mma { fields 0 0 4 8 b with imm := BitVec.ofNat 32 imm }
    let ok := fun (i : Instr) => match i with
      | .mma f => mmaValid f { mxCmd i with ops := #v[BitVec.ofNat 64 (8192 * 2 ^ 32), 64, BitVec.ofNat 64 (8192 * 2 ^ 32), 64, 0, 0] }
      | _ => false
    (∀ code ∈ [4, 5, 6, 7, 8], ok (mma 2 (32 + code * 2 ^ 28 + code * 2 ^ 24)) = true) ∧ (∀ code ∈ [0, 1, 2, 3, 8], ok (mma 0 (32 + code * 2 ^ 28 + code * 2 ^ 24)) = true) ∧
    accOf (fields 0 0 0 0 0).a.num = accOf (fields 0 0 0 0 0).d ∧
    (∃ row : List Byte, row.length = 32) ∧ ((27843 : Int).natAbs ≤ halfRange (List.range (operandPlanes 8)) ∧ (-27843 : Int).natAbs ≤ halfRange (List.range (operandPlanes 8))) := by
  refine ⟨?_, ?_, ?_, ⟨List.replicate 32 0, by decide⟩, ?_⟩ <;> decide +kernel

/-- The elements of a list rise from a lower bound. -/
def rising : Nat → List Nat → Bool
  | _, [] => true
  | n, a :: t => decide (n ≤ a) && rising (a + 1) t

theorem rising_ge : ∀ {n : Nat} {l : List Nat}, rising n l = true → ∀ a ∈ l, n ≤ a
  | _, [], _, _, h => by simp at h
  | n, b :: t, h, a, ha => by
    simp only [rising, Bool.and_eq_true, decide_eq_true_eq] at h
    rcases List.mem_cons.mp ha with rfl | ht
    · exact h.1
    · have := rising_ge h.2 a ht; omega

theorem nodup_of_rising : ∀ {n : Nat} {l : List Nat}, rising n l = true → l.Nodup
  | _, [], _ => List.nodup_nil
  | n, b :: t, h => by
    simp only [rising, Bool.and_eq_true] at h
    exact List.nodup_cons.mpr ⟨fun hb => by have := rising_ge h.2 b hb; omega, nodup_of_rising h.2⟩

/-- Clauses of `DrainsAndChecks`: the places that a drain writes, under `.i32`, and under `.mxf4` with residuals. -/
theorem witness_DrainsAndChecks_places :
    (let d := descOf 0 256
     drainValid 10 false d (64 * 2048) = true ∧ ((List.range 4096).flatMap fun k => d.keys 0 0 0 (k / 64) (k % 64 * 4) 4).Nodup) ∧
    (let d := descOf (BitVec.ofNat 64 (4096 * 2 ^ 32)) 64
     let r := descOf 0x8000 128
     (drainValid 7 true d (64 * 2048) = true ∧ r.valid (64 * 2048) 1 128 0 = true) ∧
     (((List.range 4096).filter fun k => k % 2 == 0).flatMap (fun k => d.keys 0 0 0 (k / 64) (k % 64 * 4 / 8) 1) ++
       (List.range 128).flatMap (fun b => scratchKeys 0 0 d.rot (d.base + d.tp + b) 1) ++
       ((List.range 4096).flatMap (fun k => r.keys 0 0 0 (k / 64) (2 * (k % 64)) 2) ++ scratchKeys 0 0 d.rot (d.base + d.tp + 128) 4)).Nodup) := by
  refine ⟨⟨by decide +kernel, nodup_of_rising (n := 0) (by decide +kernel)⟩, by decide +kernel, ?_⟩
  exact (List.Perm.append_left _ List.perm_append_comm).nodup_iff.mpr (nodup_of_rising (n := 0) (by decide +kernel))

/-- Clauses of `Barriers`: a member that a save has suspended after its arrival, whose phase is over; halves of which one is ahead. -/
theorem witness_Barriers_again :
    (let m : Member := { gang := 1, ord := 0, arr := true, ap := false, again := some 0x40 }
     let q := { gang1 with ph := true }
     Meets (.barsync (fields 0 2 1 0 0)) (ganged q { inEns warp with members := [m] }) fun x e _ _ => x.members = [m] ∧ m.again = some e.pc ∧ m.ap ≠ q.ph) ∧
    ∀ a ∈ [true, false], ∀ n ∈ [0, 1], let o := { gang1 with ph := true, ahead := a }
      ((paired { gang1 with arrv := n } o).cluster (partner 0)).gangs = [o] ∧ o.ph ≠ gang1.ph ∧ gang1.rph = gang1.ph :=
  ⟨meets_some (by decide +kernel), by decide +kernel⟩

/-- Clauses of `StageRings`: a destination with an entry, one that finds room, and one that does not. -/
theorem witness_StageRings_room :
    (warp.isBound (.k 8) = true ∧ warp.isSpilled (.k 8) = false) ∧ (at_ warp).hasRoom 0 false 1 = true ∧
    (let full := { warp with k := (List.range 256).map fun n => (n, uniReg 0 false) }
     let s : State := { base with warps := (List.range 16).map fun n => (n, full) }
     s.hasRoom 0 false 1 = false) := by
  decide +kernel

/-- Clauses of `LaunchesAndTasks`: a placement whose scope has been cancelled. -/
theorem witness_LaunchesAndTasks_cancelled :
    let s := kernelState 0 0 .cancelled placeOf
    ∃ q c, s.proc? 0 = some q ∧ q.placing = [launchRec] ∧ s.scopes.get? (recScope launchRec) = some c ∧ c.state = .cancelled := by
  exact ⟨_, { scope0 with proc := 0, state := .cancelled }, rfl, rfl, by decide +kernel, rfl⟩

/-- Clauses of `PageInstructions` and `MigrationSteps`: dies that are in reset; a leaf whose bytes lie where its line is; a slot that waits for what holds its
translation, and one that does not. -/
theorem witness_PagesInMotion :
    let low := leafAt (leaf64 0 1 false) (at_ warp)
    let held := { slotOf .copying with waits := [(5, 0)] }
    (1 ≤ (inDiest 2).dieState 0 ∧ (inDiest 2).dieState 0 ≤ 5) ∧ ¬ (1 ≤ low.dieState 0 ∧ low.dieState 0 ≤ 5) ∧ ((span (slotOf .copying).ptePlace 8).map low.redirect).Nodup ∧
    (∀ j ∈ span (slotOf .copying).ptePlace 8, (dieWith [(0, slotOf .copying)] low).redirect j = j) ∧
    (∃ u ∈ held.waits, ({ dieWith [(0, held)] low with flights := [acc .global .store [word0]] } : State).stillUses u = true) ∧
    (∀ u ∈ held.waits, (dieWith [(0, held)] low).stillUses u = false) ∧ (slotOf .copying).closed = false ∧
    (∀ e ∈ (dieWith [(0, slotOf .aborting)] low).dies, ∀ q ∈ e.2.slots, q.2.bad = []) ∧ (dieWith [(0, slotOf .aborting)] low).sideDown (slotOf .aborting).src (slotOf .aborting).size = false := by
  refine ⟨?_, ?_, ?_, ?_, ?_, ?_, rfl, ?_, ?_⟩ <;> decide +kernel

/-- Clauses of `WarmDieReset`: no records in the pools. -/
theorem witness_WarmDieReset_pools : ((inDiest 0).die 0).pools = [] := by decide +kernel

/-- Clauses of `LinksWearAndPower`: links of memory in training and in service, links that have failed, a lost port; an array whose count has been full for two windows. -/
theorem witness_LinksWearAndPower_memory :
    (∀ p ∈ [(Link.hbm, 3, 2), (.lp, 0, 3 * 4 ^ 4 - 1 - 2 * 4 ^ 4)], linkBit 0 p.1 p.2.1 ≠ none) ∧
    (linkBit 0 .hbm 0 = some 0 ∧ linkBit 0 .lp 0 = some 8 ∧ (linked (2 * 4 ^ 8) false 1).trainedBefore (linkRank .hbm) = true ∧ (linked (2 * 4 ^ 8 + 170) false 1).trainedBefore (linkRank .lp) = true ∧
      (linked 0 true 1).portLost 0 .hbm = false ∧ ((linked 2 true 1).die 0).linkst.toNat % 4 = 2 ∧ ((linked 3 true 1).die 0).linkst.toNat % 4 = 3) ∧
    ({ linked 0 true 1 with pkg := { (linked 0 true 1).pkg with cxlLost := [0] } } : State).portLost 0 .cxl = true ∧
    (let s : State := { base.modCore 0 fun c => { c with contain := 15 * 16 ^ 3, full := [(3, (4, 2))] } with clock := 5 * 2 ^ 30 }
     (s.core 0).contain.toNat / 2 ^ (4 * 3) % 16 = 15 ∧ (s.core 0).full.get? 3 = some (s.clock / 2 ^ 30 - 1, 2) ∧ 2 ^ 30 ≤ s.clock) := by
  decide +kernel

/-- Clauses of `FabricAndHost`: a node that no number names, ports that are free, an acquire that waits for a core and one that does not. -/
theorem witness_FabricAndHost_ports :
    let s := jobState 5
    let r := { request .read 5 0 with rp := true }
    let b : Access := { acc .global .store [word0] with id := 0 }
    let owing : State := { s with promotions := [(96, [0])], flights := [b], warps := [(0, warp)], nextId := 3 }
    768 ≤ (request .read 5 (768 * 1024)).node.toNat / 1024 ∧ 20 ≤ ({ r with port := 20 } : RemoteReq).port ∧ r.node.toNat / 1024 < 768 ∧ r.port < 20 ∧ s.portBusy s.nextId r = false ∧
    s.portsOpen (span 24576 4) (5 + r.port) = true ∧ 0 < r.bytes ∧ ((owing.promotions.getD (24576 / 256) []).filter fun c => owing.coreOwes c (owing.nextId + 1)) ≠ [] ∧
    (∀ c ∈ s.promotions.getD (24576 / 256) [], s.coreOwes c (s.nextId + 1) = false) ∧
    (∃ k, request (.write [1, 2, 3, 4] true) 5 0 = { request .read 5 0 with kind := k }) ∧
    (0 ∈ ({ pending := [0] } : Pkg).pending ∧ (0 : Nat) < 1088 ∧ 1088 ≤ 1088 ∧ (0 : Nat) < 1024) ∧
    (∃ k ∈ span 24576 4, ({ base with pkg := { base.pkg with outOfService := [(0, 0x6000, 4096)] } } : State).homeFault k ≠ none) := by
  refine ⟨?_, ?_, ?_, ?_, ?_, ?_, ?_, ?_, ?_, ⟨_, rfl⟩, ?_, ?_⟩ <;> decide +kernel

end Sys2Proof.Tests
end

section
/-! PROOFS. The bytes of memory, what reset leaves, and the registers that are fixed. -/

namespace Sys2Proof.Machine

/-! ## The bytes of memory (R6, R339) -/

/-- After a list of writes a byte reads as the last one written at its address, or as before. -/
theorem Mem.read_writeAll (m : List Host.Cell) (ks : List Nat) (bs : List Byte) (k : Nat) :
    Mem.read (Mem.writeAll m ks bs) k = (((ks.zip bs).reverse.find? fun p => p.1 == k).map (·.2)).getD (Mem.read m k) := by
  induction ks generalizing m bs with
  | nil => rfl
  | cons j ks ih =>
    cases bs with
    | nil => rfl
    | cons b bs =>
      rw [Mem.writeAll, ih, List.zip_cons_cons, List.reverse_cons, List.find?_append, Mem.read_write]
      cases (ks.zip bs).reverse.find? fun p => p.1 == k with
      | some p => rfl
      | none =>
        by_cases e : k = j
        · simp [e]
        · simp [e, Ne.symm e]

theorem State.byte_writeBytes (s : State) (ks : List Nat) (bs : List Byte) (k : Nat) :
    (s.writeBytes ks bs).byte k = (((ks.zip bs).reverse.find? fun p => p.1 == k).map (·.2)).getD (s.byte k) := Mem.read_writeAll s.mem ks bs k

theorem Mem.read_clear (m : List Host.Cell) (lo n k : Nat) :
    Mem.read (Mem.clear m lo n) k = if lo ≤ k ∧ k < lo + n then Mem.unlisted else Mem.read m k := by
  unfold Mem.clear
  induction m with
  | nil => simp [Mem.read]
  | cons p m ih =>
    obtain ⟨a, b⟩ := p
    by_cases h : lo ≤ a ∧ a < lo + n
    · rw [List.filter_cons_of_neg (by simp [h]), ih]
      by_cases e : k = a
      · simp [e, h]
      · simp [Mem.read, e]
    · rw [List.filter_cons_of_pos (by simp; omega), Mem.read, Mem.read, ih]
      by_cases e : k = a
      · simp [e, h]
      · simp [e]

/-- The little-endian bytes of a number give it back, up to their count. -/
theorem ofBytes_toBytes (n v : Nat) : ofBytes (toBytes n v) = v % 256 ^ n := by
  induction n generalizing v with
  | zero => simp [toBytes, ofBytes, Nat.mod_one]
  | succ n ih => rw [toBytes, ofBytes, ih, BitVec.toNat_ofNat, Nat.pow_succ' (n := n), Nat.mod_mul (b := 256 ^ n)]

theorem Mem.read_of_lt {m : List Host.Cell} {k : Nat} (h : ∀ c ∈ m, k < c.1) : Mem.read m k = Mem.unlisted := by
  induction m with
  | nil => rfl
  | cons p m ih =>
    have hp : k < p.1 := h p List.mem_cons_self
    rw [Mem.read, if_neg (Nat.ne_of_lt hp)]
    exact ih fun c hc => h c (List.mem_cons_of_mem _ hc)

/-- The first address of a canonical memory that reads like another is not below every address of the other. -/
theorem Mem.head_not_below {m n : List Host.Cell} {a : Nat} {b : Byte} (hm : Mem.wf ((a, b) :: m) = true)
    (h : ∀ k, Mem.read ((a, b) :: m) k = Mem.read n k) : ¬ ∀ c ∈ n, a < c.1 := by
  intro hn
  have ha := h a
  rw [Mem.read_of_lt hn, Mem.read, if_pos rfl] at ha
  exact ((Mem.wf_cons_iff _ _ _).1 hm).1 ha

/-- Canonical memories that read alike are equal. -/
theorem Mem.eq_of_read_eq {m n : List Host.Cell} (hm : Mem.wf m = true) (hn : Mem.wf n = true) (h : ∀ k, Mem.read m k = Mem.read n k) : m = n := by
  induction m generalizing n with
  | nil =>
    cases n with
    | nil => rfl
    | cons q n => exact absurd (by simp) (Mem.head_not_below hn fun k => (h k).symm)
  | cons p m ih =>
    obtain ⟨a, b⟩ := p
    cases n with
    | nil => exact absurd (by simp) (Mem.head_not_below hm h)
    | cons q n =>
      obtain ⟨c, d⟩ := q
      obtain ⟨-, hm', am⟩ := (Mem.wf_cons_iff _ _ _).1 hm
      obtain ⟨-, hn', cn⟩ := (Mem.wf_cons_iff _ _ _).1 hn
      have hca : ¬ a < c := fun l => Mem.head_not_below hm h (List.forall_mem_cons.2 ⟨l, fun e he => l.trans (cn e he)⟩)
      have hac : ¬ c < a := fun l =>
        Mem.head_not_below hn (fun k => (h k).symm) (List.forall_mem_cons.2 ⟨l, fun e he => l.trans (am e he)⟩)
      obtain rfl : a = c := by omega
      obtain rfl : b = d := by simpa [Mem.read] using h a
      have tails : ∀ k, Mem.read m k = Mem.read n k := by
        intro k
        by_cases e : k = a
        · rw [e, Mem.read_of_lt am, Mem.read_of_lt cn]
        · simpa [Mem.read, e] using h k
      rw [ih hm' hn' tails]

/-- Settles O23: writes byte by byte, and canonical memories from their lowest address upward. -/
theorem memoryBytes : Obligations.MemoryBytes := by
  refine ⟨fun s ks bs _ => ⟨fun k => ?_, fun h => Mem.writeAll_wf h ks bs, fun lo n k => Mem.read_clear s.mem lo n k,
    fun h lo n => Mem.clear_wf h lo n, ofBytes_toBytes⟩, fun m n hm hn h => Mem.eq_of_read_eq hm hn h⟩
  rw [State.byte_writeBytes]
  cases (ks.zip bs).reverse.find? fun p => p.1 == k <;> rfl

/-! ## What reset leaves (R9), and the registers that are fixed (R21) -/

@[simp] theorem State.reset_core (c : Nat) : State.reset.core c = {} := rfl
@[simp] theorem State.reset_die (d : Nat) : State.reset.die d = {} := rfl
@[simp] theorem State.reset_cluster (c : Nat) : State.reset.cluster c = {} := rfl
@[simp] theorem State.reset_slot (c n : Nat) : State.reset.slot c n = {} := rfl

theorem Warp.putPred_p7 (x : Warp) (m v : Mask) : x.putPred 7 m v = x := dif_neg (by decide)
theorem Warp.pred_p7 (x : Warp) : x.pred 7 = allLanes := dif_neg (by decide)
theorem Warp.putLane_xz (x : Warp) (m : Mask) (g : Fin 32 → W32) (t : Mask) (stamp : Nat) (empty : Bool) :
    x.putLane 255 m g t stamp empty = x := if_pos rfl
theorem Warp.markEmpty_xz (x : Warp) (stamp : Nat) : x.markEmpty (.x 255) stamp = x := rfl
theorem Warp.lane_xz (x : Warp) : x.lane 255 = (Vector.replicate 32 0, 0) := if_pos rfl

/-- Settles O22: every table is empty at reset, so each unit has its reset value. -/
theorem resetAndFixedRegisters : Obligations.ResetAndFixedRegisters := by
  refine ⟨⟨rfl, rfl, rfl, rfl, fun _ => rfl, fun _ => rfl, fun _ => rfl, fun _ => rfl, rfl, rfl, fun c => ?_, fun d => ?_, fun c => ?_⟩, ?_⟩
  · simp
  · simp
  · simp
  · intro x m v g t stamp empty
    refine ⟨x.putPred_p7 m v, x.pred_p7, x.putLane_xz m g t stamp empty, x.markEmpty_xz stamp, fun l => ?_, ?_⟩
    · rw [x.lane_xz]; exact Vector.getElem_replicate l.isLt
    · rw [x.lane_xz]

end Sys2Proof.Machine
end

section
/-! PROOFS. System registers (R8, R174, R175): what a write makes of each register of a warp, and what `getsr` and `setsr` leave. -/

namespace Sys2Proof.Machine

/-! ## What a write of a register of the warp touches -/

/-- A write of a system register changes control and status fields alone; the poison flag only at WSTAT, and never a pending poison trap. -/
theorem Warp.writeReg_only (x : Warp) (n : Nat) (v : W64) :
    ∃ psn pwb fov spl prio trap fp copy mx,
      x.writeReg n v = { x with psn := psn, pwb := pwb, fov := fov, spl := spl, prio := prio, trap := trap, fp := fp, copy := copy, mx := mx } ∧
      (n ≠ 0 → psn = x.psn) ∧ trap.poison = x.trap.poison := by
  unfold Warp.writeReg
  split
  · exact ⟨_, _, _, _, _, _, _, _, _, rfl, fun h => absurd rfl h, rfl⟩
  all_goals exact ⟨_, _, _, _, _, _, _, _, _, rfl, fun _ => rfl, rfl⟩

@[simp] theorem Warp.writeReg_x (x : Warp) (n : Nat) (v : W64) : (x.writeReg n v).x = x.x := by
  obtain ⟨_, _, _, _, _, _, _, _, _, h, -⟩ := x.writeReg_only n v; rw [h]
@[simp] theorem Warp.writeReg_k (x : Warp) (n : Nat) (v : W64) : (x.writeReg n v).k = x.k := by
  obtain ⟨_, _, _, _, _, _, _, _, _, h, -⟩ := x.writeReg_only n v; rw [h]
@[simp] theorem Warp.writeReg_hw (x : Warp) (n : Nat) (v : W64) : (x.writeReg n v).hw = x.hw := by
  obtain ⟨_, _, _, _, _, _, _, _, _, h, -⟩ := x.writeReg_only n v; rw [h]
@[simp] theorem Warp.writeReg_run (x : Warp) (n : Nat) (v : W64) : (x.writeReg n v).run = x.run := by
  obtain ⟨_, _, _, _, _, _, _, _, _, h, -⟩ := x.writeReg_only n v; rw [h]
@[simp] theorem Warp.writeReg_wait (x : Warp) (n : Nat) (v : W64) : (x.writeReg n v).wait = x.wait := by
  obtain ⟨_, _, _, _, _, _, _, _, _, h, -⟩ := x.writeReg_only n v; rw [h]
@[simp] theorem Warp.writeReg_owner (x : Warp) (n : Nat) (v : W64) : (x.writeReg n v).owner = x.owner := by
  obtain ⟨_, _, _, _, _, _, _, _, _, h, -⟩ := x.writeReg_only n v; rw [h]

theorem Warp.writeReg_flaws (x : Warp) {n : Nat} (hn : n ≠ 0) (v : W64) :
    (x.writeReg n v).psn = x.psn ∧ (x.writeReg n v).trap.poison = x.trap.poison := by
  obtain ⟨_, _, _, _, _, _, _, _, _, h, hp, ht⟩ := x.writeReg_only n v
  rw [h]
  exact ⟨hp hn, ht⟩

/-- What a write leaves of the rest of a warp depends on the rest of the warp alone. -/
theorem Warp.writeReg_still_congr {x y : Warp} (h : y.still = x.still) (n : Nat) (v : W64) : (y.writeReg n v).still = (x.writeReg n v).still := by
  have through : ∀ z : Warp, (z.writeReg n v).still = (z.still.writeReg n v).still := by
    intro z
    unfold Warp.writeReg
    split <;> rfl
  rw [through y, through x, h]

/-! ## Writes of the state -/

/-- A write of a register that is neither the core's nor the die's is one of the warp's register. -/
theorem State.writeReg_warp (s : State) (w : Nat) {n : Nat} (h : n ∉ [0x072, 0x113, 0x114, 0x115, 0x116, 0x11B]) (v : W64) :
    s.writeReg w n v = s.modWarp w fun x => x.writeReg n v := by
  simp only [List.mem_cons, List.not_mem_nil, or_false, not_or] at h
  obtain ⟨h1, h2, h3, h4, h5, h6⟩ := h
  simp only [State.writeReg, State.writeDieReg, Option.getD_none]

@[simp] theorem Warp.writeReg_callwin (x : Warp) (v : W64) : x.writeReg 0x110 v = x := rfl

theorem State.writeReg_migpol (s : State) (w : Nat) (v : W64) :
    s.writeReg w 0x115 v = s.modDie (dieOf (coreOf w)) fun d => { d with migpol := v &&& 0x83FF_00FF_0000_0003 } := rfl

theorem State.writeReg_migfrm (s : State) (w : Nat) (v : W64) :
    s.writeReg w 0x116 v = s.modDie (dieOf (coreOf w)) fun d => { d with migfrm := v &&& 0x8000_0FFF_FFFF_F000 } := rfl

theorem State.die_modDie_self (s : State) (d : Nat) (g : Die → Die) : (s.modDie d g).die d = g (s.die d) := by
  simp only [State.die, State.modDie, State.setDie, Tbl.getD, Tbl.get?_set_self, Option.getD_some]

theorem State.core_modCore_self (s : State) (c : Nat) (g : Core → Core) : (s.modCore c g).core c = g (s.core c) := by
  rw [State.modCore, State.core_setCore, if_pos rfl]

/-- Retirement changes of a core the queues of arbitration alone. -/
theorem State.retire_core (s : State) (w : Nat) (f : Frame) (b : Bool) (c : Nat) : ∃ q, (s.retire w f b).core c = { s.core c with quads := q } := by
  unfold State.retire
  split
  · exact ⟨_, rfl⟩
  · extract_lets y z t
    split
    · exact t.freeSlot_core w c
    · exact ⟨_, rfl⟩

@[simp] theorem State.retire_die (s : State) (w : Nat) (f : Frame) (b : Bool) (d : Nat) : (s.retire w f b).die d = s.die d := by
  simp only [State.die, State.retire_dies]

@[simp] theorem State.retire_mxbud (s : State) (w : Nat) (f : Frame) (b : Bool) (c : Nat) : ((s.retire w f b).core c).mxbud = (s.core c).mxbud := by
  obtain ⟨q, h⟩ := s.retire_core w f b c
  rw [h]

/-! ## `getsr` and `setsr` -/

/-- What a lane reads of a register, in 64 bits: of `LANEID` its own number (R175). -/
def State.laneReg (s : State) (w : Nat) (x : Warp) (n : Nat) (l : Fin 32) : W64 := if n = 0x010 then BitVec.ofNat 64 l.val else s.sysReg w x n

theorem State.laneReg_low (s : State) (w : Nat) (x : Warp) (n : Nat) (l : Fin 32) :
    (s.laneReg w x n l).setWidth 32 = if n = 0x010 then BitVec.ofNat 32 l.val else (s.sysReg w x n).setWidth 32 := by
  unfold State.laneReg
  split
  · rw [BitVec.setWidth_ofNat_of_le (by decide)]
  · rfl

section
variable {s : State} {x : Warp} {e : Entry} {sh : Shape} {f : Frame}

/-- `getsr` is a write of the destination that DU selects. -/
theorem Ready.exec_getsr (h : Ready (.getsr f) s x e sh f) (hact : x.active f e ≠ 0) :
    exec (.getsr f) s = .next (((s.sees x e sh f).writeD (s.opened x e sh f) false (s.laneReg s.cur x (Form.srNum f)) 0
      fun _ => s.sysReg s.cur x (Form.srNum f)).retire s.cur f true) := by
  obtain rfl : (Instr.getsr f).shape.1 = sh := congrArg Prod.fst h.form
  rw [Machine.exec_getsr, execGetsr, h.issueOnce, if_neg hact, Issue.writeD]
  cases hdu : f.du with
  | true => simp [State.sees, hdu, Instr.shape, Act.after]
  | false => simp [State.sees, hdu, State.laneReg_low, Act.after]

/-- `getsr` passes, and its destination holds the register's value, or in each lane its number (R175). -/
theorem Ready.getsr (h : Ready (.getsr f) s x e sh f) (hact : x.active f e ≠ 0) :
    ∃ t y, exec (.getsr f) s = .next t ∧ Passes s t x y e sh f ∧ y.still = x.still ∧
      if f.du then UniHolds y f.kd (s.sysReg s.cur x (Form.srNum f)) false
      else LaneHolds x y sh f (x.active f e) f.xd
        (fun l => if Form.srNum f = 0x010 then BitVec.ofNat 32 l.val else (s.sysReg s.cur x (Form.srNum f)).setWidth 32) 0 := by
  have hexec := h.exec_getsr hact
  obtain rfl : (Instr.getsr f).shape.1 = sh := congrArg Prod.fst h.form
  obtain ⟨y, hp, hs, hd⟩ := h.result hact f.du false rfl (by simp [Instr.shape]) (s.laneReg s.cur x (Form.srNum f)) 0
    (fun _ => s.sysReg s.cur x (Form.srNum f))
  refine ⟨_, y, hexec, hp, hs, ?_⟩
  simp only [← State.laneReg_low]
  unfold DestHolds at hd
  cases hdu : f.du with
  | true => simpa [hdu] using hd
  | false =>
    rw [hdu] at hd
    exact hd.1

/-- The value that a `setsr` writes is that of its uniform register or of its lowest active lane, and is not poisoned (R175). -/
def SetsrValue (x : Warp) (f : Frame) (e : Entry) (v : W64) : Prop :=
  if f.au then x.uni f.ka = (v, false)
  else ∃ l : Fin 32, firstLane (x.active f e) = some l ∧ v = ((x.lane f.xa).1[l]).setWidth 64 ∧ (x.lane f.xa).2.getLsbD l.val = false

theorem SetsrValue.srValue {v : W64} (h : SetsrValue x f e v) (s : State) (sh : Shape) : (s.sees x e sh f).srValue = (v, false) := by
  unfold SetsrValue at h
  unfold Issue.srValue State.sees
  split at h
  · next ha => rw [if_pos ha, h]
  · next ha =>
    obtain ⟨l, hl, hv, ht⟩ := h
    simp only [if_neg ha, hl, hv, ht]

/-- `setsr` is a write of the register under its access types. -/
theorem Ready.exec_setsr (h : Ready (.setsr f) s x e sh f) (hact : x.active f e ≠ 0) {v : W64} (hv : SetsrValue x f e v) :
    exec (.setsr f) s = .next (((s.opened x e sh f).writeReg s.cur (Form.srNum f) v).retire s.cur f true) := by
  rw [Machine.exec_setsr, execSetsr, h.issueOnce, if_neg hact, hv.srValue s sh]
  rfl

theorem State.opened_writeReg {n : Nat} (hn : n ∉ [0x072, 0x113, 0x114, 0x115, 0x116, 0x11B]) (v : W64) :
    (s.opened x e sh f).writeReg s.cur n v = s.setWarp s.cur ((x.opened e sh f s.clock).writeReg n v) := by
  rw [State.writeReg_warp _ _ hn, State.opened, State.modWarp_setWarp]

/-- The head of a ready instruction whose body leaves the frontier and the run counter alone moves on. -/
theorem Ready.moved {i : Instr} (h : Ready i s x e sh f) {z : Warp} (hhw : z.hw = x.hw) (hrun : z.run = x.run) (hwait : z.wait = none)
    (hown : z.owner = x.owner) : Moved s x (Warp.retired s s.cur z f true) e f := by
  obtain ⟨es, hx⟩ := List.head?_eq_some_iff.1 h.head
  have hl : ∀ pc, s.land s.cur z pc = s.land s.cur x pc := fun pc => (SameCode.refl s).land s.cur hown pc
  constructor <;> simp [Warp.retired, Warp.replaceHead, hhw, hx, hl, hrun, hwait]

theorem Warp.retired_keeps {z : Warp} (h : KeepsRegs x z sh f) (s : State) (w : Nat) (b : Bool) : KeepsRegs x (Warp.retired s w z f b) sh f := by
  constructor
  · intro n hn; rw [Warp.lbind, Warp.retired_x]; exact h.lanes n hn
  · intro n hn; rw [Warp.ubind, Warp.retired_k]; exact h.unis n hn

theorem Warp.writeReg_keeps {z : Warp} (h : KeepsRegs x z sh f) (n : Nat) (v : W64) : KeepsRegs x (z.writeReg n v) sh f := by
  constructor
  · intro j hj; rw [Warp.lbind, Warp.writeReg_x]; exact h.lanes j hj
  · intro j hj; rw [Warp.ubind, Warp.writeReg_k]; exact h.unis j hj

/-- The warp after a `setsr` of one of its registers. -/
def Warp.afterSetsr (x : Warp) (s : State) (e : Entry) (sh : Shape) (f : Frame) (v : W64) : Warp :=
  Warp.retired s s.cur ((x.opened e sh f s.clock).writeReg (Form.srNum f) v) f true

theorem Warp.afterSetsr_still (x : Warp) (s : State) (e : Entry) (sh : Shape) (f : Frame) (v : W64) :
    (x.afterSetsr s e sh f v).still = (x.writeReg (Form.srNum f) v).still :=
  (Warp.retired_still ..).trans (Warp.writeReg_still_congr (Warp.opened_same x e sh f s.clock).still _ v)

/-- `setsr` of a register of the warp: the instruction has moved on, and of the machine only the warp differs. -/
theorem Ready.setsr_warp (h : Ready (.setsr f) s x e sh f) (hact : x.active f e ≠ 0) {v : W64} (hv : SetsrValue x f e v)
    (hn : Form.srNum f ∉ [0x072, 0x113, 0x114, 0x115, 0x116, 0x11B]) :
    ∃ t, exec (.setsr f) s = .next t ∧ t.warp? s.cur = some (x.afterSetsr s e sh f v) ∧ Moved s x (x.afterSetsr s e sh f v) e f ∧ OnlyWarp s t ∧
      KeepsRegs x (x.afterSetsr s e sh f v) sh f := by
  refine ⟨_, h.exec_setsr hact hv, ?_⟩
  rw [State.opened_writeReg hn]
  obtain ⟨hw, ho⟩ := State.retire_only_warp s ((x.opened e sh f s.clock).writeReg (Form.srNum f) v) f true
  have hz := h.wrote
  exact ⟨hw, h.moved (by simp [hz.hw]) (by simp [hz.run]) (by simp [hz.wait]) (by simp [hz.owner]), ho,
    Warp.retired_keeps (Warp.writeReg_keeps hz.regs _ v) s s.cur true⟩

theorem Warp.retired_flaws (s : State) (w : Nat) (z : Warp) (f : Frame) (b : Bool) :
    (Warp.retired s w z f b).psn = z.psn ∧ (Warp.retired s w z f b).trap = z.trap := by
  unfold Warp.retired
  extract_lets y
  simp only [y]
  split <;> [split; skip] <;> exact ⟨rfl, rfl⟩

/-- A `setsr` of another register than WSTAT passes: it leaves the flag and the pending trap of poison too. -/
theorem Ready.setsr_passes (h : Ready (.setsr f) s x e sh f) (hact : x.active f e ≠ 0) {v : W64} (hv : SetsrValue x f e v)
    (hn : Form.srNum f ∉ [0x000, 0x072, 0x113, 0x114, 0x115, 0x116, 0x11B]) :
    ∃ t y, exec (.setsr f) s = .next t ∧ Passes s t x y e sh f ∧ y.still = (x.writeReg (Form.srNum f) v).still := by
  obtain ⟨h0, hn⟩ := not_or.1 (mt List.mem_cons.2 hn)
  obtain ⟨t, ht, hw, hm, ho, hk⟩ := h.setsr_warp hact hv hn
  refine ⟨t, _, ht, ⟨hw, hm, ho, hk, fun ha => ?_⟩, x.afterSetsr_still s e sh f v⟩
  obtain ⟨hp, htr⟩ := Warp.retired_flaws s s.cur ((x.opened e sh f s.clock).writeReg (Form.srNum f) v) f true
  obtain ⟨wp, wt⟩ := (x.opened e sh f s.clock).writeReg_flaws h0 v
  obtain ⟨op, ot⟩ := x.opened_flaws e sh f s.clock ha
  exact ⟨hp.trans (wp.trans op), (congrArg TrapRegs.poison htr).trans (wt.trans ot)⟩

end

/-! ## What a write makes of the value of a register (R8) -/

/-- A word of two fields, bit by bit: the low one below bit `k`, the high one from there. -/
theorem getLsbD_fields (m k : Nat) (hm : m = 2 ^ k) {a b i : Nat} (hb : b < m) (hi : i < 64) :
    (BitVec.ofNat 64 (a * m + b)).getLsbD i = if i < k then b.testBit i else a.testBit (i - k) := by
  subst hm
  rw [BitVec.getLsbD_ofNat, decide_eq_true hi, Bool.true_and, Nat.mul_comm, Nat.testBit_two_pow_mul_add a hb]

/-- The value of a register after a write: its RW bits as written, its W1C bits cleared where 1 is written, and its other bits as they were (R8). -/
def written (old rw w1c v : W64) : W64 := ((old &&& ~~~rw) ||| (v &&& rw)) &&& ~~~(v &&& w1c)

theorem getLsbD_written (old rw w1c v : W64) {i : Nat} (hi : i < 64) : (written old rw w1c v).getLsbD i =
    ((if rw.getLsbD i then v.getLsbD i else old.getLsbD i) && !(w1c.getLsbD i && v.getLsbD i)) := by
  simp only [written, BitVec.getLsbD_and, BitVec.getLsbD_or, BitVec.getLsbD_not, hi, decide_true, Bool.true_and]
  cases rw.getLsbD i <;> simp [Bool.and_comm]

/-- A word is what a write leaves if it is so bit by bit, for masks with the bits `p` and `q`. -/
theorem eq_written {old new rw w1c v : W64} (p q : Nat → Bool) (hrw : ∀ i : Fin 64, rw.getLsbD i.val = p i.val)
    (hw1c : ∀ i : Fin 64, w1c.getLsbD i.val = q i.val)
    (h : ∀ i, i < 64 → new.getLsbD i = ((if p i then v.getLsbD i else old.getLsbD i) && !(q i && v.getLsbD i))) : new = written old rw w1c v := by
  refine BitVec.eq_of_getLsbD_eq fun i hi => ?_
  rw [getLsbD_written _ _ _ _ hi, hrw ⟨i, hi⟩, hw1c ⟨i, hi⟩]
  exact h i hi

theorem written_none (old v : W64) : written old 0 0 v = old := by
  refine BitVec.eq_of_getLsbD_eq fun i hi => ?_
  simp [getLsbD_written _ _ _ _ hi]

/-- Four flags in the low bits of a word. -/
theorem testBit_flags (a b c d : Bool) {i : Nat} (hi : i < 4) :
    (d.toNat * 8 + c.toNat * 4 + b.toNat * 2 + a.toNat).testBit i = [a, b, c, d].getD i false := by
  have h : ∀ (a b c d : Bool) (i : Fin 4), (d.toNat * 8 + c.toNat * 4 + b.toNat * 2 + a.toNat).testBit i.val = [a, b, c, d].getD i.val false := by decide
  exact h a b c d ⟨i, hi⟩

theorem flags_lt (a b c d : Bool) : d.toNat * 8 + c.toNat * 4 + b.toNat * 2 + a.toNat < 2 ^ 4 := by
  have h : ∀ a b c d : Bool, d.toNat * 8 + c.toNat * 4 + b.toNat * 2 + a.toNat < 2 ^ 4 := by decide
  exact h a b c d

/-- `WSTAT` keeps its four W1C flags below its counts. -/
theorem wstat_fields (x : Warp) : wstat x =
    BitVec.ofNat 64 (((x.hw.length + x.sp.length) * 2 ^ 20 + x.log.length * 2 ^ 14 + x.run * 2 ^ 4) * 2 ^ 4 +
      (x.spl.toNat * 8 + x.fov.toNat * 4 + x.pwb.toNat * 2 + x.psn.toNat)) := by
  unfold wstat
  congr 1
  omega

/-- `TSTAT` keeps its W1C flags below its other fields. -/
theorem CopyState.status_fields (c : CopyState) : c.status =
    BitVec.ofNat 64 ((c.skip.toNat * 2 ^ 26 + c.stl.toNat * 2 ^ 25 + c.sq.toNat * 2 ^ 24 + c.code * 2 ^ 18) * 2 ^ 6 + c.flags.toNat) := by
  unfold CopyState.status
  congr 1
  omega

section
variable (s : State) (w : Nat) (x : Warp) (v : W64)

theorem sysReg_write_wstat : s.sysReg w (x.writeReg 0x000 v) 0x000 = written (s.sysReg w x 0x000) 0 0xF v := by
  refine eq_written (fun _ => false) (fun i => i < 4) (by decide) (by decide) fun i hi => ?_
  simp only [State.sysReg, Warp.writeReg, wstat_fields, getLsbD_fields (2 ^ 4) 4 rfl (flags_lt _ _ _ _) hi]
  by_cases h : i < 4
  · simp only [h, if_true, testBit_flags]
    interval_cases i <;> simp
  · simp [h]

theorem sysReg_write_prio (hp : x.prio < 16) : s.sysReg w (x.writeReg 0x001 v) 0x001 = written (s.sysReg w x 0x001) 0xF 0 v := by
  refine eq_written (fun i => i < 4) (fun _ => false) (by decide) (by decide) fun i hi => ?_
  have hb : bits v 0 4 < 2 ^ 4 := Nat.mod_lt _ (by decide)
  simp only [State.sysReg, Warp.writeReg]
  rw [getLsbD_fields 16 4 rfl hb hi, getLsbD_fields 16 4 rfl hp hi]
  by_cases h : i < 4
  · simp only [bits, Nat.testBit_mod_two_pow, Nat.shiftRight_zero, BitVec.testBit_toNat, h, decide_true, Bool.true_and, if_true]
    simp
  · simp [h]

/-- The arm bit and the deadline of the timer. -/
theorem sysReg_write_timer : s.sysReg w (x.writeReg 0x021 v) 0x021 = written (s.sysReg w x 0x021) 0xFFFF_FFFF_FFFF_FFFF 0 v := by
  refine eq_written (fun _ => true) (fun _ => false) (by decide) (by decide) fun i hi => ?_
  simp only [State.sysReg, Warp.writeReg, getLsbD_fields (2 ^ 63) 63 rfl (BitVec.isLt _) hi, BitVec.testBit_toNat, Nat.testBit_bool_toNat]
  by_cases h : i < 63
  · simp [h]
  · obtain rfl : i = 63 := by omega
    simp

theorem sysReg_write_trapVectors : s.sysReg w (x.writeReg 0x022 v) 0x022 = written (s.sysReg w x 0x022) 0x01FF_FFFF_FFFF_FF0F 0 v := by
  refine eq_written (fun i => i < 4 ∨ (8 ≤ i ∧ i < 57)) (fun _ => false) (by decide) (by decide) fun i hi => ?_
  have small : ∀ q : BitVec 4, q.toNat < 256 := fun q => Nat.lt_trans q.isLt (by decide)
  simp only [State.sysReg, Warp.writeReg]
  rw [getLsbD_fields 256 8 rfl (small _) hi, getLsbD_fields 256 8 rfl (small _) hi]
  simp only [BitVec.testBit_toNat, BitVec.getLsbD_extractLsb', BitVec.getLsbD_setWidth]
  rcases (by omega : i < 4 ∨ (4 ≤ i ∧ i < 8) ∨ (8 ≤ i ∧ i < 57) ∨ 57 ≤ i) with h | ⟨h, h'⟩ | ⟨h, h'⟩ | h
  · simp [h, Nat.lt_trans h (by decide : 4 < 8)]
  · simp [h', Nat.not_lt.2 h, Nat.not_le.2 h', BitVec.getLsbD_of_ge _ _ h]
  · simp [h, h', Nat.not_lt.2 h, (by omega : i - 8 < 49), Nat.add_sub_cancel' h]
  · have h4 : ¬ i < 4 := by omega
    have h8 : ¬ i < 8 := by omega
    have hb : ¬ i - 8 < 49 := by omega
    simp [h4, h8, hb, Nat.not_lt.2 h, BitVec.getLsbD_of_ge x.trap.tvBase (i - 8) (Nat.not_lt.1 hb)]

theorem sysReg_write_trapReturn : s.sysReg w (x.writeReg 0x024 v) 0x024 = written (s.sysReg w x 0x024) 0xFF7F_FFFF_FFFF_FFFF 0 v := by
  refine eq_written (fun i => i ≠ 55) (fun _ => false) (by decide) (by decide) fun i hi => ?_
  have small : ∀ q : BitVec 55, q.toNat < 2 ^ 56 := fun q => Nat.lt_trans q.isLt (by decide)
  simp only [State.sysReg, Warp.writeReg]
  rw [getLsbD_fields (2 ^ 56) 56 rfl (small _) hi, getLsbD_fields (2 ^ 56) 56 rfl (small _) hi]
  simp only [BitVec.testBit_toNat, BitVec.getLsbD_extractLsb', BitVec.getLsbD_setWidth]
  rcases (by omega : i < 55 ∨ i = 55 ∨ 56 ≤ i) with h | rfl | h
  · simp [h, Nat.lt_succ_of_lt h, Nat.ne_of_lt h]
  · simp
  · simp [Nat.not_lt.2 h, Nat.ne_of_gt h, (by omega : i - 56 < 8), Nat.add_sub_cancel' h]

theorem sysReg_write_fpctl : s.sysReg w (x.writeReg 0x030 v) 0x030 = written (s.sysReg w x 0x030) 0x8160 0x1F v := by
  refine BitVec.eq_of_getLsbD_eq fun i hi => ?_
  have apart : ∀ i : Fin 64, ((0x8160#64).getLsbD i.val && (0x1F#64).getLsbD i.val) = false := by decide
  rw [getLsbD_written _ _ _ _ hi]
  simp only [State.sysReg, Warp.writeReg, stored, BitVec.getLsbD_and, BitVec.getLsbD_or, BitVec.getLsbD_not, hi, decide_true, Bool.true_and]
  cases hrw : (0x8160#64).getLsbD i with
  | true => simp [show (0x1F#64).getLsbD i = false by simpa [hrw] using apart ⟨i, hi⟩]
  | false => simp [Bool.and_comm]

theorem sysReg_write_copyStatus : s.sysReg w (x.writeReg 0x041 v) 0x041 = written (s.sysReg w x 0x041) 0 0x3F v := by
  refine eq_written (fun _ => false) (fun i => i < 6) (by decide) (by decide) fun i hi => ?_
  simp only [State.sysReg, Warp.writeReg, CopyState.status_fields, getLsbD_fields (2 ^ 6) 6 rfl (BitVec.isLt _) hi, BitVec.testBit_toNat]
  by_cases h : i < 6 <;> simp [h]

theorem sysReg_write_mxctl : s.sysReg w (x.writeReg 0x070 v) 0x070 = written (s.sysReg w x 0x070) 0xFFFF_0001 0 v := by
  refine eq_written (fun i => i = 0 ∨ (16 ≤ i ∧ i < 32)) (fun _ => false) (by decide) (by decide) fun i hi => ?_
  have small : ∀ b : Bool, b.toNat < 2 ^ 16 := by decide
  simp only [State.sysReg, Warp.writeReg, getLsbD_fields (2 ^ 16) 16 rfl (small _) hi, BitVec.testBit_toNat, Nat.testBit_bool_toNat, BitVec.getLsbD_extractLsb']
  rcases (by omega : i = 0 ∨ (1 ≤ i ∧ i < 16) ∨ (16 ≤ i ∧ i < 32) ∨ 32 ≤ i) with rfl | ⟨h, h'⟩ | ⟨h, h'⟩ | h
  · simp
  · simp [h', Nat.ne_of_gt h, Nat.not_le.2 h']
  · simp [h, h', Nat.not_lt.2 h, (by omega : i - 16 < 16), Nat.add_sub_cancel' h]
  · have h0 : i ≠ 0 := by omega
    have h16 : ¬ i < 16 := by omega
    have hf : ¬ i - 16 < 16 := by omega
    simp [h0, h16, hf, Nat.not_lt.2 h, BitVec.getLsbD_of_ge x.mx.eft (i - 16) (Nat.not_lt.1 hf)]

theorem sysReg_write_mxstat : s.sysReg w (x.writeReg 0x074 v) 0x074 = written (s.sysReg w x 0x074) 0 0xFFE v := by
  refine BitVec.eq_of_getLsbD_eq fun i hi => ?_
  rw [getLsbD_written _ _ _ _ hi]
  simp [State.sysReg, Warp.writeReg, hi, Bool.and_comm]

end

/-- The registers of a warp with the bits that a `setsr` writes, and those that it clears. -/
def warpRegAccess : List (Nat × W64 × W64) :=
  [(0x000, 0, 0xF), (0x001, 0xF, 0), (0x002, 0, 0), (0x011, 0, 0), (0x012, 0, 0), (0x013, 0, 0), (0x014, 0, 0),
    (0x021, 0xFFFF_FFFF_FFFF_FFFF, 0), (0x022, 0x01FF_FFFF_FFFF_FF0F, 0), (0x023, 0, 0), (0x024, 0xFF7F_FFFF_FFFF_FFFF, 0), (0x025, 0, 0), (0x026, 0, 0),
    (0x030, 0x8160, 0x1F), (0x040, 0, 0), (0x041, 0, 0x3F), (0x050, 0, 0), (0x060, 0, 0), (0x061, 0, 0), (0x062, 0, 0), (0x063, 0, 0), (0x064, 0, 0),
    (0x070, 0xFFFF_0001, 0), (0x074, 0, 0xFFE), (0x081, 0, 0)]

/-- A write of a register of the warp changes its value under its access types (R8). -/
theorem sysReg_writeReg (s : State) (w : Nat) (x : Warp) (v : W64) (hp : x.prio < 16) :
    ∀ r ∈ warpRegAccess, s.sysReg w (x.writeReg r.1 v) r.1 = written (s.sysReg w x r.1) r.2.1 r.2.2 v := by
  have fixed : ∀ n, x.writeReg n v = x → s.sysReg w (x.writeReg n v) n = written (s.sysReg w x n) 0 0 v := by
    intro n h
    rw [h, written_none]
  simp only [warpRegAccess, List.forall_mem_cons]
  exact ⟨sysReg_write_wstat s w x v, sysReg_write_prio s w x v hp, fixed 0x002 rfl, fixed 0x011 rfl, fixed 0x012 rfl, fixed 0x013 rfl, fixed 0x014 rfl,
    sysReg_write_timer s w x v, sysReg_write_trapVectors s w x v, fixed 0x023 rfl, sysReg_write_trapReturn s w x v, fixed 0x025 rfl, fixed 0x026 rfl,
    sysReg_write_fpctl s w x v, fixed 0x040 rfl, sysReg_write_copyStatus s w x v, fixed 0x050 rfl, fixed 0x060 rfl, fixed 0x061 rfl, fixed 0x062 rfl,
    fixed 0x063 rfl, fixed 0x064 rfl, sysReg_write_mxctl s w x v, sysReg_write_mxstat s w x v, fixed 0x081 rfl, fun _ h => absurd h List.not_mem_nil⟩

/-- A `setsr` of `MXBUD` writes the low half-word of its core's budget. -/
theorem writeReg_mxbud (s : State) (w : Nat) (f : Frame) (v : W64) :
    let t := (s.writeReg w 0x072 v).retire w f true
    t.mem = s.mem ∧ (t.core (coreOf w)).mxbud = ((s.core (coreOf w)).mxbud &&& ~~~0xFFFF) ||| (v &&& 0xFFFF) := by
  refine ⟨State.retire_mem .., ?_⟩
  rw [State.retire_mxbud, State.writeReg, State.core_modCore_self]
  rfl

/-- A write that changes one register of the die still stands when the instruction has retired. -/
theorem retire_writeReg_die {s : State} {w n : Nat} {v : W64} {g : Die → Die} (h : s.writeReg w n v = s.modDie (dieOf (coreOf w)) g) (f : Frame) :
    let t := (s.writeReg w n v).retire w f true
    t.mem = s.mem ∧ t.die (dieOf (coreOf w)) = g (s.die (dieOf (coreOf w))) := by
  rw [h]
  exact ⟨State.retire_mem .., (State.retire_die ..).trans (State.die_modDie_self ..)⟩

/-- Settles O17: `getsr` writes its destination, `setsr` the register that it names, and the value of each register of a warp by its fields. -/
theorem specialRegisters : Obligations.SpecialRegisters := by
  refine ⟨fun f s x e sh hact => ⟨fun h => h.getsr hact, fun v hv h => ⟨?_, ?_, ?_, ?_, ?_, ?_⟩⟩,
    fun s w x v hp => ⟨fun n rw w1c hm => sysReg_writeReg s w x v hp _ hm, rfl⟩⟩
  · exact h.setsr_passes hact hv
  · rintro (hn : Form.srNum f = 0x000)
    obtain ⟨t, ht, hw, hm, ho, hk⟩ := h.setsr_warp hact hv (by rw [hn]; decide)
    exact ⟨t, _, ht, hw, hm, ho, hk, x.afterSetsr_still s e sh f v⟩
  · rintro (hn : Form.srNum f = 0x072)
    exact ⟨_, hn ▸ h.exec_setsr hact hv, writeReg_mxbud (s.opened x e sh f) s.cur f v⟩
  · rintro (hn : Form.srNum f = 0x110)
    simpa only [hn, Warp.writeReg_callwin] using h.setsr_passes hact hv (by rw [hn]; decide)
  · rintro (hn : Form.srNum f = 0x115)
    obtain ⟨hmem, hdie⟩ := retire_writeReg_die ((s.opened x e sh f).writeReg_migpol s.cur v) f
    exact ⟨_, hn ▸ h.exec_setsr hact hv, hmem, congrArg Die.migpol hdie⟩
  · rintro (hn : Form.srNum f = 0x116)
    obtain ⟨hmem, hdie⟩ := retire_writeReg_die ((s.opened x e sh f).writeReg_migfrm s.cur v) f
    exact ⟨_, hn ▸ h.exec_setsr hact hv, hmem, congrArg Die.migfrm hdie⟩

end Sys2Proof.Machine
end

section
/-! PROOFS. What an instruction waits for at issue, and what one without active lanes leaves. -/

namespace Sys2Proof.Machine

/-! ## Every encoded instruction is an issue -/

/-- What an instruction answers is the issue of a body that acts only where the guard holds in some lane (R54, R55). -/
def ActsOnce (i : Instr) (s : State) (o : Out) : Prop := ∃ body, o = s.issueOnce i body

section
variable {s : State} {i : Instr}

theorem State.issueOnce_actsOnce {body : Issue → State → Act} : ActsOnce i s (s.issueOnce i body) := ⟨_, rfl⟩
theorem State.alu_actsOnce {wa wb wc wd signed na nb nc : Bool} {g : Issue → W64 → W64 → W64 → W64} {u : W64 → W64} :
    ActsOnce i s (s.alu i wa wb wc wd signed na nb nc g u) := ⟨_, rfl⟩
theorem State.intOp_actsOnce {f : Frame} {nb nc sat : Bool} {g : Int → Int → Int → Int} : ActsOnce i s (s.intOp i f nb nc sat g) := by
  unfold State.intOp; exact State.alu_actsOnce
theorem State.carryOp_actsOnce {g : W32 → W32 → Bool → W32 × Bool} : ActsOnce i s (s.carryOp i g) := ⟨_, rfl⟩
theorem State.dotOp_actsOnce {f : Frame} {n : Nat} {signed : Bool} : ActsOnce i s (s.dotOp i f n signed) := by
  unfold State.dotOp; exact State.alu_actsOnce
theorem State.shiftOp_actsOnce {f : Frame} {g : Nat → Nat → Nat → Int} : ActsOnce i s (s.shiftOp i f g) := by
  unfold State.shiftOp; exact State.alu_actsOnce
theorem State.logicOp_actsOnce {f : Frame} {g : W64 → W64 → W64} : ActsOnce i s (s.logicOp i f g) := by
  unfold State.logicOp; exact State.alu_actsOnce
theorem State.countOp_actsOnce {f : Frame} {g : Nat → W64 → Nat} : ActsOnce i s (s.countOp i f g) := by
  unfold State.countOp; exact State.alu_actsOnce
theorem State.cmpOp_actsOnce {wide : Bool} : ActsOnce i s (s.cmpOp i wide) := ⟨_, rfl⟩
theorem State.extOp_actsOnce {f : Frame} {signed : Bool} : ActsOnce i s (s.extOp i f signed) := by
  unfold State.extOp; exact State.alu_actsOnce
theorem State.fpOp_actsOnce {pk : Bool} {n : Nat} {g : Rm → Bool → W32 → W32 → W32 → Nat × Exc} : ActsOnce i s (s.fpOp i pk n g) := ⟨_, rfl⟩
theorem State.special_actsOnce {g : Sfn} : ActsOnce i s (s.special i g) := ⟨_, rfl⟩
theorem State.pageOp_actsOnce {g : Issue → Nat → State → W64 × State} : ActsOnce i s (s.pageOp i g) := ⟨_, rfl⟩
theorem State.fence_actsOnce {kind : Nat} : ActsOnce i s (s.fence i kind) := ⟨_, rfl⟩
theorem State.mxIssue_actsOnce {na nb nc : Nat} : ActsOnce i s (s.mxIssue i na nb nc) := ⟨_, rfl⟩
theorem State.mfence_actsOnce {all : Bool} : ActsOnce i s (s.mfence i all) := ⟨_, rfl⟩
theorem State.rwait_actsOnce {full : Bool} : ActsOnce i s (s.rwait i full) := ⟨_, rfl⟩
theorem State.ringSend_actsOnce {mx : Bool} {tagged : Issue → Bool} {op : Issue → RingOp} : ActsOnce i s (s.ringSend i mx tagged op) := ⟨_, rfl⟩
theorem State.spawnOp_actsOnce {own : Bool} {n : Nat} : ActsOnce i s (s.spawnOp i own n) := ⟨_, rfl⟩
theorem State.cancelOp_actsOnce {ending : Bool} : ActsOnce i s (s.cancelOp i ending) := ⟨_, rfl⟩

end

theorem exec_actsOnce {i : Instr} (s : State) (h : i.frame? ≠ none)
    (hi : ∀ g, i ≠ .bra g ∧ i ≠ .brx g ∧ i ≠ .call g ∧ i ≠ .callx g ∧ i ≠ .ret g ∧ i ≠ .exit g ∧ i ≠ .nop g) : ActsOnce i s (exec i s) := by
  cases i
  case iadd f => exact exec_iadd f s ▸ State.intOp_actsOnce
  case isub f => exact exec_isub f s ▸ State.intOp_actsOnce
  case ineg f => exact exec_ineg f s ▸ State.intOp_actsOnce
  case iabs f => exact exec_iabs f s ▸ State.intOp_actsOnce
  case imin f => exact exec_imin f s ▸ State.intOp_actsOnce
  case imax f => exact exec_imax f s ▸ State.intOp_actsOnce
  case imul f => exact exec_imul f s ▸ State.intOp_actsOnce
  case imad f => exact exec_imad f s ▸ State.intOp_actsOnce
  case clampi f => exact exec_clampi f s ▸ State.intOp_actsOnce
  case iaddc f => exact exec_iaddc f s ▸ State.carryOp_actsOnce
  case isubb f => exact exec_isubb f s ▸ State.carryOp_actsOnce
  case imulhi f => exact exec_imulhi f s ▸ State.alu_actsOnce
  case imadw f => exact exec_imadw f s ▸ State.alu_actsOnce
  case isad f => rw [exec_isad]; unfold execIsad; exact State.alu_actsOnce
  case shf f => exact exec_shf f s ▸ State.alu_actsOnce
  case rot f => exact exec_rot f s ▸ State.alu_actsOnce
  case lop3 f => exact exec_lop3 f s ▸ State.alu_actsOnce
  case brev f => rw [exec_brev]; unfold execBrev; exact State.alu_actsOnce
  case bfx f => exact exec_bfx f s ▸ State.alu_actsOnce
  case bfi f => exact exec_bfi f s ▸ State.alu_actsOnce
  case prmt f => exact exec_prmt f s ▸ State.alu_actsOnce
  case mov f => rw [exec_mov]; unfold execMov; exact State.alu_actsOnce
  case movi f => rw [exec_movi]; unfold execMovi; exact State.alu_actsOnce
  case iadd64 f => rw [exec_iadd64]; unfold execIadd64; exact State.alu_actsOnce
  case dot4 f => exact exec_dot4 f s ▸ State.dotOp_actsOnce
  case dot8 f => exact exec_dot8 f s ▸ State.dotOp_actsOnce
  case shl f => exact exec_shl f s ▸ State.shiftOp_actsOnce
  case shr f => exact exec_shr f s ▸ State.shiftOp_actsOnce
  case sar f => exact exec_sar f s ▸ State.shiftOp_actsOnce
  case and f => exact exec_and f s ▸ State.logicOp_actsOnce
  case or f => exact exec_or f s ▸ State.logicOp_actsOnce
  case xor f => exact exec_xor f s ▸ State.logicOp_actsOnce
  case popc f => exact exec_popc f s ▸ State.countOp_actsOnce
  case clz f => exact exec_clz f s ▸ State.countOp_actsOnce
  case ctz f => exact exec_ctz f s ▸ State.countOp_actsOnce
  case icmp f => exact exec_icmp f s ▸ State.cmpOp_actsOnce
  case icmp64 f => exact exec_icmp64 f s ▸ State.cmpOp_actsOnce
  case isel f => exact exec_isel f s ▸ State.issueOnce_actsOnce
  case lea f => exact exec_lea f s ▸ State.issueOnce_actsOnce
  case fcmp f => exact exec_fcmp f s ▸ State.issueOnce_actsOnce
  case fclass f => exact exec_fclass f s ▸ State.issueOnce_actsOnce
  case bfma2 f => exact exec_bfma2 f s ▸ State.issueOnce_actsOnce
  case cvt f => exact exec_cvt f s ▸ State.issueOnce_actsOnce
  case cvtsr f => exact exec_cvtsr f s ▸ State.issueOnce_actsOnce
  case cvtpk f => exact exec_cvtpk f s ▸ State.issueOnce_actsOnce
  case cvtmx f => exact exec_cvtmx f s ▸ State.issueOnce_actsOnce
  case yield f => exact exec_yield f s ▸ State.issueOnce_actsOnce
  case setprio f => exact exec_setprio f s ▸ State.issueOnce_actsOnce
  case brk f => exact exec_brk f s ▸ State.issueOnce_actsOnce
  case waitRegs f => exact exec_waitRegs f s ▸ State.issueOnce_actsOnce
  case waitSt f => exact exec_waitSt f s ▸ State.issueOnce_actsOnce
  case waitAll f => exact exec_waitAll f s ▸ State.issueOnce_actsOnce
  case sleep f => exact exec_sleep f s ▸ State.issueOnce_actsOnce
  case waitaddr f => exact exec_waitaddr f s ▸ State.issueOnce_actsOnce
  case pset f => exact exec_pset f s ▸ State.issueOnce_actsOnce
  case plop f => exact exec_plop f s ▸ State.issueOnce_actsOnce
  case pmov f => exact exec_pmov f s ▸ State.issueOnce_actsOnce
  case shfl f => exact exec_shfl f s ▸ State.issueOnce_actsOnce
  case vote f => exact exec_vote f s ▸ State.issueOnce_actsOnce
  case redux f => exact exec_redux f s ▸ State.issueOnce_actsOnce
  case scan f => exact exec_scan f s ▸ State.issueOnce_actsOnce
  case matchLanes f => exact exec_matchLanes f s ▸ State.issueOnce_actsOnce
  case lanes f => exact exec_lanes f s ▸ State.issueOnce_actsOnce
  case syscall f => exact exec_syscall f s ▸ State.issueOnce_actsOnce
  case tmsetRel f => exact exec_tmsetRel f s ▸ State.issueOnce_actsOnce
  case tmsetAbs f => exact exec_tmsetAbs f s ▸ State.issueOnce_actsOnce
  case tmsetOff f => exact exec_tmsetOff f s ▸ State.issueOnce_actsOnce
  case trapret f => exact exec_trapret f s ▸ State.issueOnce_actsOnce
  case oplogRetry f => exact exec_oplogRetry f s ▸ State.issueOnce_actsOnce
  case oplogKill f => exact exec_oplogKill f s ▸ State.issueOnce_actsOnce
  case psnclr f => exact exec_psnclr f s ▸ State.issueOnce_actsOnce
  case psnclrReg f => exact exec_psnclrReg f s ▸ State.issueOnce_actsOnce
  case getsr f => exact exec_getsr f s ▸ State.issueOnce_actsOnce
  case setsr f => exact exec_setsr f s ▸ State.issueOnce_actsOnce
  case tlbinvWrite f => exact exec_tlbinvWrite f s ▸ State.issueOnce_actsOnce
  case errinjWrite f => exact exec_errinjWrite f s ▸ State.issueOnce_actsOnce
  case nodeqSt f => exact exec_nodeqSt f s ▸ State.issueOnce_actsOnce
  case ldl f => exact exec_ldl f s ▸ State.issueOnce_actsOnce
  case stl f => exact exec_stl f s ▸ State.issueOnce_actsOnce
  case lds f => exact exec_lds f s ▸ State.issueOnce_actsOnce
  case sts f => exact exec_sts f s ▸ State.issueOnce_actsOnce
  case ldp f => exact exec_ldp f s ▸ State.issueOnce_actsOnce
  case ldc f => exact exec_ldc f s ▸ State.issueOnce_actsOnce
  case stc f => exact exec_stc f s ▸ State.issueOnce_actsOnce
  case ldo f => exact exec_ldo f s ▸ State.issueOnce_actsOnce
  case sto f => exact exec_sto f s ▸ State.issueOnce_actsOnce
  case ldg f => exact exec_ldg f s ▸ State.issueOnce_actsOnce
  case stg f => exact exec_stg f s ▸ State.issueOnce_actsOnce
  case prfg f => exact exec_prfg f s ▸ State.issueOnce_actsOnce
  case ldh f => exact exec_ldh f s ▸ State.issueOnce_actsOnce
  case sth f => exact exec_sth f s ▸ State.issueOnce_actsOnce
  case migw f => exact exec_migw f s ▸ State.issueOnce_actsOnce
  case atoms f => exact exec_atoms f s ▸ State.issueOnce_actsOnce
  case atomc f => exact exec_atomc f s ▸ State.issueOnce_actsOnce
  case atomo f => exact exec_atomo f s ▸ State.issueOnce_actsOnce
  case atomg f => exact exec_atomg f s ▸ State.issueOnce_actsOnce
  case redg f => exact exec_redg f s ▸ State.issueOnce_actsOnce
  case redgDet f => exact exec_redgDet f s ▸ State.issueOnce_actsOnce
  case atomh f => exact exec_atomh f s ▸ State.issueOnce_actsOnce
  case detcommit f => exact exec_detcommit f s ▸ State.issueOnce_actsOnce
  case cpy f => exact exec_cpy f s ▸ State.issueOnce_actsOnce
  case cpyt f => exact exec_cpyt f s ▸ State.issueOnce_actsOnce
  case cpym f => exact exec_cpym f s ▸ State.issueOnce_actsOnce
  case cpyr f => exact exec_cpyr f s ▸ State.issueOnce_actsOnce
  case cpyq f => exact exec_cpyq f s ▸ State.issueOnce_actsOnce
  case cpyx f => exact exec_cpyx f s ▸ State.issueOnce_actsOnce
  case barsync f => exact exec_barsync f s ▸ State.issueOnce_actsOnce
  case bararr f => exact exec_bararr f s ▸ State.issueOnce_actsOnce
  case barwait f => exact exec_barwait f s ▸ State.issueOnce_actsOnce
  case rget f => exact exec_rget f s ▸ State.issueOnce_actsOnce
  case launch f => exact exec_launch f s ▸ State.issueOnce_actsOnce
  case scnew f => exact exec_scnew f s ▸ State.issueOnce_actsOnce
  case cchk f => exact exec_cchk f s ▸ State.issueOnce_actsOnce
  case cchkT f => exact exec_cchkT f s ▸ State.issueOnce_actsOnce
  case preempt f => exact exec_preempt f s ▸ State.issueOnce_actsOnce
  case sext f => exact exec_sext f s ▸ State.extOp_actsOnce
  case zext f => exact exec_zext f s ▸ State.extOp_actsOnce
  case fadd f => exact exec_fadd f s ▸ State.fpOp_actsOnce
  case fsub f => exact exec_fsub f s ▸ State.fpOp_actsOnce
  case fmul f => exact exec_fmul f s ▸ State.fpOp_actsOnce
  case fma f => exact exec_fma f s ▸ State.fpOp_actsOnce
  case fmin f => exact exec_fmin f s ▸ State.fpOp_actsOnce
  case fmax f => exact exec_fmax f s ▸ State.fpOp_actsOnce
  case frnd f => exact exec_frnd f s ▸ State.fpOp_actsOnce
  case hadd2 f => rw [exec_hadd2]; unfold execHadd2; exact State.fpOp_actsOnce
  case hmul2 f => rw [exec_hmul2]; unfold execHmul2; exact State.fpOp_actsOnce
  case hfma2 f => rw [exec_hfma2]; unfold execHfma2; exact State.fpOp_actsOnce
  case hmnx2 f => rw [exec_hmnx2]; unfold execHmnx2; exact State.fpOp_actsOnce
  case rcp f => exact exec_rcp f s ▸ State.special_actsOnce
  case rsq f => exact exec_rsq f s ▸ State.special_actsOnce
  case sqrt f => exact exec_sqrt f s ▸ State.special_actsOnce
  case ex2 f => exact exec_ex2 f s ▸ State.special_actsOnce
  case lg2 f => exact exec_lg2 f s ▸ State.special_actsOnce
  case sin f => exact exec_sin f s ▸ State.special_actsOnce
  case cos f => exact exec_cos f s ▸ State.special_actsOnce
  case tanh f => exact exec_tanh f s ▸ State.special_actsOnce
  case sigm f => exact exec_sigm f s ▸ State.special_actsOnce
  case erf f => exact exec_erf f s ▸ State.special_actsOnce
  case nodeqMap f => exact exec_nodeqMap f s ▸ State.pageOp_actsOnce
  case pmig f => exact exec_pmig f s ▸ State.pageOp_actsOnce
  case pstat f => exact exec_pstat f s ▸ State.pageOp_actsOnce
  case phot f => exact exec_phot f s ▸ State.pageOp_actsOnce
  case pabort f => exact exec_pabort f s ▸ State.pageOp_actsOnce
  case fenceAr f => exact exec_fenceAr f s ▸ State.fence_actsOnce
  case fenceAcq f => exact exec_fenceAcq f s ▸ State.fence_actsOnce
  case fenceRel f => exact exec_fenceRel f s ▸ State.fence_actsOnce
  case fencePath f => exact exec_fencePath f s ▸ State.fence_actsOnce
  case mzero f => exact exec_mzero f s ▸ State.mxIssue_actsOnce
  case mma f => exact exec_mma f s ▸ State.mxIssue_actsOnce
  case madd f => exact exec_madd f s ▸ State.mxIssue_actsOnce
  case mcopy f => exact exec_mcopy f s ▸ State.mxIssue_actsOnce
  case mscl f => exact exec_mscl f s ▸ State.mxIssue_actsOnce
  case mdrainS f => exact exec_mdrainS f s ▸ State.mxIssue_actsOnce
  case mdrainR f => exact exec_mdrainR f s ▸ State.mxIssue_actsOnce
  case mfill f => exact exec_mfill f s ▸ State.mxIssue_actsOnce
  case mspill f => exact exec_mspill f s ▸ State.mxIssue_actsOnce
  case mchk f => exact exec_mchk f s ▸ State.mxIssue_actsOnce
  case mchkFix f => exact exec_mchkFix f s ▸ State.mxIssue_actsOnce
  case mstat f => exact exec_mstat f s ▸ State.mxIssue_actsOnce
  case mfenceAll f => exact exec_mfenceAll f s ▸ State.mfence_actsOnce
  case mfenceRd f => exact exec_mfenceRd f s ▸ State.mfence_actsOnce
  case rwaitE f => exact exec_rwaitE f s ▸ State.rwait_actsOnce
  case rwaitF f => exact exec_rwaitF f s ▸ State.rwait_actsOnce
  case rput f => exact exec_rput f s ▸ State.ringSend_actsOnce
  case rfree f => exact exec_rfree f s ▸ State.ringSend_actsOnce
  case rfreeInit f => exact exec_rfreeInit f s ▸ State.ringSend_actsOnce
  case spawn f => exact exec_spawn f s ▸ State.spawnOp_actsOnce
  case spawnx f => exact exec_spawnx f s ▸ State.spawnOp_actsOnce
  case cancel f => exact exec_cancel f s ▸ State.cancelOp_actsOnce
  case cancelEnd f => exact exec_cancelEnd f s ▸ State.cancelOp_actsOnce
  case bra f | brx f | call f | callx f | ret f | exit f | nop f => simp at hi
  all_goals exact absurd rfl h

/-- Every encoded instruction is the issue of a body (R68). -/
theorem exec_issues {i : Instr} (s : State) (h : i.frame? ≠ none) : ∃ body, exec i s = s.issue i body := by
  by_cases hi : ∀ g, i ≠ .bra g ∧ i ≠ .brx g ∧ i ≠ .call g ∧ i ≠ .callx g ∧ i ≠ .ret g ∧ i ≠ .exit g ∧ i ≠ .nop g
  · obtain ⟨_, hb⟩ := exec_actsOnce s h hi
    exact ⟨_, hb⟩
  · obtain ⟨g, hg⟩ := not_forall.1 hi
    have hg : i = .bra g ∨ i = .brx g ∨ i = .call g ∨ i = .callx g ∨ i = .ret g ∨ i = .exit g ∨ i = .nop g := by tauto
    rcases hg with rfl | rfl | rfl | rfl | rfl | rfl | rfl
    · exact ⟨_, exec_bra g s⟩
    · exact ⟨_, exec_brx g s⟩
    · exact ⟨_, exec_call g s⟩
    · exact ⟨_, exec_callx g s⟩
    · exact ⟨_, exec_ret g s⟩
    · exact ⟨_, exec_exit g s⟩
    · exact ⟨_, exec_nop g s⟩

theorem frame?_ne_none {i : Instr} {sh : Shape} {f : Frame} (h : i.shape = (sh, some f)) : i.frame? ≠ none := by
  simp [Instr.frame?, h]

/-! ## The waits and traps of issue (R29, R31, R33, R34, R63) -/

section
variable {s : State} {w : Nat} {x : Warp} {sh : Shape} {f : Frame} {act : Mask}

theorem Warp.tokenPending_iff (x : Warp) (wt : BitVec 8) :
    x.tokenPending wt = true ↔ ∃ i : Nat, i < 8 ∧ wt.getLsbD i = true ∧ x.copy.cnt.getD i 0 ≠ 0 := by
  simp [Warp.tokenPending]

theorem State.gate_token (h : x.tokenPending f.wt = true) : s.gate w x sh f act = some (.hold (.token f.wt)) := by
  rw [State.gate, if_pos h]

theorem State.gate_source (h : ¬ x.tokenPending f.wt = true) {r : Reg} {src : Src}
    (hr : (sh.reads f).find? (fun p => x.isEmpty p.1) = some (r, src)) :
    s.gate w x sh f act = some (if src.ep then .trap 8 (regInfo r) else .hold (.regs [r])) := by
  rw [State.gate, if_neg h, emptySource, hr]

theorem emptySource_none (h : ∀ p ∈ sh.reads f, x.isEmpty p.1 = false) : emptySource sh f x = none := by
  rw [emptySource, List.find?_eq_none]
  exact fun p hp => by simp [h p hp]

theorem State.gate_dest (h : ¬ x.tokenPending f.wt = true) (hs : ∀ p ∈ sh.reads f, x.isEmpty p.1 = false) {r : Reg}
    (hr : (sh.writes f).find? x.isEmpty = some r) : s.gate w x sh f act = some (.hold (.regs [r])) := by
  rw [State.gate, if_neg h, emptySource_none hs, hr]

/-- An instruction binds nothing whose destinations are bound, in the register file and not released. -/
theorem newBinds_nil (h : ∀ r ∈ sh.writes f, x.isBound r = true ∧ x.isSpilled r = false) (hf : ∀ r ∈ sh.writes f, frees sh f r = false) :
    newBinds sh f x act = [] := by
  unfold newBinds
  split
  · rfl
  · rw [List.filter_eq_nil_iff]
    intro r hr
    have hfr : (sh.releases f).any (·.1 == r) = false := hf r hr
    rw [(h r hr).1, (h r hr).2, hfr]
    decide

theorem State.gate_none (h : ¬ x.tokenPending f.wt = true) (hs : ∀ p ∈ sh.reads f, x.isEmpty p.1 = false ∧ x.isSpilled p.1 = false)
    (hd : ∀ r ∈ sh.writes f, x.isBound r = true ∧ x.isEmpty r = false ∧ x.isSpilled r = false) (hf : ∀ r ∈ sh.writes f, frees sh f r = false) :
    s.gate w x sh f act = none := by
  have hde : (sh.writes f).find? x.isEmpty = none := List.find?_eq_none.2 fun r hr => by simp [(hd r hr).2.1]
  have hss : (sh.reads f).find? (fun p => x.isSpilled p.1 && !p.2.lu) = none := List.find?_eq_none.2 fun p hp => by simp [(hs p hp).2]
  have hds : (sh.writes f).find? (fun r => act != 0 && x.isSpilled r && (sh.keeps || !wholeWrite r act) && !(sh.releases f).any (·.1 == r)) = none :=
    List.find?_eq_none.2 fun r hr => by simp [(hd r hr).2.2]
  rw [State.gate, if_neg h, emptySource_none fun p hp => (hs p hp).1, hde, hss, hds, newBinds_nil (fun r hr => ⟨(hd r hr).1, (hd r hr).2.2⟩) hf]

end

/-- Giving up the issue slot while waiting changes the warp and issue slots alone (R42). -/
theorem State.hold_only_warp {s : State} {x : Warp} (hw : s.warp? s.cur = some x) (wt : Wait) (n : Nat) :
    let t := (s.hold s.cur wt).modWarp s.cur fun q => { q with waitLen := n }
    OnlyWarp s t ∧ t.warp? s.cur = some { x with wait := some wt, kept := [], waitLen := n } := by
  have hh : (s.hold s.cur wt).warp? s.cur = some { x with wait := some wt, kept := [] } := by
    rw [State.hold, State.modWarp_eq hw, State.warp?, State.freeSlot_warps]
    exact State.warp?_setWarp_self ..
  intro t
  have ht : t = (s.hold s.cur wt).setWarp s.cur { x with wait := some wt, kept := [], waitLen := n } := State.modWarp_eq hh _
  rw [ht]
  refine ⟨⟨fun w h => ?_, fun c => ?_, ?_⟩, State.warp?_setWarp_self ..⟩
  · rw [State.warp?_setWarp_ne _ _ h, State.hold, State.modWarp_eq hw, State.warp?, State.freeSlot_warps]
    exact State.warp?_setWarp_ne _ _ h
  · rw [State.core_setWarp, State.hold, State.modWarp_eq hw]
    exact State.freeSlot_core ..
  · rw [State.hold, State.modWarp_eq hw, State.freeSlot_eq]
    rfl

/-- An instruction whose guard holds in no lane answers only that it has advanced (R55). -/
theorem Ready.exec_inactive {i : Instr} {s : State} {x : Warp} {e : Entry} {sh : Shape} {f : Frame} (h : Ready i s x e sh f) (hact : x.active f e = 0)
    (hi : ∀ g, i ≠ .bra g ∧ i ≠ .brx g ∧ i ≠ .call g ∧ i ≠ .callx g ∧ i ≠ .ret g ∧ i ≠ .exit g) :
    exec i s = .next ((s.opened x e sh f).retire s.cur f true) := by
  by_cases hn : ∃ g, i = .nop g
  · obtain ⟨g, rfl⟩ := hn
    rw [exec_nop, execNop, h.issue]
    rfl
  · have hi' : ∀ g, i ≠ .bra g ∧ i ≠ .brx g ∧ i ≠ .call g ∧ i ≠ .callx g ∧ i ≠ .ret g ∧ i ≠ .exit g ∧ i ≠ .nop g := by
      intro g
      obtain ⟨h1, h2, h3, h4, h5, h6⟩ := hi g
      exact ⟨h1, h2, h3, h4, h5, h6, fun e => hn ⟨g, e⟩⟩
    obtain ⟨body, hb⟩ := exec_actsOnce s (frame?_ne_none h.form) hi'
    rw [hb, h.issueOnce, if_pos hact]
    rfl

/-- Settles O14: the order of the gate, what a wait or trap at issue answers, and the bodies that act only under their guard. -/
theorem gatesHoldsAndGuards : Obligations.GatesHoldsAndGuards := by
  refine ⟨fun s w x sh f act => ⟨fun ht => ?_, fun ht r src hr => ?_, fun ht hs r hr => ?_, fun ht hs hd hf => ?_⟩,
    fun i s x e sh f hw hh hf => ⟨fun wt hg => ?_, fun code info hg => ?_⟩, fun i s x e sh f h hact hi => ?_⟩
  · exact State.gate_token ((x.tokenPending_iff f.wt).2 ht)
  · rw [State.gate_source (mt (x.tokenPending_iff f.wt).1 ht) hr]
    cases r <;> rfl
  · exact State.gate_dest (mt (x.tokenPending_iff f.wt).1 ht) hs hr
  · exact State.gate_none (mt (x.tokenPending_iff f.wt).1 ht) hs hd hf
  · obtain ⟨body, hb⟩ := exec_issues s (frame?_ne_none hf)
    exact ⟨_, hb.trans (State.issue_gate hw hh hf hg body), State.hold_only_warp hw wt _⟩
  · obtain ⟨body, hb⟩ := exec_issues s (frame?_ne_none hf)
    exact hb.trans (State.issue_gate hw hh hf hg body)
  · obtain ⟨hwarp, hmoved, honly, -, -⟩ := h.passes h.wrote
    refine ⟨_, _, h.exec_inactive hact hi, hwarp, hmoved, honly, ?_, fun n => ?_, fun n => ?_⟩
    · exact (Warp.retired_still ..).trans (Warp.opened_same ..).still
    · rw [Warp.lbind, Warp.retired_x]
      exact Warp.opened_lbind ..
    · rw [Warp.ubind, Warp.retired_k]
      exact Warp.opened_ubind ..

end Sys2Proof.Machine
end

section
/-! PROOFS. The checks of a head instruction in their order (R67, R68), and who may issue what (R43, R65, R174). -/

namespace Sys2Proof.Machine

/-! ## The opcode of a decoded instruction -/

theorem instrOf_op {op : BitVec 9} {f : Frame} {i : Instr} (h : instrOf op f = some i) : i.op = op := by
  refine BitVec.eq_of_toNat_eq ?_
  unfold instrOf at h
  split at h
  all_goals cases h
  all_goals
    next hop =>
      rw [hop]
      repeat' split
      all_goals rfl

theorem decodeWords_op {w0 w1 w2 w3 : W32} {i : Instr} (h : decodeWords w0 w1 w2 w3 = .ok i) : i.op = opField w0 := by
  unfold decodeWords at h
  split at h
  · cases h
  · split at h
    · next j hj => cases h; exact instrOf_op hj
    · cases h

/-! ## The checks in their order -/

section
variable {pc : BitVec 57} {x : Warp} {w0 w1 w2 w3 : W32}

theorem checkWords_straddles (h : 32 < pc.toNat % 32 + lenBytes w0) : checkWords pc x w0 w1 w2 w3 = .trap 3 0 := if_pos h

theorem checkWords_padForm (hl : pc.toNat % 32 + lenBytes w0 ≤ 32) (h : lenOf w0 = 3) (hw : w0 ≠ 3) : checkWords pc x w0 w1 w2 w3 = .trap 2 0 := by
  rw [checkWords, if_neg (Nat.not_lt.2 hl), decodeWords, if_pos h, if_neg hw]

theorem checkWords_unassigned (hl : pc.toNat % 32 + lenBytes w0 ≤ 32) (h : lenOf w0 ≠ 3) (hi : instrOf (opField w0) (frameOf (w1 ++ w0) w2 w3) = none) :
    checkWords pc x w0 w1 w2 w3 = .trap 1 ((opField w0).setWidth 64) := by
  rw [checkWords, if_neg (Nat.not_lt.2 hl), decodeWords, if_neg h, hi]

theorem checkWords_decoded (hl : pc.toNat % 32 + lenBytes w0 ≤ 32) {i : Instr} (hi : decodeWords w0 w1 w2 w3 = .ok i) :
    checkWords pc x w0 w1 w2 w3 = checkIssue i x := by
  rw [checkWords, if_neg (Nat.not_lt.2 hl), hi]

end

section
variable {i : Instr} {x : Warp} {sh : Shape} {f : Frame}

theorem checkIssue_privilege (h : i.permitted x.owner.priv x.mx.unchk = false) : checkIssue i x = .trap 4 (i.op.setWidth 64) := by
  simp [checkIssue, h]

theorem checkIssue_role (hp : i.permitted x.owner.priv x.mx.unchk = true) (h : ¬ ∀ r, i.role? = some r → x.role = r) :
    checkIssue i x = .trap 5 (i.op.setWidth 64) := by
  obtain ⟨r, hr⟩ := not_forall.1 h
  obtain ⟨hr, hne⟩ := Classical.not_imp.1 hr
  simp [checkIssue, hp, hr, Ne.symm hne]

/-- Steps 6 to 8 of R67: the field rules, the registers, the length of the run. -/
def checkFields (i : Instr) (x : Warp) (sh : Shape) (f : Frame) : Fetched :=
  if !WellFormed i || (f.wt != 0 && x.run != 0) then .trap 2 0
  else match beyondCounts sh f x with
    | some r => .trap 6 (regInfo r)
    | none => if 23 ≤ x.run && !f.eor then .trap 7 0 else .ok i

theorem checkIssue_past (hs : i.shape = (sh, some f)) (hp : i.permitted x.owner.priv x.mx.unchk = true) (hr : ∀ r, i.role? = some r → x.role = r) :
    checkIssue i x = checkFields i x sh f := by
  cases hi : i.role? with
  | none =>
    simp only [checkIssue, hs, hp, hi]
    rfl
  | some r =>
    simp only [checkIssue, hs, hp, hi, hr r hi, bne_self_eq_false]
    rfl

theorem checkFields_illegal (h : ¬ (WellFormed i = true ∧ (f.wt = 0 ∨ x.run = 0))) : checkFields i x sh f = .trap 2 0 := by
  refine if_pos ?_
  cases hw : WellFormed i with
  | false => rfl
  | true => simpa [hw, not_or] using h

theorem checkFields_legal (h : WellFormed i = true ∧ (f.wt = 0 ∨ x.run = 0)) : (!WellFormed i || (f.wt != 0 && x.run != 0)) = false := by
  rcases h with ⟨hw, hwt | hwt⟩ <;> simp [hw, hwt]

theorem checkFields_beyond (h : WellFormed i = true ∧ (f.wt = 0 ∨ x.run = 0)) {r : Reg} (hr : beyondCounts sh f x = some r) :
    checkFields i x sh f = .trap 6 (regInfo r) := by
  simp only [checkFields, checkFields_legal h, hr]
  rfl

theorem checkFields_long (h : WellFormed i = true ∧ (f.wt = 0 ∨ x.run = 0)) (hr : beyondCounts sh f x = none) (hrun : 23 ≤ x.run) (he : f.eor = false) :
    checkFields i x sh f = .trap 7 0 := by
  simp only [checkFields, checkFields_legal h, hr, hrun, he]
  rfl

end

/-! ## The fetch of a head that holds its slot -/

section
variable {s : State} {x : Warp} {en : Entry} {rest : List Entry}

/-- Nothing comes before the issue of the head: the step is what its fetch finds (R67, R185). -/
theorem step_of_fetch_trap (ha : s.agenda = []) (hw : s.warp? s.cur = some x) (hwait : x.wait = none) (hmove : x.moveDue = false)
    (hend : x.marks.ended = false) (hslot : s.holdsSlot s.cur = true) (hb : s.beforeIssue s.cur x = none) (hx : x.hw = en :: rest)
    {code : Nat} {info : W64} (hf : s.fetch s.cur x en.pc = .trap code info) : step s = .next (s.takeTrap s.cur code info en.pc) := by
  have hhead : s.issueHead s.cur = .state (s.takeTrap s.cur code info en.pc) := by
    simp only [State.issueHead, hw, hx, hf]
  have hturn : s.turnOf s.cur = some (.state (s.takeTrap s.cur code info en.pc)) := by
    simp only [State.turnOf, hw, hslot, hend, hwait, hmove, hb, hhead]
    rfl
  have : s.turn s.cur = some (.state (s.takeTrap s.cur code info en.pc)) := by
    simp only [State.turn, hw, hturn, hb]
    simp
  rw [step, ha]
  simp only [this]

theorem State.fetch_eq_checkWords {w : Nat} {pc : BitVec 57} {pte : W64} {place : Nat} (hleaf : s.codeWalk w x pc.toNat = .leaf pte place)
    (htier : pteTier pte ≠ 3) (hok : s.codeFault (coreOf w) (leafKey pte pc.toNat) = none) :
    s.fetch w x pc = let word := fun n => s.codeAt (coreOf w) (leafKey pte pc.toNat + 4 * n)
      checkWords pc x (word 0) (word 1) (word 2) (word 3) := by
  simp only [State.fetch, hleaf, htier, if_false, hok, State.codeWords, Nat.mul_zero, Nat.add_zero, Nat.mul_one, Nat.reduceMul]

end

/-! ## Privilege and role -/

theorem op_mma {i : Instr} (h : i.op = 0x181) : ∃ g, i = .mma g := by
  cases i
  case mma g => exact ⟨g, rfl⟩
  all_goals exact absurd h (of_decide_eq_false rfl)

theorem op_pabort_preempt {i : Instr} (h : i.op = 0x1E6 ∨ i.op = 0x1EA) : ∃ g, i = .preempt g ∨ i = .pabort g := by
  cases i
  case preempt g => exact ⟨g, .inl rfl⟩
  case pabort g => exact ⟨g, .inr rfl⟩
  all_goals exact absurd h (of_decide_eq_false rfl)

theorem op_getsr {i : Instr} (h : i.op = 0x0E5) : ∃ g, i = .getsr g := by
  cases i
  case getsr g => exact ⟨g, rfl⟩
  all_goals exact absurd h (of_decide_eq_false rfl)

theorem op_setsr {i : Instr} (h : i.op = 0x0E6) : ∃ g, i = .setsr g ∨ i = .tlbinvWrite g ∨ i = .errinjWrite g := by
  cases i
  case setsr g => exact ⟨g, .inl rfl⟩
  case tlbinvWrite g => exact ⟨g, .inr (.inl rfl)⟩
  case errinjWrite g => exact ⟨g, .inr (.inr rfl)⟩
  all_goals exact absurd h (of_decide_eq_false rfl)

/-- The opcodes of the privileged forms (R65, R174, R285). -/
def privilegedOps : List (BitVec 9) := [0x0E5, 0x0E6, 0x181, 0x1E6, 0x1EA]

theorem permitted_of_op {i : Instr} (h : i.op ∉ privilegedOps) (p u : Bool) : i.permitted p u = true := by
  unfold Instr.permitted
  split
  case h_8 => rfl
  all_goals exact absurd (of_decide_eq_true rfl) h

theorem permitted_privileged (i : Instr) (u : Bool) : i.permitted true u = true ∨ ∃ f, i = .mma f ∧ f.v = 3 ∧ u = false := by
  unfold Instr.permitted
  split
  case h_7 f =>
    by_cases hv : f.v = 3
    · cases u with
      | true => exact .inl (by simp)
      | false => exact .inr ⟨f, rfl, hv, rfl⟩
    · exact .inl (by simpa using .inl fun h => hv (BitVec.eq_of_toNat_eq h))
  all_goals exact .inl (by simp)

theorem role?_eq (i : Instr) : i.role? = if 0x160 ≤ i.op ∧ i.op ≤ 0x165 then some 2 else if 0x180 ≤ i.op ∧ i.op ≤ 0x18A then some 1 else none := by
  cases i <;> rfl

/-- A legal write of a system register names one that the manual lists; of the two writes with an opcode row of their own, theirs (R174). -/
theorem srNum_of_legal {i : Instr} (h : WellFormed i = true) :
    (∀ f, i = .getsr f ∨ i = .setsr f → Form.srNum f ∈ Form.srNumbers) ∧ (∀ f, i = .tlbinvWrite f → Form.srNum f = 0x112) ∧
      ∀ f, i = .errinjWrite f → Form.srNum f = 0x11B := by
  refine ⟨fun f hi => ?_, fun f hi => ?_, fun f hi => ?_⟩
  · rcases hi with rfl | rfl
    · have hok := Laws.Opcode.ok_of_legal (f := f) rfl h
      simp only [Instr.shape, Form.srOk, Bool.and_eq_true] at hok
      exact List.contains_iff_mem.1 hok.1.2.2
    · have hok := Laws.Opcode.ok_of_legal (f := f) rfl h
      simp only [Instr.shape, Form.setsr, Form.srOk, Bool.and_eq_true] at hok
      exact List.contains_iff_mem.1 hok.1.2.2
  · subst hi
    have hok := Laws.Opcode.ok_of_legal (f := f) rfl h
    simp only [Instr.shape, Form.setsr, Bool.and_eq_true, beq_iff_eq] at hok
    exact hok.2
  · subst hi
    have hok := Laws.Opcode.ok_of_legal (f := f) rfl h
    simp only [Instr.shape, Form.setsr, Bool.and_eq_true, beq_iff_eq] at hok
    exact hok.2

/-- Who may write the system register that an instruction without privilege names (R174). -/
theorem permitted_setsr {i : Instr} {sh : Shape} {f : Frame} (hs : i.shape = (sh, some f)) (h : WellFormed i = true) (hop : i.op = 0x0E6) (u : Bool) :
    i.permitted false u = decide (f.immf 0 12 < 0x100) := by
  obtain ⟨hlisted, htlb, herr⟩ := srNum_of_legal h
  obtain ⟨g, rfl | rfl | rfl⟩ := op_setsr hop
  · obtain rfl : g = f := by injection hs with _ hf; injection hf
    change _ = decide (Form.srNum g < 0x100)
    simp [Instr.permitted, hlisted g (.inr rfl)]
  · obtain rfl : g = f := by injection hs with _ hf; injection hf
    have hn : g.immf 0 12 = 0x112 := htlb g rfl
    simp [Instr.permitted, hn]
  · obtain rfl : g = f := by injection hs with _ hf; injection hf
    have hn : g.immf 0 12 = 0x11B := herr g rfl
    simp [Instr.permitted, hn]

theorem permitted_getsr {i : Instr} {sh : Shape} {f : Frame} (hs : i.shape = (sh, some f)) (h : WellFormed i = true) (hop : i.op = 0x0E5) (u : Bool) :
    i.permitted false u = decide (f.immf 0 12 < 0x100 ∨ f.immf 0 12 ∈ [0x110, 0x117, 0x118, 0x119, 0x11A, 0x120]) := by
  obtain ⟨hlisted, -, -⟩ := srNum_of_legal h
  obtain ⟨g, rfl⟩ := op_getsr hop
  obtain rfl : g = f := by injection hs with _ hf; injection hf
  change _ = decide (Form.srNum g < 0x100 ∨ Form.srNum g ∈ [0x110, 0x117, 0x118, 0x119, 0x11A, 0x120])
  simp [Instr.permitted, Form.srOpen, hlisted g (.inl rfl)]

theorem permitted_mma {i : Instr} {sh : Shape} {f : Frame} (hs : i.shape = (sh, some f)) (hop : i.op = 0x181) (u : Bool) :
    i.permitted false u = decide (f.v ≠ 3) := by
  obtain ⟨g, rfl⟩ := op_mma hop
  obtain rfl : g = f := by injection hs with _ hf; injection hf
  have hv : g.vn = 3 ↔ g.v = 3 := by rw [Laws.Opcode.v_eq]; rfl
  by_cases h : g.v = 3
  · simp [Instr.permitted, hv.2 h, h]
  · simpa [Instr.permitted, bne, beq_false_of_ne (mt hv.1 h)] using h

/-- Settles O21: the checks of R67 one after the other, and the privilege and role of every opcode. -/
theorem decodeAndIssueTraps : Obligations.DecodeAndIssueTraps := by
  refine ⟨fun s x en rest pte place ha hw hwait hmove hend hslot hb hx hleaf htier => ?_, fun i sh f hs => ⟨fun u => ?_, fun u h => permitted_of_op h false u,
    fun u h => ?_, fun u h => permitted_mma hs h u, fun h u => ⟨fun ho => permitted_setsr hs h ho u, fun ho => permitted_getsr hs h ho u⟩, role?_eq i⟩⟩
  · intro k w op trap hok
    have hf := State.fetch_eq_checkWords hleaf htier hok
    have finish : ∀ code info, checkWords en.pc x (w 0) (w 1) (w 2) (w 3) = .trap code info → trap code info :=
      fun code info h => step_of_fetch_trap ha hw hwait hmove hend hslot hb hx (hf.trans h)
    refine ⟨fun h => finish _ _ (checkWords_straddles h), fun hl => ⟨fun h3 hpad => finish _ _ (checkWords_padForm hl h3 hpad), fun h3 =>
      ⟨fun hnone => finish _ _ (checkWords_unassigned hl h3 hnone), fun i sh f hd hs => ?_⟩⟩⟩
    intro role legal names beyond
    have hop : i.op = op := decodeWords_op hd
    have hissue := checkWords_decoded (x := x) hl hd
    have hbeyond : names.find? beyond = beyondCounts sh f x :=
      congrArg (fun p => names.find? p) (funext fun r => by cases r <;> rfl)
    refine ⟨fun hp => finish _ _ ?_, fun hp => ⟨fun hr => finish _ _ ?_, fun hr => ⟨fun hg => finish _ _ ?_, fun hg => ⟨fun r hfind => ?_, fun hfind hrun he => finish _ _ ?_⟩⟩⟩⟩
    · rw [hissue, checkIssue_privilege hp, hop]
    · rw [hissue, checkIssue_role hp hr, hop]
    · rw [hissue, checkIssue_past hs hp hr, checkFields_illegal hg]
    · have := finish 6 (regInfo r) (by rw [hissue, checkIssue_past hs hp hr, checkFields_beyond hg (hbeyond.symm.trans hfind)])
      cases r <;> exact this
    · rw [hissue, checkIssue_past hs hp hr, checkFields_long hg (hbeyond.symm.trans hfind) hrun he]
  · rcases permitted_privileged i u with h | ⟨g, rfl, hv, hu⟩
    · exact .inl h
    · obtain rfl : g = f := by injection hs with _ hf; injection hf
      exact .inr ⟨rfl, hv, hu⟩
  · have hop : i.op = 0x1E6 ∨ i.op = 0x1EA := by simpa using h
    obtain ⟨g, rfl | rfl⟩ := op_pabort_preempt hop <;> rfl

end Sys2Proof.Machine
end

section
/-! PROOFS. The operand log: entries retried, killed and resolved (R168, R169, R171, R396). -/

namespace Sys2Proof.Machine

/-! ## Instructions that wait, and instructions that draw a number -/

/-- An instruction that waits at issue has no effect (R68). -/
theorem State.heldAt {s : State} {x : Warp} (hw : s.warp? s.cur = some x) (f : Frame) (wt : Wait) :
    HeldAt s ((s.hold s.cur wt).modWarp s.cur fun q => { q with waitLen := f.form.bytes }) x f wt := by
  obtain ⟨ho, hy⟩ := State.hold_only_warp hw wt f.form.bytes
  have hn : ((s.hold s.cur wt).modWarp s.cur fun q => { q with waitLen := f.form.bytes }).nextId = s.nextId := by simp
  have hrest := ho.rest
  rw [hn] at hrest
  exact ⟨_, hy, rfl, rfl, rfl, rfl, rfl, hrest, ho.others, ho.cores⟩

section
variable {i : Instr} {s t : State} {x y : Warp} {e : Entry} {sh : Shape} {f : Frame}

/-- The number of the next request does not matter to an instruction that is ready. -/
theorem Ready.withNextId (h : Ready i s x e sh f) (k : Nat) : Ready i { s with nextId := k } x e sh f := ⟨h.warp, h.head, h.form, h.legal, h.gate⟩

theorem Passes.of_nextId {k : Nat} (h : Passes { s with nextId := k } t x y e sh f) : Passes s t x y e sh f := by
  obtain ⟨hw, hm, ho, hr, hf⟩ := h
  have hc : SameCode s { s with nextId := k } := ⟨rfl, rfl, rfl, rfl, rfl, fun _ => rfl, fun _ => rfl⟩
  refine ⟨hw, ⟨?_, hm.run, hm.wait⟩, ⟨ho.others, ho.cores, ho.rest⟩, hr, hf⟩
  rw [hm.pc]
  exact congrArg (fun pc => (x.replaceHead [{ e with pc := pc }]).hw) (hc.land s.cur rfl _)

/-- An instruction that names no source leaves its warp as it was but for the wait that has ended. -/
theorem Warp.opened_of_no_reads (h : sh.reads f = []) (x : Warp) (stamp : Nat) : x.opened e sh f stamp = { x with wait := none } := by
  simp [Warp.opened, Warp.readAll_def, Warp.releaseAll, Shape.releases, h]

end

/-! ## Entries of the pools for a result (R29, R35) -/

theorem State.placeRegs_bound {s : State} {w : Nat} {x : Warp} (hw : s.warp? w = some x) {rs : List Reg}
    (h : ∀ r ∈ rs, x.isBound r = true ∧ x.isSpilled r = false) : s.placeRegs w rs = (s, true) := by
  have hu : x.unplaced rs = [] := List.filter_eq_nil_iff.2 fun r hr => by simp [h r hr]
  simp [State.placeRegs, hw, hu]

theorem State.unplaced_of_placeRegs {s : State} {w : Nat} {x : Warp} (hw : s.warp? w = some x) {r : Reg} (h : (s.placeRegs w [r]).2 = false) :
    x.unplaced [r] = [r] := by
  cases hu : x.unplaced [r] with
  | nil => simp [State.placeRegs, hw, hu] at h
  | cons a t =>
    rw [← hu, Warp.unplaced, List.filter_eq_self]
    intro q hq
    obtain rfl : q = r := by simpa using hq
    have ha : a ∈ x.unplaced [q] := hu ▸ List.mem_cons_self
    obtain ⟨hm, hp⟩ := List.mem_filter.1 ha
    obtain rfl : a = q := by simpa using hm
    exact hp

@[simp] theorem Dest.regs_lane_one {d : Nat} (h : d ≠ 255) : (Dest.lane d 1).regs = [.x d] := by simp [Dest.regs, h]

/-! ## The values of an access on their way (R32, R196) -/

/-- What a lane of an access has read, and whether that is poison. -/
def Access.got (a : Access) (l : Fin 32) : Option (Nat × List Byte × Bool) := a.done.find? fun d => d.1 == l.val

/-- The lanes that have performed, the words of register `i` of the destination in them, and the lanes of poison. -/
def Access.putMask (a : Access) : Mask := maskOf fun l => (a.got l).isSome
def Access.putVal (a : Access) (i : Nat) : Lanes W32 :=
  Vector.ofFn fun l => ((a.got l).map fun d => if d.2.2 then poison32 else (loadWords (a.op.code a.width) d.2.1).getD i 0).getD 0
def Access.putTag (a : Access) : Mask := maskOf fun l => ((a.got l).map (·.2.2)).getD false

/-- The values that an access brings to lane registers. -/
theorem Access.puts_lane {a : Access} {n count : Nat} (h : a.dest = .lane n count) (hn : n ≠ 255) :
    a.puts = ((List.range count).filter fun i => n + i != 255).map fun i => .x (n + i) a.putMask (a.putVal i) a.putTag := by
  have hval : ∀ i : Nat, a.putVal i = Vector.ofFn fun l : Fin 32 => match a.done.find? fun d => d.1 == l.val with
      | some d => if d.2.2 then poison32 else (loadWords (a.op.code a.width) d.2.1).getD i 0
      | none => 0 := by
    intro i
    unfold Access.putVal Access.got
    congr 1
    funext l
    cases a.done.find? fun d => d.1 == l.val <;> rfl
  have htag : a.putTag = maskOf fun l : Fin 32 => match a.done.find? fun d => d.1 == l.val with | some d => d.2.2 | none => false := by
    unfold Access.putTag Access.got
    congr 1
    funext l
    cases a.done.find? fun d => d.1 == l.val <;> rfl
  unfold Access.puts
  simp only [h, if_neg hn, htag, hval]
  rfl

section
variable {a : Access} {l : Fin 32}

theorem Access.putMask_get : a.putMask.getLsbD l.val = (a.got l).isSome := by
  rw [BitVec.getLsbD_eq_getElem l.isLt]
  exact maskOf_get _ l

theorem Access.putTag_get : a.putTag.getLsbD l.val = ((a.got l).map (·.2.2)).getD false := by
  rw [BitVec.getLsbD_eq_getElem l.isLt]
  exact maskOf_get _ l

theorem Access.putVal_get {i : Nat} :
    (a.putVal i)[l] = ((a.got l).map fun d => if d.2.2 then poison32 else (loadWords (a.op.code a.width) d.2.1).getD i 0).getD 0 := by
  simp [Access.putVal]

end

/-- What a write of lanes leaves in its register: the values written, and in the other lanes what it held, or poison where it was unbound (R24). -/
theorem Warp.putLane_get_self (x : Warp) {n : Nat} (h : n ≠ 255) (m : Mask) (v : Fin 32 → W32) (t : Mask) (stamp : Nat) (b : Bool) :
    ∃ r, (x.putLane n m v t stamp b).x.get? n = some r ∧ r.empty = b ∧ r.spilled = false ∧ ∀ l : Fin 32,
      if m.getLsbD l.val then r.val[l] = v l ∧ r.tag.getLsbD l.val = t.getLsbD l.val
      else let old := (x.x.get? n).getD { val := poisonLanes, tag := allLanes }
        r.val[l] = old.val[l] ∧ r.tag.getLsbD l.val = old.tag.getLsbD l.val := by
  unfold Warp.putLane
  rw [if_neg h]
  refine ⟨_, Tbl.get?_set_self .., rfl, rfl, fun l => ?_⟩
  have hl := l.isLt
  cases hm : m[l.val] <;> simp [hm, Lanes.merge_get]

/-! ## Completion with poison (R169) -/

/-- An access whose lanes that had not performed complete with poison. -/
def Access.poisoned (a : Access) : Access := { a with done := a.done ++ a.left.map fun l => (l.lane, [], true) }

theorem Access.got_poisoned {a : Access} {l : Fin 32} (h : ∃ k ∈ a.left, k.lane = l.val) : a.poisoned.got l = some (l.val, [], true) := by
  obtain ⟨k, hk, hkl⟩ := h
  have hnot : a.done.find? (fun q => q.1 == l.val) = none := by
    have := (List.mem_filter.1 hk).2
    rw [hkl] at this
    simpa using this
  rw [Access.got, Access.poisoned, List.find?_append, hnot, Option.none_or]
  cases hq : (a.left.map fun l => (l.lane, ([] : List Byte), true)).find? (fun q => q.1 == l.val) with
  | none =>
    have := List.find?_eq_none.1 hq (k.lane, [], true) (List.mem_map_of_mem hk)
    simp [hkl] at this
  | some q =>
    have hql := List.find?_some hq
    obtain ⟨b, -, rfl⟩ := List.mem_map.1 (List.mem_of_find?_eq_some hq)
    have hbl : b.lane = l.val := by simpa using hql
    rw [hbl]

/-- A warp that waits for no access waits on. -/
theorem State.endAcquire_idle {s : State} {a : Access} {x : Warp} (hw : s.warp? a.w = some x) (h : x.wait ≠ some (.access a.id a.scope)) :
    s.endAcquire a = s := by
  unfold State.endAcquire
  rw [hw]
  exact if_pos (bne_iff_ne.2 h)

/-- A warp whose lane register `d` takes what an access that completes with poison brings (R169). -/
def Warp.takesPoison (x : Warp) (a : Access) (d stamp : Nat) : Warp :=
  { x.putLane d a.poisoned.putMask (fun l => (a.poisoned.putVal 0)[l]) a.poisoned.putTag stamp with psn := true }

theorem Warp.takesPoison_same (x : Warp) (a : Access) (d stamp : Nat) : SameBut x (x.takesPoison a d stamp) :=
  (Warp.putLane_same x d _ _ _ stamp false).trans ⟨rfl, rfl, rfl⟩

theorem Warp.takesPoison_wait (x : Warp) (a : Access) (d stamp : Nat) : (x.takesPoison a d stamp).wait = x.wait := Warp.putLane_wait ..
theorem Warp.takesPoison_trap (x : Warp) (a : Access) (d stamp : Nat) : (x.takesPoison a d stamp).trap = x.trap := (Warp.putLane_flaws ..).2
theorem Warp.takesPoison_psn (x : Warp) (a : Access) (d stamp : Nat) : (x.takesPoison a d stamp).psn = true := rfl

/-- The register is full, and poisoned in the lanes that had not performed. -/
theorem Warp.takesPoison_lane (x : Warp) (a : Access) {d : Nat} (h : d ≠ 255) (stamp : Nat) :
    ∃ r, (x.takesPoison a d stamp).x.get? d = some r ∧ r.empty = false ∧
      ∀ l : Fin 32, (∃ k ∈ a.left, k.lane = l.val) → r.val[l] = poison32 ∧ r.tag.getLsbD l.val = true := by
  obtain ⟨r, hr, he, -, hv⟩ := x.putLane_get_self h a.poisoned.putMask (fun l => (a.poisoned.putVal 0)[l]) a.poisoned.putTag stamp false
  refine ⟨r, hr, he, fun l hl => ?_⟩
  have hgot := Access.got_poisoned hl
  have hval := hv l
  rw [if_pos (by rw [Access.putMask_get, hgot]; rfl), Access.putTag_get, Access.putVal_get, hgot] at hval
  exact hval

/-- An access that is no watch's read ends its wait when it has completed with poison. -/
theorem State.poisonFinish_access {s : State} {a : Access} (hi : ∀ g, a.instr ≠ .waitaddr g) :
    s.poisonFinish a false = ((s.placeRegs a.w a.dest.regs).1.modWarp a.w fun x =>
      { a.poisoned.puts.foldl (fun x p => x.deliver s.clock p) x with psn := true }).endAcquire a.poisoned := by
  unfold State.poisonFinish
  extract_lets b t
  split
  · next hg => exact absurd hg (hi _)
  · rfl

/-- A completion with poison fills its register. -/
theorem State.poisonFinish_lane {s : State} {a : Access} {x : Warp} {d : Nat} (hw : s.warp? a.w = some x) (hwait : x.wait = none)
    (hi : ∀ g, a.instr ≠ .waitaddr g) (hd : a.dest = .lane d 1) (h255 : d ≠ 255) (hb : x.isBound (.x d) = true) (hs : x.isSpilled (.x d) = false) :
    s.poisonFinish a false = s.setWarp a.w (x.takesPoison a d s.clock) := by
  have hplaced : s.placeRegs a.w a.dest.regs = (s, true) := by
    rw [hd, Dest.regs_lane_one h255]
    exact State.placeRegs_bound hw fun r hr => by simpa [List.mem_singleton.1 hr] using ⟨hb, hs⟩
  have hputs : a.poisoned.puts = [.x d a.poisoned.putMask (a.poisoned.putVal 0) a.poisoned.putTag] := by
    rw [Access.puts_lane (show a.poisoned.dest = .lane d 1 from hd) h255]
    simp [h255]
  have hidle : (s.setWarp a.w (x.takesPoison a d s.clock)).endAcquire a.poisoned = s.setWarp a.w (x.takesPoison a d s.clock) :=
    State.endAcquire_idle (State.warp?_setWarp_self ..) (by rw [Warp.takesPoison_wait, hwait]; exact nofun)
  have hfill : s.modWarp a.w (fun x => { a.poisoned.puts.foldl (fun x p => x.deliver s.clock p) x with psn := true }) = s.setWarp a.w (x.takesPoison a d s.clock) := by
    rw [State.modWarp_eq hw, hputs]
    rfl
  rw [State.poisonFinish_access hi, hplaced]
  exact (congrArg (fun t : State => t.endAcquire a.poisoned) hfill).trans hidle

/-! ## `oplog.retry` and `oplog.kill` -/

section
variable {s : State} {x : Warp} {e : Entry} {sh : Shape} {f : Frame}

/-- Operations on an entry that is free or queued change nothing. -/
theorem Ready.exec_oplog_idle {i : Instr} (hi : i ∈ [Instr.oplogRetry f, .oplogKill f]) (h : Ready i s x e sh f) (hact : x.active f e ≠ 0)
    (hq : ∀ en, x.log.get? (f.mf 0 2) = some en → en.state = .queued) : exec i s = .next ((s.opened x e sh f).retire s.cur f true) := by
  simp only [List.mem_cons, List.not_mem_nil, or_false] at hi
  rcases hi with rfl | rfl
  · rw [exec_oplogRetry, execOplogRetry, h.issueOnce, if_neg hact]
    cases hg : x.log.get? (f.mf 0 2) with
    | none => simp [State.sees, hg, Act.after]
    | some en => simp [State.sees, hg, hq en hg, Act.after]
  · rw [exec_oplogKill, execOplogKill, h.issueOnce, if_neg hact]
    cases hg : x.log.get? (f.mf 0 2) with
    | none => simp [State.sees, hg, Act.after]
    | some en => simp [State.sees, hg, hq en hg, Act.after]

/-- The warp after `oplog.retry`: its entry is queued. -/
def Warp.requeued (x : Warp) (n : Nat) (en : LogEntry) (order : Nat) : Warp := { x with log := x.log.set n (en.resolved false order) }

theorem Ready.exec_oplogRetry (h : Ready (.oplogRetry f) s x e sh f) (hact : x.active f e ≠ 0) {en : LogEntry}
    (hg : x.log.get? (f.mf 0 2) = some en) (hq : en.state ≠ .queued) :
    exec (.oplogRetry f) s = .next ((State.setWarp { s with nextId := s.nextId + 1 } s.cur
      ((x.opened e sh f s.clock).requeued (f.mf 0 2) en s.nextId)).retire s.cur f true) := by
  rw [Machine.exec_oplogRetry, execOplogRetry, h.issueOnce, if_neg hact]
  have hlog : (x.opened e sh f s.clock).log = x.log := (congrArg Warp.log (Warp.opened_same x e sh f s.clock).still : _)
  simp [State.sees, hg, hq, Act.after, State.fresh, State.opened, Warp.requeued, State.modWarp, State.setWarp]

theorem Warp.requeued_still {x z : Warp} (h : z.still = x.still) (n : Nat) (en : LogEntry) (order : Nat) :
    (z.requeued n en order).still = { x.still with log := x.log.set n (en.resolved false order) } := by
  rw [← h, show x.log = z.log from (congrArg Warp.log h : _).symm]
  rfl

/-- An instruction that draws a number and otherwise changes only its warp passes. -/
theorem Ready.passes_numbered {i : Instr} (h : Ready i s x e sh f) {z : Warp} (hz : Wrote x z e sh f) (k : Nat) :
    Passes s ((State.setWarp { s with nextId := k } s.cur z).retire s.cur f true) x (Warp.retired { s with nextId := k } s.cur z f true) e sh f :=
  ((h.withNextId k).passes hz).of_nextId

theorem Ready.oplogRetry (h : Ready (.oplogRetry f) s x e sh f) (hact : x.active f e ≠ 0) {en : LogEntry}
    (hg : x.log.get? (f.mf 0 2) = some en) (hq : en.state ≠ .queued) :
    ∃ t y, exec (.oplogRetry f) s = .next t ∧ Passes s t x y e sh f ∧
      y.still = { x.still with log := x.log.set (f.mf 0 2) { en with state := .queued, order := s.nextId, record := none, remote := false } } := by
  have hw := h.wrote
  have hz : Wrote x ((x.opened e sh f s.clock).requeued (f.mf 0 2) en s.nextId) e sh f :=
    ⟨hw.hw, hw.run, hw.wait, hw.owner, ⟨hw.regs.lanes, hw.regs.unis⟩, hw.flaws⟩
  exact ⟨_, _, h.exec_oplogRetry hact hg hq, h.passes_numbered hz _,
    (Warp.retired_still ..).trans (Warp.requeued_still (Warp.opened_same x e sh f s.clock).still ..)⟩

theorem reads_oplogKill : (Instr.oplogKill f).shape.1.reads f = [] := rfl

/-- An instruction without sources acts in the state in which its wait has ended. -/
theorem Ready.opened_no_reads {i : Instr} (_ : Ready i s x e sh f) (hr : sh.reads f = []) : s.opened x e sh f = s.setWarp s.cur { x with wait := none } := by
  rw [State.opened, Warp.opened_of_no_reads hr]

/-- A kill waits where the destination has no entry of its pool (R35). -/
theorem Ready.oplogKill_waits (h : Ready (.oplogKill f) s x e sh f) (hact : x.active f e ≠ 0) {en : LogEntry}
    (hg : x.log.get? (f.mf 0 2) = some en) (hq : en.state ≠ .queued) {d : Nat} (hd : en.acc.dest = .lane d 1) (h255 : d ≠ 255)
    (hroom : ((s.opened x e sh f).placeRegs s.cur [.x d]).2 = false) :
    ∃ t, exec (.oplogKill f) s = .next t ∧ HeldAt s t x f (.binding true 1) := by
  obtain rfl : (Instr.oplogKill f).shape.1 = sh := congrArg Prod.fst h.form
  have hun : ({ x with wait := none } : Warp).unplaced [.x d] = [.x d] := by
    rw [h.opened_no_reads reads_oplogKill] at hroom
    exact State.unplaced_of_placeRegs (State.warp?_setWarp_self ..) hroom
  have hun : x.unplaced [.x d] = [.x d] := hun
  refine ⟨_, ?_, State.heldAt h.warp f (.binding true 1)⟩
  rw [exec_oplogKill, execOplogKill, h.issueOnce, if_neg hact]
  simp [State.sees, hg, hq, hd, Dest.regs_lane_one h255, hroom, hun, Act.after, isLaneReg]

/-- The warp without an entry of its operand log, its wait ended. -/
def Warp.dropEntry (x : Warp) (n : Nat) : Warp := { x with wait := none, log := x.log.erase n }

theorem Ready.exec_oplogKill (h : Ready (.oplogKill f) s x e sh f) (hact : x.active f e ≠ 0) {en : LogEntry}
    (hg : x.log.get? (f.mf 0 2) = some en) (hq : en.state ≠ .queued) (hi : ∀ g, en.acc.instr ≠ .waitaddr g) (hcur : en.acc.w = s.cur) {d : Nat}
    (hd : en.acc.dest = .lane d 1) (h255 : d ≠ 255) (hb : x.isBound (.x d) = true) (hs : x.isSpilled (.x d) = false) :
    exec (.oplogKill f) s = .next ((s.setWarp s.cur ((x.dropEntry (f.mf 0 2)).takesPoison en.acc d s.clock)).retire s.cur f true) := by
  obtain rfl : (Instr.oplogKill f).shape.1 = sh := congrArg Prod.fst h.form
  have hplaced : (s.setWarp s.cur { x with wait := none }).placeRegs s.cur en.acc.dest.regs = (s.setWarp s.cur { x with wait := none }, true) := by
    rw [hd, Dest.regs_lane_one h255]
    exact State.placeRegs_bound (State.warp?_setWarp_self ..) fun r hr => by rw [List.mem_singleton.1 hr]; exact ⟨hb, hs⟩
  have hw : (s.setWarp s.cur (x.dropEntry (f.mf 0 2))).warp? en.acc.w = some (x.dropEntry (f.mf 0 2)) := by
    rw [hcur]
    exact State.warp?_setWarp_self ..
  have hfin := State.poisonFinish_lane hw rfl hi hd h255 hb hs
  rw [hcur, State.setWarp_setWarp] at hfin
  have hmod : (s.setWarp s.cur { x with wait := none }).modWarp s.cur (fun y => { y with log := y.log.erase (f.mf 0 2) }) =
      s.setWarp s.cur (x.dropEntry (f.mf 0 2)) := State.modWarp_setWarp ..
  have hne : (en.state == .queued) = false := beq_false_of_ne hq
  rw [Machine.exec_oplogKill, execOplogKill, h.issueOnce, if_neg hact, h.opened_no_reads reads_oplogKill]
  simp only [State.sees, hg, hne, hplaced, hmod, hfin, Bool.false_eq_true, if_false, Bool.not_true]
  rfl

theorem Ready.oplogKill (h : Ready (.oplogKill f) s x e sh f) (hact : x.active f e ≠ 0) {en : LogEntry}
    (hg : x.log.get? (f.mf 0 2) = some en) (hq : en.state ≠ .queued) (hi : ∀ g, en.acc.instr ≠ .waitaddr g) (hcur : en.acc.w = s.cur) {d : Nat}
    (hd : en.acc.dest = .lane d 1) (h255 : d ≠ 255) (hb : x.isBound (.x d) = true) (hs : x.isSpilled (.x d) = false) :
    ∃ t y r, exec (.oplogKill f) s = .next t ∧ t.warp? s.cur = some y ∧ Moved s x y e f ∧ OnlyWarp s t ∧ y.log = x.log.erase (f.mf 0 2) ∧ y.psn = true ∧
      y.trap = x.trap ∧ y.x.get? d = some r ∧ r.empty = false ∧
      ∀ l : Fin 32, (∃ k ∈ en.acc.left, k.lane = l.val) → r.val[l] = poison32 ∧ r.tag.getLsbD l.val = true := by
  have hsame := Warp.takesPoison_same (x.dropEntry (f.mf 0 2)) en.acc d s.clock
  have hwait := Warp.takesPoison_wait (x.dropEntry (f.mf 0 2)) en.acc d s.clock
  have htrap := Warp.takesPoison_trap (x.dropEntry (f.mf 0 2)) en.acc d s.clock
  have hlog := congrArg Warp.log hsame.still
  obtain ⟨r, hr, he, hv⟩ := Warp.takesPoison_lane (x.dropEntry (f.mf 0 2)) en.acc h255 s.clock
  have hexec := h.exec_oplogKill hact hg hq hi hcur hd h255 hb hs
  have hpsn := Warp.takesPoison_psn (x.dropEntry (f.mf 0 2)) en.acc d s.clock
  generalize (x.dropEntry (f.mf 0 2)).takesPoison en.acc d s.clock = z at *
  obtain ⟨hw, ho⟩ := State.retire_only_warp s z f true
  obtain ⟨hp, ht⟩ := Warp.retired_flaws s s.cur z f true
  have hl := congrArg Warp.log (Warp.retired_still s s.cur z f true)
  refine ⟨_, _, r, hexec, hw, h.moved hsame.hw hsame.run hwait hsame.owner, ho, hl.trans hlog, hp.trans hpsn, ht.trans htrap, ?_, he, hv⟩
  rw [Warp.retired_x]
  exact hr

end

/-! ## The answer of the fault service (R396) -/

theorem State.resolveCopies_none {s : State} (h : s.cores = []) (p : Cmd → Bool) (giveup : Bool) : s.resolveCopies p giveup = s := by
  simp [State.resolveCopies, h, Tbl.keys]

theorem State.flushFaults_written {s : State} {d : Nat} (h : ∀ q ∈ (s.die d).faults, q.written = true) : s.flushFaults d = s := by
  have : (s.die d).faults.find? (fun r => !r.written) = none := List.find?_eq_none.2 fun q hq => by simp [h q hq]
  simp only [State.flushFaults, this]

/-- A record whose only waiter is an operand-log entry resolves that entry and is gone. -/
theorem State.resolveRecord_log {s : State} {d w n : Nat} {id : W32} {x : Warp} {en : LogEntry} {r : FaultRec}
    (hr : (s.die d).faults.find? (fun q => q.id == id && q.written) = some r) (hwaits : r.waiters = [.log w n])
    (hall : ∀ q ∈ (s.die d).faults, q.written = true) (hws : s.warps = [(w, x)]) (hlog : x.log = [(n, en)])
    (hen : en.record = some (d, id.toNat)) (hcores : s.cores = []) (giveup : Bool) :
    (s.resolveRecord d id giveup).warp? w = some { x with log := [(n, en.resolved giveup s.nextId)] } ∧
      (s.resolveRecord d id giveup).mem = s.mem ∧ ((s.resolveRecord d id giveup).die d).faults = (s.die d).faults.filter (fun q => q.id != id) := by
  let u := (s.modDie d fun q => { q with faults := q.faults.filter fun q => q.id != id }).resolveLogs (fun e => e.record == some (d, id.toNat)) giveup
  have hfaults : (u.die d).faults = (s.die d).faults.filter (fun q => q.id != id) :=
    congrArg Die.faults (s.die_modDie_self d fun q => { q with faults := q.faults.filter fun q => q.id != id })
  have hu : s.resolveRecord d id giveup = u := by
    have hc : u.resolveCopies (fun c => c.record == some (d, id.toNat)) giveup = u := State.resolveCopies_none (s := u) hcores _ _
    have hf : u.flushFaults d = u := State.flushFaults_written fun q hq => hall q (List.mem_filter.1 (hfaults ▸ hq)).1
    unfold State.resolveRecord
    simp only [hr, hwaits]
    exact (congrArg (fun t : State => t.flushFaults d) hc).trans hf
  rw [hu]
  refine ⟨?_, rfl, hfaults⟩
  simp [u, State.warp?, State.resolveLogs, State.modDie, State.setDie, hws, Tbl.get?, hlog, hen]

/-- Settles O40: an entry is queued, or completes with poison in its register; a record of one waiter resolves that entry alone. -/
theorem logEntriesResolve : Obligations.LogEntriesResolve := by
  refine ⟨fun s x e sh f hact => ⟨fun i hi h hq => ?_, fun en hg hq => ⟨fun h => h.oplogRetry hact hg hq,
    fun h hi hcur d hd h255 => ⟨fun hroom => h.oplogKill_waits hact hg hq hd h255 hroom, fun hb hs => h.oplogKill hact hg hq hi hcur hd h255 hb hs⟩⟩⟩,
    fun s d w n id x en r hr hwaits hall hws hlog hen _ hcores => ?_⟩
  · exact ⟨_, _, h.exec_oplog_idle hi hact hq, h.passes h.wrote, (Warp.retired_still ..).trans (Warp.opened_same ..).still⟩
  · have hdie : ∀ v, ((s.modDie d fun q => { q with fltres := v }).die d).faults = (s.die d).faults := by
      intro v
      rw [State.die_modDie_self]
    have answer : ∀ v giveup, let t := (s.modDie d fun q => { q with fltres := v }).resolveRecord d id giveup
        t.warp? w = some { x with log := [(n, en.resolved giveup s.nextId)] } ∧ t.mem = s.mem ∧
          (t.die d).faults = (s.die d).faults.filter (fun q => q.id != id) := by
      intro v giveup
      have h := State.resolveRecord_log (s := s.modDie d fun q => { q with fltres := v }) ((hdie v).symm ▸ hr) hwaits
        (fun q hq => hall q (hdie v ▸ hq)) hws hlog hen hcores giveup
      rwa [hdie v] at h
    obtain ⟨rw, rm, rf⟩ := answer (id.setWidth 64) false
    obtain ⟨gw, gm, gf⟩ := answer (id.setWidth 64 ||| (1#64 <<< 63)) true
    exact ⟨⟨_, _, rfl, rw, rm, rf, rfl⟩, _, _, rfl, gw, gm, gf, rfl⟩

end Sys2Proof.Machine
end

section
/-! PROOFS. Spills: what a write of a table whose keys do not rise makes of the room in the L1. -/

namespace Sys2Proof.Machine

/-! ## A spill that takes more than one step of the spill region -/

/-- A warp that waits for more uniform registers than its pool has. -/
def requester : Warp :=
  { owner := { proc := 0, ensemble := none }, role := 0, prio := 1, eprio := 0, lregs := 255, uregs := 255, hw := [], wait := some (.binding false 5000) }

/-- A warp of lower priority with 16 uniform registers in their pool, and 72 lane registers in the spill region. -/
def spiller : Warp :=
  { owner := { proc := 0, ensemble := none }, role := 0, prio := 0, eprio := 0, lregs := 255, uregs := 255, hw := []
    x := (List.range 72).map fun n => (n, { val := Vector.replicate 32 0, tag := 0, spilled := true })
    k := (List.range 16).map fun n => (n, { val := 0, tag := false }) }

/-- Two warps of core 0, the greater key first, and an L1 of 1,920 lines: two steps of the spill region fewer than it may hold. -/
def crowded : State :=
  { State.reset with
    warps := [(1, requester), (0, spiller)]
    cores := [(0, { l1 := List.replicate 1920 { asid := 0, line := 0, data := [], marks := 0 } })] }

theorem crowded_spillFor : crowded.spillFor 0 0 false = some (1, requester) := rfl
theorem crowded_victim : crowded.victim 0 0 false 1 (crowded.headNames 1 requester) = some (0, .k 0) := rfl
theorem crowded_spillUsed : crowded.spillUsed 0 = 9728 := rfl

/-- The state before the L1 is trimmed: the spiller's new record stands beside its old one. -/
def crowdedSpilled : State := crowded.modWarp 0 fun y => { y.setSpilled (.k 0) true (y.stampOf (.k 0)) with spl := true }

theorem crowdedSpilled_spillUsed : crowdedSpilled.spillUsed 0 = 19208 := rfl

theorem crowded_spills : exec (.registerSpill 0 0 false) crowded = .next (crowdedSpilled.l1Trim 0) := by
  have hfit : ¬ 2 ^ 17 < crowded.spillUsed 0 + 8 := by rw [crowded_spillUsed]; decide
  have hone : crowded.spillOne 0 0 false 1 (crowded.headNames 1 requester) = crowdedSpilled.l1Trim 0 := by
    unfold State.spillOne
    rw [crowded_victim]
    exact if_neg hfit
  simp only [exec_registerSpill, execRegisterSpill, crowded_spillFor, hone]

/-- Without slice lines the L1 keeps as many lines as the spill region leaves room for (R192). -/
theorem State.l1Trim_length {s : State} {c : Nat} (hs : (s.core c).slices = []) (h : s.l1Room c < (s.core c).l1.length) :
    ((s.l1Trim c).core c).l1.length = s.l1Room c := by
  have hdrop : ∀ p, s.dropSlices c p = s := fun p => by simp [State.dropSlices, hs]
  simp [State.l1Trim, hs, hdrop, State.core_modCore_self, Nat.not_le.2 h, Nat.le_of_lt h]

theorem crowdedSpilled_l1 : ((crowdedSpilled.l1Trim 0).core 0).l1.length = 1888 := by
  have hroom : crowdedSpilled.l1Room 0 = 1888 := by rw [State.l1Room, crowdedSpilled_spillUsed]
  have hl1 : (crowdedSpilled.core 0).l1.length = 1920 := List.length_replicate
  rw [State.l1Trim_length rfl (by omega), hroom]

/-- Refutes O42: in a table of warps whose keys do not rise, the write of a spilled warp leaves the old record beside the new one; the spill region then counts
both and takes two steps of 4 KiB at once, so that the L1 loses lines although it had room for 32 more. -/
theorem not_schedulingAndSpills : ¬ Obligations.SchedulingAndSpills := by
  intro h
  obtain ⟨-, hspill, -⟩ := h
  have htables : ∀ p ∈ crowded.warps, (p.2.x.map (·.1)).Nodup ∧ (p.2.k.map (·.1)).Nodup := by
    have : ∀ p ∈ ([(1, requester), (0, spiller)] : Tbl Warp), (p.2.x.map (·.1)).Nodup ∧ (p.2.k.map (·.1)).Nodup := by decide
    exact this
  obtain ⟨t, y, z, -, ht, -, hsame, -⟩ := hspill crowded 0 0 1 0 false requester (.k 0) (by decide) htables crowded_spillFor crowded_victim
    (by rw [crowded_spillUsed]; decide)
  have htakes : crowded.l1Takes 0 32 := by
    have hl1 : (crowded.core 0).l1 = List.replicate 1920 { asid := 0, line := 0, data := [], marks := 0 } := rfl
    have hslices : (crowded.core 0).slices = [] := rfl
    rw [State.l1Takes, State.l1Room, crowded_spillUsed, hl1, hslices, List.length_replicate]
    decide
  have hcore : t.core 0 = crowded.core 0 := by rw [hsame htakes]; rfl
  obtain rfl : crowdedSpilled.l1Trim 0 = t := by simpa [crowded_spills] using ht
  have hlen := crowdedSpilled_l1
  rw [hcore] at hlen
  have hold : (crowded.core 0).l1.length = 1920 := List.length_replicate
  omega

end Sys2Proof.Machine
end

section
/-! PROOFS. Settled accesses: a failed lane for which the operand log has no entry. -/

namespace Sys2Proof.Machine

/-! ## A store that fails at its home while the operand log of its warp is full -/

/-- The fields of a store instruction. -/
def storing : Frame :=
  { form := .f96i, eor := true, guard := 7, gneg := false, v := 0, d := 0, a := .zero, b := .zero, c := .zero, ah := 0, bh := 0, ch := 0, dh := 0, m := 0
    imm := 0, wt := 0, bad := false }

/-- A store of warp 0 whose only lane has failed with code 5. -/
def refused : Access :=
  { id := 0, w := 0, instr := .stg storing, pc := 0, space := .global, op := .store, width := 4, dest := .none
    lanes := [{ lane := 0, addr := 0, keys := [] }], act := 1, ord := 0, scope := 0, failed := [(0, 5)] }

/-- A warp whose four operand-log entries are taken. -/
def logFull : Warp :=
  { owner := { proc := 0, ensemble := none }, role := 0, prio := 0, eprio := 0, lregs := 1, uregs := 0, hw := []
    log := (List.range 4).map fun n => (n, { state := .pending, code := 1, acc := refused }) }

/-- The warp holds the issue slot of the first quadrant of core 0. -/
def issuing : State := { State.reset with warps := [(0, logFull)], cores := [(0, { quads := Vector.replicate 4 { holder := some 0 } })] }

theorem issuing_holder : (issuing.core 0).quads[0].holder = some 0 := rfl

/-- The warp stalls and gives up its slot. -/
theorem issuing_settle_holder : ((issuing.settle refused).core 0).quads[0].holder = none := rfl

/-- Refutes O32: an access that fails while the operand log is full stalls its warp, which gives up its issue slot, so that more of its core changes than the L1. -/
theorem not_resultsArrive : ¬ Obligations.ResultsArrive := by
  intro h
  obtain ⟨hsettle, -⟩ := h
  obtain ⟨saw, -, -, -, hcores, -⟩ := hsettle issuing logFull refused rfl rfl rfl nofun rfl
  obtain ⟨l1, hcore, -⟩ := hcores 0
  have hkept := congrArg (fun c : Core => c.quads[0].holder) hcore
  rw [issuing_settle_holder, show _ = some 0 from issuing_holder] at hkept
  exact nomatch hkept

end Sys2Proof.Machine
end

section
/-! PROOFS. Dispatch: what the removal of a record from the pool of a die makes of the lines in motion, in a table of dies whose keys do not rise. -/

namespace Sys2Proof.Machine

/-! ## A task whose first line two engines have in motion -/

/-- The line at the entry point, which lies at key 24576 and, where it has flipped, at key 65536. -/
def entryLine (flipped : List Nat) : MigSlot :=
  { asid := 0, proc := 0, va := 0, size := 256, src := 24576, dst := 65536, ptePlace := 0, pte := 0, auto := false, c := flipped }

/-- A task record whose descriptor lies at address 256. -/
def entryTask : TaskRec := { words := #v[256, 0, 0, 0, 0, 0, 0, 0], proc := 0, scope := 0 }

/-- Process 0 with every core, whose page at address 0 lies at key 24576: a task descriptor at 256 with its entry point at 64. There memory holds no pad word at the
source of the line, and one at its destination. -/
def entryMemory : State :=
  let s := State.reset.withFetchWord 64 0
  let s := (((s.writeNat (24576 + 256) 8 64).writeNat (24576 + 264) 1 8).writeNat (24576 + 268) 1 1).writeNat (65536 + 64) 4 3
  { s with warps := [], procs := s.procs.map fun p => (p.1, { p.2 with grants := Vector.replicate 4 (BitVec.allOnes 96) })
           scopes := [(0, { proc := 0, parent := none, depth := 0, coop := false })] }

/-- Die 1 stands before die 0 in the table, and its engine has flipped the line. Die 0 holds the record, and its engine has not flipped the line. -/
def crossed : State :=
  { entryMemory with dies := [(1, { slots := [(0, entryLine [0])] }), (0, { slots := [(0, entryLine [])], pools := [entryTask] })] }

/-- What admission gives to the task. -/
def entryOwner : Owner :=
  { proc := 0, ensemble := none, task := true, priv := false, pcls := 0, seq := 0, scope := 0, succ := 0 }

/-- A warp of that owner: where its code lies depends on nothing else of it. -/
def entryWarp : Warp := { owner := entryOwner, role := 0, prio := 0, eprio := 0, lregs := 0, uregs := 0, hw := [] }

/-- The entry point is past the pad word as long as the engine of die 1 is found first. -/
theorem crossed_land : crossed.land 0 entryWarp 64 = 68 := by decide +kernel

theorem crossed_kernel : (crossed.taskKernel entryTask).map (fun k => (k.entry, k.scratch)) = some (64, 0) := by decide +kernel

/-- Once the record has left its pool, die 0 stands first, and the task is admitted at the source of its line. -/
theorem crossed_dispatch : (match exec (.taskDispatch 0) crossed with
    | .next t => (t.warp? 0).map fun x => (x.hw.map (·.pc), x.owner)
    | _ => none) = some ([64], entryOwner) := by decide +kernel

/-- Refutes O52: in a table of dies whose keys do not rise, the removal of a task record lists its die a second time, before the die that stood first; where both
engines have the line of the entry point in motion, the task is then admitted at another address than the one at which its code lay. -/
theorem not_launchesAndTasks : ¬ Obligations.LaunchesAndTasks := by
  intro h
  obtain ⟨-, -, -, -, htask⟩ := h
  obtain ⟨k, hk, hfields⟩ := Option.map_eq_some_iff.1 crossed_kernel
  obtain ⟨hentry, hscratch⟩ : k.entry = 64 ∧ k.scratch = 0 := by simpa using hfields
  obtain ⟨-, hadmit⟩ := htask crossed 0 0 _ entryTask rfl rfl rfl (by decide)
  obtain ⟨t, x, n, ht, -, hw, -, hhw, howner, -⟩ := hadmit _ k rfl rfl rfl rfl rfl rfl rfl rfl hk (by omega) (by decide +kernel) (by decide +kernel)
    (by decide +kernel) rfl rfl
  have hdispatch := crossed_dispatch
  rw [ht] at hdispatch
  have hx : (x.hw.map (·.pc), x.owner) = ([64], entryOwner) := by simpa [show t.warp? 0 = some x from hw] using hdispatch
  obtain ⟨hpcs, hown⟩ := Prod.mk.inj hx
  have hland : crossed.land (warpKey (0 * 96) 0) x (BitVec.ofNat 57 (k.entry / 4 * 4)) = 68 := by
    rw [hentry]
    exact ((SameCode.refl crossed).land 0 (x := entryWarp) hown _).trans crossed_land
  rw [hhw, hland] at hpcs
  exact absurd (List.singleton_inj.1 hpcs) (show (68 : BitVec 57) ≠ 64 by decide)

end Sys2Proof.Machine
end

section
/-! PROOFS. Memory instructions at issue: the form of each (R194 to R211, R305, R343, R346), and what it has done to its warp when its access starts. -/

namespace Sys2Proof.Machine

/-! ## Bytes of register groups (R6, R81) -/

theorem toBytes_length (n v : Nat) : (toBytes n v).length = n := by
  induction n generalizing v with
  | zero => rfl
  | succ n ih => rw [toBytes, List.length_cons, ih]

theorem toBytes_add (m n v : Nat) : toBytes (m + n) v = toBytes m v ++ toBytes n (v / 256 ^ m) := by
  induction m generalizing v with
  | zero => simp [toBytes]
  | succ m ih => rw [Nat.succ_add, toBytes, toBytes, ih, Nat.div_div_eq_div_mul, ← Nat.pow_succ', List.cons_append]

theorem toBytes_mod (n v : Nat) : toBytes n (v % 256 ^ n) = toBytes n v := by
  induction n generalizing v with
  | zero => rfl
  | succ n ih =>
    have hhead : BitVec.ofNat 8 (v % 256 ^ (n + 1)) = BitVec.ofNat 8 v := by
      apply BitVec.eq_of_toNat_eq
      simp only [BitVec.toNat_ofNat]
      exact Nat.mod_mod_of_dvd v (Dvd.intro_left (256 ^ n) rfl)
    have htail : v % 256 ^ (n + 1) / 256 = v / 256 % 256 ^ n := by
      rw [Nat.pow_succ', Nat.mod_mul_right_div_self]
    rw [toBytes, toBytes, hhead, htail, ih]

theorem toBytes_take (n m v : Nat) (h : m ≤ n) : (toBytes n v).take m = toBytes m v := by
  obtain ⟨k, rfl⟩ := Nat.exists_eq_add_of_le h
  rw [toBytes_add, List.take_left' (toBytes_length m v)]

/-- Words of 32 bits one after another are the bytes of their sum at their places. -/
theorem toBytes_words (g : Nat → Nat) (hg : ∀ k, g k < 2 ^ 32) (c : Nat) :
    ((List.range c).map fun k => g k * 2 ^ (32 * k)).sum < 256 ^ (4 * c) ∧
      toBytes (4 * c) ((List.range c).map fun k => g k * 2 ^ (32 * k)).sum = (List.range c).flatMap fun k => toBytes 4 (g k) := by
  induction c with
  | zero => exact ⟨Nat.one_pos, rfl⟩
  | succ c ih =>
    obtain ⟨hlt, hbytes⟩ := ih
    have hpow : 256 ^ (4 * c) = 2 ^ (32 * c) := by rw [show 256 = 2 ^ 8 from rfl, ← Nat.pow_mul]; congr 1; omega
    have hpow' : 256 ^ (4 * (c + 1)) = 2 ^ (32 * c) * 2 ^ 32 := by
      rw [show 256 = 2 ^ 8 from rfl, ← Nat.pow_mul, ← Nat.pow_add]; congr 1; omega
    have hgc := hg c
    rw [List.range_succ, List.map_append, List.sum_append, List.flatMap_append]
    simp only [List.map_cons, List.map_nil, List.sum_cons, List.sum_nil, Nat.add_zero, List.flatMap_cons, List.flatMap_nil, List.append_nil]
    generalize ((List.range c).map fun k => g k * 2 ^ (32 * k)).sum = S at *
    rw [hpow] at hlt
    constructor
    · rw [hpow']
      calc S + g c * 2 ^ (32 * c) < 2 ^ (32 * c) + g c * 2 ^ (32 * c) := Nat.add_lt_add_right hlt _
        _ = 2 ^ (32 * c) * (g c + 1) := by ring
        _ ≤ 2 ^ (32 * c) * 2 ^ 32 := Nat.mul_le_mul_left _ hgc
    · have hmod : (S + g c * 2 ^ (32 * c)) % 256 ^ (4 * c) = S := by rw [hpow, Nat.add_mul_mod_self_right, Nat.mod_eq_of_lt hlt]
      have hdiv : (S + g c * 2 ^ (32 * c)) / 256 ^ (4 * c) = g c := by
        rw [hpow, Nat.add_mul_div_right _ _ (Nat.two_pow_pos _), Nat.div_eq_of_lt hlt, Nat.zero_add]
      rw [Nat.mul_add, toBytes_add, hdiv, ← toBytes_mod (4 * c), hmod, hbytes]

/-- The bytes of a register group in a lane. -/
theorem groupBytes_eq (x : Warp) (n count width : Nat) (h : width ≤ 4 * count) (l : Fin 32) :
    groupBytes (x.group n count).1 width l = toBytes width (x.datum n count l) := by
  have hwords := (toBytes_words (fun k => ((x.lane (if n = 255 then 255 else n + k)).1[l]).toNat) (fun k => BitVec.isLt _) count).2
  unfold groupBytes Warp.group Warp.datum
  rw [← toBytes_take _ _ _ h, hwords]
  simp only [List.map_map, List.flatMap_map, Function.comp_apply]

theorem group_tags (x : Warp) (n count : Nat) : (x.group n count).2 = x.soiled n count := by
  unfold Warp.group Warp.soiled
  simp only [List.foldl_map]

/-! ## The form of a memory instruction -/

section
variable {i : Instr} {s : State} {x : Warp} {e : Entry} {sh : Shape} {f : Frame} {m : MemForm}

/-- The field rules of R59 to R62 that an encoded instruction meets. -/
theorem Ready.ok (h : Ready i s x e sh f) : sh.ok = true := by
  have hl := h.legal
  unfold WellFormed Instr.legal at hl
  rw [h.form] at hl
  simp only [Shape.legal, Bool.and_eq_true] at hl
  obtain ⟨⟨⟨⟨⟨⟨⟨⟨⟨⟨-, -⟩, hok⟩, -⟩, -⟩, -⟩, -⟩, -⟩, -⟩, -⟩, -⟩ := hl
  exact hok

theorem width_of_ldV {v : Nat} (h : Form.ldV.contains v = true) : widthOf v = memBytes v ∧ Form.mw v = memRegs v := by
  have hv : ∀ v ∈ Form.ldV, widthOf v = memBytes v ∧ Form.mw v = memRegs v := by decide
  exact hv v (List.contains_iff_mem.1 h)

theorem width_of_stV {v : Nat} (h : Form.stV.contains v = true) : widthOf v = memBytes v ∧ Form.mw v = memRegs v := by
  have hv : ∀ v ∈ Form.stV, widthOf v = memBytes v ∧ Form.mw v = memRegs v := by decide
  exact hv v (List.contains_iff_mem.1 h)

theorem memBytes_le (v : Nat) : memBytes v ≤ 4 * memRegs v := by
  rcases Nat.lt_or_ge v 7 with h | h
  · have hv : ∀ v < 7, memBytes v ≤ 4 * memRegs v := by decide
    exact hv v h
  · have h0 : memBytes v = 0 := by simp [memBytes, h]
    omega

theorem sees_storeData (n v : Nat) (hw : widthOf v = memBytes v) (hr : Form.mw v = memRegs v) :
    (s.sees x e sh f).storeData n (Form.mw v) (widthOf v) =
      fun l => (toBytes (memBytes v) (x.datum n (memRegs v) l), [], (x.soiled n (memRegs v)).getLsbD l.val) := by
  rw [hw, hr]
  funext l
  have hb := groupBytes_eq x n (memRegs v) (memBytes v) (memBytes_le v) l
  have ht := group_tags x n (memRegs v)
  exact Prod.ext hb (Prod.ext rfl (congrArg (·.getLsbD l.val) ht))

/-- The operands of an atomic. -/
theorem sees_atomData (n c k : Nat) (cas : Bool) :
    (s.sees x e sh f).atomData n c k (4 * k) cas =
      fun l => (toBytes (4 * k) (x.datum n k l), if cas = true then toBytes (4 * k) (x.datum c k l) else [],
        (x.soiled n k ||| if cas = true then x.soiled c k else 0).getLsbD l.val) := by
  funext l
  have hb := groupBytes_eq x n k (4 * k) (Nat.le_refl _) l
  have ht := group_tags x n k
  have hb' := groupBytes_eq x c k (4 * k) (Nat.le_refl _) l
  have ht' := group_tags x c k
  cases cas with
  | false => exact Prod.ext hb (Prod.ext List.take_nil (congrArg (fun m : Mask => (m ||| 0).getLsbD l.val) ht))
  | true =>
    refine Prod.ext hb (Prod.ext hb' ?_)
    show ((x.group n k).2 ||| (x.group c k).2).getLsbD l.val = _
    rw [ht, ht']
    rfl

/-- What an issued memory instruction does, for the form that the statements give it. -/
def ActsAs (i : Instr) (m : MemForm) (s : State) (x : Warp) (e : Entry) (sh : Shape) (f : Frame) : Prop :=
  exec i s = .next (((s.sees x e sh f).access (s.opened x e sh f) i m).after s s.cur f e)

theorem Ready.actsAs (h : Ready i s x e sh f) (hact : x.active f e ≠ 0) (hm : (i, m) ∈ memForms x f) : ActsAs i m s x e sh f := by
  have hok := h.ok
  rw [show sh = i.shape.1 from (congrArg Prod.fst h.form).symm] at hok
  have ld : Form.ldV.contains f.vn = true → memBytes f.vn = widthOf f.vn ∧ memRegs f.vn = Form.mw f.vn := fun hv => (width_of_ldV hv).imp Eq.symm Eq.symm
  have st : Form.stV.contains f.vn = true → ∀ n, memBytes f.vn = widthOf f.vn ∧ (fun l => (toBytes (memBytes f.vn) (x.datum n (memRegs f.vn) l), [],
      (x.soiled n (memRegs f.vn)).getLsbD l.val)) = (s.sees x e sh f).storeData n (Form.mw f.vn) (widthOf f.vn) := fun hv n => by
    obtain ⟨hw, hr⟩ := width_of_stV hv
    exact ⟨hw.symm, (sees_storeData n f.vn hw hr).symm⟩
  have at_ := fun n c => (sees_atomData (s := s) (x := x) (e := e) (sh := sh) (f := f) n c (f.vn + 1) (Form.isCas f)).symm
  simp only [Form.isCas, beq_iff_eq] at at_
  unfold memForms at hm
  simp only [List.mem_cons, List.not_mem_nil, or_false, Prod.mk.injEq] at hm
  unfold ActsAs
  rcases hm with ⟨rfl, rfl⟩ | ⟨rfl, rfl⟩ | ⟨rfl, rfl⟩ | ⟨rfl, rfl⟩ | ⟨rfl, rfl⟩ | ⟨rfl, rfl⟩ | ⟨rfl, rfl⟩ | ⟨rfl, rfl⟩ | ⟨rfl, rfl⟩ | ⟨rfl, rfl⟩ | ⟨rfl, rfl⟩ |
    ⟨rfl, rfl⟩ | ⟨rfl, rfl⟩ | ⟨rfl, rfl⟩ | ⟨rfl, rfl⟩ | ⟨rfl, rfl⟩ | ⟨rfl, rfl⟩ | ⟨rfl, rfl⟩
  all_goals simp only [Instr.shape, Bool.and_eq_true] at hok
  · rw [exec_ldl, execLdl, h.issueOnce, if_neg hact, (ld hok).1, (ld hok).2]; rfl
  · rw [exec_stl, execStl, h.issueOnce, if_neg hact, (st hok f.xb).2, (st hok f.xb).1]; rfl
  · rw [exec_lds, execLds, h.issueOnce, if_neg hact, (ld hok.1).1, (ld hok.1).2]; rfl
  · rw [exec_sts, execSts, h.issueOnce, if_neg hact, (st hok.1 f.xb).2, (st hok.1 f.xb).1]; rfl
  · rw [exec_atoms, execAtoms, h.issueOnce, if_neg hact, at_]; rfl
  · rw [exec_ldc, execLdc, h.issueOnce, if_neg hact, (ld hok.1).1, (ld hok.1).2]; rfl
  · rw [exec_stc, execStc, h.issueOnce, if_neg hact, (st hok.1 f.xb).2, (st hok.1 f.xb).1]; rfl
  · rw [exec_atomc, execAtomc, h.issueOnce, if_neg hact, at_]; rfl
  · rw [exec_ldo, execLdo, h.issueOnce, if_neg hact, (ld hok.1.1).1, (ld hok.1.1).2]; rfl
  · rw [exec_sto, execSto, h.issueOnce, if_neg hact, (st hok.1 f.xb).2, (st hok.1 f.xb).1]; rfl
  · rw [exec_atomo, execAtomo, h.issueOnce, if_neg hact, at_]; rfl
  · rw [exec_ldg, execLdg, h.issueOnce, if_neg hact, (ld hok.1.1.1).1, (ld hok.1.1.1).2]; rfl
  · rw [exec_stg, execStg, h.issueOnce, if_neg hact, (st hok.1 f.xc).2, (st hok.1 f.xc).1]; rfl
  · rw [exec_atomg, execAtomg, h.issueOnce, if_neg hact, at_]; rfl
  · rw [exec_redg, execRedg, h.issueOnce, if_neg hact, at_]; rfl
  · rw [exec_ldh, execLdh, h.issueOnce, if_neg hact, (ld hok.1.1).1, (ld hok.1.1).2]; rfl
  · rw [exec_sth, execSth, h.issueOnce, if_neg hact, (st hok.1 f.xc).2, (st hok.1 f.xc).1]; rfl
  · rw [exec_atomh, execAtomh, h.issueOnce, if_neg hact, at_]; rfl

/-- What a memory instruction marks empty are its destinations. -/
theorem memForms_dest (h : Ready i s x e sh f) (hm : (i, m) ∈ memForms x f) : m.dest.regs = sh.writes f := by
  have hok := h.ok
  rw [show sh = i.shape.1 from (congrArg Prod.fst h.form).symm] at hok ⊢
  have lane : ∀ n : Nat, (Dest.lane f.xd n).regs = (Opd.lane n).regs f.d f.dh := fun n => by
    by_cases hd : f.d = 255
    · have hx : f.xd = 255 := congrArg BitVec.toNat hd
      rw [Dest.regs, Opd.regs, if_pos hd, if_pos hx]
    · have hx : f.xd ≠ 255 := fun h => hd (BitVec.eq_of_toNat_eq h)
      rw [Dest.regs, Opd.regs, if_neg hd, if_neg hx]
      rfl
  have load : Form.ldV.contains f.vn = true →
      (if f.du then Dest.uni f.kd (if f.vn = 2 then 2 else 1) else .lane f.xd (memRegs f.vn)).regs = (Form.ldD f f.du).regs f.d f.dh := fun hv => by
    rw [← (width_of_ldV hv).2]
    unfold Form.ldD
    split
    · rfl
    · exact lane _
  have loadLane : Form.ldV.contains f.vn = true → (Dest.lane f.xd (memRegs f.vn)).regs = (Opd.lane (Form.mw f.vn)).regs f.d f.dh := fun hv => by
    rw [← (width_of_ldV hv).2]
    exact lane _
  unfold memForms at hm
  simp only [List.mem_cons, List.not_mem_nil, or_false, Prod.mk.injEq] at hm
  rcases hm with ⟨rfl, rfl⟩ | ⟨rfl, rfl⟩ | ⟨rfl, rfl⟩ | ⟨rfl, rfl⟩ | ⟨rfl, rfl⟩ | ⟨rfl, rfl⟩ | ⟨rfl, rfl⟩ | ⟨rfl, rfl⟩ | ⟨rfl, rfl⟩ | ⟨rfl, rfl⟩ | ⟨rfl, rfl⟩ |
    ⟨rfl, rfl⟩ | ⟨rfl, rfl⟩ | ⟨rfl, rfl⟩ | ⟨rfl, rfl⟩ | ⟨rfl, rfl⟩ | ⟨rfl, rfl⟩ | ⟨rfl, rfl⟩
  all_goals simp only [Instr.shape, Bool.and_eq_true] at hok
  · exact loadLane hok
  · rfl
  · exact loadLane hok.1
  · rfl
  · exact lane _
  · exact loadLane hok.1
  · rfl
  · exact lane _
  · exact load hok.1.1
  · rfl
  · exact lane _
  · exact load hok.1.1.1
  · rfl
  · exact lane _
  · rfl
  · exact load hok.1.1
  · rfl
  · exact lane _

theorem memForms_zero (hm : (i, m) ∈ memForms x f) : m.zero = fun _ => false := by
  unfold memForms at hm
  simp only [List.mem_cons, List.not_mem_nil, or_false, Prod.mk.injEq] at hm
  rcases hm with ⟨rfl, rfl⟩ | ⟨rfl, rfl⟩ | ⟨rfl, rfl⟩ | ⟨rfl, rfl⟩ | ⟨rfl, rfl⟩ | ⟨rfl, rfl⟩ | ⟨rfl, rfl⟩ | ⟨rfl, rfl⟩ | ⟨rfl, rfl⟩ | ⟨rfl, rfl⟩ | ⟨rfl, rfl⟩ |
    ⟨rfl, rfl⟩ | ⟨rfl, rfl⟩ | ⟨rfl, rfl⟩ | ⟨rfl, rfl⟩ | ⟨rfl, rfl⟩ | ⟨rfl, rfl⟩ | ⟨rfl, rfl⟩ <;> rfl

end

end Sys2Proof.Machine
end

section
/-! PROOFS. Memory instructions at issue: the warp whose destination is empty, and the access that it launches (R32, R165, R166). -/

namespace Sys2Proof.Machine

/-! ## Empty destinations (R24, R32) -/

theorem Warp.markEmpty_same (x : Warp) (r : Reg) (stamp : Nat) : SameBut x (x.markEmpty r stamp) := by
  cases r with
  | x n => unfold Warp.markEmpty; dsimp only; split <;> exact ⟨rfl, rfl, rfl⟩
  | k n => exact ⟨rfl, rfl, rfl⟩

theorem Warp.markEmpty_wait (x : Warp) (r : Reg) (stamp : Nat) : (x.markEmpty r stamp).wait = x.wait := by
  cases r with
  | x n => unfold Warp.markEmpty; dsimp only; split <;> rfl
  | k n => rfl

theorem Warp.markEmpty_psn (x : Warp) (r : Reg) (stamp : Nat) : (x.markEmpty r stamp).psn = x.psn ∧ (x.markEmpty r stamp).trap = x.trap := by
  cases r with
  | x n => unfold Warp.markEmpty; dsimp only; split <;> exact ⟨rfl, rfl⟩
  | k n => exact ⟨rfl, rfl⟩

theorem Warp.markEmpty_lbind_ne (x : Warp) {r : Reg} {n : Nat} (h : r ≠ .x n) (stamp : Nat) : (x.markEmpty r stamp).lbind n = x.lbind n := by
  cases r with
  | x j =>
    unfold Warp.markEmpty
    dsimp only
    split
    · rfl
    · exact congrArg (Option.map LReg.plain) (Tbl.get?_set_ne _ _ fun e => h (by rw [e]))
  | k j => rfl

theorem Warp.markEmpty_ubind_ne (x : Warp) {r : Reg} {n : Nat} (h : r ≠ .k n) (stamp : Nat) : (x.markEmpty r stamp).ubind n = x.ubind n := by
  cases r with
  | x j => unfold Warp.markEmpty; dsimp only; split <;> rfl
  | k j => exact congrArg (Option.map UReg.plain) (Tbl.get?_set_ne _ _ fun e => h (by rw [e]))

theorem Warp.markEmpty_isEmpty (x : Warp) {r : Reg} (h : r ≠ .x 255) (stamp : Nat) : (x.markEmpty r stamp).isEmpty r = true := by
  cases r with
  | x n =>
    have hn : n ≠ 255 := fun e => h (by rw [e])
    unfold Warp.markEmpty
    simp [hn, Warp.isEmpty]
  | k n => simp [Warp.markEmpty, Warp.isEmpty]

/-- A register stays empty while others are marked. -/
theorem Warp.markEmpty_isEmpty_mono (x : Warp) (r : Reg) (stamp : Nat) {q : Reg} (h : x.isEmpty q = true) : (x.markEmpty r stamp).isEmpty q = true := by
  by_cases hq : q = r
  · subst hq
    by_cases h255 : q = .x 255
    · subst h255; exact h
    · exact x.markEmpty_isEmpty h255 stamp
  · cases r with
    | x j =>
      unfold Warp.markEmpty
      dsimp only
      split
      · exact h
      · cases q with
        | x n => simpa [Warp.isEmpty, Tbl.get?_set_ne _ _ (show n ≠ j from fun e => hq (by rw [e]))] using h
        | k n => exact h
    | k j => cases q with
      | x n => exact h
      | k n => simpa [Warp.markEmpty, Warp.isEmpty, Tbl.get?_set_ne _ _ (show n ≠ j from fun e => hq (by rw [e]))] using h

/-- The warp with its destinations empty. -/
def Warp.expects (x : Warp) (rs : List Reg) (stamp : Nat) : Warp := rs.foldl (fun x r => x.markEmpty r stamp) x

theorem Warp.expects_same (x : Warp) (rs : List Reg) (stamp : Nat) : SameBut x (x.expects rs stamp) := foldl_same _ (fun y r => y.markEmpty_same r stamp) rs x
theorem Warp.expects_wait (x : Warp) (rs : List Reg) (stamp : Nat) : (x.expects rs stamp).wait = x.wait :=
  foldl_keeps _ Warp.wait (fun y r => y.markEmpty_wait r stamp) rs x
theorem Warp.expects_flaws (x : Warp) (rs : List Reg) (stamp : Nat) : (x.expects rs stamp).psn = x.psn ∧ (x.expects rs stamp).trap = x.trap :=
  ⟨foldl_keeps _ Warp.psn (fun y r => (y.markEmpty_psn r stamp).1) rs x, foldl_keeps _ Warp.trap (fun y r => (y.markEmpty_psn r stamp).2) rs x⟩

theorem Warp.expects_lbind (x : Warp) {rs : List Reg} {n : Nat} (h : Reg.x n ∉ rs) (stamp : Nat) : (x.expects rs stamp).lbind n = x.lbind n := by
  induction rs generalizing x with
  | nil => rfl
  | cons r rs ih =>
    obtain ⟨hr, hrs⟩ := List.ne_and_not_mem_of_not_mem_cons h
    exact (ih (x.markEmpty r stamp) hrs).trans (x.markEmpty_lbind_ne (Ne.symm hr) stamp)

theorem Warp.expects_ubind (x : Warp) {rs : List Reg} {n : Nat} (h : Reg.k n ∉ rs) (stamp : Nat) : (x.expects rs stamp).ubind n = x.ubind n := by
  induction rs generalizing x with
  | nil => rfl
  | cons r rs ih =>
    obtain ⟨hr, hrs⟩ := List.ne_and_not_mem_of_not_mem_cons h
    exact (ih (x.markEmpty r stamp) hrs).trans (x.markEmpty_ubind_ne (Ne.symm hr) stamp)

theorem Warp.expects_isEmpty (x : Warp) {rs : List Reg} (h : Reg.x 255 ∉ rs) (stamp : Nat) {q : Reg} (hq : q ∈ rs) : (x.expects rs stamp).isEmpty q = true := by
  induction rs generalizing x with
  | nil => exact absurd hq List.not_mem_nil
  | cons r rs ih =>
    have hlast : ∀ (rs : List Reg) (y : Warp), y.isEmpty q = true → (y.expects rs stamp).isEmpty q = true := by
      intro rs
      induction rs with
      | nil => exact fun _ hy => hy
      | cons p ps ihp => exact fun y hy => ihp _ (y.markEmpty_isEmpty_mono p stamp hy)
    obtain ⟨hr, hrs⟩ := List.ne_and_not_mem_of_not_mem_cons h
    rcases List.mem_cons.1 hq with rfl | hq
    · exact hlast rs _ (x.markEmpty_isEmpty (Ne.symm hr) stamp)
    · exact ih (x.markEmpty r stamp) hrs hq

/-! ## The warp at the launch of its access -/

section
variable {i : Instr} {s : State} {x : Warp} {e : Entry} {sh : Shape} {f : Frame} {m : MemForm}

/-- The warp of a memory instruction when its access starts: its sources read, its destinations empty. -/
def Warp.issued (x : Warp) (e : Entry) (sh : Shape) (f : Frame) (stamp : Nat) : Warp := (x.opened e sh f stamp).expects (sh.writes f) stamp

theorem Warp.issued_same (x : Warp) (e : Entry) (sh : Shape) (f : Frame) (stamp : Nat) : SameBut x (x.issued e sh f stamp) :=
  (Warp.opened_same x e sh f stamp).trans (Warp.expects_same ..)

theorem Warp.issued_wait (x : Warp) (e : Entry) (sh : Shape) (f : Frame) (stamp : Nat) : (x.issued e sh f stamp).wait = none :=
  Warp.expects_wait ..

theorem Ready.wrote_issued (h : Ready i s x e sh f) : Wrote x (x.issued e sh f s.clock) e sh f := by
  have hw := h.wrote
  have hs := Warp.issued_same x e sh f s.clock
  refine ⟨hs.hw, hs.run, Warp.issued_wait .., hs.owner, ⟨fun n hn => ?_, fun n hn => ?_⟩, fun ha => ?_⟩
  · rw [Warp.issued, Warp.expects_lbind _ hn]
    exact hw.regs.lanes n hn
  · rw [Warp.issued, Warp.expects_ubind _ hn]
    exact hw.regs.unis n hn
  · obtain ⟨hp, ht⟩ := Warp.expects_flaws (x.opened e sh f s.clock) (sh.writes f) s.clock
    obtain ⟨hp', ht'⟩ := hw.flaws ha
    exact ⟨hp.trans hp', (congrArg TrapRegs.poison ht).trans ht'⟩

theorem Dest.regs_ne_xz (d : Dest) : Reg.x 255 ∉ d.regs := by
  cases d with
  | none => exact List.not_mem_nil
  | lane n count =>
    unfold Dest.regs
    dsimp only
    split
    · exact List.not_mem_nil
    · intro h
      obtain ⟨r, -, hr⟩ := List.mem_filterMap.1 h
      split at hr
      · exact nomatch hr
      · next hne => exact hne (by simpa using hr)
  | uni n count => simp [Dest.regs]

theorem Warp.issued_isEmpty (h : Ready i s x e sh f) (hm : (i, m) ∈ memForms x f) {q : Reg} (hq : q ∈ sh.writes f) :
    (x.issued e sh f s.clock).isEmpty q = true :=
  Warp.expects_isEmpty _ (memForms_dest h hm ▸ m.dest.regs_ne_xz) _ hq

/-- A release finds the warp's slice stores at their homes. -/
theorem State.cleanSlices_clean {w scope : Nat} (h : scope < 2 ∨ s.sliceClean w) : s.cleanSlices w scope = s := by
  unfold State.cleanSlices
  refine if_pos ?_
  rcases h with h | h
  · simp [h]
  · have hout : ((s.core (coreOf w)).slices.filter fun l => l.w == w && l.dirty) = [] := List.filter_eq_nil_iff.2 fun l hl => by
      simpa using h l hl
    simp [hout]

/-- An aligned access that need not wait for the operand log is launched. -/
theorem Issue.access_launches {j : Issue} {t : State} (hfind : ((j.accLanes m).filter fun l => !(m.addr l).2).find? (fun l => (m.addr l).1 % m.width != 0) = none)
    (hlog : j.x.log = []) (hbusy : (decide (2 ≤ m.ord) && j.x.logBusy) = false) (hz : m.zero = fun _ => false)
    (hclean : t.fresh.2.cleanSlices j.w (if 2 ≤ m.ord then m.scope else 0) = t.fresh.2) :
    j.access t i m = .next ((t.fresh.2.modWarp j.w fun y => y.expects m.dest.regs t.clock).launchAccess (j.request t i m t.nextId)) := by
  unfold Issue.access
  simp only [hfind]
  generalize hf : t.fresh = p at hclean ⊢
  obtain ⟨id, u⟩ := p
  obtain rfl : t.nextId = id := congrArg Prod.fst hf
  have hnone : ((j.accLanes m).filter fun l => !(m.addr l).2).filter m.zero = [] := by simp [hz]
  simp only [hlog, List.any_nil, Bool.false_eq_true, if_false, hbusy, hclean, hnone, List.isEmpty_nil, if_true]
  rfl

/-- What a ready memory instruction launches its access from: its number drawn, its warp issued. -/
def State.launching (s : State) (x : Warp) (e : Entry) (sh : Shape) (f : Frame) : State := s.fresh.2.setWarp s.cur (x.issued e sh f s.clock)

/-- An aligned access of a warp whose operand log is free is launched. -/
theorem Ready.exec_access (h : Ready i s x e sh f) (hact : x.active f e ≠ 0) (hm : (i, m) ∈ memForms x f)
    (hal : Aligned (lanesFor m (x.active f e)) m) (hlog : x.log = []) (hfifth : m.ord < 2 ∨ x.fifth = none)
    (hclean : m.ord < 2 ∨ m.scope < 2 ∨ s.sliceClean s.cur) :
    exec i s = .next (((s.launching x e sh f).launchAccess ((s.sees x e sh f).request s i m s.nextId)).retire s.cur f true) := by
  have hfind : ((lanesFor m (x.active f e)).filter fun l => !(m.addr l).2).find? (fun l => (m.addr l).1 % m.width != 0) = none := by
    refine List.find?_eq_none.2 fun l hl => ?_
    obtain ⟨hl, ht⟩ := List.mem_filter.1 hl
    simpa using hal l hl (by simpa using ht)
  have hbusy : (decide (2 ≤ m.ord) && x.logBusy) = false := by
    rcases hfifth with hf | hf
    · simp [Nat.not_le.2 hf]
    · simp [Warp.logBusy, hlog, hf]
  have hcs : (s.opened x e sh f).fresh.2.cleanSlices s.cur (if 2 ≤ m.ord then m.scope else 0) = (s.opened x e sh f).fresh.2 := by
    refine State.cleanSlices_clean ?_
    rcases hclean with hc | hc | hc
    · exact .inl (by simp [Nat.not_le.2 hc])
    · exact .inl (by split <;> omega)
    · exact .inr hc
  have hmark : (s.opened x e sh f).fresh.2.modWarp s.cur (fun y => y.expects m.dest.regs (s.opened x e sh f).clock) = s.launching x e sh f := by
    rw [memForms_dest h hm]
    exact State.modWarp_setWarp s.fresh.2 s.cur (x.opened e sh f s.clock) _
  have hlaunch := Issue.access_launches (i := i) (j := s.sees x e sh f) (t := s.opened x e sh f) hfind hlog hbusy (memForms_zero hm) hcs
  rw [h.actsAs hact hm, hlaunch]
  exact congrArg (fun t : State => Host.Outcome.next ((t.launchAccess ((s.sees x e sh f).request s i m s.nextId)).retire s.cur f true)) hmark

/-- A warp whose instruction has retired has gone past it, and waits as it did when it retired. -/
theorem Gone.of_retire {u : State} {z : Warp} (hcur : u.cur = s.cur) (hhead : x.hw.head? = some e) (hhw : z.hw = x.hw) (hrun : z.run = x.run)
    (howner : z.owner = x.owner) :
    let t := (u.setWarp s.cur z).retire s.cur f true
    t.warp? s.cur = some (Warp.retired u s.cur z f true) ∧ OnlyWarp u t ∧ Gone t s.cur x (Warp.retired u s.cur z f true) e f z.wait := by
  rw [← hcur]
  obtain ⟨hw, ho⟩ := State.retire_only_warp u z f true
  refine ⟨hw, ho, ?_⟩
  generalize (u.setWarp u.cur z).retire u.cur f true = t at ho ⊢
  have hcode : SameCode u t := by
    refine ⟨?_, ?_, ?_, ?_, ?_, fun c => ?_, fun c => ?_⟩
    · rw [ho.rest]
    · rw [ho.rest]
    · rw [ho.rest]
    · rw [ho.rest]
    · rw [ho.rest]
    · obtain ⟨q, hq⟩ := ho.cores c
      rw [hq]
    · obtain ⟨q, hq⟩ := ho.cores c
      rw [hq]
  cases hx : x.hw with
  | nil => simp [hx] at hhead
  | cons e' es =>
    obtain rfl : e' = e := by simpa [hx] using hhead
    have hl : ∀ pc, t.land u.cur x pc = u.land u.cur z pc := fun pc => hcode.land u.cur howner.symm pc
    refine ⟨?_, ?_, ?_⟩
    · simp [Warp.retired, hhw, hx, Warp.replaceHead, hl]
    · simp [Warp.retired, hhw, hx, Warp.replaceHead, hrun]
    · simp [Warp.retired, hhw, hx, Warp.replaceHead]

theorem Warp.retired_isEmpty (u : State) (w : Nat) (z : Warp) (f : Frame) (b : Bool) (r : Reg) : (Warp.retired u w z f b).isEmpty r = z.isEmpty r := by
  cases r with
  | x n => rw [Warp.isEmpty, Warp.isEmpty, Warp.retired_x]
  | k n => rw [Warp.isEmpty, Warp.isEmpty, Warp.retired_k]

theorem Warp.retired_unflawed {z : Warp} {act : Mask} (h : Unflawed x z sh f act) (u : State) (w : Nat) (b : Bool) :
    Unflawed x (Warp.retired u w z f b) sh f act := fun ha => by
  obtain ⟨hp, ht⟩ := Warp.retired_flaws u w z f b
  obtain ⟨hp', ht'⟩ := h ha
  exact ⟨hp.trans hp', (congrArg TrapRegs.poison ht).trans ht'⟩

end

end Sys2Proof.Machine
end

section
/-! PROOFS. Accesses that have performed: the end of their flight (R32, R127, R368), and the values that are on their way to registers (R194, R196, R346). -/

namespace Sys2Proof.Machine

/-! ## The end of a step of an access: a warp that has not ended stays (R127) -/

/-- A warp that has not ended, and owes its call slot nothing, keeps its slot. -/
theorem State.reap_alive {s : State} {w : Nat} {x : Warp} (hw : s.warp? w = some x) (hlive : x.marks.ended = false) (hposts : x.call.posts = []) :
    s.reap w = s.setWarp w x := by
  have hput : s.putPosts w = s := by simp [State.putPosts, hw, hposts]
  unfold State.reap
  simp [hput, State.modWarp_eq hw, hlive]

/-! ## What reads leave behind (R368, R375) -/

/-- `u` is `s` after the reads of an access have been noted: its warp `x` has seen stores up to the number `saw`, and its core may have lost its L1 lines. -/
structure Noted (s u : State) (a : Access) (x : Warp) (saw : Nat) : Prop where
  grows : x.sawMark ≤ saw
  writes : a.reads = false → saw = x.sawMark
  warp : u.warp? a.w = some { x with sawMark := saw }
  others : ∀ w, w ≠ a.w → u.warp? w = s.warp? w
  cores : ∀ c, ∃ l1, u.core c = { s.core c with l1 := l1 } ∧ (a.reads = false ∨ x.dropMark ≤ a.id ∨ c ≠ a.core → l1 = (s.core c).l1)
  rest : u = { s with warps := u.warps, cores := u.cores }

theorem le_foldl_max (l : List Nat) (n : Nat) : n ≤ l.foldl Nat.max n := by
  induction l generalizing n with
  | nil => exact Nat.le_refl n
  | cons a l ih => exact (Nat.le_max_left n a).trans (ih _)

theorem State.acquire_core (s : State) (core scope c : Nat) :
    (s.acquire core scope).core c = if 2 ≤ scope ∧ c = core then { s.core c with l1 := [] } else s.core c := by
  unfold State.acquire
  by_cases h : 2 ≤ scope
  · rw [if_pos h, State.modCore, State.core_setCore]
    by_cases e : c = core
    · rw [if_pos e, if_pos ⟨h, e⟩, e]
    · rw [if_neg e, if_neg fun q => e q.2]
  · rw [if_neg h, if_neg fun q => h q.1]

theorem State.acquire_warp? (s : State) (core scope w : Nat) : (s.acquire core scope).warp? w = s.warp? w := by
  unfold State.acquire; split <;> rfl

theorem State.acquire_rest (s : State) (core scope : Nat) : s.acquire core scope = { s with cores := (s.acquire core scope).cores } := by
  unfold State.acquire; split <;> rfl

theorem State.noteReads_noted {s : State} {a : Access} {x : Warp} (hw : s.warp? a.w = some x) : ∃ saw, Noted s (s.noteReads a) a x saw := by
  unfold State.noteReads
  rw [hw]
  by_cases hr : a.reads = true
  · simp only [hr, Bool.not_true, Bool.false_eq_true, if_false]
    generalize hsaw : ((s.flights.filter fun f => f.core == a.core && f.w != a.w && s.early f && s.meets a a.lanes f).map (·.id + 1)).foldl Nat.max x.sawMark = saw
    refine ⟨saw, hsaw ▸ le_foldl_max _ _, fun h => absurd (hr.symm.trans h) (by decide), ?_, fun w h => ?_, fun c => ?_, ?_⟩
    · rw [State.acquire_warp?, State.warp?_setWarp_self]
    · rw [State.acquire_warp?, State.warp?_setWarp_ne _ _ h]
    · rw [State.acquire_core]
      by_cases hc : 2 ≤ (if a.id < x.dropMark then 2 else 0) ∧ c = a.core
      · rw [if_pos hc]
        refine ⟨[], rfl, fun h => ?_⟩
        have hlt : a.id < x.dropMark := by
          by_contra hn
          simp [hn] at hc
        rcases h with h | h | h
        · exact absurd (hr.symm.trans h) (by decide)
        · omega
        · exact absurd hc.2 h
      · rw [if_neg hc]
        exact ⟨_, rfl, fun _ => rfl⟩
    · rw [State.acquire_rest]; rfl
  · have hr : a.reads = false := by simpa using hr
    simp only [hr, Bool.not_false, if_true]
    exact ⟨x.sawMark, Nat.le_refl _, fun _ => rfl, hw, fun _ _ => rfl, fun c => ⟨_, rfl, fun _ => rfl⟩, rfl⟩

/-! ## An access settles (R32, R165, R169) -/

section
variable {s : State} {a : Access} {x z : Warp}

theorem Warp.wait_none (h : z.wait = none) : { z with wait := none } = z := by
  cases z
  simp_all

/-- The wait for an access that acquires at `.wp` or `.co` ends, and discards nothing (R208). -/
theorem State.endAcquire_near (hz : s.warp? a.w = some z) (hrp : a.rp = false) (hscope : a.scope < 2) (hwait : z.wait = some (.access a.id a.scope)) :
    s.endAcquire a = s.setWarp a.w { z with wait := none } := by
  unfold State.endAcquire
  simp only [hz, hwait, hrp, bne_self_eq_false, Bool.false_eq_true, if_false, List.isEmpty_nil, if_true]
  rw [State.modWarp_eq hz, State.acquireFor, if_neg (by omega)]

/-- The end of an access whose warp waits for nothing, or for an acquire of its own at `.wp` or `.co`. -/
theorem State.endAcquire_reap (hz : s.warp? a.w = some z) (hlive : z.marks.ended = false) (hposts : z.call.posts = [])
    (hwait : z.wait = none ∨ z.wait = some (.access a.id a.scope) ∧ a.rp = false ∧ a.scope < 2) :
    (s.endAcquire a).reap a.w = s.setWarp a.w { z with wait := none } := by
  rcases hwait with hwait | ⟨hwait, hrp, hscope⟩
  · rw [State.endAcquire_idle hz (by rw [hwait]; exact nofun), State.reap_alive hz hlive hposts, Warp.wait_none hwait]
  · rw [State.endAcquire_near hz hrp hscope hwait,
      State.reap_alive (State.warp?_setWarp_self ..) (show ({ z with wait := none } : Warp).marks.ended = false from hlive) hposts, State.setWarp_setWarp]

/-- The warp with the result of an access on its way, where there is one. -/
def Warp.awaits (z : Warp) (a : Access) : Warp :=
  { z with results := z.results ++ if a.puts = [] ∧ a.psn = false then [] else [{ id := a.id, puts := a.puts, psn := a.psn, pc := a.pc }] }

/-- Once every lane has performed the flight is over, the result is on its way, and the warp waits no more. -/
theorem State.settle_done (ht : a.todo = []) (hf : a.failed = []) (he : a.entry = none) (hz : (s.noteReads a).warp? a.w = some z)
    (hlive : z.marks.ended = false) (hposts : z.call.posts = []) (hwait : z.wait = none ∨ z.wait = some (.access a.id a.scope) ∧ a.rp = false ∧ a.scope < 2) :
    s.settle a = State.setWarp { s.noteReads a with flights := (s.noteReads a).flights.filter fun f => f.id != a.id } a.w { z.awaits a with wait := none } := by
  have hz' : ((s.noteReads a).removeFlight a.id).warp? a.w = some z := hz
  have hend := State.endAcquire_reap hz' hlive hposts hwait
  have hend' := State.endAcquire_reap (State.warp?_setWarp_self ((s.noteReads a).removeFlight a.id) a.w (z.awaits a)) hlive hposts hwait
  rw [State.setWarp_setWarp] at hend'
  unfold State.settle
  simp only [ht, hf, he, List.isEmpty_nil, Bool.not_true, Bool.false_eq_true, if_false, Option.isSome_none]
  by_cases hp : a.puts = [] ∧ a.psn = false
  · have hb : (a.puts.isEmpty && !a.psn) = true := by simp [hp]
    have hsame : z.awaits a = z := by simp [Warp.awaits, if_pos hp]
    rw [if_pos hb, hsame]
    exact hend
  · have hb : ¬ (a.puts.isEmpty && !a.psn) = true := by simpa using hp
    have hnew : z.awaits a = { z with results := z.results ++ [{ id := a.id, puts := a.puts, psn := a.psn, pc := a.pc }] } := by
      rw [Warp.awaits, if_neg hp]
    rw [if_neg hb, State.modWarp_eq hz']
    rw [hnew] at hend' ⊢
    exact hend'

end

/-! ## What lanes have read (R194, R196) -/

/-- What a lane reads of its bytes in a view of memory: their values, or poison. -/
def State.laneRead (v : State) (ks : List Nat) : List Byte × Bool := if v.anyMarked ks then ([], true) else (v.bytes ks, false)

theorem foldl_readLane (v : State) (place : LaneAcc → List Nat) (ls : List LaneAcc) (g : Got) :
    ls.foldl (fun g l => readLane v (place l) l g) g =
      { done := g.done ++ ls.map fun l => (l.lane, v.laneRead (place l)), psn := g.psn || ls.any fun l => v.anyMarked (place l) } := by
  induction ls generalizing g with
  | nil => simp
  | cons l ls ih =>
    rw [List.foldl_cons, ih, readLane]
    by_cases h : v.anyMarked (place l) = true
    · simp [h, State.laneRead]
    · have h : v.anyMarked (place l) = false := by simpa using h
      simp [h, State.laneRead]

/-- A register of a loaded value. -/
theorem loadWords_getD {v i : Nat} (h : i < memRegs v) (bs : List Byte) : (loadWords v bs).getD i 0 = loadedWord v i bs := by
  match v, h with
  | 0, h => obtain rfl : i = 0 := by simpa [memRegs] using h
            simp [loadWords, loadedWord]
  | 1, h =>
    have : i = 0 ∨ i = 1 := by simp [memRegs] at h; omega
    rcases this with rfl | rfl <;> simp [loadWords, loadedWord]
  | 2, h =>
    have : i < 4 := by simpa [memRegs] using h
    simp [loadWords, loadedWord, this]
  | 3, h => obtain rfl : i = 0 := by simpa [memRegs] using h
            simp [loadWords, loadedWord]
  | 4, h => obtain rfl : i = 0 := by simpa [memRegs] using h
            simp [loadWords, loadedWord]
  | 5, h => obtain rfl : i = 0 := by simpa [memRegs] using h
            simp [loadWords, loadedWord]
  | 6, h => obtain rfl : i = 0 := by simpa [memRegs] using h
            simp [loadWords, loadedWord]
  | n + 7, h => simp [memRegs] at h

theorem loadUnis_getD {v i : Nat} (h : i < if v = 2 then 2 else 1) (bs : List Byte) : (loadUnis v bs).getD i 0 = loadedUni v i bs := by
  by_cases h2 : v = 2
  · subst h2
    have : i = 0 ∨ i = 1 := by simp at h; omega
    rcases this with rfl | rfl <;> simp [loadUnis, loadedUni]
  · obtain rfl : i = 0 := by simpa [h2] using h
    unfold loadUnis loadedUni
    split <;> simp_all

end Sys2Proof.Machine
end

section
/-! PROOFS. Accesses that set out: translation sees no warp and changes caches alone (R393, R394), and a flight that starts (R32, R165). -/

namespace Sys2Proof.Machine

/-! ## Translation and the warps (R393) -/

/-- The state with other warps, and another number to give next. -/
def State.rewarped (s : State) (ws : Tbl Warp) (n : Nat) : State := { s with warps := ws, nextId := n }

theorem SameCode.rewarped (s : State) (ws : Tbl Warp) (n : Nat) : SameCode s (s.rewarped ws n) := ⟨rfl, rfl, rfl, rfl, rfl, fun _ => rfl, fun _ => rfl⟩

theorem SameCode.keyLoaded {s t : State} (h : SameCode s t) (p key : Nat) : t.keyLoaded p key = s.keyLoaded p key := by
  simp only [State.keyLoaded, h.pkg]

theorem SameCode.walkTrail {s t : State} (h : SameCode s t) (c : List WalkLine) (a : BitVec 16) (p va n table : Nat) :
    t.walkTrail c a p va n table = s.walkTrail c a p va n table := by
  induction n generalizing table with
  | zero => rfl
  | succ n ih => simp only [State.walkTrail, h.homeFault, h.readTable, h.redirect, h.keyLoaded, ih]

theorem SameCode.walkPlaces {s t : State} (h : SameCode s t) (c : List WalkLine) (a : BitVec 16) (p va n table : Nat) :
    t.walkPlaces c a p va n table = s.walkPlaces c a p va n table := by
  induction n generalizing table with
  | zero => rfl
  | succ n ih => simp only [State.walkPlaces, h.homeFault, h.readTable, h.redirect, h.keyLoaded, ih]

theorem State.noteWalk_rewarped (s : State) (ws : Tbl Warp) (n core p va : Nat) :
    (s.rewarped ws n).noteWalk core p va = (s.noteWalk core p va).rewarped ws n := by
  have h := SameCode.rewarped s ws n
  unfold State.noteWalk
  rw [show (s.rewarped ws n).proc? p = s.proc? p from rfl]
  cases (s.proc? p).bind Proc.rootTable with
  | none => rfl
  | some root =>
    simp only [h.walkTrail, h.walkPlaces, h.asid]
    rfl

theorem State.translate_rewarped (s : State) (ws : Tbl Warp) (n core p va perm : Nat) :
    (s.rewarped ws n).translate core p va perm = ((s.translate core p va perm).1, (s.translate core p va perm).2.rewarped ws n) := by
  have h := SameCode.rewarped s ws n
  unfold State.translate
  rw [h.asid, h.lookup, show (s.rewarped ws n).core core = s.core core from rfl,
    show (s.rewarped ws n).cachedLeaf core p va perm = s.cachedLeaf core p va perm from rfl, State.noteWalk_rewarped]
  cases (tlbFind (s.core core).tlb (s.asid p) va).filter (permits perm) with
  | some e => rfl
  | none =>
    cases s.lookup core p va perm with
    | fault c => rfl
    | leaf e place => dsimp only; split <;> rfl

theorem SameCode.serveVa {s t : State} (h : SameCode s t) (job : W32) (va n perm : Nat) : t.serveVa job va n perm = s.serveVa job va n perm := by
  simp only [State.serveVa, h.procs, h.walk]

theorem State.reachVa_rewarped {x y : Warp} (hxy : y.still = x.still) (s : State) (ws : Tbl Warp) (n : Nat) (a : Access) (l : LaneAcc) :
    (s.rewarped ws n).reachVa y a l = ((s.reachVa x a l).1, (s.reachVa x a l).2.rewarped ws n) := by
  have hbase : y.lprivBase = x.lprivBase := (congrArg Warp.lprivBase hxy :)
  have hva : y.sliceVa = x.sliceVa := by funext i o; simp only [Warp.sliceVa, hbase]
  have hacc : y.accVa a l = x.accVa a l := by simp only [Warp.accVa, hva]
  unfold State.reachVa
  simp only [hacc, hva, State.translate_rewarped, (SameCode.rewarped s ws n).serveVa]
  generalize s.translate a.core a.proc (x.accVa a l) a.op.perm = r
  obtain ⟨w, t⟩ := r
  cases w with
  | fault c => rfl
  | leaf e place =>
    dsimp only
    split
    · rfl
    · rfl

theorem State.reachOf_rewarped {x y : Warp} (hxy : y.still = x.still) (s : State) (ws : Tbl Warp) (n : Nat) (a : Access) (l : LaneAcc) :
    (s.rewarped ws n).reachOf y a l = ((s.reachOf x a l).1, (s.reachOf x a l).2.rewarped ws n) := by
  have hva := State.reachVa_rewarped hxy s ws n a l
  have hsp : y.spwin = x.spwin := (congrArg Warp.spwin hxy :)
  have hspb : y.spbase = x.spbase := (congrArg Warp.spbase hxy :)
  have hcs : y.cswin = x.cswin := (congrArg Warp.cswin hxy :)
  have hcsb : y.csbase = x.csbase := (congrArg Warp.csbase hxy :)
  have hstr : y.straddle = x.straddle := (congrArg Warp.straddle hxy :)
  have hlp : y.lprivSize = x.lprivSize := (congrArg Warp.lprivSize hxy :)
  unfold State.reachOf
  rw [hsp, hspb, hcs, hcsb, hstr, hlp, hva]
  cases a.space with
  | scratch => dsimp only; split <;> rfl
  | cluster => dsimp only; split <;> rfl
  | grotto =>
    simp only [show (s.rewarped ws n).proc? a.proc = s.proc? a.proc from rfl]
    split <;> rfl
  | host => rfl
  | slice => dsimp only; split <;> rfl
  | global => dsimp only; split <;> rfl
  | window => dsimp only; split <;> rfl

/-- What translation of an access gives, and its caches, do not depend on the warps. -/
theorem State.resolve_rewarped {x y : Warp} (hxy : y.still = x.still) (s : State) (ws : Tbl Warp) (n : Nat) (a : Access) :
    (s.rewarped ws n).resolve y a = ((s.resolve x a).1, (s.resolve x a).2.rewarped ws n) := by
  unfold State.resolve
  generalize hr : (Except.ok [] : Except (Nat × Nat × Bool) (List LaneAcc)) = r
  clear hr
  generalize a.lanes = ls
  induction ls generalizing s r with
  | nil => rfl
  | cons l ls ih =>
    rw [List.foldl_cons, List.foldl_cons]
    cases r with
    | error e => exact ih s (.error e)
    | ok done =>
      dsimp only
      rw [State.reachOf_rewarped hxy]
      by_cases hd : (a.done.any fun d => d.1 == l.lane) = true
      · simp only [if_pos hd]
        exact ih s (.ok (done ++ [l]))
      · simp only [if_neg hd]
        generalize s.reachOf x a l = q
        obtain ⟨w, t⟩ := q
        cases w with
        | keys ks => exact ih t _
        | node m => exact ih t _
        | fault c va now => exact ih t _

/-! ## What translation leaves behind (R394) -/

/-- `u` is `s` but for caches of translation: the leaves that one core and its cluster hold, the table entries of walkers, and the uses of table lines. -/
structure Walked (s u : State) (core : Nat) : Prop where
  cores : ∀ c, ∃ tlb, u.core c = { s.core c with tlb := tlb } ∧ (c ≠ core → u.core c = s.core c)
  clusters : ∀ c, ∃ tlb, u.cluster c = { s.cluster c with tlb := tlb }
  dies : ∀ d, ∃ ws, u.die d = { s.die d with walks := ws }
  rest : u = { s with cores := u.cores, clusters := u.clusters, dies := u.dies, uses := u.uses }
  still : (∀ d ∈ s.dies, d.2.slots = []) → ∀ d ∈ u.dies, d.2.slots = []

theorem Walked.refl (s : State) (core : Nat) : Walked s s core := ⟨fun _ => ⟨_, rfl, fun _ => rfl⟩, fun _ => ⟨_, rfl⟩, fun _ => ⟨_, rfl⟩, rfl, id⟩

theorem Walked.trans {s t u : State} {core : Nat} (h : Walked s t core) (k : Walked t u core) : Walked s u core := by
  refine ⟨fun c => ?_, fun c => ?_, fun d => ?_, ?_, k.still ∘ h.still⟩
  · obtain ⟨a, ha, ha'⟩ := h.cores c
    obtain ⟨b, hb, hb'⟩ := k.cores c
    exact ⟨b, by rw [hb, ha], fun hc => (hb' hc).trans (ha' hc)⟩
  · obtain ⟨a, ha⟩ := h.clusters c
    obtain ⟨b, hb⟩ := k.clusters c
    exact ⟨b, by rw [hb, ha]⟩
  · obtain ⟨a, ha⟩ := h.dies d
    obtain ⟨b, hb⟩ := k.dies d
    exact ⟨b, by rw [hb, ha]⟩
  · rw [k.rest, h.rest]

theorem State.cluster_setCluster (s : State) (c d : Nat) (x : Cluster) : (s.setCluster c x).cluster d = if d = c then x else s.cluster d := by
  simp only [State.cluster, State.setCluster, Tbl.getD, Tbl.get?_set]
  split <;> rfl

theorem State.die_setDie (s : State) (c d : Nat) (x : Die) : (s.setDie c x).die d = if d = c then x else s.die d := by
  simp only [State.die, State.setDie, Tbl.getD, Tbl.get?_set]
  split <;> rfl

theorem Tbl.mem_set {α : Type} {t : Tbl α} {k : Nat} {v : α} {p : Nat × α} (h : p ∈ t.set k v) : p = (k, v) ∨ p ∈ t := by
  induction t with
  | nil => exact .inl (by simpa [Tbl.set] using h)
  | cons q t ih =>
    obtain ⟨j, w⟩ := q
    unfold Tbl.set at h
    split at h
    · exact List.mem_cons.1 h
    · split at h
      · exact (List.mem_cons.1 h).imp_right (List.mem_cons_of_mem _)
      · rcases List.mem_cons.1 h with h | h
        · exact .inr (List.mem_cons.2 (.inl h))
        · exact (ih h).imp_right (List.mem_cons_of_mem _)

theorem Tbl.mem_of_get? {α : Type} {t : Tbl α} {k : Nat} {v : α} (h : t.get? k = some v) : (k, v) ∈ t := by
  induction t with
  | nil => exact nomatch h
  | cons q t ih =>
    obtain ⟨j, w⟩ := q
    unfold Tbl.get? at h
    split at h
    · next hk => rw [hk, Option.some.inj h]; exact List.mem_cons_self
    · exact List.mem_cons_of_mem _ (ih h)

/-- Where no die has a slot in use, none has one whatever its number. -/
theorem State.die_slots {s : State} (h : ∀ d ∈ s.dies, d.2.slots = []) (d : Nat) : (s.die d).slots = [] := by
  unfold State.die Tbl.getD
  cases hd : s.dies.get? d with
  | none => rfl
  | some x => exact h _ (Tbl.mem_of_get? hd)

theorem State.noteWalk_walked (s : State) (core p va c : Nat) : Walked s (s.noteWalk core p va) c := by
  unfold State.noteWalk
  cases (s.proc? p).bind Proc.rootTable with
  | none => exact Walked.refl s c
  | some root =>
    refine ⟨fun _ => ⟨_, rfl, fun _ => rfl⟩, fun _ => ⟨_, rfl⟩, fun d => ?_, rfl, fun h d hd => ?_⟩
    · simp only [State.modDie, State.die_setDie]
      split
      · next e => rw [e]; exact ⟨_, rfl⟩
      · exact ⟨_, rfl⟩
    · rcases Tbl.mem_set hd with rfl | hd
      · exact State.die_slots h _
      · exact h d hd

theorem State.noteLeaf_walked (s : State) (core p va : Nat) (e : W64) : Walked s (s.noteLeaf core p va e) core := by
  refine ⟨fun c => ?_, fun c => ?_, fun _ => ⟨_, rfl⟩, rfl, id⟩
  · have hc : ∃ tlb, (s.noteLeaf core p va e).core c = if c = core then { s.core core with tlb := tlb } else s.core c := ⟨_, State.core_setCore ..⟩
    obtain ⟨tlb, hc⟩ := hc
    rw [hc]
    split
    · next e => rw [e]; exact ⟨_, rfl, fun h => absurd rfl h⟩
    · exact ⟨_, rfl, fun _ => rfl⟩
  · unfold State.noteLeaf
    simp only [State.modCluster, State.cluster_setCluster]
    split
    · next e => rw [e]; exact ⟨_, rfl⟩
    · exact ⟨_, rfl⟩

theorem State.translate_walked (s : State) (core p va perm : Nat) : Walked s (s.translate core p va perm).2 core := by
  unfold State.translate
  cases (tlbFind (s.core core).tlb (s.asid p) va).filter (permits perm) with
  | some e => exact Walked.refl s core
  | none =>
    cases s.lookup core p va perm with
    | fault c => exact s.noteWalk_walked core p va core
    | leaf e place =>
      dsimp only
      split
      · exact State.noteLeaf_walked ..
      · exact (s.noteWalk_walked core p va core).trans (State.noteLeaf_walked ..)

theorem State.reachVa_walked (s : State) (x : Warp) (a : Access) (l : LaneAcc) : Walked s (s.reachVa x a l).2 a.core := by
  have h := s.translate_walked a.core a.proc (x.accVa a l) a.op.perm
  unfold State.reachVa
  dsimp only
  generalize s.translate a.core a.proc (x.accVa a l) a.op.perm = r at h ⊢
  obtain ⟨w, t⟩ := r
  cases w with
  | fault c => exact h
  | leaf e place => dsimp only; split <;> exact h

theorem State.reachOf_walked (s : State) (x : Warp) (a : Access) (l : LaneAcc) : Walked s (s.reachOf x a l).2 a.core := by
  have h := s.reachVa_walked x a l
  have r := Walked.refl s a.core
  unfold State.reachOf
  cases a.space with
  | scratch => dsimp only; split <;> exact r
  | cluster => dsimp only; split <;> exact r
  | grotto => dsimp only; split <;> exact r
  | host => exact r
  | slice => dsimp only; split <;> [exact r; exact h]
  | global => dsimp only; split <;> [exact r; exact h]
  | window => dsimp only; split <;> [exact r; exact h]

theorem State.resolve_walked (s : State) (x : Warp) (a : Access) : Walked s (s.resolve x a).2 a.core := by
  unfold State.resolve
  generalize (Except.ok [] : Except (Nat × Nat × Bool) (List LaneAcc)) = r
  generalize a.lanes = ls
  induction ls generalizing s r with
  | nil => exact Walked.refl s a.core
  | cons l ls ih =>
    rw [List.foldl_cons]
    cases r with
    | error e => exact ih s (.error e)
    | ok done =>
      dsimp only
      by_cases hd : (a.done.any fun d => d.1 == l.lane) = true
      · rw [if_pos hd]
        exact ih s _
      · rw [if_neg hd]
        have h := s.reachOf_walked x a l
        generalize s.reachOf x a l = q at h ⊢
        obtain ⟨w, t⟩ := q
        cases w with
        | keys ks => exact h.trans (ih t _)
        | node m => exact h.trans (ih t _)
        | fault c va now => exact h.trans (ih t _)

/-! ## What the lanes of a resolved access are -/

/-- A lane before its translation. -/
def LaneAcc.bare (l : LaneAcc) : LaneAcc := { l with keys := [], node := none }

/-- Resolved lanes are the lanes of the access, each with its keys or its node. -/
theorem State.resolve_lanes {s : State} {x : Warp} {a : Access} {ls : List LaneAcc} (h : (s.resolve x a).1 = .ok ls) :
    ls.map LaneAcc.bare = a.lanes.map LaneAcc.bare := by
  unfold State.resolve at h
  generalize hp : ((Except.ok [] : Except (Nat × Nat × Bool) (List LaneAcc)), s) = p at h
  suffices key : ∃ done, p.1 = .ok done ∧ ls.map LaneAcc.bare = (done ++ a.lanes).map LaneAcc.bare by
    obtain ⟨done, hd, hls⟩ := key
    obtain rfl : [] = done := by simpa [← hp] using hd
    exact hls
  clear hp
  generalize a.lanes = ms at h ⊢
  induction ms generalizing p with
  | nil => exact ⟨ls, h, by simp⟩
  | cons m ms ih =>
    obtain ⟨done, hd, hls⟩ := ih _ h
    obtain ⟨r, t⟩ := p
    cases r with
    | error e => exact absurd hd (by simp)
    | ok before =>
      refine ⟨before, rfl, ?_⟩
      have hm : ∃ m', m'.bare = m.bare ∧ done = before ++ [m'] := by
        dsimp only at hd
        split at hd
        · exact ⟨m, rfl, by simpa using hd.symm⟩
        · generalize t.reachOf x a m = q at hd
          obtain ⟨w, u⟩ := q
          cases w with
          | keys ks => exact ⟨{ m with keys := ks, node := none }, rfl, by simpa using hd.symm⟩
          | node n => exact ⟨{ m with keys := [], node := some n }, rfl, by simpa using hd.symm⟩
          | fault c va now => exact absurd hd (by simp)
      obtain ⟨m', hm', rfl⟩ := hm
      simpa [hm'] using hls

end Sys2Proof.Machine
end

section
/-! PROOFS. Accesses that set out: what is launched once it has translated (R32, R165, R347, R348). -/

namespace Sys2Proof.Machine

section
variable {i : Instr} {s : State} {x : Warp} {e : Entry} {sh : Shape} {f : Frame} {m : MemForm} {a : Access} {ls : List LaneAcc}

/-! ## The state in which a translated access starts -/

/-- The warp of an access that has translated: its destination is empty, and it waits for an access that acquires (R348, R352). -/
def Warp.launched (x : Warp) (e : Entry) (sh : Shape) (f : Frame) (stamp : Nat) (a : Access) : Warp :=
  { x.issued e sh f stamp with wait := if a.acquires then some (.access a.id a.scope) else none }

/-- The state in which a ready memory instruction's access has translated. -/
def State.reached (s : State) (x : Warp) (e : Entry) (sh : Shape) (f : Frame) (a : Access) : State :=
  (s.resolve x a).2.rewarped (s.warps.set s.cur (x.launched e sh f s.clock a)) (s.nextId + 1)

theorem Warp.launched_same (x : Warp) (e : Entry) (sh : Shape) (f : Frame) (stamp : Nat) (a : Access) : SameBut x (x.launched e sh f stamp a) := by
  have h := Warp.issued_same x e sh f stamp
  exact ⟨h.still, h.hw, h.run⟩

theorem Warp.launched_issued (x : Warp) (e : Entry) (sh : Shape) (f : Frame) (stamp : Nat) (h : a.acquires = false) :
    x.launched e sh f stamp a = x.issued e sh f stamp := by
  rw [Warp.launched, if_neg (by simp [h])]
  exact Warp.wait_none (Warp.issued_wait ..)

/-- What the registers and flaws of a launched warp are. -/
theorem Ready.launched_regs (h : Ready i s x e sh f) (hm : (i, m) ∈ memForms x f) (a : Access) :
    KeepsRegs x (x.launched e sh f s.clock a) sh f ∧ Unflawed x (x.launched e sh f s.clock a) sh f (x.active f e) ∧
      ∀ r ∈ sh.writes f, (x.launched e sh f s.clock a).isEmpty r = true := by
  have hw := h.wrote_issued
  refine ⟨⟨hw.regs.lanes, hw.regs.unis⟩, hw.flaws, fun r hr => ?_⟩
  have := Warp.issued_isEmpty h hm hr
  cases r <;> exact this

/-- An access that translates starts from the state that its translation leaves. -/
theorem State.launch_starts (hres : (s.resolve x a).1 = .ok ls) (hw : a.w = s.cur) :
    (s.launching x e sh f).launchAccess a = (s.reached x e sh f a).start { a with lanes := ls } := by
  have hx : (s.launching x e sh f).warp? a.w = some (x.issued e sh f s.clock) := by rw [hw]; exact State.warp?_setWarp_self ..
  have hstate : (if a.acquires then (s.launching x e sh f).modWarp a.w fun x => { x with wait := some (.access a.id a.scope) } else s.launching x e sh f) =
      s.rewarped (s.warps.set s.cur (x.launched e sh f s.clock a)) (s.nextId + 1) := by
    by_cases ha : a.acquires = true
    · rw [if_pos ha, State.modWarp_eq hx, hw, State.launching, State.setWarp_setWarp, Warp.launched, if_pos ha]
      rfl
    · rw [if_neg ha, Warp.launched_issued _ _ _ _ _ (by simpa using ha)]
      rfl
  unfold State.launchAccess
  simp only [hx]
  rw [hstate, State.resolve_rewarped (Warp.issued_same x e sh f s.clock).still, hres]
  rfl

theorem State.reached_warp? (s : State) (x : Warp) (e : Entry) (sh : Shape) (f : Frame) (a : Access) :
    (s.reached x e sh f a).warp? s.cur = some (x.launched e sh f s.clock a) := Tbl.get?_set_self ..

/-- What a step after the translation leaves: a state that differs from `s` in the current warp `z`, in translation caches, and in its flights. -/
def State.flown (s : State) (x : Warp) (a : Access) (fs : List Access) : State :=
  { (s.resolve x a).2.rewarped s.warps (s.nextId + 1) with flights := fs }

theorem State.resolve_keeps (s : State) (x : Warp) (a : Access) :
    (s.resolve x a).2.flights = s.flights ∧ (s.resolve x a).2.cur = s.cur ∧ (s.resolve x a).2.clock = s.clock ∧ (s.resolve x a).2.mem = s.mem ∧
      (s.resolve x a).2.marks = s.marks ∧ (s.resolve x a).2.procs = s.procs ∧ (s.resolve x a).2.promotions = s.promotions ∧
      (s.resolve x a).2.pkg = s.pkg := by
  have h := (s.resolve_walked x a).rest
  generalize (s.resolve x a).2 = u at h
  rw [h]
  exact ⟨rfl, rfl, rfl, rfl, rfl, rfl, rfl, rfl⟩

/-- The L1 of a core, seen once an access has translated. -/
theorem State.reached_l1Line? (s : State) (x : Warp) (e : Entry) (sh : Shape) (f : Frame) (a : Access) (core p va : Nat) :
    (s.reached x e sh f a).l1Line? core ((s.reached x e sh f a).asid p) va = s.l1Line? core (s.asid p) va := by
  obtain ⟨tlb, hc, -⟩ := (s.resolve_walked x a).cores core
  obtain ⟨-, -, -, -, -, hp, -, -⟩ := s.resolve_keeps x a
  have hasid : (s.reached x e sh f a).asid p = s.asid p := by
    show ((s.resolve x a).2.proc? p |>.map _).getD 0 = _
    simp only [State.proc?, hp]
    rfl
  have hl1 : ((s.reached x e sh f a).core core).l1 = (s.core core).l1 := by
    show ((s.resolve x a).2.core core).l1 = _
    rw [hc]
  unfold State.l1Line?
  rw [hasid, hl1]

theorem mem_insertFlight {fs : List Access} {a b : Access} : b ∈ insertFlight fs a ↔ b = a ∨ b ∈ fs := by
  induction fs with
  | nil => simp [insertFlight]
  | cons g gs ih =>
    unfold insertFlight
    split
    · simp
    · simp only [List.mem_cons, ih]
      tauto

/-- Loads none of whose lanes hits the L1, and every other access, read nothing at issue. -/
theorem State.readHits_none {t : State} {b : Access} (h : ∀ v, b.op = .load v → b.space = .global → ∀ l ∈ b.lanes, t.l1Line? b.core (t.asid b.proc) l.addr = none)
    (hwin : b.space ≠ .window) : t.readHits b = b := by
  unfold State.readHits
  cases hop : b.op with
  | load v =>
    dsimp only
    by_cases hg : b.space = .global
    · have hnone : (b.todo.filter fun l => l.node.isNone && (t.l1Line? b.core (t.asid b.proc) l.addr).isSome && (t.laneFault l).isNone && t.inOrder b [l]) = [] := by
        refine List.filter_eq_nil_iff.2 fun l hl => ?_
        have := h v hop hg l (List.mem_of_mem_filter hl)
        simp [this]
      rw [hnone, if_neg (by simp [hg])]
      simp only [List.foldl_nil, List.append_nil, Bool.false_and, Bool.or_false]
      rw [← hop]
    · simp [hg, hwin]
  | store => rfl
  | atomic k => rfl
  | det => rfl

/-- The window of a process is read by `ldp` alone. -/
theorem memForms_space (hm : (i, m) ∈ memForms x f) : m.space ≠ .window := by
  unfold memForms at hm
  simp only [List.mem_cons, List.not_mem_nil, or_false, Prod.mk.injEq] at hm
  rcases hm with ⟨-, rfl⟩ | ⟨-, rfl⟩ | ⟨-, rfl⟩ | ⟨-, rfl⟩ | ⟨-, rfl⟩ | ⟨-, rfl⟩ | ⟨-, rfl⟩ | ⟨-, rfl⟩ | ⟨-, rfl⟩ | ⟨-, rfl⟩ | ⟨-, rfl⟩ |
    ⟨-, rfl⟩ | ⟨-, rfl⟩ | ⟨-, rfl⟩ | ⟨-, rfl⟩ | ⟨-, rfl⟩ | ⟨-, rfl⟩ | ⟨-, rfl⟩ <;> simp

/-! ## The lanes of a request -/

/-- The request of a memory instruction. -/
abbrev State.asks (s : State) (x : Warp) (e : Entry) (sh : Shape) (f : Frame) (i : Instr) (m : MemForm) : Access :=
  (s.sees x e sh f).request s i m s.nextId

theorem mem_lanesOf {act : Mask} {l : Fin 32} : l ∈ lanesOf act ↔ act.getLsbD l.val = true := by
  simp [lanesOf]

theorem lanesFor_nodup (m : MemForm) (act : Mask) : (lanesFor m act).Nodup := by
  unfold lanesFor
  split
  · simp
  · exact (List.nodup_finRange 32).filter _

/-- Lanes with untagged addresses access memory, the others have their answer. -/
theorem State.asks_lanes (hm : (i, m) ∈ memForms x f) :
    (s.asks x e sh f i m).lanes = ((lanesFor m (x.active f e)).filter fun l => !(m.addr l).2).map fun l =>
      { lane := l.val, addr := (m.addr l).1, keys := [], data := (m.data l).1, new := (m.data l).2.1, tag := (m.data l).2.2 } := by
  show ((((s.sees x e sh f).accLanes m).filter fun l => !(m.addr l).2).filter fun l => !m.zero l).map _ = _
  rw [memForms_zero hm]
  simp only [Bool.not_false, List.filter_true]
  rfl

theorem State.asks_done (hm : (i, m) ∈ memForms x f) :
    (s.asks x e sh f i m).done =
      if m.dest = .none then [] else ((lanesFor m (x.active f e)).filter fun l => (m.addr l).2).map fun l => (l.val, ([] : List Byte), true) := by
  show (if (m.dest != .none) = true then _ else _) ++
    ((((s.sees x e sh f).accLanes m).filter fun l => !(m.addr l).2).filter m.zero).map _ = _
  rw [memForms_zero hm, List.filter_false, List.map_nil, List.append_nil]
  by_cases hd : m.dest = .none
  · simp [hd]
  · simp [hd]
    rfl

/-- The lanes that a request answers at once are none of those that access memory. -/
theorem State.asks_disjoint (hm : (i, m) ∈ memForms x f) {l : LaneAcc} (hl : l.bare ∈ ((s.asks x e sh f i m).lanes.map LaneAcc.bare)) :
    ((s.asks x e sh f i m).done.any fun d => d.1 == l.lane) = false := by
  rw [State.asks_lanes hm] at hl
  rw [State.asks_done hm]
  obtain ⟨b, hb, hbl⟩ := List.mem_map.1 hl
  obtain ⟨k, hk, rfl⟩ := List.mem_map.1 hb
  obtain ⟨-, hclean⟩ := List.mem_filter.1 hk
  have hlane : l.lane = k.val := (congrArg LaneAcc.lane hbl).symm
  split
  · rfl
  · refine List.any_eq_false.2 fun d hd => ?_
    obtain ⟨j, hj, rfl⟩ := List.mem_map.1 hd
    obtain ⟨-, htag⟩ := List.mem_filter.1 hj
    rw [hlane]
    intro hjk
    obtain rfl : j = k := Fin.ext (by simpa using hjk)
    simp [htag] at hclean

/-- Every resolved lane of a request is left to do. -/
theorem State.asks_todo (hm : (i, m) ∈ memForms x f) (hres : (s.resolve x (s.asks x e sh f i m)).1 = .ok ls) :
    ({ s.asks x e sh f i m with lanes := ls } : Access).todo = ls := by
  refine List.filter_eq_self.2 fun l hl => ?_
  have hmem : l.bare ∈ (s.asks x e sh f i m).lanes.map LaneAcc.bare := State.resolve_lanes hres ▸ List.mem_map_of_mem hl
  have := State.asks_disjoint hm hmem
  show (!((s.asks x e sh f i m).done.any fun d => d.1 == l.lane) && !([] : List (Nat × Nat)).any _) = true
  rw [this]
  rfl

theorem State.resolved_ne_nil (hm : (i, m) ∈ memForms x f) (hres : (s.resolve x (s.asks x e sh f i m)).1 = .ok ls)
    (hsome : ∃ l ∈ lanesFor m (x.active f e), (m.addr l).2 = false) : ls ≠ [] := by
  obtain ⟨l, hl, hclean⟩ := hsome
  have h := State.resolve_lanes hres
  rw [State.asks_lanes hm] at h
  rintro rfl
  have : ((lanesFor m (x.active f e)).filter fun l => !(m.addr l).2) = [] := by simpa using h.symm
  have hmem : l ∈ (lanesFor m (x.active f e)).filter fun l => !(m.addr l).2 := by simp [hl, hclean]
  rw [this] at hmem
  exact List.not_mem_nil hmem

end

end Sys2Proof.Machine
end

section
/-! PROOFS. O26: an access that translates sets out (R32, R165, R348, R352); a load of lines that the L1 holds reads them at issue (R198). -/

namespace Sys2Proof.Machine

section
variable {i : Instr} {s : State} {x : Warp} {e : Entry} {sh : Shape} {f : Frame} {m : MemForm} {a : Access} {ls : List LaneAcc}

/-- Giving up an issue slot touches the core of the warp alone. -/
theorem State.freeSlot_core_ne (s : State) {w c : Nat} (h : c ≠ coreOf w) : (s.freeSlot w).core c = s.core c := by
  unfold State.freeSlot
  dsimp only
  split
  · split
    · rw [State.core_setCore, if_neg h]
    · rfl
  · rfl

/-- Retirement touches the warp and its own core. -/
theorem State.retire_frame (u : State) (w : Nat) (z : Warp) (f : Frame) (b : Bool) :
    let t := (u.setWarp w z).retire w f b
    t = { u with warps := t.warps, cores := t.cores } ∧ ∀ c, c ≠ coreOf w → t.core c = u.core c := by
  intro t
  have ht : t = if f.eor || (Warp.retired u w z f b).wait.isSome || (Warp.retired u w z f b).hw.isEmpty
      then (u.setWarp w (Warp.retired u w z f b)).freeSlot w else u.setWarp w (Warp.retired u w z f b) := State.retire_setWarp ..
  rw [ht]
  split
  · exact ⟨by rw [State.freeSlot_eq]; rfl, fun c hc => State.freeSlot_core_ne _ hc⟩
  · exact ⟨rfl, fun c _ => rfl⟩

/-- An access in flight: its warp launched, nothing else but translation caches and flights as it was not. -/
theorem Ready.setsOut (h : Ready i s x e sh f) (hm : (i, m) ∈ memForms x f) (hcore : a.core = coreOf s.cur) (b : Access) :
    let t := ((s.reached x e sh f a).addFlight b).retire s.cur f true
    ∃ y, y.still = x.still ∧ SetsOut s t x y e sh f b (if a.acquires then some (.access a.id a.scope) else none) := by
  intro t
  obtain ⟨hfl, hcur, -, -, -, -, -, -⟩ := s.resolve_keeps x a
  have hwalk := s.resolve_walked x a
  have hsame := Warp.launched_same x e sh f s.clock a
  obtain ⟨hregs, hflaws, hempty⟩ := h.launched_regs hm a
  have ht : t = ((s.flown x a (insertFlight s.flights b)).setWarp s.cur (x.launched e sh f s.clock a)).retire s.cur f true := by
    show State.retire { s.reached x e sh f a with flights := insertFlight (s.resolve x a).2.flights b } s.cur f true = _
    rw [hfl]
    rfl
  clear_value t
  subst ht
  generalize hz : x.launched e sh f s.clock a = z at hsame hregs hflaws hempty
  have hwait : z.wait = if a.acquires then some (.access a.id a.scope) else none := by rw [← hz]; rfl
  obtain ⟨hw, ho, hgone⟩ := Gone.of_retire (u := s.flown x a (insertFlight s.flights b)) (z := z) hcur h.head hsame.hw hsame.run hsame.owner
  rw [hwait] at hgone
  generalize hu : s.flown x a (insertFlight s.flights b) = u at hw ho hgone ⊢
  obtain ⟨hrest, hother⟩ := State.retire_frame u s.cur z f true
  generalize (u.setWarp s.cur z).retire s.cur f true = t at hw ho hgone hrest hother
  have hufl : u.flights = insertFlight s.flights b := by rw [← hu]; rfl
  have htfl : t.flights = insertFlight s.flights b := by rw [ho.rest]; exact hufl
  have hcoresOf : ∀ c, u.core c = (s.resolve x a).2.core c := fun c => by rw [← hu]; rfl
  have huw : u.warps = s.warps := by rw [← hu]; rfl
  refine ⟨_, (Warp.retired_still ..).trans hsame.still, ⟨hw, hgone, ⟨fun n hn => ?_, fun n hn => ?_⟩, fun r hr => ?_, Warp.retired_unflawed hflaws u s.cur true, ?_, ?_, ?_, ?_, fun c => ?_, fun c => ?_, fun d => ?_, ?_⟩⟩
  · rw [Warp.lbind, Warp.retired_x]; exact hregs.lanes n hn
  · rw [Warp.ubind, Warp.retired_k]; exact hregs.unis n hn
  · rw [Warp.retired_isEmpty]; exact hempty r hr
  · intro w hne
    rw [ho.others w (by rw [← hu]; exact hcur.symm ▸ hne), State.warp?, huw]
    rfl
  · rw [htfl]; exact mem_insertFlight.2 (.inl rfl)
  · rw [htfl]; exact fun c hc => mem_insertFlight.1 hc
  · rw [htfl]; exact fun c hc => mem_insertFlight.2 (.inr hc)
  · obtain ⟨q, hq⟩ := ho.cores c
    obtain ⟨tlb, hc, hne⟩ := hwalk.cores c
    rw [hcoresOf, hc] at hq
    exact ⟨q, tlb, hq, fun hc => (hother c hc).trans ((hcoresOf c).trans (hne (hcore ▸ hc)))⟩
  · obtain ⟨tlb, hc⟩ := hwalk.clusters c
    rw [ho.rest, ← hu]
    exact ⟨tlb, hc⟩
  · obtain ⟨ws, hd⟩ := hwalk.dies d
    rw [ho.rest, ← hu]
    exact ⟨ws, hd⟩
  · have hv := hwalk.rest
    rw [hrest, ← hu]
    unfold State.flown State.rewarped
    generalize (s.resolve x a).2 = v at hv ⊢
    rw [hv]

/-- An access to the memory of a cluster, a die, the package or the host reads what its core holds, and sets out for the rest. -/
theorem State.start_far {t : State} {b : Access} (hscratch : b.space ≠ .scratch) (hslice : b.space ≠ .slice) :
    t.start b = if (t.readHits b).todo.isEmpty then t.settle (t.readHits b) else t.addFlight (t.readHits b) := by
  unfold State.start
  split
  · next h => exact absurd h hscratch
  · next h _ => exact absurd h hslice
  · rfl

/-- An aligned access that translates, and of which the L1 holds nothing, sets out. -/
theorem Ready.access_setsOut (h : Ready i s x e sh f) (hact : x.active f e ≠ 0) (hm : (i, m) ∈ memForms x f)
    (hscratch : m.space ≠ .scratch) (hslice : m.space ≠ .slice) (hal : Aligned (lanesFor m (x.active f e)) m) (hlog : x.log = []) (hfifth : x.fifth = none)
    (hsome : ∃ l ∈ lanesFor m (x.active f e), (m.addr l).2 = false) (hres : (s.resolve x (s.asks x e sh f i m)).1 = .ok ls)
    (hclean : m.ord < 2 ∨ m.scope < 2 ∨ s.sliceClean s.cur)
    (hmiss : m.space = .global → (∃ v, m.op = .load v) → s.misses (coreOf s.cur) x.owner.proc ls) :
    ∃ t y, exec i s = .next t ∧ y.still = x.still ∧
      SetsOut s t x y e sh f { s.asks x e sh f i m with lanes := ls } (if m.ord = 1 ∨ m.ord = 3 then some (.access s.nextId m.scope) else none) := by
  have hexec := h.exec_access hact hm hal hlog (.inr hfifth) hclean
  rw [State.launch_starts hres rfl] at hexec
  have hhits : (s.reached x e sh f (s.asks x e sh f i m)).readHits { s.asks x e sh f i m with lanes := ls } = { s.asks x e sh f i m with lanes := ls } :=
    State.readHits_none (fun v hop hsp l hl => (State.reached_l1Line? ..).trans (hmiss hsp ⟨v, hop⟩ l hl)) (memForms_space hm)
  have htodo : ({ s.asks x e sh f i m with lanes := ls } : Access).todo.isEmpty = false := by
    rw [State.asks_todo hm hres]
    simpa using State.resolved_ne_nil hm hres hsome
  rw [State.start_far hscratch hslice, hhits, htodo, if_neg (by simp)] at hexec
  obtain ⟨y, hy, hout⟩ := h.setsOut (a := s.asks x e sh f i m) hm rfl { s.asks x e sh f i m with lanes := ls }
  have hacq : (s.asks x e sh f i m).acquires = decide (m.ord = 1 ∨ m.ord = 3) := by
    show (m.ord == 1 || m.ord == 3) = _
    simp [Bool.decide_or, beq_eq_decide]
  simp only [hacq, decide_eq_true_eq] at hout
  exact ⟨_, y, hexec, hy, hout⟩

end

end Sys2Proof.Machine
end

section
/-! PROOFS. What a load has read at issue, on its way to its registers (R32, R194, R196), and the retirement of its instruction. -/

namespace Sys2Proof.Machine

/-! ## The result of an access (R194, R346) -/

section
variable {x y : Warp} {a : Access} {n count v : Nat} {act : Mask} {got : Fin 32 → Option (List Byte)}

/-- A warp has the result of an access among those that are on their way to its registers. -/
def Warp.hears (x y : Warp) (a : Access) : Prop :=
  y.results = x.results ++ if a.puts = [] ∧ a.psn = false then [] else [{ id := a.id, puts := a.puts, psn := a.psn, pc := a.pc }]

/-- The words of lanes that have read, and poison in those that have not. -/
theorem LoadWaits.of_lane (hy : x.hears y a) (hdest : a.dest = .lane n count) (hcode : a.op.code a.width = v) (hcount : count ≤ memRegs v)
    (hmask : ∀ l : Fin 32, (a.got l).isSome = act.getLsbD l.val)
    (hgot : ∀ l : Fin 32, act.getLsbD l.val = true → a.got l = some (l.val, (got l).getD [], (got l).isNone)) :
    LoadWaits x y (.lane n count) v act got a.psn a.pc := by
  refine ⟨a.id, a.puts, hy, ?_⟩
  by_cases hn : n = 255
  · have hnil : a.puts = [] := by simp [Access.puts, hdest, hn]
    simp [hn, hnil]
  · have hact : a.putMask = act := BitVec.eq_of_getLsbD_eq fun k hk => (Access.putMask_get (l := ⟨k, hk⟩)).trans (hmask ⟨k, hk⟩)
    simp only [if_neg hn]
    refine ⟨a.putVal, fun _ => a.putTag, by rw [Access.puts_lane hdest hn, hact], fun i hi l hl => ?_⟩
    have hi : i < memRegs v := lt_of_lt_of_le (List.mem_range.1 (List.mem_of_mem_filter hi)) hcount
    rw [Access.putVal_get, Access.putTag_get, hgot l hl, hcode]
    cases got l with
    | none => exact ⟨rfl, rfl⟩
    | some bs => exact ⟨loadWords_getD hi bs, rfl⟩

/-- The same for uniform registers, which take what lane 0 has read (R346). -/
theorem LoadWaits.of_uni (hy : x.hears y a) (hdest : a.dest = .uni n count) (hcode : a.op.code a.width = v) (hcount : count ≤ if v = 2 then 2 else 1)
    {rest : List (Nat × List Byte × Bool)} {k : Nat} (hdone : a.done = (k, (got 0).getD [], (got 0).isNone) :: rest) :
    LoadWaits x y (.uni n count) v act got a.psn a.pc := by
  refine ⟨a.id, a.puts, hy, ?_⟩
  simp only [Access.puts, hdest, hdone, hcode]
  refine List.map_congr_left fun i hi => ?_
  have hi : i < if v = 2 then 2 else 1 := lt_of_lt_of_le (List.mem_range.1 hi) hcount
  cases got 0 with
  | none => rfl
  | some bs => exact congrArg (Put.k (n + i) · false) (loadUnis_getD hi bs)

/-- What lanes have answered: those with a tagged address poison, the others what they have read. -/
theorem Access.got_split {lanes : List (Fin 32)} {tag : Fin 32 → Bool} {reads : List (Nat × List Byte × Bool)}
    (hd : a.done = ((lanes.filter tag).map fun l => (l.val, ([] : List Byte), true)) ++ reads)
    (hr : reads.map (·.1) = (lanes.filter fun l => !tag l).map (·.val)) (l : Fin 32) :
    (a.got l).isSome = decide (l ∈ lanes) ∧
      a.got l = if l ∈ lanes ∧ tag l = true then some (l.val, [], true) else reads.find? fun d => d.1 == l.val := by
  have hreads : (reads.find? fun d => d.1 == l.val).isSome = decide (l ∈ lanes ∧ tag l = false) := by
    rw [Bool.eq_iff_iff, List.find?_isSome, decide_eq_true_eq]
    have hmem : l.val ∈ reads.map (·.1) ↔ l ∈ lanes ∧ tag l = false := by
      rw [hr, List.mem_map]
      constructor
      · rintro ⟨k, hk, hkl⟩
        obtain rfl : k = l := Fin.ext hkl
        simpa using hk
      · exact fun h => ⟨l, by simpa using h, rfl⟩
    rw [← hmem, List.mem_map]
    simp
  have htag : ((lanes.filter tag).map fun l => (l.val, ([] : List Byte), true)).find? (fun d => d.1 == l.val) =
      if l ∈ lanes ∧ tag l = true then some (l.val, [], true) else none := by
    split
    · next h =>
      cases hf : ((lanes.filter tag).map fun l => (l.val, ([] : List Byte), true)).find? (fun d => d.1 == l.val) with
      | none =>
        have := List.find?_eq_none.1 hf (l.val, [], true) (List.mem_map_of_mem (List.mem_filter.2 h))
        simp at this
      | some d =>
        have hdl := List.find?_some hf
        obtain ⟨k, -, rfl⟩ := List.mem_map.1 (List.mem_of_find?_eq_some hf)
        have hkl : k.val = l.val := by simpa using hdl
        rw [hkl]
    · next h =>
      refine List.find?_eq_none.2 fun d hd hdl => h ?_
      obtain ⟨k, hk, rfl⟩ := List.mem_map.1 hd
      obtain rfl : k = l := Fin.ext (by simpa using hdl)
      exact List.mem_filter.1 hk
  have hgot : a.got l = if l ∈ lanes ∧ tag l = true then some (l.val, [], true) else reads.find? fun d => d.1 == l.val := by
    rw [Access.got, hd, List.find?_append, htag]
    split <;> rfl
  refine ⟨?_, hgot⟩
  rw [hgot]
  split
  · next h => simp [h.1]
  · next h =>
    have hclean : (l ∈ lanes ∧ tag l = false) ↔ l ∈ lanes := ⟨And.left, fun hl => ⟨hl, by simpa [hl] using h⟩⟩
    rw [hreads]
    simp only [hclean]

end

/-! ## The retirement of an access that has performed at issue -/

section
variable {i : Instr} {s : State} {x : Warp} {e : Entry} {sh : Shape} {f : Frame} {m : MemForm}

/-- The warp of an access that has performed at issue: what it has seen, and what is on its way to its registers. -/
def Warp.answered (x : Warp) (e : Entry) (sh : Shape) (f : Frame) (stamp saw : Nat) (b : Access) : Warp :=
  ({ x.issued e sh f stamp with sawMark := saw } : Warp).awaits b

theorem Warp.answered_results (x : Warp) (e : Entry) (sh : Shape) (f : Frame) (stamp saw : Nat) (b : Access) : x.hears (x.answered e sh f stamp saw b) b := by
  have h : (x.issued e sh f stamp).results = x.results := (congrArg Warp.results (Warp.issued_same x e sh f stamp).still :)
  unfold Warp.hears
  rw [← h]
  rfl

theorem Warp.answered_still (x : Warp) (e : Entry) (sh : Shape) (f : Frame) (stamp saw : Nat) (b : Access) :
    (x.answered e sh f stamp saw b).still = { x.still with results := (x.answered e sh f stamp saw b).results, sawMark := saw } := by
  have h := (Warp.issued_same x e sh f stamp).still
  rw [← h]
  rfl

/-- What is left when a memory instruction retires after its access has performed: `u` is the state but for the current warp. -/
structure PerformedAtIssue (s t : State) (x y : Warp) (e : Entry) (sh : Shape) (f : Frame) (u : State) (b : Access) (saw : Nat) : Prop where
  warp : t.warp? s.cur = some y
  gone : Gone t s.cur x y e f none
  regs : KeepsRegs x y sh f
  empty : ∀ r ∈ sh.writes f, y.isEmpty r = true
  flaws : Unflawed x y sh f (x.active f e)
  still : y.still = { x.still with results := y.results, sawMark := y.sawMark }
  results : x.hears y b
  saw : y.sawMark = saw
  others : ∀ w, w ≠ s.cur → t.warp? w = u.warp? w
  cores : ∀ c, ∃ q, t.core c = { u.core c with quads := q } ∧ (c ≠ coreOf s.cur → t.core c = u.core c)
  rest : t = { u with warps := t.warps, cores := t.cores }

theorem Ready.answered (h : Ready i s x e sh f) (hm : (i, m) ∈ memForms x f) {u : State} (hcur : u.cur = s.cur) (b : Access) (saw : Nat) :
    ∃ t y, (u.setWarp s.cur (x.answered e sh f s.clock saw b)).retire s.cur f true = t ∧ PerformedAtIssue s t x y e sh f u b saw := by
  have hw := h.wrote_issued
  have hsame := Warp.issued_same x e sh f s.clock
  have hwait : (x.answered e sh f s.clock saw b).wait = none := Warp.issued_wait ..
  obtain ⟨hwarp, ho, hgone⟩ := Gone.of_retire (s := s) (f := f) (u := u) (z := x.answered e sh f s.clock saw b) hcur h.head hsame.hw hsame.run hsame.owner
  obtain ⟨hrest, hother⟩ := State.retire_frame u s.cur (x.answered e sh f s.clock saw b) f true
  rw [hwait] at hgone
  have hstill := (Warp.retired_still u s.cur (x.answered e sh f s.clock saw b) f true)
  have hres : (Warp.retired u s.cur (x.answered e sh f s.clock saw b) f true).results = (x.answered e sh f s.clock saw b).results := (congrArg Warp.results hstill :)
  have hsaw : (Warp.retired u s.cur (x.answered e sh f s.clock saw b) f true).sawMark = saw := (congrArg Warp.sawMark hstill :)
  have hflaws : Unflawed x (x.answered e sh f s.clock saw b) sh f (x.active f e) := hw.flaws
  refine ⟨_, _, rfl, hwarp, hgone, ⟨fun n hn => ?_, fun n hn => ?_⟩, fun r hr => ?_, Warp.retired_unflawed hflaws u s.cur true, ?_, ?_, hsaw, fun w hne => ?_, fun c => ?_, hrest⟩
  · rw [Warp.lbind, Warp.retired_x]; exact hw.regs.lanes n hn
  · rw [Warp.ubind, Warp.retired_k]; exact hw.regs.unis n hn
  · rw [Warp.retired_isEmpty]
    have := Warp.issued_isEmpty h hm hr
    cases r <;> exact this
  · rw [hstill, hres, hsaw]
    exact Warp.answered_still ..
  · unfold Warp.hears
    rw [hres]
    exact Warp.answered_results ..
  · exact ho.others w (hcur ▸ hne)
  · obtain ⟨q, hq⟩ := ho.cores c
    exact ⟨q, hq, hother c⟩

/-- The access of a launched warp that has performed: its flight is over, its warp has its result, and waits no more. -/
theorem Noted.settle {u v : State} {b : Access} {saw : Nat} (hn : Noted u v b (x.launched e sh f s.clock b) saw) (hv : v = u.noteReads b)
    (ht : b.todo = []) (hf : b.failed = []) (he : b.entry = none) (hlive : x.marks.ended = false) (hposts : x.call.posts = [])
    (hacq : b.acquires = true → b.rp = false ∧ b.scope < 2) :
    u.settle b = State.setWarp { v with flights := v.flights.filter fun g => g.id != b.id } b.w (x.answered e sh f s.clock saw b) := by
  have hsame := (Warp.launched_same x e sh f s.clock b).still
  subst hv
  have hwait : ({ x.launched e sh f s.clock b with sawMark := saw } : Warp).wait = if b.acquires then some (.access b.id b.scope) else none := rfl
  rw [State.settle_done ht hf he hn.warp ((congrArg (fun y : Warp => y.marks.ended) hsame).trans hlive)
    ((congrArg (fun y : Warp => y.call.posts) hsame).trans hposts) ?_]
  · have hanswer : ({ ({ x.launched e sh f s.clock b with sawMark := saw } : Warp).awaits b with wait := none } : Warp) = x.answered e sh f s.clock saw b := by
      have hissued : ({ x.issued e sh f s.clock with wait := none } : Warp) = x.issued e sh f s.clock := Warp.wait_none (Warp.issued_wait ..)
      rw [Warp.answered, ← hissued]
      rfl
    rw [hanswer]
  · rw [hwait]
    by_cases ha : b.acquires = true
    · rw [if_pos ha]
      exact .inr ⟨rfl, hacq ha⟩
    · exact .inl (if_neg ha)

/-- What is left when a memory instruction retires whose access `c` has performed in `u`: its flight is over, its result is on its way, what it read is noted. -/
structure SettledAtIssue (s t : State) (x y : Warp) (e : Entry) (sh : Shape) (f : Frame) (u : State) (c : Access) : Prop where
  warp : t.warp? s.cur = some y
  gone : Gone t s.cur x y e f none
  regs : KeepsRegs x y sh f
  empty : ∀ r ∈ sh.writes f, y.isEmpty r = true
  flaws : Unflawed x y sh f (x.active f e)
  still : y.still = { x.still with results := y.results, sawMark := y.sawMark }
  results : x.hears y c
  saw : c.reads = false → y.sawMark = x.sawMark
  others : ∀ w, w ≠ s.cur → t.warp? w = u.warp? w
  cores : ∀ k, ∃ q l1, t.core k = { u.core k with quads := q, l1 := l1 } ∧ (c.reads = false ∨ x.dropMark ≤ c.id ∨ k ≠ c.core → l1 = (u.core k).l1) ∧
    (k ≠ coreOf s.cur → q = (u.core k).quads)
  rest : t = { u with warps := t.warps, cores := t.cores, flights := u.flights.filter fun b => b.id != c.id }

/-- The end of a memory instruction whose access has performed all its lanes. -/
theorem Ready.settles (h : Ready i s x e sh f) (hm : (i, m) ∈ memForms x f) {u : State} {c : Access}
    (huw : u.warp? s.cur = some (x.launched e sh f s.clock c)) (hucur : u.cur = s.cur) (hcw : c.w = s.cur) (ht : c.todo = []) (hf : c.failed = [])
    (he : c.entry = none) (hlive : x.marks.ended = false) (hposts : x.call.posts = []) (hacq : c.acquires = true → c.rp = false ∧ c.scope < 2) :
    ∃ t y, (u.settle c).retire s.cur f true = t ∧ SettledAtIssue s t x y e sh f u c := by
  obtain ⟨saw, hn⟩ := State.noteReads_noted (a := c) (hcw ▸ huw)
  have hsettle := hn.settle rfl ht hf he hlive hposts hacq
  have hncur : (u.noteReads c).cur = s.cur := (congrArg State.cur hn.rest).trans hucur
  obtain ⟨t, y, htt, hA⟩ := h.answered hm (u := { u.noteReads c with flights := (u.noteReads c).flights.filter fun g => g.id != c.id }) hncur c saw
  have hsame := (Warp.launched_same x e sh f s.clock c).still
  have hmark : (x.launched e sh f s.clock c).sawMark = x.sawMark := (congrArg Warp.sawMark hsame :)
  have hdrop : (x.launched e sh f s.clock c).dropMark = x.dropMark := (congrArg Warp.dropMark hsame :)
  refine ⟨t, y, by rw [hsettle, hcw]; exact htt, hA.warp, hA.gone, hA.regs, hA.empty, hA.flaws, hA.still, hA.results,
    fun hr => hA.saw.trans ((hn.writes hr).trans hmark), fun w hw => (hA.others w hw).trans (hn.others w (hcw ▸ hw)), fun k => ?_, ?_⟩
  · obtain ⟨q, hq, hne⟩ := hA.cores k
    obtain ⟨l1, hl1, hkeep⟩ := hn.cores k
    have hcore : State.core { u.noteReads c with flights := (u.noteReads c).flights.filter fun g => g.id != c.id } k = (u.noteReads c).core k := rfl
    rw [hcore, hl1] at hq hne
    refine ⟨q, l1, hq, fun hk => hkeep (hdrop.symm ▸ hk), fun hk => ?_⟩
    exact congrArg Core.quads (hq.symm.trans (hne hk))
  · have hv := hn.rest
    rw [hA.rest]
    generalize u.noteReads c = v at hv ⊢
    rw [hv]

end

end Sys2Proof.Machine
end

section
/-! PROOFS. What orders an access that its core answers at issue (R366, R368), and the view of memory that a load of lines in the L1 has (R348, R375). -/

namespace Sys2Proof.Machine

/-! ## Nothing orders an access before others of its warp -/

section
variable {s : State} {b : Access}

theorem State.loadsDone_idle {w : Nat} (hfl : ∀ g ∈ s.flights, g.w = w → g.reads = false) (hlog : s.loggedOf w = []) (n : Nat) : s.loadsDone w n = true := by
  unfold State.loadsDone
  rw [hlog, List.all_nil, Bool.and_true, List.all_eq_true]
  intro g hg
  by_cases hw : g.w = w
  · simp [hfl g hg hw]
  · simp [hw]

/-- An access that does not release is ready where no read of its warp is on its way, and no fence holds it. -/
theorem State.releaseReady_idle (hfl : ∀ g ∈ s.flights, g.w = b.w → g.reads = false) (hlog : s.loggedOf b.w = []) (hfence : s.fenceHeld b = false)
    (hrel : b.releases = none) : s.releaseReady b = true := by
  unfold State.releaseReady
  rw [State.loadsDone_idle hfl hlog, hfence, hrel]
  rfl

/-- A load waits for no fence. -/
theorem State.fenceHeld_load (h : b.writes = false) : s.fenceHeld b = false := by
  simp [State.fenceHeld, h]

theorem State.fenceHeld_near (h : b.space ≠ .global) : s.fenceHeld b = false := by
  simp [State.fenceHeld, h]

/-- A load of global memory is in order where its warp has no other access on its way, and no line has a promotion record. -/
theorem State.inOrder_load {v : Nat} (hop : b.op = .load v) (hspace : b.space = .global) (hord : b.ord = 0) (hfl : ∀ g ∈ s.flights, g.w ≠ b.w)
    (hlog : s.loggedOf b.w = []) (hprom : s.promotions = []) (ls : List LaneAcc) : s.inOrder b ls = true := by
  have hwrites : b.writes = false := by simp [Access.writes, hop]
  have hrel : b.releases = none := by simp [Access.releases, Access.isDet, hop, hord]
  have hready := State.releaseReady_idle (fun g hg hw => absurd hw (hfl g hg)) hlog (State.fenceHeld_load hwrites) hrel
  have hrec : ∀ k, s.recordOpen b.core b.rel k b.id = true := fun k => by
    have : s.promoted (s.redirect k) = [] := by simp [State.promoted, hprom, Tbl.getD]
    unfold State.recordOpen
    rw [this]
    cases b.rel <;> rfl
  unfold State.inOrder
  simp only [hlog, List.all_nil, hready, hwrites, hrec]
  simp only [List.all_filter, State.slotOpen, hspace]
  simpa using fun g hg => .inr (.inl (hfl g hg))

end

/-! ## Views of the same memory -/

/-- Two states hold the same bytes and marks. -/
structure SameBytes (s t : State) : Prop where
  mem : t.mem = s.mem
  marks : t.marks = s.marks

theorem SameBytes.refl (s : State) : SameBytes s s := ⟨rfl, rfl⟩
theorem SameBytes.symm {s t : State} (h : SameBytes s t) : SameBytes t s := ⟨h.mem.symm, h.marks.symm⟩
theorem SameBytes.trans {s t u : State} (h : SameBytes s t) (k : SameBytes t u) : SameBytes s u := ⟨k.mem.trans h.mem, k.marks.trans h.marks⟩
theorem SameBytes.byte {s t : State} (h : SameBytes s t) : t.byte = s.byte := by funext k; simp only [State.byte, h.mem]
theorem SameBytes.anyMarked {s t : State} (h : SameBytes s t) (ks : List Nat) : t.anyMarked ks = s.anyMarked ks := by
  have : t.marked = s.marked := by funext k; simp only [State.marked, h.marks]
  simp only [State.anyMarked, this]
theorem SameBytes.writeBytes {s t : State} (h : SameBytes s t) (ks : List Nat) (bs : List Byte) : SameBytes (s.writeBytes ks bs) (t.writeBytes ks bs) :=
  ⟨congrArg (Mem.writeAll · ks bs) h.mem, h.marks⟩
theorem SameBytes.setMark {s t : State} (h : SameBytes s t) (k : Nat) (on : Bool) : SameBytes (s.setMark k on) (t.setMark k on) :=
  ⟨h.mem, congrArg (fun ms => if on then setInsert ms k else setErase ms k) h.marks⟩

/-- Writes that two states take alike keep them alike. -/
theorem SameBytes.foldl {α : Type} {g h : State → α → State} (hgh : ∀ s t, SameBytes s t → ∀ a, SameBytes (g s a) (h t a)) (l : List α) {s t : State}
    (k : SameBytes s t) : SameBytes (l.foldl g s) (l.foldl h t) := by
  induction l generalizing s t with
  | nil => exact k
  | cons a l ih => exact ih (hgh s t k a)

theorem SameBytes.applyWord {s t : State} (h : SameBytes s t) (b : Buffered) : SameBytes (s.applyWord b) (t.applyWord b) := by
  have hw := h.writeBytes b.keys b.data
  unfold State.applyWord
  dsimp only
  cases b.mark with
  | none => exact hw
  | some m =>
    cases b.keys.head? with
    | none => exact hw
    | some k => exact hw.setMark _ m

/-- What is written changes bytes and marks alone. -/
def OnlyBytes (s t : State) : Prop := t = { s with mem := t.mem, marks := t.marks }

theorem OnlyBytes.refl (s : State) : OnlyBytes s s := rfl
theorem OnlyBytes.trans {s t u : State} (h : OnlyBytes s t) (k : OnlyBytes t u) : OnlyBytes s u := by
  unfold OnlyBytes at *
  rw [k, h]

theorem OnlyBytes.foldl {α : Type} {g : State → α → State} (hg : ∀ s a, OnlyBytes s (g s a)) (l : List α) (s : State) : OnlyBytes s (l.foldl g s) := by
  induction l generalizing s with
  | nil => exact OnlyBytes.refl s
  | cons a l ih => exact (hg s a).trans (ih (g s a))

theorem State.applyWord_only (s : State) (b : Buffered) : OnlyBytes s (s.applyWord b) := by
  unfold State.applyWord
  dsimp only
  cases b.mark with
  | none => rfl
  | some m => cases b.keys.head? <;> rfl

theorem State.line_only (s : State) (ks : List Nat) (bs : List Byte) (g : Nat × Nat → Nat × Bool) (ps : List (Nat × Nat)) :
    OnlyBytes s (ps.foldl (fun t k => t.setMark (g k).1 (g k).2) (s.writeBytes ks bs)) :=
  (show OnlyBytes s (s.writeBytes ks bs) from rfl).trans (OnlyBytes.foldl (g := fun t k => t.setMark (g k).1 (g k).2) (fun _ _ => rfl) ps _)

theorem SameBytes.line {s t : State} (h : SameBytes s t) (ks : List Nat) (bs : List Byte) (g : Nat × Nat → Nat × Bool) (ps : List (Nat × Nat)) :
    SameBytes (ps.foldl (fun t k => t.setMark (g k).1 (g k).2) (s.writeBytes ks bs)) (ps.foldl (fun t k => t.setMark (g k).1 (g k).2) (t.writeBytes ks bs)) :=
  SameBytes.foldl (g := fun t k => t.setMark (g k).1 (g k).2) (h := fun t k => t.setMark (g k).1 (g k).2) (fun _ _ k _ => k.setMark _ _) ps (h.writeBytes ks bs)

/-- Two states order accesses alike: their flights, what waits for the fault service, and the places of lines. -/
structure SameOrder (s t : State) : Prop where
  flights : t.flights = s.flights
  logged : t.loggedOf = s.loggedOf
  redirect : t.redirect = s.redirect

theorem SameOrder.written {s t u v : State} (h : SameOrder s t) (hu : OnlyBytes s u) (hv : OnlyBytes t v) : SameOrder u v := by
  unfold OnlyBytes at hu hv
  rw [hu, hv]
  exact ⟨h.flights, h.logged, h.redirect⟩

theorem SameOrder.early {s t : State} (h : SameOrder s t) : t.early = s.early := by
  funext g
  simp only [State.early, State.loadsDone, State.logClear, h.flights, h.logged]

theorem SameOrder.laneWords {s t : State} (h : SameOrder s t) : t.laneWords = s.laneWords := by
  funext g ls
  simp only [State.laneWords, h.redirect]

/-- The core's early writes are the same over the same bytes. -/
theorem SameOrder.coreView {s t : State} (h : SameOrder s t) (hb : SameBytes s t) (core : Nat) (p : Access → Bool) :
    SameBytes (s.coreView core p) (t.coreView core p) := by
  unfold State.coreView
  rw [h.early, h.laneWords, h.flights]
  refine SameBytes.foldl (fun u v k g => ?_) _ hb
  split
  · exact SameBytes.foldl (fun _ _ k b => k.applyWord b) _ k
  · exact k

/-- Loads see the same in two states with the same order, bytes and lines in the L1. -/
theorem SameOrder.loadView {s t : State} (h : SameOrder s t) (hb : SameBytes s t) (a : Access)
    (hline : t.l1Line? a.core (t.asid a.proc) = s.l1Line? a.core (s.asid a.proc)) (ls : List LaneAcc) :
    SameBytes (s.loadView a ls) (t.loadView a ls) := by
  unfold State.loadView
  rw [h.redirect, hline]
  refine SameOrder.coreView (h.written (OnlyBytes.foldl (fun u l => ?_) ls s) (OnlyBytes.foldl (fun u l => ?_) ls t))
    (SameBytes.foldl (fun u v k l => ?_) ls hb) _ _
  · split <;> [exact State.line_only u _ _ (fun k => (_, _)) _; rfl]
  · split <;> [exact State.line_only u _ _ (fun k => (_, _)) _; rfl]
  · split
    · exact k.line _ _ (fun k => (_, _)) _
    · exact k

end Sys2Proof.Machine
end

section
/-! PROOFS. O26: a load of lines that the core's L1 holds reads them at issue (R198, R348). -/

namespace Sys2Proof.Machine

/-! ## A device in which nothing moves (R399, R403) -/

section
variable {s : State}

theorem State.slotAt_still (h : ∀ d ∈ s.dies, d.2.slots = []) (k : Nat) : s.slotAt k = none := by
  have hall : s.allSlots = [] := List.flatMap_eq_nil_iff.2 fun d hd => by rw [h d hd]; rfl
  rw [State.slotAt, hall]
  rfl

theorem State.redirect_still (h : ∀ d ∈ s.dies, d.2.slots = []) (k : Nat) : s.redirect k = k := by
  rw [State.redirect, State.slotAt_still h]

theorem State.keyFault_still (h : ∀ d ∈ s.dies, d.2.slots = []) (k : Nat) : s.keyFault k = s.homeFault k := by
  rw [State.keyFault, State.lostLine, State.slotAt_still h, State.redirect_still h]
  rfl

end

section
variable {i : Instr} {s : State} {x : Warp} {e : Entry} {sh : Shape} {f : Frame} {m : MemForm} {a : Access} {ls : List LaneAcc}

/-! ## The state in which a translated access starts, as its reads see it -/

/-- Homes fail as they did before the translation. -/
theorem Walked.homeFault {u : State} {core : Nat} (h : Walked s u core) (k : Nat) : u.homeFault k = s.homeFault k := by
  have hpkg : u.pkg = s.pkg := by rw [h.rest]
  have hlink : ∀ d, (u.die d).linkst = (s.die d).linkst := fun d => by
    obtain ⟨ws, hd⟩ := h.dies d
    rw [hd]
  simp only [State.homeFault, State.dieState, State.cxlCode, hpkg, hlink]
  rfl

theorem Warp.launched_logged (x : Warp) (e : Entry) (sh : Shape) (f : Frame) (stamp : Nat) (a : Access) : (x.launched e sh f stamp a).logged = x.logged := by
  have h := (Warp.launched_same x e sh f stamp a).still
  have hlog : (x.launched e sh f stamp a).log = x.log := (congrArg Warp.log h :)
  have hfifth : (x.launched e sh f stamp a).fifth = x.fifth := (congrArg Warp.fifth h :)
  rw [Warp.logged, Warp.logged, hlog, hfifth]

theorem State.reached_logged (hw : s.warp? s.cur = some x) (e : Entry) (sh : Shape) (f : Frame) (a : Access) :
    (s.reached x e sh f a).loggedOf = s.loggedOf := by
  funext w
  by_cases hc : w = s.cur
  · subst hc
    rw [State.loggedOf, State.loggedOf, State.reached_warp?, hw]
    exact Warp.launched_logged ..
  · have : (s.reached x e sh f a).warp? w = s.warp? w := Tbl.get?_set_ne _ _ hc
    rw [State.loggedOf, this]
    rfl

/-- Loads see the same once their access has translated. -/
theorem State.reached_loadView (hw : s.warp? s.cur = some x) (hst : ∀ d ∈ s.dies, d.2.slots = []) (b : Access) (ls : List LaneAcc) :
    SameBytes (s.loadView b ls) ((s.reached x e sh f a).loadView b ls) := by
  obtain ⟨hfl, -, -, hmem, hmarks, -, -, -⟩ := s.resolve_keeps x a
  have hst' := (s.resolve_walked x a).still hst
  have horder : SameOrder s (s.reached x e sh f a) :=
    ⟨hfl, State.reached_logged hw e sh f a, funext fun k => (State.redirect_still hst' k).trans (State.redirect_still hst k).symm⟩
  exact horder.loadView ⟨hmem, hmarks⟩ b (funext fun va => State.reached_l1Line? ..) ls

/-! ## Loads of lines that the L1 holds -/

theorem State.laneRead_eq (v : State) (ks : List Nat) :
    v.laneRead ks = ((if v.anyMarked ks then none else some (ks.map v.byte)).getD [], (if v.anyMarked ks then none else some (ks.map v.byte)).isNone) := by
  unfold State.laneRead
  split <;> rfl

/-- Once each lane left of an access has an answer, none is left. -/
theorem Access.todo_nil {b c : Access} {ds : List (Nat × List Byte × Bool)} (htodo : b.todo = ls) (hlanes : c.lanes = b.lanes) (hfailed : c.failed = b.failed)
    (hdone : c.done = b.done ++ ds) (hds : ds.map (·.1) = ls.map (·.lane)) : c.todo = [] := by
  refine List.filter_eq_nil_iff.2 fun l hl h => ?_
  rw [hdone, hfailed, List.any_append, Bool.not_or, Bool.and_eq_true, Bool.and_eq_true] at h
  obtain ⟨⟨hb, hd⟩, hf⟩ := h
  have hin : l ∈ ls := by
    rw [← htodo]
    refine List.mem_filter.2 ⟨hlanes ▸ hl, ?_⟩
    rw [hb, hf]
    rfl
  have hmem : l.lane ∈ ds.map (·.1) := hds ▸ List.mem_map_of_mem hin
  obtain ⟨d, hd', hdl⟩ := List.mem_map.1 hmem
  have : (ds.any fun d => d.1 == l.lane) = true := List.any_eq_true.2 ⟨d, hd', by simpa using hdl⟩
  simp [this] at hd

/-- What an access is once lanes have read its bytes in a view of memory. -/
def Access.hasRead (b : Access) (v : State) (ls : List LaneAcc) : Access :=
  { b with done := b.done ++ ls.map fun l => (l.lane, v.laneRead l.keys), psn := b.psn || ((ls.any fun l => v.anyMarked l.keys) && b.dest != .none) }

/-- A load all of whose lines the L1 holds, and which nothing orders, reads all its lanes. -/
theorem State.readHits_all {t : State} {b : Access} {v : Nat} (hop : b.op = .load v) (hspace : b.space = .global) (htodo : b.todo = ls)
    (hhit : ∀ l ∈ ls, (t.l1Line? b.core (t.asid b.proc) l.addr).isSome = true ∧ l.node = none ∧ t.laneFault l = none ∧ t.inOrder b [l] = true)
    (hst : ∀ d ∈ t.dies, d.2.slots = []) : t.readHits b = b.hasRead (t.loadView b ls) ls := by
  have hplace : ∀ ks : List Nat, ks.map t.redirect = ks := fun ks => by
    rw [show t.redirect = id from funext (State.redirect_still hst), List.map_id]
  have hall : (ls.filter fun l => l.node.isNone && (t.l1Line? b.core (t.asid b.proc) l.addr).isSome && (t.laneFault l).isNone && t.inOrder b [l]) = ls := by
    refine List.filter_eq_self.2 fun l hl => ?_
    obtain ⟨hline, hnode, hfault, horder⟩ := hhit l hl
    simp [hline, hnode, hfault, horder]
  unfold State.readHits
  rw [hop]
  simp only [hspace, htodo, hall, foldl_readLane, hplace]
  unfold Access.hasRead
  rw [← hop, ← hspace, if_neg (by simp)]
  rfl

/-- The global load. -/
theorem memForms_ldg (hm : (i, m) ∈ memForms x f) (hspace : m.space = .global) {v : Nat} (hop : m.op = .load v) :
    m.once = f.du ∧ m.dest = if f.du then .uni f.kd (if f.vn = 2 then 2 else 1) else .lane f.xd (memRegs f.vn) := by
  unfold memForms at hm
  simp only [List.mem_cons, List.not_mem_nil, or_false, Prod.mk.injEq] at hm
  rcases hm with ⟨-, rfl⟩ | ⟨-, rfl⟩ | ⟨-, rfl⟩ | ⟨-, rfl⟩ | ⟨-, rfl⟩ | ⟨-, rfl⟩ | ⟨-, rfl⟩ | ⟨-, rfl⟩ | ⟨-, rfl⟩ | ⟨-, rfl⟩ | ⟨-, rfl⟩ |
    ⟨-, rfl⟩ | ⟨-, rfl⟩ | ⟨-, rfl⟩ | ⟨-, rfl⟩ | ⟨-, rfl⟩ | ⟨-, rfl⟩ | ⟨-, rfl⟩ <;> simp_all

/-- The lanes of the resolved access, by number. -/
theorem State.resolved_numbers (hm : (i, m) ∈ memForms x f) (hres : (s.resolve x (s.asks x e sh f i m)).1 = .ok ls) :
    ls.map (·.lane) = ((lanesFor m (x.active f e)).filter fun l => !(m.addr l).2).map (·.val) := by
  have h := congrArg (List.map LaneAcc.lane) (State.resolve_lanes hres)
  rw [State.asks_lanes hm] at h
  simpa [LaneAcc.bare, Function.comp_def] using h

theorem find?_reads (v : State) (ls : List LaneAcc) (n : Nat) :
    (ls.map fun l => (l.lane, v.laneRead l.keys)).find? (fun d => d.1 == n) = (ls.find? fun l => l.lane == n).map fun l => (l.lane, v.laneRead l.keys) := by
  rw [List.find?_map]
  rfl

end

end Sys2Proof.Machine
end

section
/-! PROOFS. O26: a load of lines that the core's L1 holds, from its issue to its registers (R198, R348), and the obligation. -/

namespace Sys2Proof.Machine

section
variable {i : Instr} {s : State} {x y : Warp} {e : Entry} {sh : Shape} {f : Frame} {m : MemForm} {ls : List LaneAcc}

/-- The access of a load, its lanes resolved. -/
abbrev State.asksOf (s : State) (x : Warp) (e : Entry) (sh : Shape) (f : Frame) (i : Instr) (m : MemForm) (ls : List LaneAcc) : Access :=
  { s.asks x e sh f i m with lanes := ls }

/-- An access whose lanes have all read has no lane left. -/
theorem Access.hasRead_todo {b : Access} (htodo : b.todo = ls) (v : State) : (b.hasRead v ls).todo = [] :=
  Access.todo_nil htodo rfl rfl rfl (by simp [Function.comp_def])

/-- Each lane has what the view shows of its bytes, or poison where they are marked or its address is tagged. -/
theorem State.asks_got (hm : (i, m) ∈ memForms x f) (hres : (s.resolve x (s.asks x e sh f i m)).1 = .ok ls) (hdest : m.dest ≠ .none) (v : State) (l : Fin 32)
    (hl : l ∈ lanesFor m (x.active f e)) :
    let got := (ls.find? fun k => k.lane == l.val).bind fun k => if v.anyMarked k.keys then none else some (k.keys.map v.byte)
    ((s.asksOf x e sh f i m ls).hasRead v ls).got l = some (l.val, got.getD [], got.isNone) := by
  intro got
  have hdone : ((s.asksOf x e sh f i m ls).hasRead v ls).done = _ := congrArg (· ++ ls.map fun l => (l.lane, v.laneRead l.keys)) (State.asks_done (s := s) (e := e) (sh := sh) hm)
  rw [if_neg hdest] at hdone
  have hnum := State.resolved_numbers hm hres
  obtain ⟨hsome, hgot⟩ := Access.got_split hdone (by simpa [Function.comp_def] using hnum) l
  by_cases ht : (m.addr l).2 = true
  · have hnone : ls.find? (fun k => k.lane == l.val) = none := by
      refine List.find?_eq_none.2 fun k hk hkl => ?_
      have : k.lane ∈ ls.map (·.lane) := List.mem_map_of_mem hk
      rw [hnum] at this
      obtain ⟨j, hj, hjk⟩ := List.mem_map.1 this
      obtain rfl : j = l := Fin.ext (by simpa [hjk] using hkl)
      simp [ht] at hj
    rw [hgot, if_pos ⟨hl, ht⟩]
    simp [got, hnone]
  · rw [if_neg fun h => ht h.2, find?_reads] at hgot
    rw [hgot] at hsome
    cases hf : ls.find? fun k => k.lane == l.val with
    | none => simp [hf, hl] at hsome
    | some k =>
      have hkl : k.lane = l.val := by simpa using List.find?_some hf
      simp only [got, hgot, hf, Option.map_some, Option.bind_some, hkl, State.laneRead_eq]

theorem State.asks_got_isSome (hm : (i, m) ∈ memForms x f) (hres : (s.resolve x (s.asks x e sh f i m)).1 = .ok ls) (hdest : m.dest ≠ .none) (v : State)
    (l : Fin 32) : (((s.asksOf x e sh f i m ls).hasRead v ls).got l).isSome = decide (l ∈ lanesFor m (x.active f e)) := by
  have hdone : ((s.asksOf x e sh f i m ls).hasRead v ls).done = _ := congrArg (· ++ ls.map fun l => (l.lane, v.laneRead l.keys)) (State.asks_done (s := s) (e := e) (sh := sh) hm)
  rw [if_neg hdest] at hdone
  exact (Access.got_split hdone (by simpa [Function.comp_def] using State.resolved_numbers hm hres) l).1

/-- What a load has read waits for its registers. -/
theorem LoadWaits.of_hasRead (hm : (i, m) ∈ memForms x f) (hres : (s.resolve x (s.asks x e sh f i m)).1 = .ok ls) {n count : Nat}
    (hdest : m.dest = .lane n count) (honce : m.once = false) {v : Nat} (hcode : m.op.code m.width = v) (hcount : count ≤ memRegs v) (t : State)
    (hy : x.hears y ((s.asksOf x e sh f i m ls).hasRead t ls)) :
    LoadWaits x y m.dest v (x.active f e)
      (fun l => (ls.find? fun k => k.lane == l.val).bind fun k => if t.anyMarked k.keys then none else some (k.keys.map t.byte))
      (ls.any fun k => t.anyMarked k.keys) e.pc := by
  have hne : m.dest ≠ .none := by rw [hdest]; exact nofun
  have hlanes : ∀ l : Fin 32, l ∈ lanesFor m (x.active f e) ↔ (x.active f e).getLsbD l.val = true := fun l => by
    rw [lanesFor, honce, if_neg (by simp), mem_lanesOf]
  have hpsn : ((s.asksOf x e sh f i m ls).hasRead t ls).psn = ls.any fun k => t.anyMarked k.keys := by
    show (false || ((ls.any fun l => t.anyMarked l.keys) && m.dest != .none)) = _
    simp [hne]
  rw [hdest, ← hpsn]
  refine LoadWaits.of_lane hy hdest hcode hcount (fun l => ?_) fun l hl => State.asks_got hm hres hne t l ((hlanes l).2 hl)
  rw [State.asks_got_isSome hm hres hne, Bool.eq_iff_iff, decide_eq_true_eq]
  exact hlanes l

/-- The same for a load into uniform registers (R346). -/
theorem LoadWaits.of_hasRead_uni (hm : (i, m) ∈ memForms x f) (hres : (s.resolve x (s.asks x e sh f i m)).1 = .ok ls) {n count : Nat}
    (hdest : m.dest = .uni n count) (honce : m.once = true) {v : Nat} (hcode : m.op.code m.width = v) (hcount : count ≤ if v = 2 then 2 else 1) (t : State)
    (hsome : ∃ l ∈ lanesFor m (x.active f e), (m.addr l).2 = false) (hy : x.hears y ((s.asksOf x e sh f i m ls).hasRead t ls)) :
    LoadWaits x y m.dest v (x.active f e)
      (fun l => (ls.find? fun k => k.lane == l.val).bind fun k => if t.anyMarked k.keys then none else some (k.keys.map t.byte))
      (ls.any fun k => t.anyMarked k.keys) e.pc := by
  have hne : m.dest ≠ .none := by rw [hdest]; exact nofun
  have hlanes : lanesFor m (x.active f e) = [0] := by rw [lanesFor, honce, if_pos rfl]
  have hclean : (m.addr 0).2 = false := by
    obtain ⟨l, hl, hc⟩ := hsome
    rw [hlanes] at hl
    obtain rfl : l = 0 := by simpa using hl
    exact hc
  have hpsn : ((s.asksOf x e sh f i m ls).hasRead t ls).psn = ls.any fun k => t.anyMarked k.keys := by
    show (false || ((ls.any fun l => t.anyMarked l.keys) && m.dest != .none)) = _
    simp [hne]
  have hdone : ((s.asksOf x e sh f i m ls).hasRead t ls).done = ls.map fun l => (l.lane, t.laneRead l.keys) := by
    show (s.asks x e sh f i m).done ++ _ = _
    rw [State.asks_done hm, if_neg hne, hlanes]
    simp [hclean]
  have hnum := State.resolved_numbers hm hres
  rw [hlanes] at hnum
  obtain ⟨k, rfl⟩ : ∃ k, ls = [k] := List.length_eq_one_iff.1 (by simpa [hclean] using congrArg List.length hnum)
  have hk : k.lane = 0 := by simpa [hclean] using hnum
  rw [hdest, ← hpsn]
  refine LoadWaits.of_uni hy hdest hcode hcount (k := 0) (rest := []) ?_
  rw [hdone]
  simp [hk, State.laneRead_eq]

/-- R198: a load of lines that the L1 holds reads them at issue. -/
theorem Ready.access_reads (h : Ready i s x e sh f) (hact : x.active f e ≠ 0) (hm : (i, m) ∈ memForms x f) (hspace : m.space = .global)
    (hop : m.op = .load f.vn) (hord : m.ord = 0) (hal : Aligned (lanesFor m (x.active f e)) m) (hlog : x.log = []) (hfifth : x.fifth = none)
    (hsome : ∃ l ∈ lanesFor m (x.active f e), (m.addr l).2 = false) (hres : (s.resolve x (s.asks x e sh f i m)).1 = .ok ls)
    (hhit : ∀ l ∈ ls, (s.l1Line? (coreOf s.cur) (s.asid x.owner.proc) l.addr).isSome = true ∧ l.node = none ∧ s.laneFault l = none)
    (hst : ∀ d ∈ s.dies, d.2.slots = []) (hfl : ∀ g ∈ s.flights, g.w ≠ s.cur) (hprom : s.promotions = []) (hposts : x.call.posts = [])
    (hlive : x.marks.ended = false) :
    let v := s.loadView (s.asks x e sh f i m) ls
    ∃ t y, exec i s = .next t ∧ t.warp? s.cur = some y ∧ Gone t s.cur x y e f none ∧ KeepsRegs x y sh f ∧ (∀ r ∈ sh.writes f, y.isEmpty r = true) ∧
      y.still = { x.still with results := y.results, sawMark := y.sawMark } ∧ t.mem = s.mem ∧ t.marks = s.marks ∧
      t.flights = s.flights.filter (fun b => b.id != s.nextId) ∧
      Unflawed x y sh f (x.active f e) ∧
      (∀ w, w ≠ s.cur → t.warp? w = s.warp? w) ∧
      LoadWaits x y m.dest f.vn (x.active f e)
        (fun l => (ls.find? fun k => k.lane == l.val).bind fun k => if v.anyMarked k.keys then none else some (k.keys.map v.byte))
        (ls.any fun k => v.anyMarked k.keys) e.pc := by
  intro v
  obtain ⟨hfl', -, -, hmem, hmarks, -, hprom', -⟩ := s.resolve_keeps x (s.asks x e sh f i m)
  obtain ⟨honce, hdest⟩ := memForms_ldg hm hspace hop
  have hwalk := s.resolve_walked x (s.asks x e sh f i m)
  have hidle : (s.asks x e sh f i m).acquires = false := by
    show (m.ord == 1 || m.ord == 3) = false
    simp [hord]
  have hlogged : s.loggedOf s.cur = [] := by simp [State.loggedOf, h.warp, Warp.logged, hlog, hfifth]
  have hexec := h.exec_access hact hm hal hlog (.inl (by omega)) (.inl (by omega))
  rw [State.launch_starts hres rfl] at hexec
  generalize hu : s.reached x e sh f (s.asks x e sh f i m) = u at hexec
  have huw : u.warp? s.cur = some (x.launched e sh f s.clock (s.asks x e sh f i m)) := by
    rw [← hu, State.reached_warp?]
  have hhits : u.readHits (s.asksOf x e sh f i m ls) = (s.asksOf x e sh f i m ls).hasRead (u.loadView (s.asksOf x e sh f i m ls) ls) ls := by
    refine State.readHits_all hop hspace (State.asks_todo hm hres) (fun l hl => ?_) (by rw [← hu]; exact hwalk.still hst)
    obtain ⟨hline, hnode, hfault⟩ := hhit l hl
    refine ⟨?_, hnode, ?_, ?_⟩
    · rw [← hu]
      exact (congrArg Option.isSome (State.reached_l1Line? ..)).trans hline
    · have hkey : u.keyFault = s.keyFault := by
        funext k
        rw [State.keyFault_still hst, State.keyFault_still (by rw [← hu]; exact hwalk.still hst), ← hu]
        exact hwalk.homeFault k
      rw [State.laneFault, hkey]
      exact hfault
    · refine State.inOrder_load hop hspace hord ?_ ?_ ?_ [l]
      · rw [← hu]; exact fun g hg => hfl g (hfl' ▸ hg)
      · rw [← hu, State.reached_logged h.warp]; exact hlogged
      · rw [← hu]; exact hprom'.trans hprom
  have hbytes : SameBytes v (u.loadView (s.asksOf x e sh f i m ls) ls) := by
    rw [← hu]
    exact State.reached_loadView h.warp hst (s.asks x e sh f i m) ls
  have hread : (s.asksOf x e sh f i m ls).hasRead (u.loadView (s.asksOf x e sh f i m ls) ls) ls = (s.asksOf x e sh f i m ls).hasRead v ls := by
    have hlane : ∀ ks, (u.loadView (s.asksOf x e sh f i m ls) ls).laneRead ks = v.laneRead ks := fun ks => by
      rw [State.laneRead_eq, State.laneRead_eq, hbytes.byte, hbytes.anyMarked]
    simp only [Access.hasRead, hlane, hbytes.anyMarked]
  have htodo := Access.hasRead_todo (State.asks_todo hm hres) v
  generalize hc : (s.asksOf x e sh f i m ls).hasRead v ls = c at hread htodo
  have hcw : c.w = s.cur := by rw [← hc]; rfl
  have hstart : u.start (s.asksOf x e sh f i m ls) = u.settle c := by
    rw [State.start_far (show m.space ≠ .scratch by simp [hspace]) (show m.space ≠ .slice by simp [hspace]), hhits, hread, htodo]
    rfl
  have hucur : u.cur = s.cur := by rw [← hu]; exact (s.resolve_keeps x _).2.1
  obtain ⟨t, y, ht, hA⟩ := h.settles hm (c := c) (by rw [huw, ← hc]; rfl) hucur hcw htodo (by rw [← hc]; rfl) (by rw [← hc]; rfl) hlive hposts
    fun ha => by
      have hno : (s.asks x e sh f i m).acquires = true := by rw [← ha, ← hc]; rfl
      exact nomatch hidle.symm.trans hno
  rw [hstart, ht] at hexec
  have hkeep : ∀ w, w ≠ s.cur → u.warp? w = s.warp? w := fun w hw => by
    rw [← hu]
    exact Tbl.get?_set_ne _ _ hw
  refine ⟨t, y, hexec, hA.warp, hA.gone, hA.regs, hA.empty, hA.still, ?_, ?_, ?_, hA.flaws, fun w hw => (hA.others w hw).trans (hkeep w hw), ?_⟩
  · exact (congrArg State.mem hA.rest).trans (by rw [← hu]; exact hmem)
  · exact (congrArg State.marks hA.rest).trans (by rw [← hu]; exact hmarks)
  · refine (congrArg State.flights hA.rest).trans ?_
    rw [show u.flights = s.flights by rw [← hu]; exact hfl', ← hc]
    rfl
  · have hy : x.hears y ((s.asksOf x e sh f i m ls).hasRead v ls) := hc ▸ hA.results
    cases hdu : f.du with
    | false =>
      rw [hdu] at honce hdest
      exact LoadWaits.of_hasRead hm hres hdest honce (by rw [hop]; rfl) (Nat.le_refl _) v hy
    | true =>
      rw [hdu] at honce hdest
      exact LoadWaits.of_hasRead_uni hm hres hdest honce (by rw [hop]; rfl) (Nat.le_refl _) v hsome hy

end

/-- Settles O26: the access is launched where it translates, and starts there; without a line in the L1 it flies, with all of them it is answered at once. -/
theorem accessesSetOut : Obligations.AccessesSetOut := by
  unfold Obligations.AccessesSetOut
  intro s x e sh f i m ls hm hscratch hslice h hact hal hlog hfifth hsome a hres hclean
  refine ⟨fun hmiss => h.access_setsOut hact hm hscratch hslice hal hlog hfifth hsome hres hclean hmiss,
    fun hspace hop hord hhit hq hfl hprom hposts hlive => ?_⟩
  exact h.access_reads hact hm hspace hop hord hal hlog hfifth hsome hres hhit hq.slots hfl hprom hposts hlive

end Sys2Proof.Machine
end

section
/-! PROOFS. Scratchpad accesses at issue: their bytes, the core's port, and the load (R196, R198, R201, R202, R210). -/

namespace Sys2Proof.Machine

section
variable {i : Instr} {s : State} {x y : Warp} {e : Entry} {sh : Shape} {f : Frame} {m : MemForm} {a : Access} {ls : List LaneAcc}

/-! ## The lanes of a scratchpad access (R201, R202) -/

/-- Where the lanes of a scratchpad access lie, and what they bring. -/
def State.portLanes (s : State) (x : Warp) (e : Entry) (f : Frame) (m : MemForm) : List LaneAcc :=
  ((lanesFor m (x.active f e)).filter fun l => !(m.addr l).2).map fun l =>
    { lane := l.val, addr := (m.addr l).1, keys := scratchKeys (coreOf s.cur) x.spbase m.rot (m.addr l).1 m.width,
      data := (m.data l).1, new := (m.data l).2.1, tag := (m.data l).2.2 }

/-- Lanes within the allocation resolve to their bytes, and nothing is translated. -/
theorem State.resolve_port (hspace : a.space = .scratch) (hdone : ∀ l ∈ a.lanes, (a.done.any fun d => d.1 == l.lane) = false)
    (hin : ∀ l ∈ a.lanes, l.addr + a.width ≤ x.spwin * 2048) :
    s.resolve x a = (.ok (a.lanes.map fun l => { l with keys := scratchKeys a.core x.spbase a.rot l.addr a.width, node := none }), s) := by
  unfold State.resolve
  rw [show (Except.ok [] : Except (Nat × Nat × Bool) (List LaneAcc)) = .ok ([] ++ []) from rfl]
  suffices key : ∀ done : List LaneAcc, a.lanes.foldl _ (Except.ok done, s) =
      ((.ok (done ++ a.lanes.map fun l => { l with keys := scratchKeys a.core x.spbase a.rot l.addr a.width, node := none }), s) :
        Except (Nat × Nat × Bool) (List LaneAcc) × State) from key []
  generalize a.lanes = ms at hdone hin
  induction ms with
  | nil => exact fun done => by simp
  | cons l ms ih =>
    intro done
    have hreach : s.reachOf x a l = (.keys (scratchKeys a.core x.spbase a.rot l.addr a.width), s) := by
      simp [State.reachOf, hspace, Nat.not_lt.2 (hin l List.mem_cons_self)]
    rw [List.foldl_cons]
    simp only [hdone l List.mem_cons_self, hreach, Bool.false_eq_true, if_false]
    rw [ih (fun k hk => hdone k (List.mem_cons_of_mem _ hk)) (fun k hk => hin k (List.mem_cons_of_mem _ hk))]
    simp

theorem State.asks_port (hm : (i, m) ∈ memForms x f) (hspace : m.space = .scratch)
    (hin : ∀ l ∈ lanesFor m (x.active f e), (m.addr l).2 = false → (m.addr l).1 + m.width ≤ x.spwin * 2048) :
    s.resolve x (s.asks x e sh f i m) = (.ok (s.portLanes x e f m), s) := by
  rw [State.resolve_port hspace (fun l hl => State.asks_disjoint hm (List.mem_map_of_mem hl)) fun l hl => ?_]
  · rw [State.asks_lanes hm, List.map_map]
    rfl
  · rw [State.asks_lanes hm] at hl
    obtain ⟨k, hk, rfl⟩ := List.mem_map.1 hl
    obtain ⟨hk, hc⟩ := List.mem_filter.1 hk
    exact hin k hk (by simpa using hc)

theorem find?_lanes {ks : List (Fin 32)} {g : Fin 32 → LaneAcc} (hg : ∀ k, (g k).lane = k.val) (l : Fin 32) :
    (ks.map g).find? (fun k => k.lane == l.val) = if l ∈ ks then some (g l) else none := by
  rw [List.find?_map]
  have hp : ((fun k : LaneAcc => k.lane == l.val) ∘ g) = fun k => k == l := by
    funext k
    rw [Bool.eq_iff_iff]
    simp [hg, Fin.ext_iff]
  rw [hp]
  cases hf : ks.find? fun k => k == l with
  | none =>
    have hnot : l ∉ ks := fun h => by simpa using List.find?_eq_none.1 hf l h
    simp [hnot]
  | some k =>
    obtain rfl : k = l := by simpa using List.find?_some hf
    simp [List.mem_of_find?_eq_some hf]

/-! ## The port of the core (R198, R210) -/

/-- A scratchpad access that may use the port performs at once. -/
theorem State.start_port {t : State} (hspace : a.space = .scratch) (hready : t.portReady a = true) :
    t.start a = (t.performPort a a.todo).2.settle
      { a with done := a.done ++ (t.performPort a a.todo).1.done, psn := a.psn || ((t.performPort a a.todo).1.psn && a.dest != .none) } := by
  have hport : t.start a = t.usePort a := by
    unfold State.start
    split
    · exact if_pos hready
    · next h _ => exact absurd (hspace.symm.trans h) (by simp)
    · next h _ => exact absurd hspace h
  exact hport

/-- A scratchpad access that orders nothing uses the port at once where no access of its warp reads or waits for the port. -/
theorem State.portReady_idle {t : State} (hspace : a.space = .scratch) (hrel : a.releases = none) (hlog : t.loggedOf a.w = [])
    (hfl : ∀ g ∈ t.flights, g.w = a.w → g.space ≠ .scratch ∧ g.reads = false) : t.portReady a = true := by
  unfold State.portReady
  rw [State.releaseReady_idle (fun g hg hw => (hfl g hg hw).2) hlog (State.fenceHeld_near (by simp [hspace])) hrel, Bool.true_and, List.all_eq_true]
  intro g hg
  by_cases hw : g.w = a.w
  · simp [(hfl g hg hw).1]
  · simp [hw]

theorem SameBytes.portView {t : State} (h : SameBytes s t) {core : Nat} (hbuf : (t.core core).wbuf = (s.core core).wbuf) :
    SameBytes (s.portView core) (t.portView core) := by
  unfold State.portView
  rw [hbuf]
  exact SameBytes.foldl (fun _ _ k b => k.applyWord b) _ h

end

end Sys2Proof.Machine
end

section
/-! PROOFS. O28: loads from the scratchpad (R32, R196, R202, R210). -/

namespace Sys2Proof.Machine

section
variable {i : Instr} {s : State} {x y : Warp} {e : Entry} {sh : Shape} {f : Frame} {m : MemForm} {ls : List LaneAcc}

/-- The state in which the access of a scratchpad instruction starts: its warp launched, and nothing else changed. -/
abbrev State.ported (s : State) (x : Warp) (e : Entry) (sh : Shape) (f : Frame) (a : Access) : State :=
  s.rewarped (s.warps.set s.cur (x.launched e sh f s.clock a)) (s.nextId + 1)

/-- An aligned scratchpad access within the warp's allocation starts at issue. -/
theorem Ready.exec_port (h : Ready i s x e sh f) (hact : x.active f e ≠ 0) (hm : (i, m) ∈ memForms x f) (hspace : m.space = .scratch)
    (hscope : m.scope < 2) (hlog : x.log = []) (hfifth : x.fifth = none)
    (hin : ∀ l ∈ lanesFor m (x.active f e), (m.addr l).2 = false → (m.addr l).1 % m.width = 0 ∧ (m.addr l).1 + m.width ≤ x.spwin * 2048) :
    exec i s = .next (((s.ported x e sh f (s.asks x e sh f i m)).start (s.asksOf x e sh f i m (s.portLanes x e f m))).retire s.cur f true) := by
  have hres : s.resolve x (s.asks x e sh f i m) = (.ok (s.portLanes x e f m), s) := State.asks_port hm hspace fun l hl hc => (hin l hl hc).2
  rw [h.exec_access hact hm (fun l hl hc => (hin l hl hc).1) hlog (.inr hfifth) (.inr (.inl hscope)), State.launch_starts (by rw [hres]) rfl, State.reached, hres]

theorem State.ported_warp? (s : State) (x : Warp) (e : Entry) (sh : Shape) (f : Frame) (a : Access) :
    (s.ported x e sh f a).warp? s.cur = some (x.launched e sh f s.clock a) := Tbl.get?_set_self ..

theorem State.ported_logged (hlog : x.log = []) (hfifth : x.fifth = none) (e : Entry) (sh : Shape) (f : Frame) (a : Access) :
    (s.ported x e sh f a).loggedOf s.cur = [] := by
  rw [State.loggedOf, State.ported_warp?]
  show (x.launched e sh f s.clock a).logged = []
  rw [Warp.launched_logged, Warp.logged, hlog, hfifth]
  rfl

theorem State.portLanes_todo (hm : (i, m) ∈ memForms x f) (hspace : m.space = .scratch)
    (hin : ∀ l ∈ lanesFor m (x.active f e), (m.addr l).2 = false → (m.addr l).1 + m.width ≤ x.spwin * 2048) :
    (s.asksOf x e sh f i m (s.portLanes x e f m)).todo = s.portLanes x e f m :=
  State.asks_todo hm (by rw [State.asks_port hm hspace hin])

theorem LoadWaits.lane_congr {n count v : Nat} {act : Mask} {got got' : Fin 32 → Option (List Byte)} {psn : Bool} {pc : BitVec 57}
    (h : LoadWaits x y (.lane n count) v act got psn pc) (hg : ∀ l : Fin 32, act.getLsbD l.val = true → got l = got' l) :
    LoadWaits x y (.lane n count) v act got' psn pc := by
  obtain ⟨id, ps, hres, hps⟩ := h
  refine ⟨id, ps, hres, ?_⟩
  dsimp only at hps ⊢
  split at hps
  · next hn => rw [if_pos hn]; exact hps
  · next hn =>
    obtain ⟨vs, ts, hput, hval⟩ := hps
    rw [if_neg hn]
    exact ⟨vs, ts, hput, fun i hi l hl => by rw [← hg l hl]; exact hval i hi l hl⟩

/-- A load that is answered at the port at once. -/
theorem Ready.load_port (h : Ready i s x e sh f) (hact : x.active f e ≠ 0) (hm : (i, m) ∈ memForms x f) (hspace : m.space = .scratch)
    (hop : m.op = .load f.vn) (hord : m.ord = 0) (hscope : m.scope < 2) (hlog : x.log = []) (hfifth : x.fifth = none)
    (hlive : x.marks.ended = false) (hposts : x.call.posts = [])
    (hfl : ∀ g ∈ s.flights, g.w = s.cur → g.space ≠ .scratch ∧ g.reads = false)
    (hin : ∀ l ∈ lanesFor m (x.active f e), (m.addr l).2 = false → (m.addr l).1 % m.width = 0 ∧ (m.addr l).1 + m.width ≤ x.spwin * 2048) :
    ∃ t y, exec i s = .next t ∧ SettledAtIssue s t x y e sh f (s.ported x e sh f (s.asks x e sh f i m))
      ((s.asksOf x e sh f i m (s.portLanes x e f m)).hasRead (s.portView (coreOf s.cur)) (s.portLanes x e f m)) := by
  have htodo := State.portLanes_todo (s := s) (sh := sh) hm hspace fun l hl hc => (hin l hl hc).2
  have hexec := h.exec_port hact hm hspace hscope hlog hfifth hin
  generalize hb : s.asksOf x e sh f i m (s.portLanes x e f m) = b at htodo hexec ⊢
  have hbop : b.op = .load f.vn := by rw [← hb]; exact hop
  have hbspace : b.space = .scratch := by rw [← hb]; exact hspace
  have hrel : b.releases = none := by
    have hbord : b.ord = 0 := by rw [← hb]; exact hord
    simp [Access.releases, Access.isDet, hbop, hbord]
  have hidle : b.acquires = false := by
    rw [← hb]
    show (m.ord == 1 || m.ord == 3) = false
    simp [hord]
  have hbw : b.w = s.cur := by rw [← hb]; rfl
  generalize hu : s.ported x e sh f (s.asks x e sh f i m) = u at hexec ⊢
  have hready : u.portReady b = true := by
    refine State.portReady_idle hbspace hrel ?_ ?_
    · rw [← hu, hbw]; exact State.ported_logged hlog hfifth e sh f _
    · rw [← hu, hbw]; exact hfl
  have hview : SameBytes (s.portView b.core) (u.portView b.core) := by
    rw [← hu]
    exact SameBytes.portView (s := s) (t := s.ported x e sh f (s.asks x e sh f i m)) ⟨rfl, rfl⟩ rfl
  have hperf : u.performPort b b.todo = (Got.mk (b.todo.map fun l => (l.lane, (s.portView b.core).laneRead l.keys)) (b.todo.any fun l => (s.portView b.core).anyMarked l.keys), u) := by
    have hlane : ∀ ks, (u.portView b.core).laneRead ks = (s.portView b.core).laneRead ks := fun ks => by
      rw [State.laneRead_eq, State.laneRead_eq, hview.byte, hview.anyMarked]
    unfold State.performPort
    rw [hbop]
    simp only [foldl_readLane, hlane, hview.anyMarked, List.nil_append, Bool.false_or]
  have hstart : u.start b = u.settle (b.hasRead (s.portView (coreOf s.cur)) (s.portLanes x e f m)) := by
    rw [State.start_port hbspace hready, hperf, htodo, show coreOf s.cur = b.core by rw [← hb]; rfl]
    rfl
  have huw : u.warp? s.cur = some (x.launched e sh f s.clock b) := by
    rw [← hu, State.ported_warp?, ← hb]
    rfl
  obtain ⟨t, y, ht, hA⟩ := h.settles hm (c := b.hasRead (s.portView (coreOf s.cur)) (s.portLanes x e f m)) huw (by rw [← hu]; rfl) hbw
    (Access.hasRead_todo htodo _) (by rw [← hb]; rfl) (by rw [← hb]; rfl) hlive hposts fun ha => nomatch hidle.symm.trans ha
  rw [hstart, ht] at hexec
  exact ⟨t, y, hexec, hA⟩

/-- R196: `lds` reads through the core's write buffer. -/
theorem Ready.lds_reads {s : State} (h : Ready (.lds f) s x e sh f) (hact : x.active f e ≠ 0) (hlive : x.marks.ended = false) (hlog : x.log = [])
    (hfifth : x.fifth = none) (hposts : x.call.posts = []) (hfl : ∀ g ∈ s.flights, g.w = s.cur → g.space ≠ .scratch ∧ g.reads = false)
    (hin : ∀ l : Fin 32, (x.active f e).getLsbD l.val = true → (!(x.lane f.xa).2.getLsbD l.val) = true →
      ((x.lane f.xa).1[l] + (f.imm.setWidth 20).signExtend 32).toNat % memBytes f.vn = 0 ∧
        ((x.lane f.xa).1[l] + (f.imm.setWidth 20).signExtend 32).toNat + memBytes f.vn ≤ x.spwin * 2048) :
    let act := x.active f e
    let a := x.lane f.xa
    let n := memBytes f.vn
    let addr := fun l : Fin 32 => (a.1[l] + (f.imm.setWidth 20).signExtend 32).toNat
    let clean := fun l : Fin 32 => !a.2.getLsbD l.val
    let keys := fun l : Fin 32 => scratchKeys (coreOf s.cur) x.spbase (f.mf 4 3) (addr l) n
    let v := s.portView (coreOf s.cur)
    ∃ t y, exec (.lds f) s = .next t ∧ t.warp? s.cur = some y ∧ Gone t s.cur x y e f none ∧ KeepsRegs x y sh f ∧ (∀ r ∈ sh.writes f, y.isEmpty r = true) ∧
      Unflawed x y sh f act ∧ y.still = { x.still with results := y.results, sawMark := y.sawMark } ∧ (∀ w, w ≠ s.cur → t.warp? w = s.warp? w) ∧
      (∀ c, ∃ q l1, t.core c = { s.core c with quads := q, l1 := l1 } ∧ (x.dropMark ≤ s.nextId → l1 = (s.core c).l1)) ∧
      t = { s with warps := t.warps, cores := t.cores, flights := s.flights.filter fun b => b.id != s.nextId, nextId := s.nextId + 1 } ∧
      LoadWaits x y (.lane f.xd (memRegs f.vn)) f.vn act (fun l => if clean l && !v.anyMarked (keys l) then some ((keys l).map v.byte) else none)
        ((lanesOf act).any fun l => clean l && v.anyMarked (keys l)) e.pc := by
  intro act a n addr clean keys v
  generalize hm' : ({ space := .scratch, op := .load f.vn, width := n, dest := .lane f.xd (memRegs f.vn), rot := f.mf 4 3,
                      addr := fun l => (addr l, a.2.getLsbD l.val) } : MemForm) = m
  have hm : (.lds f, m) ∈ memForms x f := by rw [← hm']; simp [memForms, a, n, addr]
  have hin' : ∀ l ∈ lanesFor m act, (m.addr l).2 = false → (m.addr l).1 % m.width = 0 ∧ (m.addr l).1 + m.width ≤ x.spwin * 2048 := by
    rw [← hm']
    exact fun l hl hc => hin l (mem_lanesOf.1 hl) (by simpa using hc)
  have hdest : m.dest = .lane f.xd (memRegs f.vn) := by rw [← hm']
  obtain ⟨t, y, hexec, hA⟩ := h.load_port hact hm (by rw [← hm']) (by rw [← hm']) (by rw [← hm']) (by rw [← hm']; exact Nat.two_pos)
    hlog hfifth hlive hposts hfl hin'
  have hloads := LoadWaits.of_hasRead (s := s) (sh := sh) (y := y) hm (by rw [State.asks_port hm (by rw [← hm']) fun l hl hc => (hin' l hl hc).2]) hdest (by rw [← hm'])
    (by rw [← hm']; rfl) (Nat.le_refl _) v hA.results
  have hls : s.portLanes x e f m = ((lanesOf act).filter clean).map fun l => { lane := l.val, addr := addr l, keys := keys l, data := [] } := by
    rw [← hm']
    rfl
  have hany : ((s.portLanes x e f m).any fun k => v.anyMarked k.keys) = (lanesOf act).any fun l => clean l && v.anyMarked (keys l) := by
    rw [hls, List.any_map, List.any_filter]
    rfl
  refine ⟨t, y, hexec, hA.warp, hA.gone, hA.regs, hA.empty, hA.flaws, hA.still, fun w hw => (hA.others w hw).trans (Tbl.get?_set_ne _ _ hw), fun c => ?_, ?_, ?_⟩
  · obtain ⟨q, l1, hc, hl1, -⟩ := hA.cores c
    exact ⟨q, l1, hc, fun hd => hl1 (.inr (.inl hd))⟩
  · exact hA.rest
  · rw [← hany, ← hdest]
    rw [hdest] at hloads ⊢
    refine hloads.lane_congr fun l hl => ?_
    rw [hls, find?_lanes fun _ => rfl]
    by_cases hc : clean l = true
    · have hmem : l ∈ (lanesOf act).filter clean := List.mem_filter.2 ⟨mem_lanesOf.2 hl, hc⟩
      by_cases hk : v.anyMarked (keys l) = true <;> simp [hmem, hc, hk]
    · have hmem : l ∉ (lanesOf act).filter clean := fun h => hc (List.mem_filter.1 h).2
      simp [hmem, hc]

end

end Sys2Proof.Machine
end

section
/-! PROOFS. What lanes store, word by word (R196, R204): the bytes and the poison marks that their word writes leave. -/

namespace Sys2Proof.Machine

/-! ## Tables and sets, kept rising -/

theorem mem_setInsert {t : List Nat} {k j : Nat} : j ∈ setInsert t k ↔ j = k ∨ j ∈ t := by
  induction t with
  | nil => simp [setInsert]
  | cons i t ih =>
    unfold setInsert
    split
    · simp
    · split
      · next h => simp [h]
      · simp only [List.mem_cons, ih]
        tauto

theorem setInsert_rising {t : List Nat} (h : t.Pairwise (· < ·)) (k : Nat) : (setInsert t k).Pairwise (· < ·) := by
  induction t with
  | nil => simp [setInsert]
  | cons i t ih =>
    obtain ⟨hi, ht⟩ := List.pairwise_cons.1 h
    unfold setInsert
    split
    · next hk => exact List.pairwise_cons.2 ⟨fun j hj => by rcases List.mem_cons.1 hj with rfl | hj <;> [exact hk; exact hk.trans (hi j hj)], h⟩
    · split
      · exact h
      · next hk hne =>
        refine List.pairwise_cons.2 ⟨fun j hj => ?_, ih ht⟩
        rcases mem_setInsert.1 hj with rfl | hj
        · omega
        · exact hi j hj

theorem mem_setErase {t : List Nat} {k j : Nat} : j ∈ setErase t k ↔ j ≠ k ∧ j ∈ t := by simp [setErase, and_comm]

theorem Tbl.set_keys {α : Type} (t : Tbl α) (k : Nat) (v : α) : (t.set k v).keys = setInsert t.keys k := by
  induction t with
  | nil => rfl
  | cons p t ih =>
    obtain ⟨i, w⟩ := p
    unfold Tbl.set Tbl.keys
    rw [List.map_cons, setInsert]
    split
    · rfl
    · split
      · next h => rw [h]; rfl
      · exact congrArg (i :: ·) ih

/-- In a table whose keys rise, the last entry of a key is its only one. -/
theorem Tbl.find?_reverse {α : Type} {t : Tbl α} (h : t.keys.Pairwise (· < ·)) (k : Nat) :
    ((t.reverse.find? fun p => p.1 == k).map (·.2)) = t.get? k := by
  induction t with
  | nil => rfl
  | cons p t ih =>
    obtain ⟨i, v⟩ := p
    obtain ⟨hi, ht⟩ := List.pairwise_cons.1 (show (i :: Tbl.keys t).Pairwise (· < ·) from h)
    rw [List.reverse_cons, List.find?_append, Tbl.get?]
    have ih := ih ht
    split
    · next hk =>
      have hnone : t.reverse.find? (fun p => p.1 == k) = none := by
        refine List.find?_eq_none.2 fun q hq hqk => ?_
        have := hi q.1 (List.mem_map_of_mem (List.mem_reverse.1 hq))
        have : q.1 = k := by simpa using hqk
        omega
      rw [hnone, hk]
      simp
    · next hk =>
      rw [← ih]
      have hnone : [(i, v)].find? (fun p => p.1 == k) = none := by simp [Ne.symm hk]
      rw [hnone, Option.or_none]

/-! ## Writes one after another -/

/-- The value that a list of writes leaves at a key. -/
def lastAt (ps : List (Nat × Byte)) (k : Nat) : Option Byte := (ps.reverse.find? fun p => p.1 == k).map (·.2)

theorem lastAt_append (ps qs : List (Nat × Byte)) (k : Nat) : lastAt (ps ++ qs) k = (lastAt qs k).or (lastAt ps k) := by
  rw [lastAt, List.reverse_append, List.find?_append]
  cases h : qs.reverse.find? fun p => p.1 == k <;> simp [lastAt, h]

theorem lastAt_eq_none {ps : List (Nat × Byte)} {k : Nat} : lastAt ps k = none ↔ ∀ p ∈ ps, p.1 ≠ k := by
  simp [lastAt, List.find?_eq_none]

theorem foldl_set_get? (ps : List (Nat × Byte)) (t : Tbl Byte) (k : Nat) :
    (ps.foldl (fun (t : Tbl Byte) p => t.set p.1 p.2) t).get? k = (lastAt ps k).or (t.get? k) := by
  induction ps generalizing t with
  | nil => rfl
  | cons p ps ih =>
    rw [List.foldl_cons, ih, show p :: ps = [p] ++ ps from rfl, lastAt_append, Tbl.get?_set]
    by_cases h : k = p.1
    · subst h
      simp [lastAt]
    · have : lastAt [p] k = none := lastAt_eq_none.2 fun q hq => by simp_all [Ne.symm h]
      simp [h, this]

theorem foldl_set_keys (ps : List (Nat × Byte)) {t : Tbl Byte} (ht : t.keys.Pairwise (· < ·)) :
    (ps.foldl (fun (t : Tbl Byte) p => t.set p.1 p.2) t).keys.Pairwise (· < ·) := by
  induction ps generalizing t with
  | nil => exact ht
  | cons p ps ih => exact ih (by rw [Tbl.set_keys]; exact setInsert_rising ht _)

theorem foldl_set_mem_keys (ps : List (Nat × Byte)) (t : Tbl Byte) (k : Nat) :
    k ∈ (ps.foldl (fun (t : Tbl Byte) p => t.set p.1 p.2) t).keys ↔ k ∈ t.keys ∨ ∃ p ∈ ps, p.1 = k := by
  induction ps generalizing t with
  | nil => simp
  | cons p ps ih =>
    rw [List.foldl_cons, ih, Tbl.set_keys, mem_setInsert]
    simp only [List.mem_cons, exists_eq_or_imp]
    tauto

/-- Writing a table whose keys rise. -/
theorem State.byte_writeTbl (s : State) {t : Tbl Byte} (ht : t.keys.Pairwise (· < ·)) (k : Nat) :
    (s.writeBytes t.keys t.vals).byte k = (t.get? k).getD (s.byte k) := by
  have hzip : t.keys.zip t.vals = t := by
    rw [Tbl.keys, Tbl.vals, List.zip_map']
    simp
  rw [State.byte_writeBytes, hzip, Tbl.find?_reverse ht]

/-! ## The bytes and the mark of one word -/

/-- Keys, data and tag of a lane's store. -/
abbrev LaneStore := List Nat × List Byte × Bool

/-- The writes of a lane, byte by byte: its data, or the pattern of poison (R196). -/
def laneBytes (l : LaneStore) : List (Nat × Byte) := l.1.zip (if l.2.2 then poisonBytes l.1 else l.2.1)

/-- Those of one word. -/
def laneWord (q : Nat) (l : LaneStore) : List (Nat × Byte) := (laneBytes l).filter fun p => p.1 / 8 == q

/-- What a lane adds to the write of a word: its bytes, the keys of it that clean lanes have covered since the last tagged one, and the mark. -/
def wordStep (q : Nat) (r : Tbl Byte × List Nat × Option Bool) (l : LaneStore) : Tbl Byte × List Nat × Option Bool :=
  if (laneWord q l).isEmpty then r
  else if l.2.2 then ((laneWord q l).foldl (fun (t : Tbl Byte) p => t.set p.1 p.2) r.1, [], some true)
  else ((laneWord q l).foldl (fun (t : Tbl Byte) p => t.set p.1 p.2) r.1, (laneWord q l).foldl (fun c p => setInsert c p.1) r.2.1,
    if ((laneWord q l).foldl (fun c p => setInsert c p.1) r.2.1).length = 8 then some false else r.2.2)

/-- What lanes make of a word. -/
def wordOf (ls : List LaneStore) (q : Nat) : Tbl Byte × List Nat × Option Bool := ls.foldl (wordStep q) ([], [], none)

theorem wordWrite_eq (w : Nat) (ls : List LaneStore) (q : Nat) :
    wordWrite w ls q = { w := w, keys := (wordOf ls q).1.keys, data := (wordOf ls q).1.vals, mark := (wordOf ls q).2.2 } := rfl

section
variable {q : Nat} {r : Tbl Byte × List Nat × Option Bool} {l : LaneStore}

theorem wordStep_skip (h : laneWord q l = []) : wordStep q r l = r := by
  rw [wordStep, if_pos (by simp [h])]

theorem wordStep_tagged (h : laneWord q l ≠ []) (ht : l.2.2 = true) :
    wordStep q r l = ((laneWord q l).foldl (fun (t : Tbl Byte) p => t.set p.1 p.2) r.1, [], some true) := by
  rw [wordStep, if_neg (by simp [h]), if_pos ht]

theorem wordStep_clean (h : laneWord q l ≠ []) (ht : l.2.2 = false) :
    wordStep q r l = ((laneWord q l).foldl (fun (t : Tbl Byte) p => t.set p.1 p.2) r.1, (laneWord q l).foldl (fun c p => setInsert c p.1) r.2.1,
      if ((laneWord q l).foldl (fun c p => setInsert c p.1) r.2.1).length = 8 then some false else r.2.2) := by
  rw [wordStep, if_neg (by simp [h]), if_neg (by simp [ht])]

/-- The bytes of a word: those of its lanes one after another. -/
theorem wordStep_bytes (r : Tbl Byte × List Nat × Option Bool) (l : LaneStore) : (wordStep q r l).1 = (laneWord q l).foldl (fun (t : Tbl Byte) p => t.set p.1 p.2) r.1 := by
  by_cases h : laneWord q l = []
  · rw [wordStep_skip h, h]; rfl
  · by_cases ht : l.2.2 = true
    · rw [wordStep_tagged h ht]
    · rw [wordStep_clean h (by simpa using ht)]

theorem wordOf_bytes (ls : List LaneStore) (q : Nat) : (wordOf ls q).1 = (ls.flatMap (laneWord q)).foldl (fun (t : Tbl Byte) p => t.set p.1 p.2) [] := by
  suffices key : ∀ r, (ls.foldl (wordStep q) r).1 = (ls.flatMap (laneWord q)).foldl (fun (t : Tbl Byte) p => t.set p.1 p.2) r.1 from key _
  induction ls with
  | nil => exact fun r => rfl
  | cons l ls ih => exact fun r => by rw [List.foldl_cons, ih, wordStep_bytes, List.flatMap_cons, List.foldl_append]

theorem wordOf_rising (ls : List LaneStore) (q : Nat) : (wordOf ls q).1.keys.Pairwise (· < ·) := by
  rw [wordOf_bytes]
  exact foldl_set_keys _ List.Pairwise.nil

theorem laneWord_flatMap (ls : List LaneStore) (q : Nat) : ls.flatMap (laneWord q) = (ls.flatMap laneBytes).filter fun p => p.1 / 8 == q := by
  rw [List.filter_flatMap]
  rfl

/-- A byte of a word: the last that lanes write there. -/
theorem wordOf_get? (ls : List LaneStore) (q k : Nat) : (wordOf ls q).1.get? k = if k / 8 = q then lastAt (ls.flatMap laneBytes) k else none := by
  rw [wordOf_bytes, foldl_set_get?, laneWord_flatMap, Tbl.get?_nil, Option.or_none, lastAt, ← List.filter_reverse, List.find?_filter]
  split
  · next h =>
    rw [lastAt]
    congr 2
    funext p
    by_cases hp : p.1 = k
    · simp [hp, h]
    · simp [hp]
  · next h =>
    rw [List.find?_eq_none.2 fun p _ hp => ?_]
    · rfl
    · simp only [beq_iff_eq, decide_eq_true_eq] at hp
      exact h (hp.2 ▸ hp.1)

theorem wordOf_mem_keys (ls : List LaneStore) (q k : Nat) : k ∈ (wordOf ls q).1.keys ↔ k / 8 = q ∧ ∃ p ∈ ls.flatMap laneBytes, p.1 = k := by
  rw [wordOf_bytes, foldl_set_mem_keys, laneWord_flatMap]
  simp only [Tbl.keys, List.map_nil, List.not_mem_nil, false_or, List.mem_filter, beq_iff_eq]
  constructor
  · rintro ⟨p, ⟨hp, hq⟩, rfl⟩
    exact ⟨hq, p, hp, rfl⟩
  · rintro ⟨hq, p, hp, rfl⟩
    exact ⟨p, ⟨hp, hq⟩, rfl⟩

end

end Sys2Proof.Machine
end

section
/-! PROOFS. What lanes store (R196, R204): the memory that their word writes leave. -/

namespace Sys2Proof.Machine

/-! ## The keys of a lane -/

theorem lastAt_zip {ks : List Nat} {bs : List Byte} (hlen : bs.length = ks.length) (hnd : ks.Nodup) (k : Nat) :
    lastAt (ks.zip bs) k = if k ∈ ks then some (bs.getD (ks.idxOf k) 0) else none := by
  induction ks generalizing bs with
  | nil => rfl
  | cons j ks ih =>
    obtain ⟨hj, hks⟩ := List.nodup_cons.1 hnd
    match bs, hlen with
    | b :: bs, hlen =>
      have ih := ih (bs := bs) (by simpa using hlen) hks
      rw [List.zip_cons_cons, show (j, b) :: ks.zip bs = [(j, b)] ++ ks.zip bs from rfl, lastAt_append, ih]
      by_cases h : k = j
      · subst h
        simp [hj, lastAt]
      · have hnone : lastAt [(j, b)] k = none := lastAt_eq_none.2 fun p hp => by simp_all [Ne.symm h]
        have hidx : (j :: ks).idxOf k = ks.idxOf k + 1 := by simp [Ne.symm h]
        rw [hnone, Option.or_none, hidx, List.getD_cons_succ]
        simp [h]

/-- The byte that a lane stores at one of its keys. -/
def LaneAcc.byteAt (l : LaneAcc) (k : Nat) : Byte :=
  if l.tag then BitVec.ofNat 8 (0x7FA0DEAD / 256 ^ (k % 4)) else l.data.getD (l.keys.idxOf k) 0

/-- A lane's store, as words take it. -/
abbrev LaneAcc.store (l : LaneAcc) : LaneStore := (l.keys, l.data, l.tag)

/-- A lane stores one byte at each of its keys, which differ. -/
structure LaneAcc.Sound (l : LaneAcc) : Prop where
  length : l.data.length = l.keys.length
  nodup : l.keys.Nodup

theorem poisonBytes_length (ks : List Nat) : (poisonBytes ks).length = ks.length := by simp [poisonBytes]

section
variable {l : LaneAcc}

theorem LaneAcc.Sound.lastAt (h : l.Sound) (k : Nat) : lastAt (laneBytes l.store) k = if k ∈ l.keys then some (l.byteAt k) else none := by
  unfold laneBytes LaneAcc.byteAt LaneAcc.store
  dsimp only
  by_cases ht : l.tag = true
  · rw [if_pos ht, if_pos ht, lastAt_zip (poisonBytes_length _) h.nodup]
    split
    · next hk =>
      have hi : l.keys.idxOf k < l.keys.length := List.idxOf_lt_length_iff.2 hk
      rw [poisonBytes, List.getD_eq_getElem _ _ (by simpa using hi), List.getElem_map, List.getElem_idxOf]
      rfl
    · rfl
  · rw [if_neg ht, if_neg ht, lastAt_zip h.length h.nodup]

theorem LaneAcc.Sound.keys_eq (h : l.Sound) : (laneBytes l.store).map (·.1) = l.keys := by
  unfold laneBytes LaneAcc.store
  dsimp only
  refine List.map_fst_zip ?_
  split
  · rw [poisonBytes_length]
  · rw [h.length]

theorem LaneAcc.Sound.laneWord_eq_nil (h : l.Sound) (q : Nat) : laneWord q l.store = [] ↔ ∀ k ∈ l.keys, k / 8 ≠ q := by
  rw [laneWord, List.filter_eq_nil_iff, ← h.keys_eq]
  simp

theorem LaneAcc.Sound.mem_laneWord (h : l.Sound) {q k : Nat} : (∃ p ∈ laneWord q l.store, p.1 = k) ↔ k ∈ l.keys ∧ k / 8 = q := by
  have hk : k ∈ l.keys ↔ ∃ p ∈ laneBytes l.store, p.1 = k := by rw [← h.keys_eq, List.mem_map]
  rw [hk, laneWord]
  constructor
  · rintro ⟨p, hp, rfl⟩
    obtain ⟨hp, hq⟩ := List.mem_filter.1 hp
    exact ⟨⟨p, hp, rfl⟩, by simpa using hq⟩
  · rintro ⟨⟨p, hp, rfl⟩, hq⟩
    exact ⟨p, List.mem_filter.2 ⟨hp, by simpa using hq⟩, rfl⟩

end

/-- The last lane that has a key stores its byte. -/
theorem lastAt_lanes {ls : List LaneAcc} (h : ∀ l ∈ ls, l.Sound) (k : Nat) :
    lastAt ((ls.map LaneAcc.store).flatMap laneBytes) k = (ls.reverse.find? fun l => l.keys.contains k).map (·.byteAt k) := by
  induction ls with
  | nil => rfl
  | cons l ls ih =>
    rw [List.map_cons, List.flatMap_cons, lastAt_append, ih fun m hm => h m (List.mem_cons_of_mem _ hm), (h l List.mem_cons_self).lastAt,
      List.reverse_cons, List.find?_append]
    cases ls.reverse.find? fun l => l.keys.contains k with
    | some m => simp
    | none => by_cases hk : k ∈ l.keys <;> simp [hk]

/-! ## The words of lanes, applied (R204, R210) -/

/-- The marks of a word after the write of it. -/
def markAfter (m : Option Bool) (before : Prop) : Prop := match m with | some b => b = true | none => before

section
variable {s : State} {w : Nat} {ls : List LaneStore} {q k : Nat}

theorem State.applyWord_mem (s : State) (b : Buffered) : (s.applyWord b).mem = (s.writeBytes b.keys b.data).mem := by
  unfold State.applyWord
  dsimp only
  cases b.mark with
  | none => rfl
  | some m => cases b.keys.head? <;> rfl

theorem State.applyWord_byte : (s.applyWord (wordWrite w ls q)).byte k = ((wordOf ls q).1.get? k).getD (s.byte k) := by
  rw [State.byte, State.applyWord_mem, wordWrite_eq]
  exact State.byte_writeTbl s (wordOf_rising ls q) k

theorem State.mem_setMark_marks (j : Nat) (on : Bool) : q ∈ (s.setMark j on).marks ↔ if q = j then on = true else q ∈ s.marks := by
  cases on with
  | true =>
    show q ∈ setInsert s.marks j ↔ _
    rw [mem_setInsert]
    split <;> simp_all
  | false =>
    show q ∈ setErase s.marks j ↔ _
    rw [mem_setErase]
    split <;> simp_all

theorem State.applyWord_marks (hne : (wordOf ls q).1.keys ≠ []) (j : Nat) :
    j ∈ (s.applyWord (wordWrite w ls q)).marks ↔ if j = q then markAfter (wordOf ls q).2.2 (j ∈ s.marks) else j ∈ s.marks := by
  rw [wordWrite_eq]
  unfold State.applyWord
  dsimp only
  cases hm : (wordOf ls q).2.2 with
  | none => simp [markAfter, State.writeBytes]
  | some b =>
    cases hk : (wordOf ls q).1.keys with
    | nil => exact absurd hk hne
    | cons k ks =>
      have hq : k / 8 = q := ((wordOf_mem_keys ls q k).1 (hk ▸ List.mem_cons_self)).1
      rw [List.head?_cons, State.mem_setMark_marks, hq]
      rfl

/-- The words of lanes, applied one after another. -/
theorem foldl_applyWord (qs : List Nat) (hne : ∀ q ∈ qs, (wordOf ls q).1.keys ≠ []) (s : State) :
    (∀ k, ((qs.map (wordWrite w ls)).foldl State.applyWord s).byte k = if k / 8 ∈ qs then ((wordOf ls (k / 8)).1.get? k).getD (s.byte k) else s.byte k) ∧
      ∀ q, q ∈ ((qs.map (wordWrite w ls)).foldl State.applyWord s).marks ↔ if q ∈ qs then markAfter (wordOf ls q).2.2 (q ∈ s.marks) else q ∈ s.marks := by
  induction qs generalizing s with
  | nil => exact ⟨fun k => rfl, fun q => by simp⟩
  | cons p qs ih =>
    obtain ⟨hb, hm⟩ := ih (fun q hq => hne q (List.mem_cons_of_mem _ hq)) (s.applyWord (wordWrite w ls p))
    have hp := hne p List.mem_cons_self
    refine ⟨fun k => ?_, fun q => ?_⟩
    · rw [List.map_cons, List.foldl_cons, hb k, State.applyWord_byte]
      by_cases hkp : k / 8 = p
      · subst hkp
        cases (wordOf ls (k / 8)).1.get? k <;> simp
      · have hnone : (wordOf ls p).1.get? k = none := by rw [wordOf_get?, if_neg hkp]
        simp [hnone, hkp]
    · rw [List.map_cons, List.foldl_cons, hm q, State.applyWord_marks hp]
      by_cases hqp : q = p
      · subst hqp
        cases (wordOf ls q).2.2 <;> simp [markAfter]
      · simp [hqp]

end

end Sys2Proof.Machine
end

section
/-! PROOFS. What lanes store (R196, R204): bytes and marks after their word writes, and the core's scratchpad buffer (R210). -/

namespace Sys2Proof.Machine

/-! ## The marks that lanes leave on a word -/

section
variable {ls : List LaneAcc} {q : Nat} {l : LaneAcc}

/-- Lanes that do not touch a word leave what is known of it. -/
theorem foldl_wordStep_skip (r : Tbl Byte × List Nat × Option Bool) (h : ∀ m ∈ ls, laneWord q m.store = []) :
    (ls.map LaneAcc.store).foldl (wordStep q) r = r := by
  induction ls generalizing r with
  | nil => rfl
  | cons l ls ih =>
    rw [List.map_cons, List.foldl_cons, wordStep_skip (h l List.mem_cons_self)]
    exact ih r fun m hm => h m (List.mem_cons_of_mem _ hm)

/-- A tagged lane alone on a word marks it. -/
theorem wordOf_mark_tagged (hs : ∀ m ∈ ls, m.Sound) (hl : l ∈ ls) (ht : l.tag = true) {k : Nat} (hk : k ∈ l.keys) (hn : (ls.map (·.lane)).Nodup)
    (hothers : ∀ m ∈ ls, m.lane ≠ l.lane → ∀ j ∈ m.keys, j / 8 ≠ k / 8) : (wordOf (ls.map LaneAcc.store) (k / 8)).2.2 = some true := by
  obtain ⟨as, bs, rfl⟩ := List.append_of_mem hl
  have hmid : laneWord (k / 8) l.store ≠ [] := fun h => ((hs l hl).laneWord_eq_nil _).1 h k hk rfl
  have hnd : ∀ m ∈ as ++ bs, m.lane ≠ l.lane := by
    have hp : ((as ++ l :: bs).map (·.lane)).Nodup ↔ ((l :: (as ++ bs)).map (·.lane)).Nodup := (List.perm_middle.map _).nodup_iff
    rw [hp, List.map_cons, List.nodup_cons] at hn
    exact fun m hm hml => hn.1 (hml ▸ List.mem_map_of_mem hm)
  have hskip : ∀ m ∈ as ++ bs, laneWord (k / 8) m.store = [] := fun m hm => by
    have hmem : m ∈ as ++ l :: bs := by
      rcases List.mem_append.1 hm with h | h
      · exact List.mem_append_left _ h
      · exact List.mem_append_right _ (List.mem_cons_of_mem _ h)
    exact ((hs m hmem).laneWord_eq_nil _).2 (hothers m hmem (hnd m hm))
  rw [wordOf, List.map_append, List.foldl_append, List.map_cons, List.foldl_cons, foldl_wordStep_skip _ fun m hm => hskip m (List.mem_append_left _ hm),
    foldl_wordStep_skip _ fun m hm => hskip m (List.mem_append_right _ hm), wordStep_tagged hmid ht]

/-- The covered keys of a word: they rise, and lie in it. -/
structure Covers (q : Nat) (c : List Nat) : Prop where
  rising : c.Pairwise (· < ·)
  within : ∀ k ∈ c, k / 8 = q

theorem mem_foldl_setInsert (ps : List (Nat × Byte)) (c : List Nat) (k : Nat) : k ∈ ps.foldl (fun c p => setInsert c p.1) c ↔ k ∈ c ∨ ∃ p ∈ ps, p.1 = k := by
  induction ps generalizing c with
  | nil => simp
  | cons p ps ih =>
    rw [List.foldl_cons, ih, mem_setInsert]
    simp only [List.mem_cons, exists_eq_or_imp]
    tauto

theorem Covers.insert {c : List Nat} (h : Covers q c) (l : LaneStore) : Covers q ((laneWord q l).foldl (fun c p => setInsert c p.1) c) := by
  refine ⟨?_, fun k hk => ?_⟩
  · have key : ∀ (ps : List (Nat × Byte)) (c : List Nat), c.Pairwise (· < ·) → (ps.foldl (fun c p => setInsert c p.1) c).Pairwise (· < ·) := by
      intro ps
      induction ps with
      | nil => exact fun c hc => hc
      | cons p ps ih => exact fun c hc => ih _ (setInsert_rising hc _)
    exact key _ _ h.rising
  · rcases (mem_foldl_setInsert _ _ _).1 hk with hk | ⟨p, hp, rfl⟩
    · exact h.within k hk
    · simpa using (List.mem_filter.1 hp).2

theorem Covers.step {r : Tbl Byte × List Nat × Option Bool} (h : Covers q r.2.1) (l : LaneStore) : Covers q (wordStep q r l).2.1 := by
  by_cases hnil : laneWord q l = []
  · rwa [wordStep_skip hnil]
  · by_cases ht : l.2.2 = true
    · rw [wordStep_tagged hnil ht]
      exact ⟨List.Pairwise.nil, fun k hk => absurd hk List.not_mem_nil⟩
    · rw [wordStep_clean hnil (by simpa using ht)]
      exact h.insert l

theorem Covers.foldl {r : Tbl Byte × List Nat × Option Bool} (h : Covers q r.2.1) (ls : List LaneStore) : Covers q (ls.foldl (wordStep q) r).2.1 := by
  induction ls generalizing r with
  | nil => exact h
  | cons l ls ih => exact ih (h.step l)

/-- All of a word is eight keys. -/
theorem Covers.length_eq {c : List Nat} (h : Covers q c) (hall : ∀ k, k / 8 = q → k ∈ c) : c.length = 8 := by
  have hnd : c.Nodup := h.rising.imp fun hlt => Nat.ne_of_lt hlt
  have hperm : c.Perm ((List.range 8).map (8 * q + ·)) := by
    refine (List.perm_ext_iff_of_nodup hnd ?_).2 fun k => ⟨fun hk => ?_, fun hk => ?_⟩
    · exact List.nodup_range.map fun a b hab => Nat.add_left_cancel hab
    · have := h.within k hk
      exact List.mem_map.2 ⟨k - 8 * q, List.mem_range.2 (by omega), by omega⟩
    · obtain ⟨j, hj, rfl⟩ := List.mem_map.1 hk
      have := List.mem_range.1 hj
      exact hall _ (by omega)
  simpa using hperm.length_eq

/-- A mark that a clean lane has taken off stays off where no tagged lane comes. -/
theorem foldl_wordStep_false (hs : ∀ m ∈ ls, m.tag = true → laneWord q m.store = []) {r : Tbl Byte × List Nat × Option Bool} (hr : r.2.2 = some false) :
    ((ls.map LaneAcc.store).foldl (wordStep q) r).2.2 = some false := by
  induction ls generalizing r with
  | nil => exact hr
  | cons l ls ih =>
    rw [List.map_cons, List.foldl_cons]
    refine ih (fun m hm => hs m (List.mem_cons_of_mem _ hm)) ?_
    by_cases hnil : laneWord q l.store = []
    · rwa [wordStep_skip hnil]
    · have ht : l.tag = false := by
        by_contra ht
        exact hnil (hs l List.mem_cons_self (by simpa using ht))
      rw [wordStep_clean hnil ht]
      dsimp only
      split
      · rfl
      · exact hr

/-- A clean lane that writes a whole word takes its mark off where no tagged lane touches it. -/
theorem wordOf_mark_clean (hs : ∀ m ∈ ls, m.Sound) (hl : l ∈ ls) (ht : l.tag = false) (hall : ∀ k, k / 8 = q → k ∈ l.keys)
    (hothers : ∀ m ∈ ls, m.tag = true → ∀ j ∈ m.keys, j / 8 ≠ q) : (wordOf (ls.map LaneAcc.store) q).2.2 = some false := by
  have hskip : ∀ m ∈ ls, m.tag = true → laneWord q m.store = [] := fun m hm htag => ((hs m hm).laneWord_eq_nil _).2 (hothers m hm htag)
  obtain ⟨as, bs, rfl⟩ := List.append_of_mem hl
  rw [wordOf, List.map_append, List.foldl_append, List.map_cons, List.foldl_cons]
  refine foldl_wordStep_false (fun m hm => hskip m (List.mem_append_right _ (List.mem_cons_of_mem _ hm))) ?_
  have hcov : Covers q ((as.map LaneAcc.store).foldl (wordStep q) ([], [], none)).2.1 :=
    Covers.foldl ⟨List.Pairwise.nil, fun k hk => absurd hk List.not_mem_nil⟩ _
  have hmid : laneWord q l.store ≠ [] := fun h => ((hs l hl).laneWord_eq_nil _).1 h (8 * q) (hall _ (by omega)) (by omega)
  rw [wordStep_clean hmid ht]
  exact if_pos ((hcov.insert l.store).length_eq fun k hk =>
    (mem_foldl_setInsert _ _ _).2 (.inr ((hs l hl).mem_laneWord.2 ⟨hall k hk, hk⟩)))

/-! ## The stores of lanes -/

theorem mem_wordsOf {ks : List Nat} : q ∈ wordsOf ks ↔ ∃ k ∈ ks, k / 8 = q := by
  rw [wordsOf, List.mem_eraseDups, List.mem_map]

theorem mem_lane_words : q ∈ wordsOf ((ls.map LaneAcc.store).flatMap (·.1)) ↔ ∃ l ∈ ls, ∃ k ∈ l.keys, k / 8 = q := by
  rw [mem_wordsOf]
  simp only [List.mem_flatMap, List.mem_map]
  constructor
  · rintro ⟨k, ⟨_, ⟨l, hl, rfl⟩, hk⟩, hq⟩
    exact ⟨l, hl, k, hk, hq⟩
  · rintro ⟨l, hl, k, hk, hq⟩
    exact ⟨k, ⟨_, ⟨l, hl, rfl⟩, hk⟩, hq⟩

/-- The word writes of lanes store what the lanes bring. -/
theorem Stores.of_words (hs : ∀ l ∈ ls, l.Sound) (hn : (ls.map (·.lane)).Nodup) (w : Nat) (v : State) :
    Stores v ((wordWrites w (ls.map LaneAcc.store)).foldl State.applyWord v) ls := by
  have hwords : ∀ q, q ∈ wordsOf ((ls.map LaneAcc.store).flatMap (·.1)) → (wordOf (ls.map LaneAcc.store) q).1.keys ≠ [] := by
    intro q hq hnil
    obtain ⟨l, hl, k, hk, hkq⟩ := mem_lane_words.1 hq
    obtain ⟨p, hp, rfl⟩ := (hs l hl).mem_laneWord.2 ⟨hk, hkq⟩
    have : p.1 ∈ (wordOf (ls.map LaneAcc.store) q).1.keys :=
      (wordOf_mem_keys _ _ _).2 ⟨hkq, p, List.mem_flatMap.2 ⟨_, List.mem_map_of_mem hl, (List.mem_filter.1 hp).1⟩, rfl⟩
    rw [hnil] at this
    exact List.not_mem_nil this
  obtain ⟨hbyte, hmark⟩ := foldl_applyWord (w := w) _ hwords v
  refine ⟨fun k => ?_, fun q hq => ?_, fun l hl ht k hk hothers => ?_, fun l hl ht q hall hothers => ?_⟩
  · have hlast : (if k / 8 ∈ wordsOf ((ls.map LaneAcc.store).flatMap (·.1)) then ((wordOf (ls.map LaneAcc.store) (k / 8)).1.get? k).getD (v.byte k)
        else v.byte k) = ((ls.reverse.find? fun l => l.keys.contains k).map (·.byteAt k)).getD (v.byte k) := by
      rw [wordOf_get?, if_pos rfl, lastAt_lanes hs]
      split
      · rfl
      · next hq =>
        have hnone : ls.reverse.find? (fun l => l.keys.contains k) = none := by
          refine List.find?_eq_none.2 fun l hl hk => hq (mem_lane_words.2 ⟨l, List.mem_reverse.1 hl, k, by simpa using hk, rfl⟩)
        rw [hnone]
        rfl
    refine (hbyte k).trans (hlast.trans ?_)
    cases ls.reverse.find? fun l => l.keys.contains k <;> rfl
  · refine (hmark q).trans ?_
    rw [if_neg fun h => ?_]
    obtain ⟨l, hl, k, hk, hkq⟩ := mem_lane_words.1 h
    exact hq l hl k hk hkq
  · refine (hmark (k / 8)).2 ?_
    rw [if_pos (mem_lane_words.2 ⟨l, hl, k, hk, rfl⟩), wordOf_mark_tagged hs hl ht hk hn hothers]
    rfl
  · intro h
    have h := (hmark q).1 h
    rw [if_pos (mem_lane_words.2 ⟨l, hl, 8 * q, hall _ (by omega), by omega⟩), wordOf_mark_clean hs hl ht hall hothers] at h
    exact nomatch h

end

end Sys2Proof.Machine
end

section
/-! PROOFS. The scratchpad write buffer of a core (R210), and O28's stores (R196, R204). -/

namespace Sys2Proof.Machine

section
variable {s : State} {core : Nat}

/-! ## The write buffer (R210) -/

/-- What entering the buffer, and leaving it for the banks, changes: bytes, marks and the buffer of the core. -/
structure BufferedIn (s t : State) (core : Nat) : Prop where
  cores : ∀ c, ∃ b, t.core c = { s.core c with wbuf := b } ∧ (c ≠ core → t.core c = s.core c)
  rest : t = { s with mem := t.mem, marks := t.marks, cores := t.cores }

theorem BufferedIn.refl (s : State) (core : Nat) : BufferedIn s s core := ⟨fun _ => ⟨_, rfl, fun _ => rfl⟩, rfl⟩

theorem BufferedIn.trans {t u : State} (h : BufferedIn s t core) (k : BufferedIn t u core) : BufferedIn s u core := by
  refine ⟨fun c => ?_, by rw [k.rest, h.rest]⟩
  obtain ⟨a, ha, ha'⟩ := h.cores c
  obtain ⟨b, hb, hb'⟩ := k.cores c
  exact ⟨b, by rw [hb, ha], fun hc => (hb' hc).trans (ha' hc)⟩

/-- The buffer of a core replaced. -/
def State.rebuffer (s : State) (core : Nat) (b : List Buffered) : State := s.modCore core fun c => { c with wbuf := b }

theorem State.rebuffer_core (s : State) (core : Nat) (b : List Buffered) (c : Nat) :
    (s.rebuffer core b).core c = if c = core then { s.core c with wbuf := b } else s.core c := by
  rw [State.rebuffer, State.modCore, State.core_setCore]
  split
  · next h => rw [h]
  · rfl

theorem State.rebuffer_in (s : State) (core : Nat) (b : List Buffered) : BufferedIn s (s.rebuffer core b) core := by
  refine ⟨fun c => ?_, rfl⟩
  rw [State.rebuffer_core]
  split
  · next h => exact ⟨b, rfl, fun hc => absurd h hc⟩
  · exact ⟨_, rfl, fun _ => rfl⟩

theorem State.applyWord_core (s : State) (b : Buffered) (c : Nat) : (s.applyWord b).core c = s.core c := by
  rw [State.applyWord_only s b]
  rfl

theorem State.applyWord_in (s : State) (b : Buffered) (core : Nat) : BufferedIn s (s.applyWord b) core := by
  refine ⟨fun c => ⟨_, s.applyWord_core b c, fun _ => s.applyWord_core b c⟩, ?_⟩
  rw [State.applyWord_only s b]

/-- A word enters the buffer of a core: of 64, the oldest goes to its bank first. -/
def State.bufferWord (s : State) (core : Nat) (b : Buffered) : State :=
  (if 64 ≤ (s.core core).wbuf.length then s.drainOne core else s).modCore core fun c => { c with wbuf := c.wbuf ++ [b] }

theorem State.bufferWords_eq (s : State) (core : Nat) (bs : List Buffered) : s.bufferWords core bs = bs.foldl (fun s b => s.bufferWord core b) s := rfl

theorem State.drainOne_in (s : State) (core : Nat) : BufferedIn s (s.drainOne core) core := by
  unfold State.drainOne
  split
  · exact (s.rebuffer_in core _).trans (State.applyWord_in _ _ core)
  · exact BufferedIn.refl s core

theorem State.push_eq (s : State) (core : Nat) (b : Buffered) :
    (s.modCore core fun c => { c with wbuf := c.wbuf ++ [b] }) = s.rebuffer core ((s.core core).wbuf ++ [b]) := rfl

theorem State.bufferWord_in (s : State) (core : Nat) (b : Buffered) : BufferedIn s (s.bufferWord core b) core := by
  unfold State.bufferWord
  rw [State.push_eq]
  split
  · exact (s.drainOne_in core).trans (State.rebuffer_in _ core _)
  · exact s.rebuffer_in core _

theorem State.rebuffer_bytes (s : State) (core : Nat) (b : List Buffered) : SameBytes s (s.rebuffer core b) := ⟨rfl, rfl⟩

theorem State.rebuffer_wbuf (s : State) (core : Nat) (b : List Buffered) : ((s.rebuffer core b).core core).wbuf = b := by
  rw [State.rebuffer_core, if_pos rfl]

/-- The buffer over the banks is the same once the oldest entry has reached its bank. -/
theorem State.drainOne_portView (s : State) (core : Nat) : SameBytes (s.portView core) ((s.drainOne core).portView core) := by
  unfold State.drainOne
  split
  · next b r h =>
    have hbuf : (State.core ((s.rebuffer core r).applyWord b) core).wbuf = r := by rw [State.applyWord_core, State.rebuffer_wbuf]
    unfold State.portView
    rw [h]
    show SameBytes _ (List.foldl State.applyWord ((s.rebuffer core r).applyWord b) (State.core ((s.rebuffer core r).applyWord b) core).wbuf)
    rw [hbuf]
    exact SameBytes.foldl (fun _ _ k b => k.applyWord b) r ((s.rebuffer_bytes core r).applyWord b)
  · exact SameBytes.refl _

/-- A word that enters the buffer is written over what the core saw. -/
theorem State.bufferWord_portView (s : State) (core : Nat) (b : Buffered) : SameBytes ((s.portView core).applyWord b) ((s.bufferWord core b).portView core) := by
  have push : ∀ t : State, SameBytes ((t.portView core).applyWord b) ((t.rebuffer core ((t.core core).wbuf ++ [b])).portView core) := fun t => by
    unfold State.portView
    rw [State.rebuffer_wbuf, List.foldl_append]
    exact (SameBytes.foldl (fun _ _ k b => k.applyWord b) _ (t.rebuffer_bytes core _)).applyWord b
  unfold State.bufferWord
  rw [State.push_eq]
  split
  · exact ((s.drainOne_portView core).applyWord b).trans (push _)
  · exact push s

/-- Bytes that no entry of the buffer holds stay in their banks. -/
theorem State.applyWord_byte_out (s : State) {b : Buffered} {k : Nat} (h : k ∉ b.keys) : (s.applyWord b).byte k = s.byte k := by
  rw [State.byte, State.applyWord_mem]
  exact Mem.read_writeAll_out _ _ _ h

theorem State.bufferWord_bank (s : State) (core : Nat) (b : Buffered) {k : Nat} (hbuf : ∀ c ∈ (s.core core).wbuf, k ∉ c.keys) (hb : k ∉ b.keys) :
    (s.bufferWord core b).byte k = s.byte k ∧ ∀ c ∈ ((s.bufferWord core b).core core).wbuf, k ∉ c.keys := by
  have drained : (s.drainOne core).byte k = s.byte k ∧ ∀ c ∈ ((s.drainOne core).core core).wbuf, k ∉ c.keys := by
    unfold State.drainOne
    split
    · next c r h =>
      refine ⟨(State.applyWord_byte_out _ (hbuf c (h ▸ List.mem_cons_self))).trans rfl, fun d hd => ?_⟩
      rw [State.applyWord_core] at hd
      have hd : d ∈ ((s.rebuffer core r).core core).wbuf := hd
      rw [State.rebuffer_wbuf] at hd
      exact hbuf d (h ▸ List.mem_cons_of_mem _ hd)
    · exact ⟨rfl, hbuf⟩
  have push : ∀ t : State, (∀ c ∈ (t.core core).wbuf, k ∉ c.keys) → ∀ c ∈ ((t.rebuffer core ((t.core core).wbuf ++ [b])).core core).wbuf, k ∉ c.keys := by
    intro t ht c hc
    rw [State.rebuffer_wbuf] at hc
    rcases List.mem_append.1 hc with hc | hc
    · exact ht c hc
    · rwa [List.mem_singleton.1 hc]
  unfold State.bufferWord
  rw [State.push_eq]
  split
  · exact ⟨drained.1, push _ drained.2⟩
  · exact ⟨rfl, push s hbuf⟩

/-- Words that enter the buffer one after another. -/
theorem State.bufferWords_in (s : State) (core : Nat) (bs : List Buffered) : BufferedIn s (s.bufferWords core bs) core := by
  rw [State.bufferWords_eq]
  induction bs generalizing s with
  | nil => exact BufferedIn.refl s core
  | cons b bs ih => exact (s.bufferWord_in core b).trans (ih _)

theorem State.bufferWords_portView (s : State) (core : Nat) (bs : List Buffered) :
    SameBytes (bs.foldl State.applyWord (s.portView core)) ((s.bufferWords core bs).portView core) := by
  rw [State.bufferWords_eq]
  induction bs generalizing s with
  | nil => exact SameBytes.refl _
  | cons b bs ih => exact (SameBytes.foldl (fun _ _ k b => k.applyWord b) bs (s.bufferWord_portView core b)).trans (ih _)

theorem State.bufferWords_bank (s : State) (core : Nat) (bs : List Buffered) {k : Nat} (hbuf : ∀ c ∈ (s.core core).wbuf, k ∉ c.keys)
    (hbs : ∀ b ∈ bs, k ∉ b.keys) : (s.bufferWords core bs).byte k = s.byte k ∧ ∀ c ∈ ((s.bufferWords core bs).core core).wbuf, k ∉ c.keys := by
  rw [State.bufferWords_eq]
  induction bs generalizing s with
  | nil => exact ⟨rfl, hbuf⟩
  | cons b bs ih =>
    obtain ⟨hbyte, hkeep⟩ := s.bufferWord_bank core b hbuf (hbs b List.mem_cons_self)
    obtain ⟨hb, hc⟩ := ih (s.bufferWord core b) hkeep fun c hc => hbs c (List.mem_cons_of_mem _ hc)
    exact ⟨hb.trans hbyte, hc⟩

theorem mem_wordWrites_keys {w : Nat} {ls : List LaneAcc} (hs : ∀ l ∈ ls, l.Sound) {b : Buffered} (hb : b ∈ wordWrites w (ls.map LaneAcc.store)) {k : Nat}
    (hk : k ∈ b.keys) : ∃ l ∈ ls, k ∈ l.keys := by
  obtain ⟨q, -, rfl⟩ := List.mem_map.1 hb
  rw [wordWrite_eq] at hk
  obtain ⟨-, p, hp, rfl⟩ := (wordOf_mem_keys _ _ _).1 hk
  obtain ⟨_, hstore, hpl⟩ := List.mem_flatMap.1 hp
  obtain ⟨l, hl, rfl⟩ := List.mem_map.1 hstore
  exact ⟨l, hl, (hs l hl).keys_eq ▸ List.mem_map_of_mem hpl⟩

end

/-! ## The keys of a scratchpad access (R202) -/

theorem scratchKeys_length (core base rot a n : Nat) : (scratchKeys core base rot a n).length = n := by simp [scratchKeys]

/-- Bytes of one row keep their differences under rotation. -/
theorem rotated_inj {rot a b : Nat} (hrow : a / 512 = b / 512) (h : rotated rot a = rotated rot b) : a = b := by
  unfold rotated at h
  dsimp only at h
  rw [hrow] at h
  generalize (if rot = 0 then 0 else b / 512 % 2 ^ rot * 2 ^ (7 - rot)) = r at h
  have hx : a / 4 % 128 ^^^ r = b / 4 % 128 ^^^ r := by omega
  have hxor : a / 4 % 128 = b / 4 % 128 := by
    have := congrArg (· ^^^ r) hx
    simpa [Nat.xor_assoc] using this
  omega

/-- The bytes of an aligned access lie at different places. -/
theorem scratchKeys_nodup {core base rot a n : Nat} (hn : n ∣ 512) (ha : a % n = 0) : (scratchKeys core base rot a n).Nodup := by
  refine List.Nodup.map_on (fun i hi j hj h => ?_) List.nodup_range
  have hi := List.mem_range.1 hi
  have hj := List.mem_range.1 hj
  obtain ⟨c, hc⟩ := hn
  obtain ⟨d, rfl⟩ := Nat.dvd_of_mod_eq_zero ha
  have hn0 : 0 < n := by omega
  have hrow : ∀ i < n, (n * d + i) / 512 = d / c := fun i hi => by
    rw [hc, ← Nat.div_div_eq_div_mul, Nat.mul_add_div hn0, Nat.div_eq_of_lt hi, Nat.add_zero]
  have hkey : rotated rot (n * d + i) = rotated rot (n * d + j) := by
    have : scratchKey core (base + rotated rot (n * d + i)) = scratchKey core (base + rotated rot (n * d + j)) := h
    unfold scratchKey at this
    omega
  have := rotated_inj ((hrow i hi).trans (hrow j hj).symm) hkey
  omega

end Sys2Proof.Machine
end

section
/-! PROOFS. O28: stores to the scratchpad (R196, R204, R210). -/

namespace Sys2Proof.Machine

section
variable {i : Instr} {s : State} {x y : Warp} {e : Entry} {sh : Shape} {f : Frame} {m : MemForm} {ls : List LaneAcc}

theorem Stores.congr {v w v' w' : State} (h : Stores v w ls) (hv : SameBytes v v') (hw : SameBytes w w') : Stores v' w' ls := by
  refine ⟨fun k => ?_, fun q hq => ?_, fun l hl ht k hk ho => ?_, fun l hl ht q hall ho => ?_⟩
  · rw [hw.byte, hv.byte]; exact h.bytes k
  · rw [hw.marks, hv.marks]; exact h.marks q hq
  · rw [hw.marks]; exact h.soiled l hl ht k hk ho
  · rw [hw.marks]; exact h.cleared l hl ht q hall ho

/-- Lanes of aligned scratchpad accesses bring one byte to each of their places. -/
theorem State.portLanes_sound (hwidth : m.width = 0 ∨ m.width ∣ 512) (hdata : ∀ l, (m.data l).1.length = m.width)
    (hal : ∀ l ∈ lanesFor m (x.active f e), (m.addr l).2 = false → (m.addr l).1 % m.width = 0) {l : LaneAcc} (hl : l ∈ s.portLanes x e f m) : l.Sound := by
  obtain ⟨k, hk, rfl⟩ := List.mem_map.1 hl
  obtain ⟨hk, hc⟩ := List.mem_filter.1 hk
  refine ⟨(hdata k).trans (scratchKeys_length ..).symm, ?_⟩
  rcases hwidth with h0 | hd
  · simp [h0, scratchKeys]
  · exact scratchKeys_nodup hd (hal k hk (by simpa using hc))

theorem State.portLanes_nodup (s : State) (x : Warp) (e : Entry) (f : Frame) (m : MemForm) : ((s.portLanes x e f m).map (·.lane)).Nodup := by
  rw [State.portLanes, List.map_map]
  exact ((lanesFor_nodup m _).filter _).map_on fun a _ b _ h => Fin.ext h

/-- What is left when a scratchpad instruction has performed: `u` is the state before the end of its access, `c` its access, `t` the state after it. -/
theorem SettledAtIssue.portView {t u : State} {c : Access} (h : SettledAtIssue s t x y e sh f u c) (core : Nat) :
    SameBytes (u.portView core) (t.portView core) := by
  obtain ⟨q, l1, hc, -, -⟩ := h.cores core
  have hbytes : SameBytes u t := ⟨(congrArg State.mem h.rest).trans rfl, (congrArg State.marks h.rest).trans rfl⟩
  exact hbytes.portView (by rw [hc])

/-- The access of a store once its lanes have performed. -/
def Access.hasStored (b : Access) (ls : List LaneAcc) : Access := { b with done := b.done ++ ls.map fun l => (l.lane, [], false) }

theorem Access.hasStored_todo {b : Access} (htodo : b.todo = ls) : (b.hasStored ls).todo = [] :=
  Access.todo_nil htodo rfl rfl rfl (by simp [Function.comp_def])

/-- A store that enters the core's buffer at once. -/
theorem Ready.store_port (h : Ready i s x e sh f) (hact : x.active f e ≠ 0) (hm : (i, m) ∈ memForms x f) (hspace : m.space = .scratch)
    (hop : m.op = .store) (hord : m.ord = 0) (hscope : m.scope < 2) (hlog : x.log = []) (hfifth : x.fifth = none)
    (hlive : x.marks.ended = false) (hposts : x.call.posts = [])
    (hfl : ∀ g ∈ s.flights, g.w = s.cur → g.space ≠ .scratch ∧ g.reads = false)
    (hin : ∀ l ∈ lanesFor m (x.active f e), (m.addr l).2 = false → (m.addr l).1 % m.width = 0 ∧ (m.addr l).1 + m.width ≤ x.spwin * 2048) :
    ∃ t y, exec i s = .next t ∧ SettledAtIssue s t x y e sh f
      ((s.ported x e sh f (s.asks x e sh f i m)).bufferWords (coreOf s.cur) (wordWrites s.cur ((s.portLanes x e f m).map LaneAcc.store)))
      ((s.asksOf x e sh f i m (s.portLanes x e f m)).hasStored (s.portLanes x e f m)) := by
  have htodo := State.portLanes_todo (s := s) (sh := sh) hm hspace fun l hl hc => (hin l hl hc).2
  have hexec := h.exec_port hact hm hspace hscope hlog hfifth hin
  have hbpsn : (s.asksOf x e sh f i m (s.portLanes x e f m)).psn = false := rfl
  generalize hb : s.asksOf x e sh f i m (s.portLanes x e f m) = b at htodo hexec hbpsn ⊢
  have hbop : b.op = .store := by rw [← hb]; exact hop
  have hbspace : b.space = .scratch := by rw [← hb]; exact hspace
  have hrel : b.releases = none := by
    have hbord : b.ord = 0 := by rw [← hb]; exact hord
    simp [Access.releases, Access.isDet, hbop, hbord]
  have hidle : b.acquires = false := by
    rw [← hb]
    show (m.ord == 1 || m.ord == 3) = false
    simp [hord]
  have hbw : b.w = s.cur := by rw [← hb]; rfl
  have hbcore : b.core = coreOf s.cur := by rw [← hb]; rfl
  have hlogged : (s.ported x e sh f (s.asks x e sh f i m)).loggedOf s.cur = [] := State.ported_logged hlog hfifth e sh f _
  have huw : (s.ported x e sh f (s.asks x e sh f i m)).warp? s.cur = some (x.launched e sh f s.clock b) := by
    rw [State.ported_warp?, ← hb]
    rfl
  have hufl : (s.ported x e sh f (s.asks x e sh f i m)).flights = s.flights := rfl
  have hucur : (s.ported x e sh f (s.asks x e sh f i m)).cur = s.cur := rfl
  generalize s.ported x e sh f (s.asks x e sh f i m) = u at hexec hlogged huw hufl hucur ⊢
  have hready : u.portReady b = true := State.portReady_idle hbspace hrel (hbw ▸ hlogged) (by rw [hufl, hbw]; exact hfl)
  have hperf : u.performPort b b.todo = (Got.mk (b.todo.map fun l => (l.lane, [], false)) false,
      u.bufferWords b.core (wordWrites b.w (b.todo.map LaneAcc.store))) := by
    unfold State.performPort
    rw [hbop]
  have hstart : u.start b = (u.bufferWords b.core (wordWrites b.w (b.todo.map LaneAcc.store))).settle (b.hasStored b.todo) := by
    rw [State.start_port hbspace hready, hperf]
    have hsame : ({ b with done := b.done ++ b.todo.map fun l => (l.lane, [], false), psn := b.psn || (false && b.dest != .none) } : Access) =
        b.hasStored b.todo := by
      simp only [Bool.false_and, Bool.or_false]
      rfl
    rw [hsame]
  rw [hstart, htodo, hbw, hbcore] at hexec
  have hin2 := u.bufferWords_in (coreOf s.cur) (wordWrites s.cur ((s.portLanes x e f m).map LaneAcc.store))
  obtain ⟨t, y, ht, hA⟩ := h.settles hm (u := u.bufferWords (coreOf s.cur) (wordWrites s.cur ((s.portLanes x e f m).map LaneAcc.store)))
    ((congrArg (fun v : State => v.warp? s.cur) hin2.rest).trans huw) ((congrArg State.cur hin2.rest).trans hucur) (c := b.hasStored (s.portLanes x e f m)) hbw
    (Access.hasStored_todo htodo) (by rw [← hb]; rfl) (by rw [← hb]; rfl) hlive hposts
    fun ha => nomatch hidle.symm.trans ha
  rw [ht] at hexec
  exact ⟨t, y, hexec, hA⟩

theorem memBytes_dvd (v : Nat) : memBytes v = 0 ∨ memBytes v ∣ 512 := by
  rcases Nat.lt_or_ge v 7 with h | h
  · have hv : ∀ v < 7, memBytes v ∣ 512 := by decide
    exact .inr (hv v h)
  · exact .inl (by simp [memBytes, h])

/-- R196, R204: `sts` writes into the core's write buffer. -/
theorem Ready.sts_stores {s : State} (h : Ready (.sts f) s x e sh f) :
    let act := x.active f e
    let core := coreOf s.cur
    let a := x.lane f.xa
    let n := memBytes f.vn
    let addr := fun l : Fin 32 => (a.1[l] + (f.imm.setWidth 20).signExtend 32).toNat
    let ls := ((lanesOf act).filter fun l => !a.2.getLsbD l.val).map fun l =>
      ({ lane := l.val, addr := addr l, keys := scratchKeys core x.spbase (f.mf 4 3) (addr l) n, data := toBytes n (x.datum f.xb (memRegs f.vn) l),
         tag := (x.soiled f.xb (memRegs f.vn)).getLsbD l.val } : LaneAcc)
    act ≠ 0 → x.marks.ended = false → x.log = [] → x.fifth = none → x.call.posts = [] →
    (∀ g ∈ s.flights, g.w = s.cur → g.space ≠ .scratch ∧ g.reads = false) →
    (∀ l ∈ ls, l.addr % n = 0 ∧ l.addr + n ≤ x.spwin * 2048) →
    ∃ t y, exec (.sts f) s = .next t ∧ t.warp? s.cur = some y ∧ Gone t s.cur x y e f none ∧ KeepsRegs x y sh f ∧ Unflawed x y sh f act ∧
      y.still = x.still ∧ (∀ w, w ≠ s.cur → t.warp? w = s.warp? w) ∧ Stores (s.portView core) (t.portView core) ls ∧
      (∀ k, (∀ b ∈ (s.core core).wbuf, k ∉ b.keys) → (∀ l ∈ ls, k ∉ l.keys) → t.byte k = s.byte k) ∧
      (∀ c, ∃ q b, t.core c = { s.core c with quads := q, wbuf := b } ∧ (c ≠ core → t.core c = s.core c)) ∧
      t = { s with warps := t.warps, cores := t.cores, mem := t.mem, marks := t.marks, flights := s.flights.filter fun b => b.id != s.nextId,
                   nextId := s.nextId + 1 } := by
  intro act core a n addr ls hact hlive hlog hfifth hposts hfl hin
  generalize hm' : ({ space := .scratch, op := .store, width := n, rot := f.mf 4 3, addr := fun l => (addr l, a.2.getLsbD l.val),
                      data := fun l => (toBytes n (x.datum f.xb (memRegs f.vn) l), [], (x.soiled f.xb (memRegs f.vn)).getLsbD l.val) } : MemForm) = m
  have hm : (.sts f, m) ∈ memForms x f := by rw [← hm']; simp [memForms, a, n, addr]
  have hls : s.portLanes x e f m = ls := by rw [← hm']; rfl
  have hin' : ∀ l ∈ lanesFor m act, (m.addr l).2 = false → (m.addr l).1 % m.width = 0 ∧ (m.addr l).1 + m.width ≤ x.spwin * 2048 := by
    rw [← hm']
    exact fun l hl hc => hin _ (List.mem_map_of_mem (List.mem_filter.2 ⟨hl, by simpa using hc⟩))
  obtain ⟨t, y, hexec, hA⟩ := h.store_port hact hm (by rw [← hm']) (by rw [← hm']) (by rw [← hm']) (by rw [← hm']; exact Nat.two_pos)
    hlog hfifth hlive hposts hfl hin'
  have hsound : ∀ l ∈ ls, l.Sound := fun l hl => State.portLanes_sound (s := s) (by rw [← hm']; exact memBytes_dvd _)
    (by rw [← hm']; exact fun l => toBytes_length _ _) (fun k hk hc => (hin' k hk hc).1) (hls ▸ hl)
  have hnodup : (ls.map (·.lane)).Nodup := hls ▸ s.portLanes_nodup x e f m
  rw [hls] at hA
  have hc : ((s.asksOf x e sh f (.sts f) m ls).hasStored ls).puts = [] ∧ ((s.asksOf x e sh f (.sts f) m ls).hasStored ls).psn = false :=
    ⟨by rw [← hm']; rfl, rfl⟩
  have hreads : ((s.asksOf x e sh f (.sts f) m ls).hasStored ls).reads = false := by rw [← hm']; rfl
  have hid : ((s.asksOf x e sh f (.sts f) m ls).hasStored ls).id = s.nextId := rfl
  generalize (s.asksOf x e sh f (.sts f) m ls).hasStored ls = c at hA hc hreads hid
  have hview : SameBytes (s.portView core) ((s.ported x e sh f (s.asks x e sh f (.sts f) m)).portView core) :=
    SameBytes.portView (s := s) (t := s.ported x e sh f (s.asks x e sh f (.sts f) m)) ⟨rfl, rfl⟩ rfl
  have hcore : ∀ c, (s.ported x e sh f (s.asks x e sh f (.sts f) m)).core c = s.core c := fun _ => rfl
  have hother : ∀ w, w ≠ s.cur → (s.ported x e sh f (s.asks x e sh f (.sts f) m)).warp? w = s.warp? w := fun w hw => Tbl.get?_set_ne _ _ hw
  have hrest : s.ported x e sh f (s.asks x e sh f (.sts f) m) = { s with warps := (s.ported x e sh f (s.asks x e sh f (.sts f) m)).warps, nextId := s.nextId + 1 } := rfl
  generalize s.ported x e sh f (s.asks x e sh f (.sts f) m) = u at hA hview hcore hother hrest
  have hbuf := u.bufferWords_in core (wordWrites s.cur (ls.map LaneAcc.store))
  have hbank := fun k => u.bufferWords_bank (k := k) core (wordWrites s.cur (ls.map LaneAcc.store))
  have hwords := u.bufferWords_portView core (wordWrites s.cur (ls.map LaneAcc.store))
  have hstores := Stores.of_words hsound hnodup s.cur (u.portView core)
  generalize hv : u.bufferWords core (wordWrites s.cur (ls.map LaneAcc.store)) = v at hbuf hbank hwords
  rw [hv] at hA
  refine ⟨t, y, hexec, hA.warp, hA.gone, hA.regs, hA.flaws, ?_, fun w hw => ?_, ?_, fun k hk hkl => ?_, fun k => ?_, ?_⟩
  · have hres : y.results = x.results := by
      have := hA.results
      rw [Warp.hears, if_pos hc, List.append_nil] at this
      exact this
    rw [hA.still, hres, hA.saw hreads]
    rfl
  · exact (hA.others w hw).trans ((congrArg (fun v : State => v.warp? w) hbuf.rest).trans (hother w hw))
  · exact hstores.congr hview.symm (hwords.trans (hA.portView core))
  · have hmem : t.mem = v.mem := (congrArg State.mem hA.rest).trans rfl
    have hbyte : t.byte k = v.byte k := congrArg (Mem.read · k) hmem
    refine hbyte.trans (((hbank k) ?_ ?_).1.trans ?_)
    · rw [hcore]; exact hk
    · intro b hb hkb
      obtain ⟨l, hl, hkl'⟩ := mem_wordWrites_keys hsound hb hkb
      exact hkl l hl hkl'
    · rw [hrest]; rfl
  · obtain ⟨q, l1, hq, hl1, hne⟩ := hA.cores k
    obtain ⟨b, hb, hb'⟩ := hbuf.cores k
    rw [hl1 (.inl hreads), hb, hcore] at hq
    refine ⟨q, b, hq, fun hk => ?_⟩
    have hwb : (s.core k).wbuf = b := by
      have := congrArg Core.wbuf (hb.symm.trans (hb' hk))
      exact (this.trans (congrArg Core.wbuf (hcore k))).symm
    have hqq : q = (s.core k).quads := (hne hk).trans ((congrArg Core.quads (hb' hk)).trans (congrArg Core.quads (hcore k)))
    rw [hq, hqq, ← hwb]
  · have h1 := hA.rest
    have h2 := hbuf.rest
    rw [hid] at h1
    rw [h1]
    generalize t.warps = ws at h1 ⊢
    rw [h2, hrest]

end

end Sys2Proof.Machine
end

section
/-! PROOFS. Atomics on the scratchpad (R207): lane after lane through the core's write buffer. -/

namespace Sys2Proof.Machine

/-! ## The lanes of an atomic, one after another -/

/-- What lanes of an atomic at a core's port have read, and the state that they leave. -/
def State.portAtoms (t : State) (a : Access) (aop : Nat) (ls : List LaneAcc) : Got × State :=
  ls.foldl (fun g l => atomicLane a aop (fun s => s.portView a.core)
    (fun s ks bs => s.bufferWords a.core [{ w := a.w, keys := ks, data := bs, mark := none }]) l.keys l g) ({}, t)

section
variable {t : State} {a : Access} {aop : Nat} {ls : List LaneAcc} {l : LaneAcc}

theorem State.performPort_atomic (hop : a.op = .atomic aop) (ls : List LaneAcc) : t.performPort a ls = t.portAtoms a aop ls := by
  unfold State.performPort
  rw [hop]
  rfl

/-- Memory as the lanes of the core see it after those lanes. -/
def State.atomView (t : State) (a : Access) (aop : Nat) (ls : List LaneAcc) : State := (t.portAtoms a aop ls).2.portView a.core

/-- The write of a lane's new value. -/
def State.atomWord (t : State) (a : Access) (aop : Nat) (ls : List LaneAcc) (l : LaneAcc) : Buffered :=
  { w := a.w, keys := l.keys, mark := none,
    data := toBytes a.width (atomicNew aop a.width (ofBytes ((t.atomView a aop ls).bytes l.keys)) (ofBytes l.data) (ofBytes l.new)) }

theorem State.portAtoms_snoc (t : State) (a : Access) (aop : Nat) (ls : List LaneAcc) (l : LaneAcc) :
    t.portAtoms a aop (ls ++ [l]) =
      if ((t.atomView a aop ls).anyMarked l.keys || l.tag) = true then
        ({ done := (t.portAtoms a aop ls).1.done ++ [(l.lane, [], true)], psn := (t.portAtoms a aop ls).1.psn || (t.atomView a aop ls).anyMarked l.keys },
          (t.portAtoms a aop ls).2)
      else ({ done := (t.portAtoms a aop ls).1.done ++ [(l.lane, (t.atomView a aop ls).bytes l.keys, false)], psn := (t.portAtoms a aop ls).1.psn },
        (t.portAtoms a aop ls).2.bufferWords a.core [t.atomWord a aop ls l]) := by
  rw [State.portAtoms, List.foldl_append]
  rfl

/-- The words of atomics leave every mark as it is. -/
theorem State.atomView_marks (t : State) (a : Access) (aop : Nat) (ls : List LaneAcc) : (t.atomView a aop ls).marks = (t.portView a.core).marks := by
  induction ls using List.reverseRecOn with
  | nil => rfl
  | append_singleton ls l ih =>
    rw [State.atomView, State.portAtoms_snoc]
    split
    · exact ih
    · exact ((State.bufferWords_portView _ a.core [t.atomWord a aop ls l]).marks).trans ih

theorem State.atomView_anyMarked (t : State) (a : Access) (aop : Nat) (ls : List LaneAcc) (ks : List Nat) :
    (t.atomView a aop ls).anyMarked ks = (t.portView a.core).anyMarked ks := by
  have hm : (t.atomView a aop ls).marked = (t.portView a.core).marked := by funext k; simp only [State.marked, State.atomView_marks]
  simp only [State.anyMarked, hm]

/-- What one lane writes: nothing where it answers poison, otherwise its new value. -/
theorem State.atomView_step (hlen : l.keys.length = a.width) (hnd : l.keys.Nodup) :
    (t.atomView a aop (ls ++ [l])).byte =
      if l.tag || (t.portView a.core).anyMarked l.keys then (t.atomView a aop ls).byte
      else fun k => if l.keys.contains k then
          (toBytes a.width (atomicNew aop a.width (ofBytes (l.keys.map (t.atomView a aop ls).byte)) (ofBytes l.data) (ofBytes l.new))).getD (l.keys.idxOf k) 0
        else (t.atomView a aop ls).byte k := by
  rw [State.atomView, State.portAtoms_snoc, State.atomView_anyMarked, Bool.or_comm]
  split
  · rfl
  · have hwrite := State.bufferWords_portView (t.portAtoms a aop ls).2 a.core [t.atomWord a aop ls l]
    rw [hwrite.byte]
    funext k
    show ((t.atomView a aop ls).writeBytes l.keys (t.atomWord a aop ls l).data).byte k = _
    rw [State.byte_writeBytes]
    have hlast := lastAt_zip (bs := (t.atomWord a aop ls l).data) ((toBytes_length _ _).trans hlen.symm) hnd k
    rw [lastAt] at hlast
    rw [hlast]
    by_cases hk : k ∈ l.keys
    · simp [hk, State.atomWord, State.bytes]
    · simp [hk]

theorem State.portAtoms_in (t : State) (a : Access) (aop : Nat) (ls : List LaneAcc) : BufferedIn t (t.portAtoms a aop ls).2 a.core := by
  induction ls using List.reverseRecOn with
  | nil => exact BufferedIn.refl t a.core
  | append_singleton ls l ih =>
    rw [State.portAtoms_snoc]
    split
    · exact ih
    · exact ih.trans (State.bufferWords_in ..)

theorem State.portAtoms_bank {k : Nat} (hbuf : ∀ b ∈ (t.core a.core).wbuf, k ∉ b.keys) (hls : ∀ l ∈ ls, k ∉ l.keys) :
    (t.portAtoms a aop ls).2.byte k = t.byte k ∧ ∀ b ∈ ((t.portAtoms a aop ls).2.core a.core).wbuf, k ∉ b.keys := by
  induction ls using List.reverseRecOn with
  | nil => exact ⟨rfl, hbuf⟩
  | append_singleton ls l ih =>
    obtain ⟨hbyte, hkeep⟩ := ih fun m hm => hls m (List.mem_append_left _ hm)
    rw [State.portAtoms_snoc]
    split
    · exact ⟨hbyte, hkeep⟩
    · obtain ⟨hb, hk⟩ := State.bufferWords_bank (t.portAtoms a aop ls).2 a.core [t.atomWord a aop ls l] hkeep fun b hb => by
        rw [List.mem_singleton.1 hb]
        exact hls l (List.mem_append_right _ List.mem_cons_self)
      exact ⟨hb.trans hbyte, hk⟩

/-- What the lane at a place of an atomic answers. -/
def State.atomAnswer (t : State) (a : Access) (aop : Nat) (ls : List LaneAcc) (p : Nat) (l : LaneAcc) : Nat × List Byte × Bool :=
  if l.tag || (t.portView a.core).anyMarked l.keys then (l.lane, [], true) else (l.lane, l.keys.map (t.atomView a aop (ls.take p)).byte, false)

theorem State.atomAnswer_lane (p : Nat) (l : LaneAcc) : (t.atomAnswer a aop ls p l).1 = l.lane := by
  unfold State.atomAnswer
  split <;> rfl

/-- Whether a lane has met a marked word, and each lane's answer at its place. -/
theorem State.portAtoms_got (t : State) (a : Access) (aop : Nat) (ls : List LaneAcc) :
    (t.portAtoms a aop ls).1.psn = (ls.any fun l => (t.portView a.core).anyMarked l.keys) ∧ (t.portAtoms a aop ls).1.done.length = ls.length ∧
      ∀ p, (t.portAtoms a aop ls).1.done[p]? = ls[p]?.map (t.atomAnswer a aop ls p) := by
  induction ls using List.reverseRecOn with
  | nil => exact ⟨rfl, rfl, fun p => by simp [State.portAtoms]⟩
  | append_singleton ls l ih =>
    obtain ⟨hpsn, hlen, hdone⟩ := ih
    have hlast : (t.portAtoms a aop (ls ++ [l])).1.done = (t.portAtoms a aop ls).1.done ++ [t.atomAnswer a aop (ls ++ [l]) ls.length l] := by
      rw [State.portAtoms_snoc, State.atomAnswer, State.atomView_anyMarked, Bool.or_comm, List.take_left']
      · split <;> rfl
      · rfl
    refine ⟨?_, ?_, fun p => ?_⟩
    · rw [State.portAtoms_snoc, State.atomView_anyMarked, List.any_append, ← hpsn]
      by_cases hm : (t.portView a.core).anyMarked l.keys = true
      · simp [hm]
      · by_cases ht : l.tag = true <;> simp [hm, ht]
    · rw [hlast]; simp [hlen]
    · rw [hlast, List.getElem?_append, List.getElem?_append, hlen, hdone]
      split
      · next hp =>
        cases ls[p]? with
        | none => rfl
        | some k => simp only [Option.map_some, State.atomAnswer, List.take_append_of_le_length (Nat.le_of_lt hp)]
      · next hp =>
        by_cases hq : p = ls.length
        · subst hq; simp
        · have : p - ls.length ≠ 0 := by omega
          obtain ⟨j, hj⟩ := Nat.exists_eq_succ_of_ne_zero this
          simp [hj]

theorem State.portAtoms_lanes (t : State) (a : Access) (aop : Nat) (ls : List LaneAcc) : (t.portAtoms a aop ls).1.done.map (·.1) = ls.map (·.lane) := by
  refine List.ext_getElem? fun p => ?_
  rw [List.getElem?_map, List.getElem?_map, (t.portAtoms_got a aop ls).2.2 p]
  cases ls[p]? with
  | none => rfl
  | some l => exact congrArg some (State.atomAnswer_lane p l)

/-- The answer that a lane finds by its number. -/
theorem find?_answers {ds : List (Nat × List Byte × Bool)} {g : Nat → LaneAcc → Nat × List Byte × Bool} (hd : ∀ p, ds[p]? = ls[p]?.map (g p))
    (hg : ∀ p l, (g p l).1 = l.lane) (n : Nat) :
    ds.find? (fun d => d.1 == n) = (ls.findIdx? fun l => l.lane == n).bind fun p => ls[p]?.map (g p) := by
  induction ls generalizing ds g with
  | nil =>
    have : ds = [] := List.eq_nil_iff_forall_not_mem.2 fun d hd' => by
      obtain ⟨p, hp⟩ := List.mem_iff_getElem?.1 hd'
      simp [hd p] at hp
    simp [this]
  | cons l ls ih =>
    match ds, hd with
    | [], hd => simpa using hd 0
    | d :: ds, hd =>
      have h0 : d = g 0 l := by simpa using hd 0
      have ih := ih (ds := ds) (g := fun p => g (p + 1)) (fun p => by simpa using hd (p + 1)) (fun p m => hg (p + 1) m)
      rw [List.find?_cons, List.findIdx?_cons, h0, hg]
      cases h : l.lane == n with
      | true => simp
      | false =>
        dsimp only
        rw [ih]
        cases ls.findIdx? fun l => l.lane == n <;> simp

end

end Sys2Proof.Machine
end

section
/-! PROOFS. O28: atomics on the scratchpad (R207), and the obligation. -/

namespace Sys2Proof.Machine

section
variable {i : Instr} {s : State} {x y : Warp} {e : Entry} {sh : Shape} {f : Frame} {m : MemForm} {ls : List LaneAcc}

/-- A scratchpad access that orders no more than its core uses the port at once where its warp has nothing on its way. -/
theorem State.portReady_alone {t : State} {a : Access} (hspace : a.space = .scratch) (hrel : ∀ r, a.releases = some r → r ≤ 1) (hlog : t.loggedOf a.w = [])
    (hfl : ∀ g ∈ t.flights, g.w ≠ a.w) (hinits : t.initsDone a.w = true) : t.portReady a = true := by
  have hloads := State.loadsDone_idle (s := t) (w := a.w) (fun g hg hw => absurd hw (hfl g hg)) hlog
  have hfence : t.fenceHeld a = false := State.fenceHeld_near (by simp [hspace])
  have hall : ∀ p : Access → Bool, (t.flights.all fun g => g.w != a.w || p g) = true := fun p => List.all_eq_true.2 fun g hg => by simp [hfl g hg]
  have hclear : ∀ p, t.logClear a p = true := fun p => by rw [State.logClear, hlog]; rfl
  have hready : t.releaseReady a = true := by
    unfold State.releaseReady
    rw [hloads, hfence]
    cases hr : a.releases with
    | none => rfl
    | some r => simp only [Bool.or_assoc, hall, hclear, hinits, hrel r hr, decide_true, Bool.true_or, Bool.not_false, Bool.and_true]
  unfold State.portReady
  simp only [hready, Bool.or_assoc, hall, Bool.and_true]

/-- The access of an atomic once its lanes have performed. -/
def Access.hasSwapped (b : Access) (g : Got) : Access := { b with done := b.done ++ g.done, psn := b.psn || (g.psn && b.dest != .none) }

/-- An atomic that performs in the core's buffer at once. -/
theorem Ready.atomic_port (h : Ready i s x e sh f) (hact : x.active f e ≠ 0) (hm : (i, m) ∈ memForms x f) (hspace : m.space = .scratch) {aop : Nat}
    (hop : m.op = .atomic aop) (hscope : m.scope = 1) (hrp : m.rp = false) (hlog : x.log = []) (hfifth : x.fifth = none)
    (hlive : x.marks.ended = false) (hposts : x.call.posts = []) (hfl : ∀ g ∈ s.flights, g.w ≠ s.cur) (hinits : s.initsDone s.cur = true)
    (hin : ∀ l ∈ lanesFor m (x.active f e), (m.addr l).2 = false → (m.addr l).1 % m.width = 0 ∧ (m.addr l).1 + m.width ≤ x.spwin * 2048) :
    let u := s.ported x e sh f (s.asks x e sh f i m)
    let b := s.asksOf x e sh f i m (s.portLanes x e f m)
    let r := u.portAtoms b aop (s.portLanes x e f m)
    ∃ t y, exec i s = .next t ∧ SettledAtIssue s t x y e sh f r.2 (b.hasSwapped r.1) := by
  intro u b r
  have htodo : b.todo = s.portLanes x e f m := State.portLanes_todo (s := s) (sh := sh) hm hspace fun l hl hc => (hin l hl hc).2
  have hexec := h.exec_port hact hm hspace (by omega) hlog hfifth hin
  have hrel : ∀ q, b.releases = some q → q ≤ 1 := fun q hq => by
    have hdet : b.isDet = false := by
      show (match m.op with | .det .. => true | _ => false) = false
      rw [hop]
    rw [Access.releases, hdet, if_neg (by simp)] at hq
    split at hq
    · have : Nat.max m.scope 1 = q := Option.some.inj hq
      rw [hscope] at this
      exact this ▸ Nat.le_refl 1
    · exact nomatch hq
  have hready : u.portReady b = true := State.portReady_alone hspace hrel (State.ported_logged hlog hfifth e sh f _) hfl hinits
  have hperf : u.performPort b b.todo = r := by
    rw [htodo]
    exact State.performPort_atomic hop _
  have hstart : u.start b = r.2.settle (b.hasSwapped r.1) := by
    rw [State.start_port hspace hready, hperf]
    rfl
  have hbuf : BufferedIn u r.2 b.core := State.portAtoms_in ..
  have hcur : r.2.cur = s.cur := (congrArg State.cur hbuf.rest).trans rfl
  have hwarp : r.2.warp? s.cur = some (x.launched e sh f s.clock (b.hasSwapped r.1)) :=
    (congrArg (fun v : State => v.warp? s.cur) hbuf.rest).trans (State.ported_warp? ..)
  have hdone : (b.hasSwapped r.1).todo = [] := Access.todo_nil htodo rfl rfl rfl (State.portAtoms_lanes ..)
  obtain ⟨t, y, ht, hA⟩ := h.settles hm hwarp hcur rfl hdone rfl rfl hlive hposts fun _ => ⟨hrp, show m.scope < 2 by omega⟩
  have hexec : exec i s = .next ((u.start b).retire s.cur f true) := hexec
  rw [hstart, ht] at hexec
  exact ⟨t, y, hexec, hA⟩

/-- What the lanes of an atomic have read waits for their registers. -/
theorem LoadWaits.of_hasSwapped (hm : (i, m) ∈ memForms x f) (hres : (s.resolve x (s.asks x e sh f i m)).1 = .ok ls) {n count : Nat}
    (hdest : m.dest = .lane n count) (honce : m.once = false) {v : Nat} (hcode : m.op.code m.width = v) (hcount : count ≤ memRegs v) {u : State} {aop : Nat}
    {marked : LaneAcc → Bool} (hmark : ∀ l : LaneAcc, (u.portView (s.asksOf x e sh f i m ls).core).anyMarked l.keys = marked l)
    (hy : x.hears y ((s.asksOf x e sh f i m ls).hasSwapped (u.portAtoms (s.asksOf x e sh f i m ls) aop ls).1)) :
    LoadWaits x y m.dest v (x.active f e)
      (fun l => (ls.findIdx? fun k => k.lane == l.val).bind fun p => ls[p]?.bind fun k =>
        if k.tag || marked k then none else some (k.keys.map (u.atomView (s.asksOf x e sh f i m ls) aop (ls.take p)).byte))
      (ls.any marked) e.pc := by
  obtain ⟨hpsn, -, hanswers⟩ := u.portAtoms_got (s.asksOf x e sh f i m ls) aop ls
  have hnum := (u.portAtoms_lanes (s.asksOf x e sh f i m ls) aop ls).trans (State.resolved_numbers hm hres)
  have hne : m.dest ≠ .none := by rw [hdest]; exact nofun
  have hlanes : ∀ l : Fin 32, l ∈ lanesFor m (x.active f e) ↔ (x.active f e).getLsbD l.val = true := fun l => by
    rw [lanesFor, honce, if_neg (by simp), mem_lanesOf]
  have hpoison : ((s.asksOf x e sh f i m ls).hasSwapped (u.portAtoms (s.asksOf x e sh f i m ls) aop ls).1).psn = ls.any marked := by
    show (false || ((u.portAtoms (s.asksOf x e sh f i m ls) aop ls).1.psn && m.dest != .none)) = _
    rw [hpsn]
    simp [hne, hmark]
  have hdone : ((s.asksOf x e sh f i m ls).hasSwapped (u.portAtoms (s.asksOf x e sh f i m ls) aop ls).1).done = _ :=
    congrArg (· ++ (u.portAtoms (s.asksOf x e sh f i m ls) aop ls).1.done) (State.asks_done (s := s) (e := e) (sh := sh) hm)
  rw [if_neg hne] at hdone
  have hfind := fun l : Fin 32 => find?_answers hanswers State.atomAnswer_lane l.val
  rw [hdest, ← hpoison]
  refine LoadWaits.of_lane hy hdest hcode hcount (fun l => ?_) fun l hl => ?_
  · rw [(Access.got_split hdone hnum l).1, Bool.eq_iff_iff, decide_eq_true_eq]
    exact hlanes l
  · obtain ⟨hsome, hgot⟩ := Access.got_split hdone hnum l
    by_cases ht : (m.addr l).2 = true
    · have hnone : ls.findIdx? (fun k => k.lane == l.val) = none := by
        refine List.findIdx?_eq_none_iff.2 fun k hk => ?_
        have : k.lane ∈ ls.map (·.lane) := List.mem_map_of_mem hk
        rw [State.resolved_numbers hm hres] at this
        obtain ⟨j, hj, hjk⟩ := List.mem_map.1 this
        by_contra hkl
        obtain rfl : j = l := Fin.ext (by simpa [hjk] using hkl)
        simp [ht] at hj
      rw [hgot, if_pos ⟨(hlanes l).2 hl, ht⟩, hnone]
      rfl
    · rw [if_neg fun h => ht h.2, hfind] at hgot
      rw [hgot] at hsome ⊢
      cases hf : ls.findIdx? fun k => k.lane == l.val with
      | none => simp [hf, hl, hlanes] at hsome
      | some p =>
        rw [hf, Option.bind_some] at hsome
        cases hk : ls[p]? with
        | none => simp [hk, hl, hlanes] at hsome
        | some k =>
          have hkl : k.lane = l.val := by
            have := List.findIdx?_eq_some_iff_getElem.1 hf
            obtain ⟨hp, hpl, -⟩ := this
            rw [List.getElem?_eq_getElem hp] at hk
            obtain rfl := Option.some.inj hk
            simpa using hpl
          simp only [Option.bind_some, hk, Option.map_some, State.atomAnswer, hmark, hkl]
          split <;> rfl

/-- R207: `atoms` performs its lanes through the core's write buffer, one after another. -/
theorem Ready.atoms_perform {s : State} (h : Ready (.atoms f) s x e sh f) :
    let act := x.active f e
    let core := coreOf s.cur
    let a := x.lane f.xa
    let n := 4 * (f.vn + 1)
    let cas := f.mf 0 4 = 9
    let addr := fun l : Fin 32 => (a.1[l] + (f.imm.setWidth 20).signExtend 32).toNat
    let ls := ((lanesOf act).filter fun l => !a.2.getLsbD l.val).map fun l =>
      ({ lane := l.val, addr := addr l, keys := scratchKeys core x.spbase (f.mf 4 3) (addr l) n, data := toBytes n (x.datum f.xb (f.vn + 1) l),
         new := if cas then toBytes n (x.datum f.xc (f.vn + 1) l) else [],
         tag := (x.soiled f.xb (f.vn + 1) ||| if cas then x.soiled f.xc (f.vn + 1) else 0).getLsbD l.val } : LaneAcc)
    let marked := fun l : LaneAcc => (s.portView core).anyMarked l.keys
    act ≠ 0 → x.marks.ended = false → x.log = [] → x.fifth = none → x.call.posts = [] → (∀ g ∈ s.flights, g.w ≠ s.cur) → s.initsDone s.cur = true →
    (∀ l ∈ ls, l.addr % n = 0 ∧ l.addr + n ≤ x.spwin * 2048) →
    ∃ t y v, exec (.atoms f) s = .next t ∧ t.warp? s.cur = some y ∧ Gone t s.cur x y e f none ∧ KeepsRegs x y sh f ∧ Unflawed x y sh f act ∧
      y.still = { x.still with results := y.results, sawMark := y.sawMark } ∧ (∀ w, w ≠ s.cur → t.warp? w = s.warp? w) ∧
      v 0 = (s.portView core).byte ∧ v ls.length = (t.portView core).byte ∧ Atomics (f.mf 0 4) n ls marked v ∧
      (∀ k, (∀ b ∈ (s.core core).wbuf, k ∉ b.keys) → (∀ l ∈ ls, k ∉ l.keys) → t.byte k = s.byte k) ∧
      LoadWaits x y (.lane f.xd (f.vn + 1)) (if n = 8 then 1 else 0) act
        (fun l => match ls.findIdx? fun k => k.lane == l.val with
          | some p => (ls[p]?).bind fun k => if k.tag || marked k then none else some (k.keys.map (v p))
          | none => none)
        (ls.any marked) e.pc := by
  intro act core a n cas addr ls marked hact hlive hlog hfifth hposts hfl hinits hin
  generalize hm' : ({ space := .scratch, op := .atomic (f.mf 0 4), width := n, dest := .lane f.xd (f.vn + 1), ord := f.mf 7 2, scope := 1, rot := f.mf 4 3,
                      addr := fun l => (addr l, a.2.getLsbD l.val),
                      data := fun l => (toBytes n (x.datum f.xb (f.vn + 1) l), if cas then toBytes n (x.datum f.xc (f.vn + 1) l) else [],
                        (x.soiled f.xb (f.vn + 1) ||| if cas then x.soiled f.xc (f.vn + 1) else 0).getLsbD l.val) } : MemForm) = m
  have hm : (.atoms f, m) ∈ memForms x f := by rw [← hm']; simp [memForms, a, n, addr, cas]
  have hls : s.portLanes x e f m = ls := by rw [← hm']; rfl
  have hin' : ∀ l ∈ lanesFor m act, (m.addr l).2 = false → (m.addr l).1 % m.width = 0 ∧ (m.addr l).1 + m.width ≤ x.spwin * 2048 := by
    rw [← hm']
    exact fun l hl hc => hin _ (List.mem_map_of_mem (List.mem_filter.2 ⟨hl, by simpa using hc⟩))
  have hspace : m.space = .scratch := by rw [← hm']
  have hwidth : m.width = n := by rw [← hm']
  have hdest : m.dest = .lane f.xd (f.vn + 1) := by rw [← hm']
  have hop : m.op = .atomic (f.mf 0 4) := by rw [← hm']
  have honce : m.once = false := by rw [← hm']
  have hvn : f.vn = 0 ∨ f.vn = 1 := by
    have hok := h.ok
    rw [show sh = (Instr.atoms f).shape.1 from (congrArg Prod.fst h.form).symm] at hok
    simp only [Instr.shape, Form.aopOk, Bool.and_eq_true, Bool.or_eq_true, beq_iff_eq] at hok
    exact hok.1.2
  have hn : n ∣ 512 := by
    have hn' : n = 4 * (f.vn + 1) := rfl
    rcases hvn with hv | hv <;> rw [hn', hv] <;> decide
  have hsound : ∀ l ∈ ls, l.Sound := fun l hl => State.portLanes_sound (s := s) (.inr (hwidth ▸ hn)) (by rw [← hm']; exact fun l => toBytes_length _ _)
    (fun k hk hc => (hin' k hk hc).1) (hls ▸ hl)
  have hlen : ∀ l ∈ ls, l.keys.length = n := fun l hl => by
    obtain ⟨k, -, rfl⟩ := List.mem_map.1 hl
    exact scratchKeys_length ..
  have hres : (s.resolve x (s.asks x e sh f (.atoms f) m)).1 = .ok ls := by rw [State.asks_port hm hspace fun l hl hc => (hin' l hl hc).2, hls]
  obtain ⟨t, y, hexec, hA⟩ := h.atomic_port hact hm hspace hop (by rw [← hm']) (by rw [← hm']) hlog hfifth hlive hposts hfl hinits hin'
  rw [hls] at hA
  generalize hb : s.asksOf x e sh f (.atoms f) m ls = b at hA
  have hbw : b.width = n := by rw [← hb]; exact hwidth
  have hbcore : b.core = core := by rw [← hb]; rfl
  have hview : SameBytes (s.portView core) ((s.ported x e sh f (s.asks x e sh f (.atoms f) m)).portView core) :=
    SameBytes.portView (s := s) (t := s.ported x e sh f (s.asks x e sh f (.atoms f) m)) ⟨rfl, rfl⟩ rfl
  have hother : ∀ w, w ≠ s.cur → (s.ported x e sh f (s.asks x e sh f (.atoms f) m)).warp? w = s.warp? w := fun w hw => Tbl.get?_set_ne _ _ hw
  have hbank : ∀ k, (∀ c ∈ (s.core core).wbuf, k ∉ c.keys) → (∀ l ∈ ls, k ∉ l.keys) →
      ((s.ported x e sh f (s.asks x e sh f (.atoms f) m)).portAtoms b (f.mf 0 4) ls).2.byte k = s.byte k := fun k hk hkl =>
    (State.portAtoms_bank (t := s.ported x e sh f (s.asks x e sh f (.atoms f) m)) (hbcore ▸ hk) hkl).1
  generalize s.ported x e sh f (s.asks x e sh f (.atoms f) m) = u at hA hview hother hbank
  have hmark : ∀ l : LaneAcc, (u.portView b.core).anyMarked l.keys = marked l := fun l => hbcore ▸ hview.anyMarked l.keys
  have hbuf := u.portAtoms_in b (f.mf 0 4) ls
  refine ⟨t, y, fun p => (u.atomView b (f.mf 0 4) (ls.take p)).byte, hexec, hA.warp, hA.gone, hA.regs, hA.flaws, hA.still, fun w hw => ?_, ?_, ?_, ?_,
    fun k hk hkl => ?_, ?_⟩
  · exact (hA.others w hw).trans ((congrArg (fun v : State => v.warp? w) hbuf.rest).trans (hother w hw))
  · exact (congrArg (fun c => (u.portView c).byte) hbcore).trans hview.byte
  · dsimp only
    rw [List.take_length]
    exact (hA.portView b.core).byte.symm.trans (congrArg (fun c => (t.portView c).byte) hbcore)
  · intro p l hl
    have hmem : l ∈ ls := List.mem_of_getElem? hl
    have htake : ls.take (p + 1) = ls.take p ++ [l] := by rw [List.take_add_one, hl]; rfl
    dsimp only
    rw [htake, State.atomView_step ((hlen l hmem).trans hbw.symm) (hsound l hmem).nodup, hmark, hbw]
  · have hmem : t.mem = (u.portAtoms b (f.mf 0 4) ls).2.mem := (congrArg State.mem hA.rest).trans rfl
    exact (congrArg (Mem.read · k) hmem).trans (hbank k hk hkl)
  · have hcode : m.op.code m.width = if n = 8 then 1 else 0 := by rw [hop, hwidth]; rfl
    have hcount : f.vn + 1 ≤ memRegs (if n = 8 then 1 else 0) := by
      have hn' : n = 4 * (f.vn + 1) := rfl
      rcases hvn with hv | hv <;> rw [hn', hv] <;> decide
    have hloads := LoadWaits.of_hasSwapped (y := y) hm hres hdest honce hcode hcount (u := u) (aop := f.mf 0 4) (marked := marked)
      (fun l => (congrArg (fun b : Access => (u.portView b.core).anyMarked l.keys) hb).trans (hmark l)) (by rw [hb]; exact hA.results)
    rw [hdest, hb] at hloads
    refine hloads.lane_congr fun l _ => ?_
    cases ls.findIdx? fun k => k.lane == l.val <;> rfl

end

/-- Settles O28: each access starts and performs at its issue, through the buffer of its core. -/
theorem scratchpadAccesses : Obligations.ScratchpadAccesses := by
  unfold Obligations.ScratchpadAccesses
  refine ⟨fun f s x e sh h => ?_, fun f s x e sh h => h.sts_stores, fun f s x e sh h => h.atoms_perform⟩
  intro act a n addr clean keys v hact hlive hlog hfifth hposts hfl hin
  exact h.lds_reads hact hlive hlog hfifth hposts hfl hin

end Sys2Proof.Machine
end

section
/-! PROOFS. Memory that the device itself writes (R179, R183, R400), and the fields of what it writes. -/

namespace Sys2Proof.Machine

/-! ## Bytes written to places that differ -/

theorem State.bytes_writeBytes {ks : List Nat} {bs : List Byte} (hlen : bs.length = ks.length) (hnd : ks.Nodup) (s : State) :
    ks.map (s.writeBytes ks bs).byte = bs := by
  refine List.ext_getElem (by simp [hlen]) fun i h1 h2 => ?_
  have hi : i < ks.length := by simpa using h1
  have hlast := lastAt_zip hlen hnd ks[i]
  rw [if_pos (List.getElem_mem hi), hnd.idxOf_getElem i hi, lastAt] at hlast
  rw [List.getElem_map, State.byte_writeBytes, hlast]
  simp [List.getElem?_eq_getElem h2]

theorem State.byte_writeBytes_out {ks : List Nat} {bs : List Byte} {k : Nat} (h : k ∉ ks) (s : State) : (s.writeBytes ks bs).byte k = s.byte k :=
  Mem.read_writeAll_out _ _ _ h

/-! ## Writes of the device where nothing moves (R400) -/

/-- `t` is `s` after the device has written bytes: marks of words written whole are gone, and their homes know of the write. -/
structure DeviceWrites (s t : State) (ks : List Nat) (bs : List Byte) : Prop where
  mem : t.mem = (s.writeBytes ks bs).mem
  rest : t = { s with mem := t.mem, marks := t.marks, uses := t.uses }

section
variable {s t : State} {ks : List Nat} {bs : List Byte}

theorem DeviceWrites.sameCode (h : DeviceWrites s t ks bs) : SameCode (s.writeBytes ks bs) t := by
  have hm := h.mem
  rw [h.rest] at hm ⊢
  exact ⟨hm, rfl, rfl, rfl, rfl, fun _ => rfl, fun _ => rfl⟩

theorem DeviceWrites.byte (h : DeviceWrites s t ks bs) (k : Nat) : t.byte k = (s.writeBytes ks bs).byte k := congrArg (Mem.read · k) h.mem

theorem DeviceWrites.bytes (h : DeviceWrites s t ks bs) (hlen : bs.length = ks.length) (hnd : ks.Nodup) : ks.map t.byte = bs :=
  (List.map_congr_left fun k _ => h.byte k).trans (State.bytes_writeBytes hlen hnd s)

theorem DeviceWrites.byte_out (h : DeviceWrites s t ks bs) {k : Nat} (hk : k ∉ ks) : t.byte k = s.byte k := (h.byte k).trans (State.byte_writeBytes_out hk s)

theorem State.noteWrite_still (h : ∀ d ∈ s.dies, d.2.slots = []) (k : Nat) : s.noteWrite k = s := by
  have hdies : ∀ g : Nat × MigSlot → Nat × MigSlot, (s.dies.map fun d => (d.1, { d.2 with slots := d.2.slots.map g })) = s.dies := fun g => by
    refine (List.map_congr_left fun d hd => ?_).trans (List.map_id _)
    have hnil := h d hd
    obtain ⟨n, x⟩ := d
    cases x
    simp_all
  unfold State.noteWrite
  rw [hdies]

theorem OnlyBytes.dies (h : OnlyBytes s t) : t.dies = s.dies := by
  unfold OnlyBytes at h
  rw [h]

theorem State.clearFull_only (s : State) (ks : List Nat) : OnlyBytes s (s.clearFull ks) ∧ (s.clearFull ks).mem = s.mem := by
  unfold State.clearFull
  generalize wordsOf ks = ws
  induction ws generalizing s with
  | nil => exact ⟨rfl, rfl⟩
  | cons w ws ih =>
    rw [List.foldl_cons]
    split
    · obtain ⟨h1, h2⟩ := ih (s.setMark w false)
      exact ⟨(show OnlyBytes s (s.setMark w false) from rfl).trans h1, h2⟩
    · exact ih s

/-- A write of the device goes to the places of its lines, where they are. -/
theorem State.putBytes_still (h : ∀ d ∈ s.dies, d.2.slots = []) (ks : List Nat) (bs : List Byte) : DeviceWrites s (s.putBytes ks bs) ks bs := by
  have hplace : ks.map s.redirect = ks := by rw [show s.redirect = id from funext (State.redirect_still h), List.map_id]
  obtain ⟨honly, hmem⟩ := (s.writeBytes ks bs).clearFull_only ks
  have hnote : ks.foldl State.noteWrite ((s.writeBytes ks bs).clearFull ks) = (s.writeBytes ks bs).clearFull ks := by
    have hst : ∀ d ∈ ((s.writeBytes ks bs).clearFull ks).dies, d.2.slots = [] := by
      rw [honly.dies]
      exact h
    generalize (s.writeBytes ks bs).clearFull ks = u at hst
    generalize ks = l
    induction l with
    | nil => rfl
    | cons k l ih => rw [List.foldl_cons, State.noteWrite_still hst, ih]
  unfold State.putBytes
  dsimp only
  rw [hplace, hnote]
  refine ⟨hmem, ?_⟩
  have hrest := (show OnlyBytes s (s.writeBytes ks bs) from rfl).trans honly
  unfold OnlyBytes at hrest
  unfold State.use
  generalize (s.writeBytes ks bs).clearFull ks = u at hrest
  rw [hrest]

theorem DeviceWrites.slots (h : DeviceWrites s t ks bs) (hst : ∀ d ∈ s.dies, d.2.slots = []) : ∀ d ∈ t.dies, d.2.slots = [] := by
  rw [h.rest]
  exact hst

end

/-! ## Fields of what is written (R180, R183) -/

/-- The number at a place of a record. -/
def fieldAt (bs : List Byte) (o k : Nat) : Nat := ofBytes ((bs.drop o).take k)

theorem fieldAt_skip (m v : Nat) (bs : List Byte) (o k : Nat) : fieldAt (toBytes m v ++ bs) (m + o) k = fieldAt bs o k := by
  rw [fieldAt, List.drop_append, toBytes_length, List.drop_eq_nil_of_le (by rw [toBytes_length]; omega), List.nil_append, Nat.add_sub_cancel_left]
  rfl

theorem fieldAt_head (m v : Nat) (bs : List Byte) : fieldAt (toBytes m v ++ bs) 0 m = v % 256 ^ m := by
  rw [fieldAt, List.drop_zero, List.take_left' (toBytes_length m v), ofBytes_toBytes]

/-- Numbers of so many bytes each, one after another. -/
def pack (ps : List (Nat × Nat)) : List Byte := ps.flatMap fun p => toBytes p.1 p.2

theorem pack_cons (p : Nat × Nat) (ps : List (Nat × Nat)) (bs : List Byte) : pack (p :: ps) ++ bs = toBytes p.1 p.2 ++ (pack ps ++ bs) := by
  rw [pack, List.flatMap_cons, List.append_assoc]
  rfl

theorem pack_length (ps : List (Nat × Nat)) : (pack ps).length = (ps.map (·.1)).sum := by
  induction ps with
  | nil => rfl
  | cons p ps ih =>
    have h := congrArg List.length (pack_cons p ps [])
    simp only [List.append_nil, List.length_append, toBytes_length, ih] at h
    simpa using h

theorem fieldAt_skip_pack (ps : List (Nat × Nat)) (bs : List Byte) (o k : Nat) : fieldAt (pack ps ++ bs) ((ps.map (·.1)).sum + o) k = fieldAt bs o k := by
  rw [fieldAt, List.drop_append, pack_length, List.drop_eq_nil_of_le (by rw [pack_length]; omega), List.nil_append, Nat.add_sub_cancel_left]
  rfl

/-- A number among others: at the sum of the widths before it. -/
theorem fieldAt_pack (ps : List (Nat × Nat)) (k v : Nat) (qs : List (Nat × Nat)) (bs : List Byte) :
    fieldAt (pack (ps ++ (k, v) :: qs) ++ bs) (ps.map (·.1)).sum k = v % 256 ^ k := by
  have hsplit : pack (ps ++ (k, v) :: qs) ++ bs = pack ps ++ (pack ((k, v) :: qs) ++ bs) := by
    rw [pack, List.flatMap_append, List.append_assoc]
    rfl
  rw [hsplit]
  exact (fieldAt_skip_pack ps _ 0 k).trans (by rw [pack_cons]; exact fieldAt_head k v _)

/-- A field of one of many items of four bytes. -/
theorem fieldAt_item {α : Type} (g : α → Nat) (l : List α) (bs : List Byte) {i : Nat} (h : i < l.length) :
    fieldAt ((l.flatMap fun a => toBytes 4 (g a)) ++ bs) (4 * i) 4 = g l[i] % 256 ^ 4 := by
  induction l generalizing i with
  | nil => exact absurd h (Nat.not_lt_zero _)
  | cons a l ih =>
    rw [List.flatMap_cons, List.append_assoc]
    cases i with
    | zero => exact fieldAt_head 4 (g a) _
    | succ i =>
      rw [show 4 * (i + 1) = 4 + 4 * i by omega, fieldAt_skip, ih (by simpa using h)]
      rfl

theorem length_items {α : Type} (g : α → Nat) (l : List α) : (l.flatMap fun a => toBytes 4 (g a)).length = 4 * l.length := by
  simp [List.length_flatMap, toBytes_length, Nat.mul_comm]

theorem fieldAt_skip_items {α : Type} (g : α → Nat) (l : List α) (bs : List Byte) (o k : Nat) :
    fieldAt ((l.flatMap fun a => toBytes 4 (g a)) ++ bs) (4 * l.length + o) k = fieldAt bs o k := by
  rw [fieldAt, List.drop_append, length_items, List.drop_eq_nil_of_le (by rw [length_items]; omega), List.nil_append, Nat.add_sub_cancel_left]
  rfl

end Sys2Proof.Machine
end

section
/-! PROOFS. O39: `syscall` (R180, R181). -/

namespace Sys2Proof.Machine

/-! ## The call slot of a warp (R179) -/

section
variable {s t : State} {x y : Warp}

theorem SameCode.virtRaw (h : SameCode s t) (p va n perm : Nat) : t.virtRaw p va n perm = s.virtRaw p va n perm := by
  simp only [State.virtRaw, h.walk]

theorem SameCode.slotRaw (h : SameCode s t) (ho : y.owner = x.owner) (hix : y.call.ix = x.call.ix) (off n perm : Nat) :
    t.slotRaw y off n perm = s.slotRaw x off n perm := by
  simp only [State.slotRaw, State.callSlotVa, State.proc?, h.procs, ho, hix, h.virtRaw]
  rfl

/-- Where nothing moves, the places of a slot are its keys. -/
theorem State.slotRaw_still (hst : ∀ d ∈ s.dies, d.2.slots = []) {off n perm : Nat} {ks : List Nat} (h : s.slotKeys x off n perm = some ks) :
    s.slotRaw x off n perm = some ks := by
  rw [State.slotKeys, show s.redirect = id from funext (State.redirect_still hst)] at h
  simpa using h

theorem State.virtRaw_still (hst : ∀ d ∈ s.dies, d.2.slots = []) {p va n perm : Nat} {ks : List Nat} (h : s.virtKeys p va n perm = some ks) :
    s.virtRaw p va n perm = some ks := by
  rw [State.virtKeys, show s.redirect = id from funext (State.redirect_still hst)] at h
  simpa using h

theorem State.virtRaw_length {p va n perm : Nat} {ks : List Nat} (h : s.virtRaw p va n perm = some ks) : ks.length = n := by
  unfold State.virtRaw at h
  suffices hlen : ks.length = (List.range n).length by simpa using hlen
  generalize List.range n = is at h
  induction is generalizing ks with
  | nil =>
    obtain rfl : [] = ks := Option.some.inj h
    rfl
  | cons i is ih =>
    rw [List.foldr_cons, Option.bind_eq_some_iff] at h
    obtain ⟨js, hjs, hk⟩ := h
    split at hk
    · split at hk
      · obtain rfl := Option.some.inj hk
        rw [List.length_cons, List.length_cons, ih hjs]
      · exact nomatch hk
    · exact nomatch hk

theorem State.slotRaw_length {off n perm : Nat} {ks : List Nat} (h : s.slotRaw x off n perm = some ks) : ks.length = n := by
  unfold State.slotRaw at h
  dsimp only at h
  split at h
  · obtain rfl := Option.some.inj h
    simp [span]
  · exact State.virtRaw_length h

end

end Sys2Proof.Machine
end

section
/-! PROOFS. O39: `syscall` (R180, R181). -/

namespace Sys2Proof.Machine

/-! ## The record of a call (R180) -/

/-- The argument of a lane in a call's record. -/
def Warp.callArg (x : Warp) (e : Entry) (f : Frame) (l : Fin 32) : Nat :=
  if (x.active f e).getLsbD l.val then (if ((x.lane f.xa).2 &&& x.active f e).getLsbD l.val then poison32 else (x.lane f.xa).1[l]).toNat else 0

/-- The uniform operand of a call, where it has one. -/
def Warp.callKb (x : Warp) (f : Frame) : W64 × Bool := if f.bit 0 then x.uni f.kb else (0, false)

/-- The record of a call. -/
def State.callBytes (s : State) (x : Warp) (e : Entry) (f : Frame) : List Byte :=
  callRecord (f.immf 0 15) ((f.bit 0).toNat + (if x.trap.act then 4 else 0) + (if (x.callKb f).2 then 16 else 0)) (x.active f e) (x.call.seq + 1)
    x.owner.scope s.cur s.nodeid (if (x.callKb f).2 then poison64 else (x.callKb f).1) ((List.finRange 32).flatMap fun l => toBytes 4 (x.callArg e f l))
    ((x.lane f.xa).2 &&& x.active f e) e.pc 0 0

/-- The numbers before the arguments, and those after them. -/
def State.callHead (s : State) (x : Warp) (e : Entry) (f : Frame) : List (Nat × Nat) :=
  [(2, f.immf 0 15), (2, (f.bit 0).toNat + (if x.trap.act then 4 else 0) + (if (x.callKb f).2 then 16 else 0)), (4, (x.active f e).toNat),
   (4, (x.call.seq + 1).toNat), (4, x.owner.scope), (1, dieOf (coreOf s.cur)), (1, coreOf s.cur % 96 / 4), (1, coreOf s.cur % 96), (1, slotOf s.cur),
   (4, s.nodeid.toNat), (8, (if (x.callKb f).2 then poison64 else (x.callKb f).1).toNat)]
def Warp.callTail (x : Warp) (e : Entry) (f : Frame) : List (Nat × Nat) :=
  [(4, ((x.lane f.xa).2 &&& x.active f e).toNat), (4, 0), (8, e.pc.toNat), (8, (0#64).toNat), (1, 0), (71, 0)]

section
variable {s : State} {x : Warp} {e : Entry} {sh : Shape} {f : Frame}

theorem State.callBytes_eq (s : State) (x : Warp) (e : Entry) (f : Frame) :
    s.callBytes x e f = pack (s.callHead x e f) ++ (((List.finRange 32).flatMap fun l => toBytes 4 (x.callArg e f l)) ++ (pack (x.callTail e f) ++ [])) := by
  simp only [State.callBytes, callRecord, State.callHead, Warp.callTail, pack_cons, List.append_assoc, List.append_nil]
  simp [pack]

theorem State.callBytes_length (s : State) (x : Warp) (e : Entry) (f : Frame) : (s.callBytes x e f).length = 256 := by
  rw [State.callBytes_eq, List.length_append, List.length_append, List.length_append, pack_length, pack_length, length_items]
  rfl

/-- A number of the head of a call's record. -/
theorem State.callBytes_head (ps : List (Nat × Nat)) (k v : Nat) (qs : List (Nat × Nat)) (h : s.callHead x e f = ps ++ (k, v) :: qs) :
    fieldAt (s.callBytes x e f) (ps.map (·.1)).sum k = v % 256 ^ k := by
  rw [State.callBytes_eq, h]
  exact fieldAt_pack ..

theorem State.callBytes_arg (s : State) (x : Warp) (e : Entry) (f : Frame) (l : Fin 32) : fieldAt (s.callBytes x e f) (32 + 4 * l.val) 4 = x.callArg e f l % 256 ^ 4 := by
  rw [State.callBytes_eq]
  refine (fieldAt_skip_pack (s.callHead x e f) _ (4 * l.val) 4).trans ?_
  rw [fieldAt_item _ _ _ (by simp)]
  simp

theorem State.callBytes_tail (ps : List (Nat × Nat)) (k v : Nat) (qs : List (Nat × Nat)) (h : x.callTail e f = ps ++ (k, v) :: qs) :
    fieldAt (s.callBytes x e f) (32 + (128 + (ps.map (·.1)).sum)) k = v % 256 ^ k := by
  rw [State.callBytes_eq, h]
  refine (fieldAt_skip_pack (s.callHead x e f) _ (128 + (ps.map (·.1)).sum) k).trans ?_
  exact (fieldAt_skip_items _ (List.finRange 32) _ (ps.map (·.1)).sum k).trans (fieldAt_pack ..)

/-- The argument of an active lane is its value, or poison. -/
theorem Warp.callArg_eq (x : Warp) (e : Entry) (f : Frame) (l : Fin 32) : x.callArg e f l % 256 ^ 4 =
    if (x.active f e).getLsbD l.val then (if (x.lane f.xa).2.getLsbD l.val then poison32 else (x.lane f.xa).1[l]).toNat else 0 := by
  unfold Warp.callArg
  by_cases h : (x.active f e).getLsbD l.val = true
  · rw [if_pos h, if_pos h, BitVec.getLsbD_and, h, Bool.and_true]
    exact Nat.mod_eq_of_lt (BitVec.isLt _)
  · rw [if_neg h, if_neg h, Nat.zero_mod]

end

/-! ## The call (R181) -/

section
variable {s : State} {x : Warp} {e : Entry} {sh : Shape} {f : Frame}

/-- The warp that has called: its destination empty, its call outstanding. -/
def Warp.called (x : Warp) (e : Entry) (sh : Shape) (f : Frame) (stamp : Nat) : Warp :=
  { x.issued e sh f stamp with call := { x.call with seq := x.call.seq + 1, call := some (f.xd, x.active f e, x.call.seq + 1) } }

theorem Ready.syscall_writes (h : Ready (.syscall f) s x e sh f) : sh.writes f = if f.xd = 255 then [] else [.x f.xd] := by
  rw [show sh = (Instr.syscall f).shape.1 from (congrArg Prod.fst h.form).symm]
  have hx : f.d = 255 ↔ f.xd = 255 := ⟨fun h => congrArg BitVec.toNat h, fun h => BitVec.eq_of_toNat_eq h⟩
  simp only [Instr.shape, Shape.writes, Opd.regs, hx]
  split
  · rfl
  · next hne =>
    have hne : f.d.toNat ≠ 255 := hne
    simp [Frame.xd, hne]

/-- A call whose accesses have landed writes its record, and owes its notice. -/
theorem Ready.exec_call (h : Ready (.syscall f) s x e sh f) (hact : x.active f e ≠ 0) (hcall : x.call.call = none) (hlog : x.log = [])
    (hfifth : x.fifth = none) (hlanded : (s.opened x e sh f).releaseLanded s.cur = true) (hclean : s.sliceClean s.cur) :
    exec (.syscall f) s = .next (((s.setWarp s.cur (x.called e sh f s.clock)).post s.cur
      { half := 0, record := some (s.callBytes x e f, x.call.seq + 1, f.immf 0 15) }).retire s.cur f true) := by
  have hbusy : x.logBusy = false := by simp [Warp.logBusy, hlog, hfifth]
  have hcs : (s.opened x e sh f).cleanSlices s.cur 5 = s.opened x e sh f := State.cleanSlices_clean (.inr hclean)
  have hwarp : (s.opened x e sh f).modWarp s.cur (fun y =>
      let y := if f.xd = 255 then y else y.markEmpty (.x f.xd) (s.opened x e sh f).clock
      { y with call := { y.call with seq := x.call.seq + 1, call := some (f.xd, x.active f e, x.call.seq + 1) } }) = s.setWarp s.cur (x.called e sh f s.clock) := by
    have hissued : x.issued e sh f s.clock = if f.xd = 255 then x.opened e sh f s.clock else (x.opened e sh f s.clock).markEmpty (.x f.xd) s.clock := by
      rw [Warp.issued, h.syscall_writes]
      split <;> rfl
    have hx : (x.issued e sh f s.clock).call = x.call := (congrArg Warp.call (Warp.issued_same x e sh f s.clock).still :)
    refine (State.modWarp_setWarp s s.cur (x.opened e sh f s.clock) _).trans (congrArg (s.setWarp s.cur) ?_)
    rw [Warp.called, ← hx, hissued]
    rfl
  rw [exec_syscall, execSyscall, h.issueOnce, if_neg hact]
  simp only [State.sees, hcall, hbusy, hlanded, hcs, Option.isSome_none, Bool.false_eq_true, if_false, Bool.not_true]
  rw [hwarp]
  rfl

end

end Sys2Proof.Machine
end

section
/-! PROOFS. O39: what `syscall` leaves, and what it waits for (R180, R181). -/

namespace Sys2Proof.Machine

section
variable {s : State} {x : Warp} {e : Entry} {sh : Shape} {f : Frame}

/-! ## What a call waits for -/

theorem Warp.opened_logged (x : Warp) (e : Entry) (sh : Shape) (f : Frame) (stamp : Nat) : (x.opened e sh f stamp).logged = x.logged := by
  have h := (Warp.opened_same x e sh f stamp).still
  have hlog : (x.opened e sh f stamp).log = x.log := (congrArg Warp.log h :)
  have hfifth : (x.opened e sh f stamp).fifth = x.fifth := (congrArg Warp.fifth h :)
  rw [Warp.logged, Warp.logged, hlog, hfifth]

theorem State.opened_order (hw : s.warp? s.cur = some x) (e : Entry) (sh : Shape) (f : Frame) : SameOrder s (s.opened x e sh f) := by
  refine ⟨rfl, funext fun w => ?_, rfl⟩
  by_cases hc : w = s.cur
  · subst hc
    rw [State.loggedOf, State.loggedOf, hw, State.opened, State.warp?_setWarp_self]
    exact Warp.opened_logged ..
  · rw [State.loggedOf, State.loggedOf, State.opened, State.warp?_setWarp_ne _ _ hc]

/-- Whether the accesses of a warp have landed does not depend on what its instruction has read. -/
theorem State.opened_releaseLanded (hw : s.warp? s.cur = some x) (e : Entry) (sh : Shape) (f : Frame) :
    (s.opened x e sh f).releaseLanded s.cur = s.releaseLanded s.cur := by
  have hsaw : (x.opened e sh f s.clock).sawMark = x.sawMark := (congrArg Warp.sawMark (Warp.opened_same x e sh f s.clock).still :)
  have hseen : (s.opened x e sh f).seenDone s.cur s.nextId = s.seenDone s.cur s.nextId := by
    unfold State.seenDone
    rw [hw, State.opened, State.warp?_setWarp_self, ← State.opened, (State.opened_order hw e sh f).early, Option.all_some, Option.all_some, hsaw]
    rfl
  show (_ && _ && _ && (s.opened x e sh f).seenDone s.cur s.nextId) = _
  rw [hseen]
  rfl

theorem State.releaseLanded_iff : s.releaseLanded s.cur = true ↔ (∀ g ∈ s.flights, g.w ≠ s.cur) ∧ s.sharedDrained s.cur = true ∧ s.initsDone s.cur = true ∧
    s.seenDone s.cur s.nextId = true := by
  simp only [State.releaseLanded, State.landed, Bool.and_eq_true, List.all_eq_true, bne_iff_ne, and_assoc]

/-! ## What a call leaves -/

/-- The notice of a call. -/
def State.callNotice (s : State) (x : Warp) (f : Frame) : Notice :=
  { proc := x.owner.proc, ix := x.call.ix, seq := x.call.seq + 1, num := BitVec.ofNat 16 (f.immf 0 15), exc := false,
    runtime := !false && f.immf 0 15 < 0x4000 && s.runtime.isSome,
    since := ((s.notices.find? fun n => n.runtime && (!false && f.immf 0 15 < 0x4000 && s.runtime.isSome)).map (·.since)).getD s.clock }

/-- The state that a call leaves, but for its warp: its record written, its notice owed. -/
def State.posted (s v : State) (x : Warp) (f : Frame) : State :=
  { s with mem := v.mem, marks := v.marks, uses := v.uses, notices := s.notices ++ [s.callNotice x f] }

theorem Warp.called_same (x : Warp) (e : Entry) (sh : Shape) (f : Frame) (stamp : Nat) :
    (x.called e sh f stamp).hw = x.hw ∧ (x.called e sh f stamp).run = x.run ∧ (x.called e sh f stamp).owner = x.owner := by
  have h := Warp.issued_same x e sh f stamp
  exact ⟨h.hw, h.run, h.owner⟩

/-- A record that its warp's slot takes at once. -/
theorem State.post_call (hst : ∀ d ∈ s.dies, d.2.slots = []) (hfl : ∀ g ∈ s.flights, g.w ≠ s.cur) (hposts : x.call.posts = []) {ks : List Nat}
    (hks : s.slotKeys x 0 256 1 = some ks) :
    ∃ v, DeviceWrites (s.setWarp s.cur (x.called e sh f s.clock)) v ks (s.callBytes x e f) ∧
      (s.setWarp s.cur (x.called e sh f s.clock)).post s.cur { half := 0, record := some (s.callBytes x e f, x.call.seq + 1, f.immf 0 15) } =
        (s.posted v x f).setWarp s.cur (x.called e sh f s.clock) := by
  have howner : (x.called e sh f s.clock).owner = x.owner := (Warp.called_same x e sh f s.clock).2.2
  generalize hz : x.called e sh f s.clock = z at howner
  have hix : z.call.ix = x.call.ix := by rw [← hz]; rfl
  have hpz : z.call.posts = [] := by rw [← hz]; exact hposts
  have hraw : (s.setWarp s.cur z).slotRaw z 0 256 1 = some ks :=
    ((SameCode.setWarp s s.cur z).slotRaw howner hix 0 256 1).trans (State.slotRaw_still hst hks)
  have hlanded : (s.setWarp s.cur z).landed s.cur = true := List.all_eq_true.2 fun g hg => bne_iff_ne.2 (hfl g hg)
  have hput := State.putBytes_still (s := s.setWarp s.cur z) hst ks (s.callBytes x e f)
  have hwrite : (s.setWarp s.cur z).writeSlot z (512 * 0) (s.callBytes x e f) = (s.setWarp s.cur z).putBytes ks (s.callBytes x e f) := by
    rw [State.writeSlot, State.callBytes_length, hraw]
    rfl
  generalize (s.setWarp s.cur z).putBytes ks (s.callBytes x e f) = v at hput hwrite
  refine ⟨v, hput, ?_⟩
  unfold State.post
  rw [State.warp?_setWarp_self]
  simp only [hlanded, hpz, List.isEmpty_nil, Bool.and_self, if_true]
  unfold State.putPost
  simp only [hwrite]
  have hv := hput.rest
  unfold State.notify State.posted State.callNotice
  rw [howner, hix, hv]
  rfl

/-- R180, R181: what `syscall` leaves. -/
theorem Ready.syscall_calls {ks : List Nat} (h : Ready (.syscall f) s x e sh f) (hact : x.active f e ≠ 0) (hcall : x.call.call = none) (hlog : x.log = [])
    (hfifth : x.fifth = none) (hfl : ∀ g ∈ s.flights, g.w ≠ s.cur) (hposts : x.call.posts = []) (hst : ∀ d ∈ s.dies, d.2.slots = [])
    (hdrained : s.sharedDrained s.cur = true) (hinits : s.initsDone s.cur = true) (hseen : s.seenDone s.cur s.nextId = true)
    (hclean : s.sliceClean s.cur) (hks : s.slotKeys x 0 256 1 = some ks) (hnd : ks.Nodup) :
    ∃ t y, exec (.syscall f) s = .next t ∧ t.warp? s.cur = some y ∧ Gone t s.cur x y e f none ∧
      y.call = { x.call with seq := x.call.seq + 1, call := some (f.xd, x.active f e, x.call.seq + 1) } ∧
      (f.xd ≠ 255 → y.isEmpty (.x f.xd) = true) ∧ KeepsRegs x y sh f ∧ (∀ k, k ∉ ks → t.byte k = s.byte k) ∧ (∀ w, w ≠ s.cur → t.warp? w = s.warp? w) ∧
      t.notices = s.notices ++ [s.callNotice x f] ∧ ks.map t.byte = s.callBytes x e f := by
  have hlanded : (s.opened x e sh f).releaseLanded s.cur = true := by
    rw [State.opened_releaseLanded h.warp]
    exact State.releaseLanded_iff.2 ⟨hfl, hdrained, hinits, hseen⟩
  have hexec := h.exec_call hact hcall hlog hfifth hlanded hclean
  obtain ⟨v, hD, hpost⟩ := State.post_call (e := e) (sh := sh) (f := f) hst hfl hposts hks
  rw [hpost] at hexec
  obtain ⟨hhw, hrun, howner⟩ := Warp.called_same x e sh f s.clock
  have hwait : (x.called e sh f s.clock).wait = none := Warp.issued_wait ..
  have hw := h.wrote_issued
  obtain ⟨hwarp, ho, hgone⟩ := Gone.of_retire (s := s) (f := f) (u := s.posted v x f) (z := x.called e sh f s.clock) rfl h.head hhw hrun howner
  rw [hwait] at hgone
  generalize (State.setWarp (s.posted v x f) s.cur (x.called e sh f s.clock)).retire s.cur f true = t at hexec hwarp ho hgone
  have hmem : t.mem = v.mem := (congrArg State.mem ho.rest).trans rfl
  have hbyte : t.byte = v.byte := funext fun k => congrArg (Mem.read · k) hmem
  have hstill := Warp.retired_still (s.posted v x f) s.cur (x.called e sh f s.clock) f true
  refine ⟨t, _, hexec, hwarp, hgone, (congrArg Warp.call hstill :), fun hd => ?_, ⟨fun n hn => ?_, fun n hn => ?_⟩, fun k hk => ?_, fun w hne => ?_, ?_, ?_⟩
  · rw [Warp.retired_isEmpty]
    have hwr := h.syscall_writes
    rw [if_neg hd] at hwr
    have := Warp.expects_isEmpty (x.opened e sh f s.clock) (rs := sh.writes f) (by rw [hwr]; simpa using Ne.symm hd) s.clock (q := .x f.xd) (by rw [hwr]; simp)
    exact this
  · rw [Warp.lbind, Warp.retired_x]; exact hw.regs.lanes n hn
  · rw [Warp.ubind, Warp.retired_k]; exact hw.regs.unis n hn
  · rw [hbyte]; exact (hD.byte_out hk).trans rfl
  · exact (ho.others w hne).trans rfl
  · exact (congrArg State.notices ho.rest).trans rfl
  · rw [hbyte]
    refine hD.bytes ?_ hnd
    rw [State.callBytes_length, State.slotRaw_length (State.slotRaw_still hst hks)]

end

end Sys2Proof.Machine
end

section
/-! PROOFS. O39: the fields of a call's record, and the waits of `syscall` (R180, R181). -/

namespace Sys2Proof.Machine

section
variable {s t : State} {x : Warp} {e : Entry} {sh : Shape} {f : Frame} {ks : List Nat}

theorem immf_lt (f : Frame) (lo n : Nat) : f.immf lo n < 2 ^ n := Nat.mod_lt _ (Nat.two_pow_pos n)

/-- The flags of a call's record are three bits. -/
theorem callFlags_eq (hb act tag : Bool) :
    (hb.toNat + (if act then 4 else 0) + (if tag then 16 else 0)) % 256 ^ 2 = hb.toNat + 4 * act.toNat + 16 * tag.toNat := by
  revert hb act tag; decide

/-- The numbers that a call's slot holds once its record is there. -/
theorem State.callBytes_fields (hbytes : ks.map t.byte = s.callBytes x e f) :
    let act := x.active f e
    let a := x.lane f.xa
    let hb := f.bit 0
    let kb := if hb then x.uni f.kb else (0, false)
    let n := f.immf 0 15
    let field := fun o k => ofBytes (((ks.drop o).take k).map t.byte)
    field 0 2 = n ∧ field 2 2 = hb.toNat + 4 * x.trap.act.toNat + 16 * kb.2.toNat ∧ field 4 4 = act.toNat ∧ field 8 4 = (x.call.seq + 1).toNat ∧
      field 12 4 = x.owner.scope % 2 ^ 32 ∧ field 20 4 = s.nodeid.toNat ∧ field 24 8 = (if kb.2 then poison64 else kb.1).toNat ∧
      field 160 4 = (a.2 &&& act).toNat ∧ field 168 8 = e.pc.toNat ∧
      ∀ l : Fin 32, field (32 + 4 * l.val) 4 = if act.getLsbD l.val then (if a.2.getLsbD l.val then poison32 else a.1[l]).toNat else 0 := by
  intro act a hb kb n field
  have hfield : ∀ o k, field o k = fieldAt (s.callBytes x e f) o k := fun o k => by
    rw [← hbytes, fieldAt, ← List.map_drop, ← List.map_take]
  have word : ∀ {w m : Nat} (v : BitVec w), 2 ^ w ≤ m → v.toNat % m = v.toNat := fun v h => Nat.mod_eq_of_lt (Nat.lt_of_lt_of_le v.isLt h)
  simp only [hfield]
  refine ⟨?_, ?_, ?_, ?_, ?_, ?_, ?_, ?_, ?_, fun l => ?_⟩
  · exact (State.callBytes_head [] 2 _ _ rfl).trans (Nat.mod_eq_of_lt (Nat.lt_of_lt_of_le (immf_lt f 0 15) (by decide)))
  · refine (State.callBytes_head [(2, n)] 2 _ _ rfl).trans ?_
    exact callFlags_eq (f.bit 0) x.trap.act kb.2
  · exact (State.callBytes_head ((s.callHead x e f).take 2) 4 _ _ rfl).trans (word _ (by decide))
  · exact (State.callBytes_head ((s.callHead x e f).take 3) 4 _ _ rfl).trans (word _ (by decide))
  · exact State.callBytes_head ((s.callHead x e f).take 4) 4 _ _ rfl
  · exact (State.callBytes_head ((s.callHead x e f).take 9) 4 _ _ rfl).trans (word _ (by decide))
  · exact (State.callBytes_head ((s.callHead x e f).take 10) 8 _ _ rfl).trans (word _ (by decide))
  · exact (State.callBytes_tail [] 4 _ _ rfl).trans (word _ (by decide))
  · exact (State.callBytes_tail ((x.callTail e f).take 2) 8 _ _ rfl).trans (word _ (by decide))
  · exact (s.callBytes_arg x e f l).trans (x.callArg_eq e f l)

/-- R166, R181: a call waits for its slot, for the operand log, and for what its release orders before it. -/
theorem Ready.syscall_waits (h : Ready (.syscall f) s x e sh f) (hact : x.active f e ≠ 0) :
    (x.call.call ≠ none → ∃ t, exec (.syscall f) s = .next t ∧ HeldAt s t x f .call) ∧
    (x.call.call = none → x.log ≠ [] ∨ x.fifth ≠ none → ∃ t, exec (.syscall f) s = .next t ∧ HeldAt s t x f .oplog) ∧
    (x.call.call = none → x.log = [] → x.fifth = none →
      ((∃ g ∈ s.flights, g.w = s.cur) ∨ s.sharedDrained s.cur = false ∨ s.initsDone s.cur = false ∨ s.seenDone s.cur s.nextId = false) →
      ∃ t, exec (.syscall f) s = .next t ∧ HeldAt s t x f (.arrival false)) := by
  have hexec : exec (.syscall f) s = _ := (exec_syscall f s).trans (by rw [execSyscall, h.issueOnce, if_neg hact])
  refine ⟨fun hcall => ⟨_, ?_, State.heldAt h.warp f .call⟩, fun hcall hlog => ⟨_, ?_, State.heldAt h.warp f .oplog⟩,
    fun hcall hlog hfifth hleft => ⟨_, ?_, State.heldAt h.warp f (.arrival false)⟩⟩
  · have hc : x.call.call.isSome = true := Option.isSome_iff_ne_none.2 hcall
    rw [hexec]
    simp only [State.sees, hc, if_true]
    rfl
  · have hbusy : x.logBusy = true := by
      rcases hlog with hl | hl
      · simp [Warp.logBusy, hl]
      · simp [Warp.logBusy, Option.isSome_iff_ne_none.2 hl]
    rw [hexec]
    simp only [State.sees, hcall, hbusy, Option.isSome_none, Bool.false_eq_true, if_false, if_true]
    rfl
  · have hbusy : x.logBusy = false := by simp [Warp.logBusy, hlog, hfifth]
    have hlanded : (s.opened x e sh f).releaseLanded s.cur = false := by
      rw [State.opened_releaseLanded h.warp]
      by_contra hne
      obtain ⟨hfl, hd, hi, hs⟩ := State.releaseLanded_iff.1 (by simpa using hne)
      rcases hleft with ⟨g, hg, hgw⟩ | hl | hl | hl
      · exact hfl g hg hgw
      · exact nomatch hl.symm.trans hd
      · exact nomatch hl.symm.trans hi
      · exact nomatch hl.symm.trans hs
    rw [hexec]
    simp only [State.sees, hcall, hbusy, hlanded, Option.isSome_none, Bool.false_eq_true, if_false, Bool.not_false, if_true]
    rfl

end

/-! ## Replies (R164, R181) -/

section
variable {s : State} {w : Nat} {x : Warp}

/-- Reading a slot changes nothing but what its homes know of their use. -/
theorem State.useSlot_eq (s : State) (x : Warp) (off n : Nat) : s.useSlot x off n = { s with uses := (s.useSlot x off n).uses } := by
  unfold State.useSlot
  cases s.slotRaw x off n 0 <;> rfl

/-- The reply of a call as a value for its destination. -/
def State.replyPut (s : State) (d : Nat) (m : Mask) (st : Nat) (ks : List Nat) : Put :=
  .x d m (Vector.ofFn fun l => BitVec.ofNat 32 (ofBytes (((s.bytes ks).drop (4 * l.val)).take 4))) (if st / 2 ^ 32 % 2 = 1 then m else 0)

/-- The state after a reply has filled the lanes of the call of `z`, a warp of `p`. -/
def State.replied (p : State) (w : Nat) (z : Warp) (put : Put) : State :=
  (p.setWarp w ({ z with call := { z.call with call := none } }.deliver p.clock put)).acquireFor w 5

/-- What the acquire of a reply leaves. -/
theorem State.acquireFor_setWarp (p : State) (w : Nat) (y : Warp) :
    let t := (p.setWarp w y).acquireFor w 5
    t.warp? w = some { y with loadMark := p.nextId, dropMark := p.nextId } ∧ t.mem = p.mem ∧ (t.core (coreOf w)).l1 = [] := by
  intro t
  have ht : t = (p.setWarp w { y with loadMark := p.nextId, dropMark := p.nextId }).acquire (coreOf w) 5 := by
    rw [← State.modWarp_setWarp p w y fun y => { y with loadMark := p.nextId, dropMark := p.nextId }]
    rfl
  rw [ht]
  refine ⟨?_, ?_, ?_⟩
  · rw [State.acquire_warp?, State.warp?_setWarp_self]
  · rw [State.acquire_rest]
    rfl
  · rw [State.acquire_core, if_pos ⟨by decide, rfl⟩]

/-- R181: what a reply leaves: the lanes of the call hold its values, and everything else of the warp stands. -/
theorem State.replied_delivers {p : State} {z : Warp} {d : Nat} (hd : d ≠ 255) (m : Mask) (st : Nat) (ks : List Nat) :
    ∃ y r, (p.replied w z (p.replyPut d m st ks)).warp? w = some y ∧ y.call.call = none ∧ y.hw = z.hw ∧
      (p.replied w z (p.replyPut d m st ks)).mem = p.mem ∧ ((p.replied w z (p.replyPut d m st ks)).core (coreOf w)).l1 = [] ∧
      y.x.get? d = some r ∧ r.empty = false ∧ ∀ l : Fin 32, m.getLsbD l.val = true →
        r.val[l] = BitVec.ofNat 32 (ofBytes (((ks.drop (4 * l.val)).take 4).map p.byte)) ∧ r.tag.getLsbD l.val = decide (st / 2 ^ 32 % 2 = 1) := by
  obtain ⟨hwarp, hmem, hl1⟩ := p.acquireFor_setWarp w ({ z with call := { z.call with call := none } }.deliver p.clock (p.replyPut d m st ks))
  obtain ⟨r, hget, hempty, -, hlanes⟩ := Warp.putLane_get_self { z with call := { z.call with call := none } } hd m
    (fun l => (Vector.ofFn fun l : Fin 32 => BitVec.ofNat 32 (ofBytes (((p.bytes ks).drop (4 * l.val)).take 4)))[l]) (if st / 2 ^ 32 % 2 = 1 then m else 0) p.clock false
  have hsame : SameBut { z with call := { z.call with call := none } } ({ z with call := { z.call with call := none } }.deliver p.clock (p.replyPut d m st ks)) :=
    Warp.putLane_same ..
  refine ⟨_, r, hwarp, ?_, hsame.hw, hmem, hl1, hget, hempty, fun l hl => ?_⟩
  · exact congrArg CallState.call (congrArg Warp.call hsame.still :)
  · have hlane := hlanes l
    rw [if_pos hl] at hlane
    refine ⟨hlane.1.trans ?_, hlane.2.trans ?_⟩
    · simp [State.bytes, List.map_drop, List.map_take]
    · split <;> simp_all

/-- R181: the reply to a call. -/
theorem syscallReply_delivers {d : Nat} {m : Mask} {seq : W32} {st : Nat} {ks : List Nat} (hw : s.warp? w = some x) (hcall : x.call.call = some (d, m, seq))
    (hd : d ≠ 255) (hlive : x.marks.ended = false) (hst : s.readSlot x 384 8 = some st) (hks : s.slotKeys x 256 128 0 = some ks) :
    (st % 2 ^ 32 ≠ seq.toNat → exec (.syscallReply w) s = .next s) ∧
    (st % 2 ^ 32 = seq.toNat →
      let u := s.useSlot x 256 136
      let placed := u.placeRegs w [.x d]
      (x.isBound (.x d) = true → x.isSpilled (.x d) = false → placed = (u, true)) ∧ u.mem = s.mem ∧
      (placed.2 = false → exec (.syscallReply w) s = .next placed.1) ∧
      ∀ z, placed.2 = true → placed.1.warp? w = some z → ∃ t y r, exec (.syscallReply w) s = .next t ∧ t.warp? w = some y ∧ y.call.call = none ∧
        y.hw = z.hw ∧ t.mem = placed.1.mem ∧ (t.core (coreOf w)).l1 = [] ∧ y.x.get? d = some r ∧ r.empty = false ∧ ∀ l : Fin 32, m.getLsbD l.val = true →
          r.val[l] = BitVec.ofNat 32 (ofBytes (((ks.drop (4 * l.val)).take 4).map placed.1.byte)) ∧ r.tag.getLsbD l.val = decide (st / 2 ^ 32 % 2 = 1)) := by
  have hexec : exec (.syscallReply w) s = .next (if st % 2 ^ 32 != seq.toNat then s else
      let placed := (s.useSlot x 256 136).placeRegs w [.x d]
      if !placed.2 then placed.1 else placed.1.replied w ((placed.1.warp? w).getD x) (placed.1.replyPut d m st ks)) := by
    rw [exec_syscallReply, execSyscallReply]
    simp only [hw, hcall, hst, hks, hlive, if_neg hd, Bool.false_eq_true, if_false]
    rfl
  have hmem : (s.useSlot x 256 136).mem = s.mem := by rw [State.useSlot_eq]
  have hu : (s.useSlot x 256 136).warp? w = some x := by rw [State.useSlot_eq]; exact hw
  refine ⟨fun hne => ?_, fun heq => ?_⟩
  · rw [hexec, if_pos (bne_iff_ne.2 hne)]
  · intro u placed
    rw [if_neg fun hne => bne_iff_ne.1 hne heq] at hexec
    refine ⟨fun hbound hspill => State.placeRegs_bound hu (by simp [hbound, hspill]), hmem, fun hno => ?_, fun z hroom hz => ?_⟩
    · rw [hexec]
      exact congrArg Host.Outcome.next (if_pos (congrArg Bool.not hno))
    · obtain ⟨y, r, hy⟩ := State.replied_delivers (p := placed.1) (w := w) (z := z) hd m st ks
      refine ⟨_, y, r, hexec.trans (congrArg Host.Outcome.next ((if_neg ?_).trans ?_)), hy⟩
      · exact fun hno => Bool.noConfusion (hroom.symm.trans ((Bool.not_eq_true' _).mp hno))
      · exact congrArg (fun q : Option Warp => placed.1.replied w (q.getD x) (placed.1.replyPut d m st ks)) hz

end

end Sys2Proof.Machine
end

section
/-! PROOFS. O39: the reply to a report (R164), and call rings (R183). -/

namespace Sys2Proof.Machine

/-! ## The reply to a report (R164) -/

section
variable {s : State} {w : Nat} {x : Warp} {e : Entry} {r : List Entry} {rpc : BitVec 57} {st pc : Nat}

/-- Where the reply to a report lets its warp go on. -/
def State.resumed (s : State) (w : Nat) (x : Warp) (e : Entry) (a : BitVec 57) : State :=
  (s.useSlot x 896 8).setWarp w ({ x with call := { x.call with report := none } }.replaceHead [{ e with pc := (s.useSlot x 896 8).land w x a }])

theorem State.resumed_leaves (s : State) (w : Nat) (x : Warp) (e : Entry) (a : BitVec 57) :
    ∃ y, s.resumed w x e a = { s with warps := (s.resumed w x e a).warps, uses := (s.resumed w x e a).uses } ∧ (s.resumed w x e a).warp? w = some y ∧
      y.call.report = none ∧ y.x = x.x ∧ y.trap = x.trap ∧ y.hw = (x.replaceHead [{ e with pc := s.land w x a }]).hw := by
  have hland : (s.useSlot x 896 8).land w x a = s.land w x a := by
    refine SameCode.land ?_ w rfl a
    rw [State.useSlot_eq]
    exact ⟨rfl, rfl, rfl, rfl, rfl, fun _ => rfl, fun _ => rfl⟩
  refine ⟨_, ?_, State.warp?_setWarp_self .., rfl, rfl, rfl, ?_⟩
  · rw [State.resumed, State.useSlot_eq]
    rfl
  · rw [hland]
    rfl

/-- R164: the reply to a report, by its number and its action. -/
theorem exceptionReply_acts (hw : s.warp? w = some x) (hrep : x.call.report = some rpc) (hhw : x.hw = e :: r) (hst : s.readSlot x 896 8 = some st)
    (hpc : s.readSlot x 768 8 = some pc) :
    (st % 2 ^ 32 ≠ x.call.reportSeq.toNat → exec (.exceptionReply w) s = .next s) ∧
    (st % 2 ^ 32 = x.call.reportSeq.toNat →
      (∀ a, (st / 2 ^ 33 % 4 = 1 ∧ a = BitVec.ofNat 57 pc &&& ~~~3#57) ∨ (st / 2 ^ 33 % 4 = 2 ∧ a = rpc) → exec (.exceptionReply w) s = .next (s.resumed w x e a)) ∧
      (st / 2 ^ 33 % 4 = 0 ∨ st / 2 ^ 33 % 4 = 3 → exec (.exceptionReply w) s =
        .next (((s.useSlot x 896 8).setWarp w { x with call := { x.call with report := none } }).endWarp w false))) := by
  have hexec := exec_exceptionReply w s
  unfold execExceptionReply at hexec
  simp only [hw, hrep, hst, hpc, hhw] at hexec
  rw [← hhw] at hexec
  refine ⟨fun hne => hexec.trans (congrArg Host.Outcome.next (if_pos (bne_iff_ne.2 hne))), fun heq => ?_⟩
  rw [if_neg fun hne => bne_iff_ne.1 hne heq] at hexec
  refine ⟨fun a ha => ?_, fun ha => ?_⟩
  · obtain ⟨hact, rfl⟩ | ⟨hact, rfl⟩ := ha <;> rw [hact] at hexec <;> exact hexec
  · obtain hact | hact := ha <;> rw [hact] at hexec <;> exact hexec

end

/-! ## Call rings (R183) -/

section
variable {s t u : State} {ks ts : List Nat} {bs cs : List Byte} {p va a : Nat}

theorem State.storeVirt_writes (hst : ∀ d ∈ s.dies, d.2.slots = []) (h : s.virtRaw p va bs.length 1 = some ks) : DeviceWrites s (s.storeVirt p va bs) ks bs := by
  rw [State.storeVirt, h]
  exact State.putBytes_still hst ks bs

/-- Reading memory of a process changes nothing but what its homes know of their use. -/
theorem State.useVirt_eq (s : State) (p va n : Nat) : s.useVirt p va n = { s with uses := (s.useVirt p va n).uses } := by
  unfold State.useVirt
  cases s.virtRaw p va n 0 <;> rfl

theorem SameCode.writeBytes (h : SameCode s t) (ks : List Nat) (bs : List Byte) : SameCode (s.writeBytes ks bs) (t.writeBytes ks bs) :=
  ⟨congrArg (Mem.writeAll · ks bs) h.mem, h.procs, h.dies, h.pkg, h.clusters, h.tlb, h.icache⟩

/-- Of two writes to different places, both stand. -/
theorem DeviceWrites.both (h : DeviceWrites s t ks bs) (g : DeviceWrites t u ts cs) (hks : bs.length = ks.length) (hts : cs.length = ts.length)
    (hnd : (ks ++ ts).Nodup) : ks.map u.byte = bs ∧ ts.map u.byte = cs ∧ ∀ k, k ∉ ks ++ ts → u.byte k = s.byte k := by
  obtain ⟨hk, ht, hdis⟩ := List.nodup_append'.1 hnd
  refine ⟨?_, g.bytes hts ht, fun k hn => ?_⟩
  · exact (List.map_congr_left fun k hm => g.byte_out fun hm' => hdis hm hm').trans (h.bytes hks hk)
  · obtain ⟨hn1, hn2⟩ := not_or.1 fun hor => hn (List.mem_append.2 hor)
    exact (g.byte_out hn2).trans (h.byte_out hn1)

/-- Two stores of the device to places that differ. -/
theorem State.storeVirt_both {v b c : State} (hst : ∀ d ∈ v.dies, d.2.slots = []) (hks : v.virtRaw p a bs.length 1 = some ks)
    (hts : (v.writeBytes ks bs).virtRaw p va cs.length 1 = some ts) (hnd : (ks ++ ts).Nodup) (hb : b = v.storeVirt p a bs) (hc : c = b.storeVirt p va cs) :
    ks.map c.byte = bs ∧ ts.map c.byte = cs ∧ (∀ k, k ∉ ks ++ ts → c.byte k = v.byte k) ∧
      c.runtime = v.runtime ∧ c.notices = v.notices ∧ c.pkg = v.pkg := by
  have h1 : DeviceWrites v b ks bs := hb ▸ State.storeVirt_writes hst hks
  have h2 : DeviceWrites b c ts cs := hc ▸ State.storeVirt_writes (h1.slots hst) ((h1.sameCode.virtRaw ..).trans hts)
  obtain ⟨hkb, htb, hout⟩ := h1.both h2 (State.virtRaw_length hks).symm (State.virtRaw_length hts).symm hnd
  have hrest := h2.rest
  rw [h1.rest] at hrest
  exact ⟨hkb, htb, hout, by rw [hrest], by rw [hrest], by rw [hrest]⟩

/-- A notice in its ring. -/
def Notice.bytes (n : Notice) : List Byte :=
  toBytes 4 n.proc ++ toBytes 4 n.ix.toNat ++ toBytes 4 n.seq.toNat ++ toBytes 4 (n.num.toNat + n.exc.toNat * 2 ^ 16 + n.redir.toNat * 2 ^ 17)

theorem Notice.bytes_length (n : Notice) : n.bytes.length = 16 := by simp [Notice.bytes, toBytes_length]

/-- The numbers of a notice in its ring. -/
theorem Notice.fields {n : Notice} (h : ks.map t.byte = n.bytes) :
    ofBytes ((ks.take 4).map t.byte) = n.proc % 2 ^ 32 ∧ ofBytes (((ks.drop 4).take 4).map t.byte) = n.ix.toNat ∧
    ofBytes (((ks.drop 8).take 4).map t.byte) = n.seq.toNat ∧ ofBytes ((ks.drop 12).map t.byte) = n.num.toNat + 2 ^ 16 * n.exc.toNat + 2 ^ 17 * n.redir.toNat := by
  have hpack : n.bytes = pack [(4, n.proc), (4, n.ix.toNat), (4, n.seq.toNat), (4, n.num.toNat + n.exc.toNat * 2 ^ 16 + n.redir.toNat * 2 ^ 17)] ++ [] := by
    simp [Notice.bytes, pack]
  have hfield : ∀ o, ofBytes (((ks.drop o).take 4).map t.byte) = fieldAt n.bytes o 4 := fun o => by rw [← h, fieldAt, ← List.map_drop, ← List.map_take]
  have hlast : (ks.drop 12).take 4 = ks.drop 12 := List.take_of_length_le (by
    have := congrArg List.length h
    rw [List.length_map, n.bytes_length] at this
    rw [List.length_drop, this])
  have hexc := n.exc.toNat_le
  have hredir := n.redir.toNat_le
  have hnum := n.num.isLt
  have hix := n.ix.isLt
  refine ⟨(hfield 0).trans ?_, (hfield 4).trans ?_, (hfield 8).trans ?_, hlast ▸ (hfield 12).trans ?_⟩ <;> rw [hpack]
  · exact fieldAt_pack [] 4 n.proc _ []
  · exact (fieldAt_pack [(4, n.proc)] 4 n.ix.toNat _ []).trans (Nat.mod_eq_of_lt (by omega))
  · exact (fieldAt_pack [(4, n.proc), (4, n.ix.toNat)] 4 n.seq.toNat _ []).trans (Nat.mod_eq_of_lt n.seq.isLt)
  · refine (fieldAt_pack [(4, n.proc), (4, n.ix.toNat), (4, n.seq.toNat)] 4 _ [] []).trans ?_
    omega

theorem Pkg.signal_msix (p : Pkg) (v : Nat) : (p.signal v).msix = p.msix ++ [v] := by
  unfold Pkg.signal; dsimp only; split <;> rfl

end

/-- A notice that its ring has taken: the ring's memory is written, and the host is notified of a ring of its own. -/
def State.taken (s : State) (n : Notice) (p va tail size : Nat) : State :=
  let t := ((({ s with notices := [] }.useVirt p va 12).storeVirt p (va + 64 + 16 * (tail % size)) n.bytes).storeVirt p va (toBytes 4 ((tail + 1) % 2 ^ 32)))
  if n.runtime && t.runtime.isSome then t else t.raise (64 + n.proc)

section
variable {s : State} {n : Notice} {p va tail head size : Nat} {ks ts : List Nat}

theorem State.ringFull_iff (hring : s.noticeRing n = some (p, va)) (hcall : s.callRing p va = some (tail, head, size)) :
    s.ringFull n = decide (size ≤ (tail + 2 ^ 32 - head) % 2 ^ 32) := by
  simp only [State.ringFull, hring, hcall]

theorem SameCode.callRing {t : State} (h : SameCode s t) (p va : Nat) : t.callRing p va = s.callRing p va := by
  have hread : ∀ va n, t.readVirt p va n = s.readVirt p va n := fun va n => by
    have hbytes : t.bytes = s.bytes := funext fun ks => congrArg (fun m => ks.map (Mem.read m)) h.mem
    have hredir : t.redirect = s.redirect := funext h.redirect
    rw [State.readVirt, State.readVirt, State.virtKeys, State.virtKeys, h.virtRaw, hbytes, hredir]
  simp only [State.callRing, hread]

theorem SameCode.notices (s : State) (l : List Notice) : SameCode s { s with notices := l } := ⟨rfl, rfl, rfl, rfl, rfl, fun _ => rfl, fun _ => rfl⟩

/-- R183: the only notice, by whether its ring is full. -/
theorem callRingNotice_acts (hn : s.notices = [n]) (hring : s.noticeRing n = some (p, va)) (hcall : s.callRing p va = some (tail, head, size)) :
    exec (.callRingNotice 0) s = .next (if size ≤ (tail + 2 ^ 32 - head) % 2 ^ 32 then s else s.taken n p va tail size) := by
  have hring' : ∀ m, State.noticeRing { s with notices := m } n = some (p, va) := fun _ => hring
  have hcall' := ((SameCode.notices s []).callRing p va).trans hcall
  rw [exec_callRingNotice, execCallRingNotice]
  simp only [hn, State.ringFull_iff hring hcall, List.getElem?_cons_zero, List.take_zero, List.any_nil, Bool.or_false, decide_eq_true_eq, List.eraseIdx_cons_zero,
    List.map_nil, hring', hcall']
  rfl

/-- R183: what a notice leaves that its ring has taken. -/
theorem State.taken_writes (hst : ∀ d ∈ s.dies, d.2.slots = []) (hks : s.virtKeys p (va + 64 + 16 * (tail % size)) 16 1 = some ks) (hnd : (ks ++ ts).Nodup)
    (hts : (s.writeBytes ks n.bytes).virtKeys p va 4 1 = some ts) :
    (s.taken n p va tail size).notices = [] ∧ ts.map (s.taken n p va tail size).byte = toBytes 4 ((tail + 1) % 2 ^ 32) ∧
      ks.map (s.taken n p va tail size).byte = n.bytes ∧ (∀ k, k ∉ ks ++ ts → (s.taken n p va tail size).byte k = s.byte k) ∧
      (s.taken n p va tail size).pkg.msix = if n.runtime = true ∧ s.runtime ≠ none then s.pkg.msix else s.pkg.msix ++ [64 + n.proc] := by
  have hv := State.useVirt_eq { s with notices := [] } p va 12
  have hlen := toBytes_length 4 ((tail + 1) % 2 ^ 32)
  unfold State.taken
  generalize State.useVirt { s with notices := [] } p va 12 = v at hv ⊢
  generalize toBytes 4 ((tail + 1) % 2 ^ 32) = cs at hlen ⊢
  generalize va + 64 + 16 * (tail % size) = a at hks ⊢
  obtain ⟨b, hb⟩ : ∃ b, b = v.storeVirt p a n.bytes := ⟨_, rfl⟩
  obtain ⟨c, hc⟩ : ∃ c, c = b.storeVirt p va cs := ⟨_, rfl⟩
  rw [← hb, ← hc]
  have hsame : SameCode s v := by rw [hv]; exact ⟨rfl, rfl, rfl, rfl, rfl, fun _ => rfl, fun _ => rfl⟩
  have hpkg : v.pkg = s.pkg := hsame.pkg
  have hruntime : v.runtime = s.runtime := by rw [hv]
  have hnotices : v.notices = [] := by rw [hv]
  have hbyte : v.byte = s.byte := funext fun k => congrArg (Mem.read · k) hsame.mem
  clear hv
  have hraw1 : v.virtRaw p a n.bytes.length 1 = some ks := by
    rw [n.bytes_length, hsame.virtRaw]
    exact State.virtRaw_still hst hks
  have hraw2 : (v.writeBytes ks n.bytes).virtRaw p va cs.length 1 = some ts := by
    have hst' : ∀ d ∈ (s.writeBytes ks n.bytes).dies, d.2.slots = [] := hst
    rw [hlen, (hsame.writeBytes ks n.bytes).virtRaw]
    exact State.virtRaw_still hst' hts
  have hstv : ∀ d ∈ v.dies, d.2.slots = [] := by
    rw [hsame.dies]
    exact hst
  obtain ⟨hks', hts', hout, hstill⟩ := v.storeVirt_both hstv hraw1 hraw2 hnd hb hc
  rw [hbyte] at hout
  have hcond : (n.runtime && c.runtime.isSome) = true ↔ n.runtime = true ∧ s.runtime ≠ none := by
    rw [hstill.1, hruntime, Bool.and_eq_true, Option.isSome_iff_ne_none]
  by_cases hr : n.runtime = true ∧ s.runtime ≠ none
  · rw [if_pos (hcond.2 hr), if_pos hr]
    exact ⟨hstill.2.1.trans hnotices, hts', hks', hout, by rw [hstill.2.2, hpkg]⟩
  · rw [if_neg (mt hcond.1 hr), if_neg hr]
    exact ⟨hstill.2.1.trans hnotices, hts', hks', hout, by rw [← hpkg, ← hstill.2.2]; exact Pkg.signal_msix ..⟩

/-- R183: the only notice goes to the host's ring once the device runtime's ring has been full for long enough. -/
theorem redirection_acts (hn : s.notices = [n]) (hring : s.noticeRing n = some (p, va)) (hcall : s.callRing p va = some (tail, head, size)) :
    exec (.redirection 0) s = .next (if n.runtime = true ∧ s.runtime ≠ none ∧ size ≤ (tail + 2 ^ 32 - head) % 2 ^ 32 ∧ n.since + 2 ^ 20 ≤ s.clock then
      { s with notices := [{ n with runtime := false, redir := true }] } else s) := by
  rw [exec_redirection, execRedirection]
  simp only [hn, State.ringFull_iff hring hcall, List.getElem?_cons_zero, List.set_cons_zero, Bool.and_eq_true, decide_eq_true_eq, Option.isSome_iff_ne_none,
    and_assoc]

end

/-- Settles O39: a call whose slot is free writes its record there and owes its notice; replies are followed through the lanes that they fill or the head that
they move; a notice's two writes meet different places, so both stand. -/
theorem callsAndRings : Obligations.CallsAndRings := by
  unfold Obligations.CallsAndRings
  refine ⟨⟨?_, fun s x e sh f h hact => h.syscall_waits hact, fun s w x d m seq st ks hw hcall hd hlive hst hks => syscallReply_delivers hw hcall hd hlive hst hks, ?_⟩, ?_⟩
  · intro s x e sh f ks h hact act a hb kb seq n hcall hlog hfifth hfl hposts hq hdrained hinits hseen hclean hks hnd
    obtain ⟨t, y, hexec, hw, hgone, hycall, hempty, hkeeps, hout, hothers, hnotices, hbytes⟩ :=
      h.syscall_calls hact hcall hlog hfifth hfl hposts hq.slots hdrained hinits hseen hclean hks hnd
    exact ⟨t, y, s.callNotice x f, hexec, hw, hgone, hycall, hempty, hkeeps, hout, hothers, hnotices, rfl, rfl, rfl, rfl, rfl, by simp [State.callNotice, n],
      State.callBytes_fields hbytes⟩
  · intro s w x e r rpc st pc hw hrep hhw hst hpc
    obtain ⟨hno, hyes⟩ := exceptionReply_acts hw hrep hhw hst hpc
    refine ⟨hno, fun heq => ⟨fun a ha => ?_, (hyes heq).2⟩⟩
    obtain ⟨y, hy⟩ := s.resumed_leaves w x e a
    exact ⟨_, y, (hyes heq).1 a ha, hy⟩
  · intro s n p va tail head size ks ts hn hring hcall hq full
    have hacts := callRingNotice_acts hn hring hcall
    refine ⟨fun hfull => ?_, fun hfree hks hnd hts => ?_, redirection_acts hn hring hcall⟩
    · rw [hacts, if_pos hfull]
    · rw [if_neg hfree] at hacts
      obtain ⟨hnotices, htail, hbody, hout, hmsix⟩ := State.taken_writes hq.slots hks hnd hts
      obtain ⟨hproc, hix, hseq, hflags⟩ := Notice.fields hbody
      refine ⟨_, hacts, hnotices, ?_, hproc, hix, hseq, hflags, hout, hmsix⟩
      rw [htail, ofBytes_toBytes]
      exact Nat.mod_mod (tail + 1) (2 ^ 32)

end Sys2Proof.Machine
end

section
/-! PROOFS. O18: bit fields put together and taken apart (R53, R56, R60). -/

namespace Sys2Proof

/-! ## Concatenations -/

/-- A concatenation determines its parts. -/
theorem append_inj {v w : Nat} {x x' : BitVec v} {y y' : BitVec w} (h : x ++ y = x' ++ y') : x = x' ∧ y = y' := by
  have hx := congrArg (BitVec.extractLsb' w v) h
  have hy := congrArg (BitVec.extractLsb' 0 w) h
  rw [BitVec.extractLsb'_append_eq_left, BitVec.extractLsb'_append_eq_left] at hx
  rw [BitVec.extractLsb'_append_eq_right, BitVec.extractLsb'_append_eq_right] at hy
  exact ⟨hx, hy⟩

theorem ofBool_getLsbD_eq_extractLsb' {n : Nat} (x : BitVec n) (k : Nat) : BitVec.ofBool (x.getLsbD k) = x.extractLsb' k 1 := by
  ext i hi
  obtain rfl : i = 0 := by omega
  simp

/-! ## Source fields (R56) -/

theorem srcBits_srcOf (b : BitVec 11) : srcBits (srcOf b) = b := by
  simp only [srcBits, srcOf, ofBool_getLsbD_eq_extractLsb', BitVec.extractLsb'_append_extractLsb'_eq_extractLsb']
  exact BitVec.extractLsb'_eq_self

theorem srcBits_inj {s t : Src} (h : srcBits s = srcBits t) : s = t := by
  obtain ⟨h, hnum⟩ := append_inj h
  obtain ⟨h, hlu⟩ := append_inj h
  obtain ⟨hep, hkeep⟩ := append_inj h
  rw [BitVec.ofBool_eq_iff_eq] at hep hkeep hlu
  exact (Src.mk.injEq ..).mpr ⟨hnum, hlu, hkeep, hep⟩

theorem srcOf_srcBits (s : Src) : srcOf (srcBits s) = s := srcBits_inj (srcBits_srcOf _)

/-! ## Bits [63:0] (R53) -/

/-- The fields cover bits [63:0]. -/
theorem base_fields_append (w : W64) :
    BitVec.ofBool (w.getLsbD 63) ++ w.extractLsb' 49 14 ++ w.extractLsb' 38 11 ++ w.extractLsb' 27 11 ++ w.extractLsb' 19 8 ++ w.extractLsb' 16 3 ++
      w.extractLsb' 7 9 ++ BitVec.ofBool (w.getLsbD 6) ++ w.extractLsb' 3 3 ++ BitVec.ofBool (w.getLsbD 2) ++ w.extractLsb' 0 2 = w := by
  simp only [ofBool_getLsbD_eq_extractLsb', BitVec.extractLsb'_append_extractLsb'_eq_extractLsb']
  exact BitVec.extractLsb'_eq_self

/-- The fields of bits [63:0], read back where the encoder puts them. -/
theorem baseBits_fields (op : BitVec 9) (f : Frame) :
    let w := baseBits op f
    w.extractLsb' 0 2 = f.form.len ∧ w.getLsbD 2 = f.eor ∧ w.extractLsb' 3 3 = f.guard ∧ w.getLsbD 6 = f.gneg ∧ w.extractLsb' 7 9 = op ∧
      w.extractLsb' 16 3 = f.v ∧ w.extractLsb' 19 8 = f.d ∧ w.extractLsb' 27 11 = srcBits f.a ∧ w.extractLsb' 38 11 = srcBits f.b ∧
      w.extractLsb' 49 14 = f.m ∧ w.getLsbD 63 = (f.form == .f96r) := by
  have h := base_fields_append (baseBits op f)
  obtain ⟨h, hlen⟩ := append_inj h
  obtain ⟨h, heor⟩ := append_inj h
  obtain ⟨h, hguard⟩ := append_inj h
  obtain ⟨h, hgneg⟩ := append_inj h
  obtain ⟨h, hop⟩ := append_inj h
  obtain ⟨h, hv⟩ := append_inj h
  obtain ⟨h, hd⟩ := append_inj h
  obtain ⟨h, ha⟩ := append_inj h
  obtain ⟨h, hb⟩ := append_inj h
  obtain ⟨hxk, hm⟩ := append_inj h
  rw [BitVec.ofBool_eq_iff_eq] at heor hgneg hxk
  exact ⟨hlen, heor, hguard, hgneg, hop, hv, hd, ha, hb, hm, hxk⟩

/-! ## The register extension (R60, R61) -/

/-- The fields, with the low byte and the reserved bits, cover bits [95:64]. -/
theorem rex_fields_append (x : W32) :
    x.extractLsb' 27 5 ++ x.extractLsb' 25 2 ++ x.extractLsb' 23 2 ++ x.extractLsb' 21 2 ++ x.extractLsb' 19 2 ++ x.extractLsb' 8 11 ++ x.extractLsb' 0 8 = x := by
  simp only [BitVec.extractLsb'_append_extractLsb'_eq_extractLsb']
  exact BitVec.extractLsb'_eq_self

/-- The fields of the register extension, read back where the encoder puts them. -/
theorem rexBits_fields (f : Frame) (low : BitVec 8) :
    let x := rexBits f low
    x.extractLsb' 0 8 = low ∧ x.extractLsb' 8 11 = srcBits f.c ∧ x.extractLsb' 19 2 = f.ah ∧ x.extractLsb' 21 2 = f.bh ∧ x.extractLsb' 23 2 = f.ch ∧
      x.extractLsb' 25 2 = f.dh ∧ x.extractLsb' 27 5 = 0 := by
  have h := rex_fields_append (rexBits f low)
  obtain ⟨h, hlow⟩ := append_inj h
  obtain ⟨h, hc⟩ := append_inj h
  obtain ⟨h, hah⟩ := append_inj h
  obtain ⟨h, hbh⟩ := append_inj h
  obtain ⟨h, hch⟩ := append_inj h
  obtain ⟨hzero, hdh⟩ := append_inj h
  exact ⟨hlow, hc, hah, hbh, hch, hdh, hzero⟩

end Sys2Proof
end

section
/-! PROOFS. O18: the fields of an instruction and its words (R53 to R61). -/

namespace Sys2Proof

/-! ## The form of an instruction (R50, R59) -/

theorem formOf_len (g : Form) : formOf g.len (g == .f96r) = g := by cases g <;> rfl

theorem Form.len_ne_pad (g : Form) : g.len ≠ 3 := by cases g <;> decide

/-- LEN and XK as the form gives them back, where XK is not set beside a form without it (R58). -/
theorem formOf_bits {l : BitVec 2} {xk : Bool} (hl : l ≠ 3) (hx : (xk && (formOf l xk == .f64 || formOf l xk == .f128)) = false) :
    (formOf l xk).len = l ∧ (formOf l xk == .f96r) = xk := by
  revert l xk
  decide

theorem formOf_bytes {w0 : W32} (xk : Bool) (hl : lenOf w0 ≠ 3) : (formOf (lenOf w0) xk).bytes = lenBytes w0 := by
  unfold lenBytes
  generalize lenOf w0 = l at hl
  revert l xk
  decide

/-! ## The fields of an instruction are those of its words -/

/-- What a legal frame is: no reserved bit, and no field that its form does not carry (R58 to R61). -/
structure Frame.Carried (f : Frame) : Prop where
  good : f.bad = false
  rex : f.form.hasRex = false → f.c = Src.zero ∧ f.ah = 0 ∧ f.bh = 0 ∧ f.ch = 0 ∧ f.dh = 0
  imm : f.form ≠ .f96i → f.form ≠ .f128 → f.imm = 0
  wt : f.form ≠ .f128 → f.wt = 0

theorem Shape.legal_carried {sh : Shape} {f : Frame} (h : sh.legal f = true) : f.Carried := by
  simp only [Shape.legal, Bool.and_eq_true, Bool.not_eq_true'] at h
  obtain ⟨⟨⟨⟨⟨⟨⟨⟨⟨⟨hgood, hcanon⟩, -⟩, -⟩, -⟩, -⟩, -⟩, -⟩, -⟩, -⟩, -⟩ := h
  simp only [Frame.canon, Bool.and_eq_true, Bool.or_eq_true, beq_iff_eq] at hcanon
  obtain ⟨⟨hrex, himm⟩, hwt⟩ := hcanon
  refine ⟨hgood, fun hno => ?_, fun h96 h128 => ?_, fun h128 => hwt.resolve_left h128⟩
  · obtain ⟨⟨⟨⟨hc, hah⟩, hbh⟩, hch⟩, hdh⟩ := hrex.resolve_left (by simp [hno])
    exact ⟨hc, hah, hbh, hch, hdh⟩
  · exact himm.resolve_left (not_or.2 ⟨h96, h128⟩)

theorem frame_of_wellFormed {i : Instr} (h : WellFormed i = true) : ∃ f, i.frame? = some f ∧ f.Carried := by
  unfold WellFormed Instr.legal at h
  split at h
  next sh f hs => exact ⟨f, congrArg Prod.snd hs, Shape.legal_carried h⟩
  next => cases h

/-- The fields decoded from the bits of a frame are the frame, whatever bits follow those that its form has. -/
theorem frameOf_baseBits {f : Frame} (op : BitVec 9) {x y : W32} (hf : f.Carried) (hx : f.form ≠ .f64 → x = extBits f) (hy : f.form = .f128 → y = f.imm) :
    frameOf (baseBits op f) x y = f := by
  obtain ⟨hlen, heor, hguard, hgneg, -, hv, hd, ha, hb, hm, hxk⟩ := baseBits_fields op f
  obtain ⟨hgood, hrex, himm, hwt⟩ := hf
  simp only [frameOf, hlen, heor, hguard, hgneg, hv, hd, ha, hb, hm, hxk, formOf_len, srcOf_srcBits]
  cases hform : f.form with
  | f64 =>
    obtain ⟨hc, hah, hbh, hch, hdh⟩ := hrex (by rw [hform]; rfl)
    exact (Frame.mk.injEq ..).mpr ⟨hform.symm, rfl, rfl, rfl, rfl, rfl, rfl, rfl, hc.symm, hah.symm, hbh.symm, hch.symm, hdh.symm, rfl,
      (himm (by simp [hform]) (by simp [hform])).symm, (hwt (by simp [hform])).symm, hgood.symm⟩
  | f96i =>
    obtain ⟨hc, hah, hbh, hch, hdh⟩ := hrex (by rw [hform]; rfl)
    have himm : x = f.imm := by simpa [hform, extBits] using hx
    exact (Frame.mk.injEq ..).mpr ⟨hform.symm, rfl, rfl, rfl, rfl, rfl, rfl, rfl, hc.symm, hah.symm, hbh.symm, hch.symm, hdh.symm, rfl,
      himm, (hwt (by simp [hform])).symm, hgood.symm⟩
  | f96r =>
    have hext : x = rexBits f 0 := by simpa [hform, extBits] using hx
    obtain ⟨hlow, hc, hah, hbh, hch, hdh, hzero⟩ := rexBits_fields f 0
    rw [hext, hlow, hc, hah, hbh, hch, hdh, hzero, srcOf_srcBits]
    exact (Frame.mk.injEq ..).mpr ⟨hform.symm, rfl, rfl, rfl, rfl, rfl, rfl, rfl, rfl, rfl, rfl, rfl, rfl, rfl,
      (himm (by simp [hform]) (by simp [hform])).symm, (hwt (by simp [hform])).symm, hgood.symm⟩
  | f128 =>
    have hext : x = rexBits f f.wt := by simpa [hform, extBits] using hx
    obtain ⟨hlow, hc, hah, hbh, hch, hdh, hzero⟩ := rexBits_fields f f.wt
    rw [hext, hy hform, hlow, hc, hah, hbh, hch, hdh, hzero, srcOf_srcBits]
    exact (Frame.mk.injEq ..).mpr ⟨hform.symm, rfl, rfl, rfl, rfl, rfl, rfl, rfl, rfl, rfl, rfl, rfl, rfl, rfl, rfl, rfl, hgood.symm⟩

theorem form_frameOf (w : W64) (x y : W32) : (frameOf w x y).form = formOf (w.extractLsb' 0 2) (w.getLsbD 63) := rfl

theorem imm_frameOf {w : W64} {x y : W32} (h : (frameOf w x y).form = .f128) : (frameOf w x y).imm = y := by
  rw [form_frameOf] at h
  simp only [frameOf, h]
  rfl

/-- A frame without reserved bits has the bits [63:0] that it is decoded from. -/
theorem baseBits_frameOf {w : W64} {x y : W32} (hl : w.extractLsb' 0 2 ≠ 3) (hgood : (frameOf w x y).bad = false) :
    baseBits (w.extractLsb' 7 9) (frameOf w x y) = w := by
  simp only [frameOf, Bool.or_eq_false_iff] at hgood
  obtain ⟨⟨hreserved, -⟩, -⟩ := hgood
  obtain ⟨hlen, hxk⟩ := formOf_bits hl hreserved
  refine Eq.trans ?_ (base_fields_append w)
  simp only [baseBits, frameOf, hlen, hxk, srcBits_srcOf]

theorem extBits_frameOf {w : W64} {x y : W32} (hgood : (frameOf w x y).bad = false) (h64 : (frameOf w x y).form ≠ .f64) : extBits (frameOf w x y) = x := by
  simp only [frameOf, Bool.or_eq_false_iff] at hgood
  obtain ⟨⟨-, hzero⟩, hlow⟩ := hgood
  change formOf _ _ ≠ _ at h64
  simp only [extBits, rexBits, frameOf]
  generalize formOf (w.extractLsb' 0 2) (w.getLsbD 63) = g at *
  cases g
  case f64 => exact absurd rfl h64
  case f96i => rfl
  case f96r =>
    have hzero : x.extractLsb' 27 5 = 0 := by simpa [Form.hasRex] using hzero
    have hlow : x.extractLsb' 0 8 = 0 := by simpa using hlow
    refine Eq.trans ?_ (rex_fields_append x)
    simp only [srcBits_srcOf, hzero, hlow, Form.hasRex, if_true]
    rfl
  case f128 =>
    have hzero : x.extractLsb' 27 5 = 0 := by simpa [Form.hasRex] using hzero
    refine Eq.trans ?_ (rex_fields_append x)
    simp only [srcBits_srcOf, hzero, Form.hasRex, if_true]
    rfl

end Sys2Proof
end

section
/-! PROOFS. O18: words and instructions (R53 to R61, R64). -/

namespace Sys2Proof

/-! ## Opcodes and fields (R53, R64) -/

/-- The fields of an instruction that the decoder gives are those that it was given. -/
theorem instrOf_frame? {op : BitVec 9} {f : Frame} {i : Instr} (h : instrOf op f = some i) : i.frame? = some f := by
  unfold instrOf at h
  split at h
  all_goals cases h
  all_goals
    repeat' split
    all_goals rfl

/-- The opcode of a well-formed instruction, with its fields, selects it: of the instructions that share an opcode, its field rules single out one. -/
theorem instrOf_op_frame {i : Instr} {f : Frame} (hf : i.frame? = some f) (hl : WellFormed i = true) : instrOf i.op f = some i := by
  cases i
  case waitRegs g => exact Laws.Opcode.waitRegs g f hf hl
  case waitSt g => exact Laws.Opcode.waitSt g f hf hl
  case waitAll g => exact Laws.Opcode.waitAll g f hf hl
  case tmsetRel g => exact Laws.Opcode.tmsetRel g f hf hl
  case tmsetAbs g => exact Laws.Opcode.tmsetAbs g f hf hl
  case tmsetOff g => exact Laws.Opcode.tmsetOff g f hf hl
  case oplogRetry g => exact Laws.Opcode.oplogRetry g f hf hl
  case oplogKill g => exact Laws.Opcode.oplogKill g f hf hl
  case psnclr g => exact Laws.Opcode.psnclr g f hf hl
  case psnclrReg g => exact Laws.Opcode.psnclrReg g f hf hl
  case setsr g => exact Laws.Opcode.setsr g f hf hl
  case tlbinvWrite g => exact Laws.Opcode.tlbinvWrite g f hf hl
  case errinjWrite g => exact Laws.Opcode.errinjWrite g f hf hl
  case nodeqSt g => exact Laws.Opcode.nodeqSt g f hf hl
  case nodeqMap g => exact Laws.Opcode.nodeqMap g f hf hl
  case fenceAr g => exact Laws.Opcode.fenceAr g f hf hl
  case fenceAcq g => exact Laws.Opcode.fenceAcq g f hf hl
  case fenceRel g => exact Laws.Opcode.fenceRel g f hf hl
  case fencePath g => exact Laws.Opcode.fencePath g f hf hl
  case redg g => exact Laws.Opcode.redg g f hf hl
  case redgDet g => exact Laws.Opcode.redgDet g f hf hl
  case mdrainS g => exact Laws.Opcode.mdrainS g f hf hl
  case mdrainR g => exact Laws.Opcode.mdrainR g f hf hl
  case mchk g => exact Laws.Opcode.mchk g f hf hl
  case mchkFix g => exact Laws.Opcode.mchkFix g f hf hl
  case mfenceAll g => exact Laws.Opcode.mfenceAll g f hf hl
  case mfenceRd g => exact Laws.Opcode.mfenceRd g f hf hl
  case rwaitE g => exact Laws.Opcode.rwaitE g f hf hl
  case rwaitF g => exact Laws.Opcode.rwaitF g f hf hl
  case rfree g => exact Laws.Opcode.rfree g f hf hl
  case rfreeInit g => exact Laws.Opcode.rfreeInit g f hf hl
  case cancel g => exact Laws.Opcode.cancel g f hf hl
  case cancelEnd g => exact Laws.Opcode.cancelEnd g f hf hl
  case cchk g => exact Laws.Opcode.cchk g f hf hl
  case cchkT g => exact Laws.Opcode.cchkT g f hf hl
  all_goals cases hf
  all_goals rfl

/-! ## Words -/

theorem decodeWords_eq_ok_iff {w0 w1 w2 w3 : W32} {i : Instr} :
    decodeWords w0 w1 w2 w3 = .ok i ↔ lenOf w0 ≠ 3 ∧ instrOf (opField w0) (frameOf (w1 ++ w0) w2 w3) = some i := by
  unfold decodeWords
  by_cases h : lenOf w0 = 3
  · simp [h]
  · rw [if_neg h, and_iff_right h]
    cases instrOf (opField w0) (frameOf (w1 ++ w0) w2 w3) <;> simp

/-- A word from its halves. -/
theorem halves_append (w : W64) : w.extractLsb' 32 32 ++ w.extractLsb' 0 32 = w :=
  (BitVec.extractLsb'_append_extractLsb'_eq_extractLsb' (by rfl : 32 = 0 + 32)).trans BitVec.extractLsb'_eq_self

theorem lenOf_baseBits (op : BitVec 9) (f : Frame) : lenOf ((baseBits op f).extractLsb' 0 32) = f.form.len := by
  obtain ⟨hlen, -⟩ := baseBits_fields op f
  exact (BitVec.extractLsb'_extractLsb'_of_le (by decide)).trans hlen

theorem opField_baseBits (op : BitVec 9) (f : Frame) : opField ((baseBits op f).extractLsb' 0 32) = op := by
  obtain ⟨-, -, -, -, hop, -⟩ := baseBits_fields op f
  exact (BitVec.extractLsb'_extractLsb'_of_le (by decide)).trans hop

theorem encode_of_frame? {i : Instr} {f : Frame} (h : i.frame? = some f) :
    encode i = [(baseBits i.op f).extractLsb' 0 32, (baseBits i.op f).extractLsb' 32 32, extBits f, if f.form = .f128 then f.imm else 0].take (f.form.bytes / 4) := by
  rw [encode, h]

/-- The words of an instruction, each read with a default for one that its form does not have. -/
theorem encode_getD {i : Instr} {f : Frame} (h : i.frame? = some f) (p q r : W32) :
    (encode i).getD 0 p = (baseBits i.op f).extractLsb' 0 32 ∧ (encode i).getD 1 p = (baseBits i.op f).extractLsb' 32 32 ∧
      (f.form ≠ .f64 → (encode i).getD 2 q = extBits f) ∧ (f.form = .f128 → (encode i).getD 3 r = f.imm) := by
  rw [encode_of_frame? h]
  cases hform : f.form <;> simp [Form.bytes]

/-- A well-formed instruction is what its words decode to. -/
theorem decode_encode {i : Instr} (p q r : W32) (h : WellFormed i = true) :
    decodeWords ((encode i).getD 0 p) ((encode i).getD 1 p) ((encode i).getD 2 q) ((encode i).getD 3 r) = .ok i := by
  obtain ⟨f, hf, hcarried⟩ := frame_of_wellFormed h
  obtain ⟨h0, h1, h2, h3⟩ := encode_getD hf p q r
  rw [decodeWords_eq_ok_iff, h0, h1, lenOf_baseBits, opField_baseBits, halves_append, frameOf_baseBits i.op hcarried h2 h3]
  exact ⟨f.form.len_ne_pad, instrOf_op_frame hf h⟩

/-- Words that decode to a well-formed instruction are its words. -/
theorem encode_decode {w0 w1 w2 w3 : W32} {i : Instr} (hd : decodeWords w0 w1 w2 w3 = .ok i) (h : WellFormed i = true) :
    encode i = [w0, w1, w2, w3].take (lenBytes w0 / 4) := by
  obtain ⟨hpad, hi⟩ := decodeWords_eq_ok_iff.1 hd
  have hf := instrOf_frame? hi
  obtain ⟨f, hf', hcarried⟩ := frame_of_wellFormed h
  obtain rfl : frameOf (w1 ++ w0) w2 w3 = f := Option.some.inj (hf.symm.trans hf')
  have hlow : (w1 ++ w0).extractLsb' 0 32 = w0 := BitVec.extractLsb'_append_eq_right
  have hhigh : (w1 ++ w0).extractLsb' 32 32 = w1 := BitVec.extractLsb'_append_eq_left
  have hlen : (w1 ++ w0).extractLsb' 0 2 = lenOf w0 := BitVec.extractLsb'_append_eq_of_add_le (by decide)
  have hop : i.op = (w1 ++ w0).extractLsb' 7 9 := (Machine.decodeWords_op hd).trans (BitVec.extractLsb'_append_eq_of_add_le (by decide)).symm
  have hbase : baseBits i.op (frameOf (w1 ++ w0) w2 w3) = w1 ++ w0 := by
    rw [hop]
    exact baseBits_frameOf (hlen ▸ hpad) hcarried.good
  have hbytes : (frameOf (w1 ++ w0) w2 w3).form.bytes = lenBytes w0 := by
    rw [form_frameOf, hlen]
    exact formOf_bytes _ hpad
  rw [encode_of_frame? hf, hbase, hlow, hhigh, ← hbytes]
  have hext := extBits_frameOf hcarried.good
  have himm := imm_frameOf (w := w1 ++ w0) (x := w2) (y := w3)
  cases hform : (frameOf (w1 ++ w0) w2 w3).form with
  | f64 => rfl
  | f96i | f96r =>
    rw [hext (by simp [hform])]
    rfl
  | f128 =>
    rw [hext (by simp [hform]), himm hform]
    rfl

/-- Settles O18: fields and words determine each other, the fields by their places and the reserved bits by the rule that refuses them. -/
theorem decodeEncode : Obligations.DecodeEncode :=
  ⟨fun _ p q r h => decode_encode p q r h, fun _ _ _ _ _ hd h => encode_decode hd h⟩

end Sys2Proof
end

section
/-! PROOFS. O20: a step issues the head that its words decode to (R67, R185); O19: the worked encodings. -/

namespace Sys2Proof.Machine

/-! ## A head that passes every check (R67) -/

section
variable {i : Instr} {x : Warp} {sh : Shape} {f : Frame}

theorem beyondCounts_eq_none (h : ∀ r ∈ (sh.reads f).map (·.1) ++ sh.writes f, match r with | .x n => n < x.lregs | .k n => n < x.uregs) :
    beyondCounts sh f x = none := by
  refine List.find?_eq_none.2 fun r hr => ?_
  have hdeclared := h r hr
  cases r <;> simpa using hdeclared

theorem checkFields_ok (h : WellFormed i = true ∧ (f.wt = 0 ∨ x.run = 0)) (hr : beyondCounts sh f x = none) (hrun : x.run < 23 ∨ f.eor = true) :
    checkFields i x sh f = .ok i := by
  simp only [checkFields, checkFields_legal h, hr]
  rcases hrun with hrun | heor
  · simp [Nat.not_le.2 hrun]
  · simp [heor]

/-- An instruction that a shape with fields describes is no event. -/
theorem isEvent_of_shape (h : i.shape = (sh, some f)) : isEvent i = false := by
  simp [isEvent, Instr.frame?, h]

end

/-! ## The step of a head that is fetched (R185) -/

section
variable {s : State} {x : Warp} {en : Entry} {rest : List Entry}

/-- Nothing comes before the issue of the head: the turn is that issue. -/
theorem State.turn_eq_issueHead (hw : s.warp? s.cur = some x) (hwait : x.wait = none) (hmove : x.moveDue = false) (hend : x.marks.ended = false)
    (hslot : s.holdsSlot s.cur = true) (hb : s.beforeIssue s.cur x = none) : s.turn s.cur = some (s.issueHead s.cur) := by
  have hturn : s.turnOf s.cur = some (s.issueHead s.cur) := by
    simp only [State.turnOf, hw, hslot, hend, hwait, hmove, hb]
    rfl
  simp only [State.turn, hw, hturn, hb]
  simp

theorem State.issueHead_of_fetch_ok {w : Nat} {i : Instr} (hw : s.warp? w = some x) (hx : x.hw = en :: rest) (hf : s.fetch w x en.pc = .ok i) :
    s.issueHead w = .run i (s.cacheCode w x en.pc) := by
  simp only [State.issueHead, hw, hx, hf]

theorem step_of_turn_run {i : Instr} {t : State} (ha : s.agenda = []) (ht : s.turn s.cur = some (.run i t)) : step s = issueClk i (exec i (clkOf i t)) := by
  rw [step, ha]
  simp only [ht]

end

/-- Settles O20: the checks of R67 pass one after the other, so the turn of the warp is the issue of the decoded instruction, in a clk of its own. -/
theorem stepRunsDecoded : Obligations.StepRunsDecoded := by
  intro s x en rest pte place i sh f ha hw hwait hmove hend hslot hb hx hleaf htier k w hok hl hd hs hp hrole hwf hwt hregs hrun
  have hfetch := calc s.fetch s.cur x en.pc
    _ = checkWords en.pc x (w 0) (w 1) (w 2) (w 3) := State.fetch_eq_checkWords hleaf htier hok
    _ = checkIssue i x := checkWords_decoded hl hd
    _ = checkFields i x sh f := checkIssue_past hs hp hrole
    _ = .ok i := checkFields_ok ⟨hwf, hwt⟩ (beyondCounts_eq_none hregs) hrun
  have hturn : s.turn s.cur = some (.run i (s.cacheCode s.cur x en.pc)) :=
    (State.turn_eq_issueHead hw hwait hmove hend hslot hb).trans (congrArg some (State.issueHead_of_fetch_ok hw hx hfetch))
  rw [step_of_turn_run ha hturn]
  simp only [issueClk, clkOf, isEvent_of_shape hs] <;> rfl

/-- Settles O19: each word decodes to its instruction by evaluation. -/
theorem workedEncodings : Obligations.WorkedEncodings := ⟨rfl, rfl, rfl, rfl⟩

end Sys2Proof.Machine
end

section
/-! PROOFS. The issue of lane arithmetic (R80 to R85, R97, R98): what an instruction of one result leaves, from what its result is. -/

namespace Sys2Proof.Machine

/-! ## The destination that the form of an instruction gives it (R57, R82, R83) -/

section
variable {i : Instr} {f : Frame} {vs : List Nat} {own nd na nb nc : Nat} {duOk ok : Bool}

theorem Instr.legal_of_shape {sh : Shape} (hs : i.shape = (sh, some f)) (h : WellFormed i = true) : sh.legal f = true := by
  simpa only [WellFormed, Instr.legal, hs] using h

/-- Every bit of M that is set is one that the instruction defines (R58). -/
theorem Shape.legal_bit {sh : Shape} (h : sh.legal f = true) {k : Nat} (hk : f.bit k = true) : sh.mDef.testBit k = true := by
  simp only [Shape.legal, Bool.and_eq_true, beq_iff_eq] at h
  have hm : f.m.toNat ||| sh.mDef = sh.mDef := by tauto
  rw [← hm, Nat.testBit_or, BitVec.testBit_toNat, ← Frame.bit, hk, Bool.true_or]

theorem Shape.legal_ok {sh : Shape} (h : sh.legal f = true) : sh.ok = true := by
  simp only [Shape.legal, Bool.and_eq_true] at h
  tauto

theorem Form.alu_mDef_du : (Form.alu f vs own nd na nb nc duOk ok).mDef.testBit 10 = (own.testBit 10 || duOk) := by
  have hclass : ∀ (p : Prop) [Decidable p] (n : Nat), n.testBit 10 = false → (if p then 0 else n).testBit 10 = false := by
    intro p _ n hn
    split
    · rfl
    · exact hn
  have hdu : (if duOk then 0x400 else 0).testBit 10 = duOk := by cases duOk <;> rfl
  simp only [Form.alu, Nat.testBit_or, hclass _ 0x800 rfl, hclass _ 0x3000 rfl, hclass _ 0x300 rfl, hdu, Bool.or_false]

/-- DU is set only where the instruction has a uniform destination. -/
theorem Form.alu_du (hown : own.testBit 10 = false) (h : (Form.alu f vs own nd na nb nc duOk ok).legal f = true) : (duOk && f.du) = f.du := by
  cases hdu : f.du with
  | false => exact Bool.and_false _
  | true => simpa [Form.alu_mDef_du, hown] using Shape.legal_bit h hdu

theorem Form.alu_type (h : (Form.alu f vs own nd na nb nc duOk ok).legal f = true) : f.vn ∈ vs := by
  have hok := Shape.legal_ok h
  simp only [Form.alu, Bool.and_eq_true, List.contains_iff_mem] at hok
  exact hok.1.1.1.2

/-- A legal `i` has the fields `f`, and the destination of a result that `wd` says is 64 bits wide. -/
def PlacesResult (i : Instr) (f : Frame) (wd : Bool) : Prop :=
  ∀ sh, i.shape = (sh, some f) → WellFormed i = true → sh.d = Form.sel f.du (if wd then 2 else 1)

theorem PlacesResult.of_alu {wd : Bool} (hs : i.shape = (Form.alu f vs own nd na nb nc duOk ok, some f)) (hown : own.testBit 10 = false)
    (hnd : f.vn ∈ vs → nd = if wd then 2 else 1) : PlacesResult i f wd := by
  intro sh hsh hwf
  obtain rfl : Form.alu f vs own nd na nb nc duOk ok = sh := congrArg Prod.fst (hs.symm.trans hsh)
  have hl := Instr.legal_of_shape hs hwf
  rw [← hnd (Form.alu_type hl), ← Form.alu_du hown hl]
  rfl

theorem Instr.type_of_alu (hs : i.shape = (Form.alu f vs own nd na nb nc duOk ok, some f)) (hwf : WellFormed i = true) : f.vn ∈ vs :=
  Form.alu_type (Instr.legal_of_shape hs hwf)

end

/-! ## The end of an instruction on registers -/

section
variable {i : Instr} {s : State} {x : Warp} {e : Entry} {sh : Shape} {f : Frame}

/-- The bit of M that selects a uniform destination is read as the form defines it (R58, R82). -/
theorem Ready.du_defined (h : Ready i s x e sh f) : (f.du && sh.mDef &&& 0x400 != 0) = f.du := by
  cases hdu : f.du with
  | false => rfl
  | true =>
    have hbit := Shape.legal_bit (Instr.legal_of_shape h.form h.legal) hdu
    have hne : sh.mDef &&& 0x400 ≠ 0 := fun h0 => by
      have hand : (sh.mDef &&& 0x400).testBit 10 = false := by rw [h0]; rfl
      rw [Nat.testBit_and, hbit] at hand
      exact absurd hand (by decide)
    simpa using hne

/-- What the body made of the warp is still there when the instruction has retired. -/
theorem Ready.retires {z : Warp} (h : Ready i s x e sh f) (hz : Wrote x z e sh f) :
    ∃ y, Passes s ((s.setWarp s.cur z).retire s.cur f true) x y e sh f ∧ y.still = z.still ∧ y.x = z.x ∧ y.k = z.k :=
  ⟨_, h.passes hz, Warp.retired_still .., Warp.retired_x .., Warp.retired_k ..⟩

theorem still_preds {y z : Warp} (h : y.still = z.still) : y.preds = z.preds := (congrArg Warp.preds h : _)
theorem still_fp {y z : Warp} (h : y.still = z.still) : y.fp = z.fp := (congrArg Warp.fp h : _)

theorem LaneHolds.congr {y z : Warp} {act : Mask} {n : Nat} {v : Fin 32 → W32} {t : Mask} (h : LaneHolds x z sh f act n v t) (hx : y.x = z.x) :
    LaneHolds x y sh f act n v t := h.keep (by rw [hx])

theorem DestHolds.congr {y z : Warp} {act : Mask} {du pair : Bool} {v : Fin 32 → W64} {t : Mask} {u : W64 → W64}
    (h : DestHolds x z sh f act du pair v t u) (hx : y.x = z.x) (hk : y.k = z.k) : DestHolds x y sh f act du pair v t u := by
  unfold DestHolds UniHolds at h ⊢
  rw [hk]
  cases du with
  | true => exact h
  | false => exact ⟨h.1.congr hx, fun hp hn => (h.2 hp hn).congr hx⟩

theorem PredHolds.congr {y z : Warp} {act : Mask} {n : Nat} {v : Fin 32 → Bool} {t : Mask} (h : PredHolds x z act n v t) (hp : y.preds = z.preds) :
    PredHolds x y act n v t := by
  unfold PredHolds Warp.pred at h ⊢
  rw [hp]
  exact h

/-! ## Results of one function of the operands -/

/-- The operands as `State.alu` reads them: zero where the instruction does not name one. -/
def Warp.named (b : Bool) (o : Opr) : Opr := if b then o else { val := fun _ => 0, tag := 0 }

/-- An integer instruction of one result passes, and its destination holds the function of its operands (R80 to R85). -/
theorem Ready.alu (h : Ready i s x e sh f) (hact : x.active f e ≠ 0) {wd : Bool} (hd : PlacesResult i f wd) (wa wb wc signed na nb nc : Bool)
    (g : W64 → W64 → W64 → W64) (u : W64 → W64) :
    ∃ t y, s.alu i wa wb wc wd signed na nb nc (fun _ => g) u = .next t ∧ Passes s t x y e sh f ∧ y.still = x.still ∧
      DestHolds x y sh f (x.active f e) f.du wd
        (fun l => g ((Warp.named na (x.oprA f wa signed)).val l) ((Warp.named nb (x.oprB f wb signed)).val l)
          ((Warp.named nc (x.oprC f wc signed)).val l))
        ((Warp.named na (x.oprA f wa signed)).tag ||| (Warp.named nb (x.oprB f wb signed)).tag ||| (Warp.named nc (x.oprC f wc signed)).tag) u := by
  obtain ⟨y, hp, hs, hr⟩ := h.result hact f.du wd (hd sh h.form h.legal) h.du_defined _ _ u
  refine ⟨_, y, ?_, hp, hs, hr⟩
  rw [State.alu, h.issueOnce, if_neg hact]
  rfl

end

/-- Only legal instructions are ready. -/
theorem computes_of_legal {i : Instr} {f : Frame} {n : Nat} {wa wb wc signed wd : Bool} {u : W64 → W64} {P : W64 → W64 → W64 → W64 → Prop}
    (h : WellFormed i = true → Computes i f n wa wb wc signed wd u P) : Computes i f n wa wb wc signed wd u P :=
  fun s x e sh hr => h hr.legal s x e sh hr

/-- An instruction that `State.alu` executes computes what its function of the first `n` operands meets. -/
theorem computes_of_alu {i : Instr} {f : Frame} {n : Nat} {wa wb wc wd signed : Bool} {u : W64 → W64} {P : W64 → W64 → W64 → W64 → Prop}
    (g : W64 → W64 → W64 → W64)
    (hexec : ∀ s, exec i s = s.alu i wa wb wc wd signed (decide (1 ≤ n)) (decide (2 ≤ n)) (decide (3 ≤ n)) (fun _ => g) u)
    (hd : PlacesResult i f wd)
    (hP : WellFormed i = true → ∀ a b c, P a b c (g (if 1 ≤ n then a else 0) (if 2 ≤ n then b else 0) (if 3 ≤ n then c else 0))) :
    Computes i f n wa wb wc signed wd u P := by
  intro s x e sh h hact
  obtain ⟨t, y, he, hp, hs, hr⟩ := h.alu hact hd wa wb wc signed (decide (1 ≤ n)) (decide (2 ≤ n)) (decide (3 ≤ n)) g u
  refine ⟨t, y, fun l => g (if 1 ≤ n then (x.oprA f wa signed).val l else 0) (if 2 ≤ n then (x.oprB f wb signed).val l else 0)
    (if 3 ≤ n then (x.oprC f wc signed).val l else 0), (hexec s).trans he, hp, hs, fun l => hP h.legal _ _ _, ?_⟩
  simpa only [Taint, Warp.named, decide_eq_true_eq, apply_ite Opr.tag, apply_ite Opr.val, ite_apply] using hr

end Sys2Proof.Machine
end

section
/-! PROOFS. Integer arithmetic (R12, R80, R88 to R91): values of a type, exact results reduced to it, carries, products and sums over elements. -/

namespace Sys2Proof.Machine

/-! ## Values of a type (R12, R80) -/

theorem sextN_eq_bmod (v n : Nat) : sextN v n = (v : Int).bmod (2 ^ n) := by
  have hint : (v : Int).bmod (2 ^ n) = (BitVec.ofNat n v).toInt := by
    rw [BitVec.toInt_eq_toNat_bmod, BitVec.toNat_ofNat, Int.natCast_mod, Int.emod_bmod]
  rw [hint, BitVec.toInt_eq_toNat_cond, BitVec.toNat_ofNat, sextN]
  rcases n with _ | n
  · simp [Nat.mod_one]
  · have hp : 2 ^ (n + 1) = 2 * 2 ^ n := Nat.pow_succ'
    rw [Nat.add_sub_cancel]
    by_cases h : 2 ^ n ≤ v % 2 ^ (n + 1)
    · rw [if_pos h, if_neg (by omega)]
      norm_cast
    · rw [if_neg h, if_pos (by omega)]
      norm_cast

theorem sextN_eq_toInt {n : Nat} (a : BitVec n) : sextN a.toNat n = a.toInt := by
  rw [sextN_eq_bmod, BitVec.toInt_eq_toNat_bmod]

theorem sextN_mod (v n : Nat) : sextN (v % 2 ^ n) n = sextN v n := by simp [sextN]

theorem satI_mem {lo hi : Int} (x : Int) (h : lo ≤ hi) : lo ≤ satI x lo hi ∧ satI x lo hi ≤ hi := by
  unfold satI
  split_ifs <;> omega

theorem satI_eq_max_min {lo hi : Int} (x : Int) (h : lo ≤ hi) : satI x lo hi = max lo (min x hi) := by
  unfold satI
  split_ifs <;> omega

/-- The value of a type that is congruent to an integer (R80). -/
def tyReduce (v : Nat) (t : Int) : Int := if tySigned v then sextN (t % 2 ^ tyWidth v).toNat (tyWidth v) else (t % 2 ^ tyWidth v).toNat

theorem tyFit_eq (v : Nat) (sat : Bool) (t : Int) :
    tyFit v sat t = BitVec.ofInt 64 (tyReduce v (if sat then satI t (tyMin v) (tyMax v) else t)) := rfl

theorem two_pow_tyWidth (v : Nat) : (2 : Int) ^ tyWidth v = 2 * 2 ^ (tyWidth v - 1) ∧ (1 : Int) ≤ 2 ^ (tyWidth v - 1) := by
  have h : 0 < tyWidth v := by unfold tyWidth; split <;> decide
  exact ⟨(mul_pow_sub_one h.ne' 2).symm, one_le_pow₀ (by decide)⟩

theorem tyReduce_signed {v : Nat} (hv : tySigned v = true) (t : Int) : tyReduce v t = t.bmod (2 ^ tyWidth v) := by
  have hp : (0 : Int) < 2 ^ tyWidth v := by positivity
  rw [tyReduce, if_pos hv, sextN_eq_bmod, Int.toNat_of_nonneg (Int.emod_nonneg _ hp.ne')]
  simpa using Int.emod_bmod t (2 ^ tyWidth v)

theorem tyReduce_unsigned {v : Nat} (hv : tySigned v = false) (t : Int) : tyReduce v t = t % 2 ^ tyWidth v := by
  have hp : (0 : Int) < 2 ^ tyWidth v := by positivity
  rw [tyReduce, hv, if_neg Bool.false_ne_true, Int.toNat_of_nonneg (Int.emod_nonneg _ hp.ne')]

theorem tyReduce_mem (v : Nat) (t : Int) : tyMin v ≤ tyReduce v t ∧ tyReduce v t ≤ tyMax v := by
  obtain ⟨hp, h1⟩ := two_pow_tyWidth v
  cases hv : tySigned v with
  | true =>
    have hlo := @Int.le_bmod t (2 ^ tyWidth v) (by positivity)
    have hhi := @Int.bmod_lt t (2 ^ tyWidth v) (by positivity)
    push_cast at hlo hhi
    simp only [tyReduce_signed hv, tyMin, tyMax, hv, if_true]
    omega
  | false =>
    have hlo := Int.emod_nonneg t (b := 2 ^ tyWidth v) (by omega)
    have hhi := Int.emod_lt_of_pos t (b := 2 ^ tyWidth v) (by omega)
    simp only [tyReduce_unsigned hv, tyMin, tyMax, hv, Bool.false_eq_true, if_false]
    omega

theorem tyReduce_congr (v : Nat) (t : Int) : (tyReduce v t - t) % 2 ^ tyWidth v = 0 := by
  cases hv : tySigned v with
  | true =>
    rw [tyReduce_signed hv, Int.emod_eq_zero_of_dvd]
    have h := @Int.dvd_bmod_sub_self t (2 ^ tyWidth v)
    push_cast at h
    exact h
  | false =>
    rw [tyReduce_unsigned hv, Int.emod_eq_zero_of_dvd]
    exact Int.dvd_emod_sub_self

/-- A value of the type is its own reduction. -/
theorem tyReduce_of_mem {v : Nat} {t : Int} (hlo : tyMin v ≤ t) (hhi : t ≤ tyMax v) : tyReduce v t = t := by
  obtain ⟨hp, h1⟩ := two_pow_tyWidth v
  cases hv : tySigned v with
  | true =>
    simp only [tyMin, tyMax, hv, if_true] at hlo hhi
    rw [tyReduce_signed hv]
    refine Int.bmod_eq_of_le ?_ ?_ <;> push_cast <;> omega
  | false =>
    simp only [tyMin, tyMax, hv, Bool.false_eq_true, if_false] at hlo hhi
    rw [tyReduce_unsigned hv, Int.emod_eq_of_lt hlo (by omega)]

theorem tyMin_le_tyMax (v : Nat) : tyMin v ≤ tyMax v := (tyReduce_mem v 0).1.trans (tyReduce_mem v 0).2

/-- Values of a type of at most 32 bits are values of a 64-bit word. -/
theorem ty_bounds {v : Nat} (hv : v ∈ Form.i832) : -2 ^ 31 ≤ tyMin v ∧ tyMax v ≤ 2 ^ 32 - 1 := by
  revert v
  decide

/-- The exact result, clamped or reduced to its type, in 64 bits (R80). -/
theorem tyFit_fitsType {v : Nat} (hv : v ∈ Form.i832) (sat : Bool) (t : Int) : FitsType v sat t (tyFit v sat t) := by
  obtain ⟨hmin, hmax⟩ := ty_bounds hv
  obtain ⟨hlo, hhi⟩ := tyReduce_mem v (if sat then satI t (tyMin v) (tyMax v) else t)
  have hint : (tyFit v sat t).toInt = tyReduce v (if sat then satI t (tyMin v) (tyMax v) else t) := by
    rw [tyFit_eq, BitVec.toInt_ofInt]
    exact Int.bmod_eq_of_le (by omega) (by omega)
  refine ⟨hint ▸ hlo, hint ▸ hhi, ?_⟩
  rw [hint]
  cases sat with
  | true =>
    obtain ⟨h1, h2⟩ := satI_mem t (tyMin_le_tyMax v)
    exact tyReduce_of_mem h1 h2
  | false => exact tyReduce_congr v t

/-! ## Arithmetic (R88) -/

/-- An instruction of typed arithmetic computes its exact result in its type. -/
theorem computes_of_intOp {i : Instr} {f : Frame} {n : Nat} {sat sat' : Bool} {g g' : Int → Int → Int → Int}
    (hexec : ∀ s, exec i s = s.intOp i f (decide (2 ≤ n)) (decide (3 ≤ n)) sat' g') (hn : decide (1 ≤ n) = true)
    {own na nb nc : Nat} {duOk ok : Bool} {vs : List Nat} (hs : i.shape = (Form.alu f vs own 1 na nb nc duOk ok, some f))
    (hown : own.testBit 10 = false) (hvs : ∀ v ∈ vs, v ∈ Form.i832) (hsat : sat = (sat' && f.bit 0))
    (hg : ∀ a b c : W64, g' (tyVal f.vn (if 1 ≤ n then a else 0)) (tyVal f.vn (if 2 ≤ n then b else 0)) (tyVal f.vn (if 3 ≤ n then c else 0)) =
      g (tyVal f.vn a) (tyVal f.vn b) (tyVal f.vn c)) :
    Computes i f n false false false (tySigned f.vn) false id
      fun a b c r => FitsType f.vn sat (g (tyVal f.vn a) (tyVal f.vn b) (tyVal f.vn c)) r := by
  refine computes_of_alu (fun a b c => tyFit f.vn (sat' && f.bit 0) (g' (tyVal f.vn a) (tyVal f.vn b) (tyVal f.vn c)))
    (fun s => ?_) (.of_alu hs hown fun _ => rfl) fun hwf a b c => ?_
  · rw [hexec, hn]; rfl
  · rw [hg, ← hsat]
    exact tyFit_fitsType (hvs _ (Instr.type_of_alu hs hwf)) _ _

theorem ite_neg_eq_abs (a : Int) : (if a < 0 then -a else a) = |a| := by
  split
  · next h => exact (abs_of_neg h).symm
  · next h => exact (abs_of_nonneg (not_lt.1 h)).symm

theorem ite_lt_eq_min (a b : Int) : (if b < a then b else a) = min a b := by omega
theorem ite_lt_eq_max (a b : Int) : (if a < b then b else a) = max a b := by omega

/-- Settles O1: each instruction is typed arithmetic on a function that is the exact one. -/
theorem integerArithmetic : Obligations.IntegerArithmetic := by
  intro f i sat n g hm
  have all : ∀ v ∈ Form.i832, v ∈ Form.i832 := fun _ h => h
  have signed : ∀ v ∈ [0, 2, 4], v ∈ Form.i832 := by decide
  simp only [List.mem_cons, Prod.mk.injEq, List.not_mem_nil, or_false] at hm
  rcases hm with ⟨rfl, hsat, rfl, hg⟩ | ⟨rfl, hsat, rfl, hg⟩ | ⟨rfl, hsat, rfl, hg⟩ | ⟨rfl, hsat, rfl, hg⟩ | ⟨rfl, hsat, rfl, hg⟩ | ⟨rfl, hsat, rfl, hg⟩ |
    ⟨rfl, hsat, rfl, hg⟩ | ⟨rfl, hsat, rfl, hg⟩ | ⟨rfl, hsat, rfl, hg⟩
  · exact computes_of_intOp (fun s => exec_iadd f s) rfl rfl rfl all hsat fun _ _ _ => hg ▸ rfl
  · exact computes_of_intOp (fun s => exec_isub f s) rfl rfl rfl all hsat fun _ _ _ => hg ▸ rfl
  · exact computes_of_intOp (fun s => exec_ineg f s) rfl rfl rfl signed hsat fun _ _ _ => hg ▸ rfl
  · exact computes_of_intOp (fun s => exec_iabs f s) rfl rfl rfl signed hsat fun _ _ _ => hg ▸ ite_neg_eq_abs _
  · exact computes_of_intOp (fun s => exec_imin f s) rfl rfl rfl all hsat fun _ _ _ => hg ▸ ite_lt_eq_min _ _
  · exact computes_of_intOp (fun s => exec_imax f s) rfl rfl rfl all hsat fun _ _ _ => hg ▸ ite_lt_eq_max _ _
  · exact computes_of_intOp (fun s => exec_imul f s) rfl rfl rfl all hsat fun _ _ _ => hg ▸ rfl
  · exact computes_of_intOp (fun s => exec_imad f s) rfl rfl rfl all hsat fun _ _ _ => hg ▸ rfl
  · refine computes_of_intOp (fun s => exec_clampi f s) rfl rfl rfl all hsat fun a b c => hg ▸ ?_
    exact (ite_lt_eq_min _ _).trans (congrArg (min · _) (ite_lt_eq_max _ _))

end Sys2Proof.Machine
end

section
/-! PROOFS. Carry chains (R89), products (R90) and sums over packed elements (R91). -/

namespace Sys2Proof.Machine

/-! ## A lane result with a carry (R84, R89) -/

section
variable {i : Instr} {s : State} {x : Warp} {e : Entry} {sh : Shape} {f : Frame}

theorem Warp.putPred_eq (x : Warp) (n : Nat) (m v : Mask) : x.putPred n m v = { x with preds := (x.putPred n m v).preds } := by
  unfold Warp.putPred
  split <;> rfl

/-- Predicates are beside the registers and the flow of a warp. -/
theorem Wrote.withPreds {z : Warp} (hz : Wrote x z e sh f) (ps : Vector Mask 7) : Wrote x { z with preds := ps } e sh f :=
  ⟨hz.hw, hz.run, hz.wait, hz.owner, ⟨hz.regs.lanes, hz.regs.unis⟩, hz.flaws⟩

/-- An instruction passes whose body has at last written a predicate. -/
theorem Ready.retiresPred {z : Warp} (h : Ready i s x e sh f) (hz : Wrote x z e sh f) (hp : z.preds = x.preds) (n : Nat) (v : Fin 32 → Bool) (t : Mask) :
    ∃ y, Passes s ((s.setWarp s.cur (z.putPred n (x.active f e) (maskOf v &&& ~~~t))).retire s.cur f true) x y e sh f ∧
      y.still = { z.still with preds := y.preds } ∧ y.x = z.x ∧ PredHolds x y (x.active f e) n v t := by
  have hpred := PredHolds.put hp (x.active f e) n v t
  rw [Warp.putPred_eq] at hpred ⊢
  obtain ⟨y, hp, hys, hyx, -⟩ := h.retires (hz.withPreds (z.putPred n (x.active f e) (maskOf v &&& ~~~t)).preds)
  refine ⟨y, hp, ?_, hyx, hpred.congr (still_preds hys)⟩
  rw [hys, still_preds hys]
  rfl

/-- The warp in whose lane register a result has been put. -/
def Warp.withLane (x : Warp) (act : Mask) (n : Nat) (v : Fin 32 → W32) (t : Mask) (stamp : Nat) : Warp :=
  x.putLane n act (fun l => if t.getLsbD l.val then poison32 else v l) t stamp

theorem Ready.writeLane_opened (_ : Ready i s x e sh f) (hact : x.active f e ≠ 0) (v : Fin 32 → W32) (t : Mask) :
    (s.sees x e sh f).writeLane (s.opened x e sh f) f.xd v t =
      s.setWarp s.cur ((x.opened e sh f s.clock).withLane (x.active f e) f.xd v t s.clock) :=
  Issue.writeLane_setWarp (s.sees x e sh f) s _ _ _ _ hact

/-- A ready instruction with a lane destination writes it, and it holds the result. -/
theorem Ready.withLane_wrote (h : Ready i s x e sh f) (hd : sh.d = .lane 1) (v : Fin 32 → W32) (t : Mask) :
    let z := (x.opened e sh f s.clock).withLane (x.active f e) f.xd v t s.clock
    Wrote x z e sh f ∧ z.still = x.still ∧ LaneHolds x z sh f (x.active f e) f.xd v t := by
  have hmem : f.xd ≠ 255 → Reg.x f.xd ∈ sh.writes f := fun h1 => mem_writes_lane hd (j := 0) (by decide) h1 h1
  exact ⟨h.lanePut f.xd hmem _ _ _ h.wrote, (Warp.putLane_same ..).still.trans (Warp.opened_same ..).still, LaneHolds.put (Warp.opened_lbind ..) _ _ _ _⟩

/-- A carry instruction passes; its lane register and its predicate hold the two digits, the carry-in as it was at issue. -/
theorem Ready.carryOp (h : Ready i s x e sh f) (hact : x.active f e ≠ 0) (hd : sh.d = .lane 1) (g : W32 → W32 → Bool → W32 × Bool) :
    let a := x.oprA f false false
    let b := x.oprB f false false
    let r := fun l : Fin 32 => g ((a.val l).setWidth 32) ((b.val l).setWidth 32) ((x.pred (f.mf 0 3)).getLsbD l.val != f.bit 6)
    ∃ t y, s.carryOp i g = .next t ∧ Passes s t x y e sh f ∧ y.still = { x.still with preds := y.preds } ∧
      LaneHolds x y sh f (x.active f e) f.xd (fun l => (r l).1) (a.tag ||| b.tag) ∧
      PredHolds x y (x.active f e) (f.mf 3 3) (fun l => (r l).2) (a.tag ||| b.tag) := by
  intro a b r
  obtain ⟨hz, hstill, hlane⟩ := h.withLane_wrote hd (fun l => (r l).1) (a.tag ||| b.tag)
  obtain ⟨y, hp, hys, hyx, hpred⟩ := h.retiresPred hz (still_preds hstill) (f.mf 3 3) (fun l => (r l).2) (a.tag ||| b.tag)
  refine ⟨_, y, ?_, hp, hstill ▸ hys, hlane.congr hyx, hpred⟩
  rw [State.carryOp, h.issueOnce, if_neg hact]
  exact congrArg (fun t : State => Host.Outcome.next (t.retire s.cur f true))
    ((congrArg (Issue.writePred _ · _ _ _) (h.writeLane_opened hact _ _)).trans (Issue.writePred_setWarp (s.sees x e sh f) s _ _ _ _))

end

theorem addCarry_digits (a b : W32) (c : Bool) :
    (addCarry a b c).1.toNat + (if (addCarry a b c).2 then 2 ^ 32 else 0) = a.toNat + b.toNat + c.toNat := by
  have hc := c.toNat_le
  simp only [addCarry, BitVec.toNat_ofNat, decide_eq_true_eq]
  split <;> omega

theorem subBorrow_digits (a b : W32) (c : Bool) :
    ((subBorrow a b c).1.toNat : Int) - (if (subBorrow a b c).2 then 2 ^ 32 else 0) = (a.toNat : Int) - b.toNat - c.toNat := by
  have hc : (if c then 1 else 0 : W32).toNat = c.toNat := by cases c <;> rfl
  have hc1 := c.toNat_le
  simp only [subBorrow, BitVec.toNat_sub, hc, decide_eq_true_eq]
  split <;> omega

/-- R89 for either carry instruction. -/
theorem carryChains (f : Frame) (i : Instr) (add : Bool) (hi : (i = .iaddc f ∧ add = true) ∨ (i = .isubb f ∧ add = false)) :
   ∀ s x e sh, Ready i s x e sh f → x.active f e ≠ 0 →
     let a := x.oprA f false false
     let b := x.oprB f false false
     ∃ t y r o, exec i s = .next t ∧ Passes s t x y e sh f ∧ y.still = { x.still with preds := y.preds } ∧
       LaneHolds x y sh f (x.active f e) f.xd r (a.tag ||| b.tag) ∧ PredHolds x y (x.active f e) (f.mf 3 3) o (a.tag ||| b.tag) ∧
       ∀ l : Fin 32,
         let u := ((a.val l).toNat % 2 ^ 32 : Nat)
         let v := ((b.val l).toNat % 2 ^ 32 : Nat)
         let c : Nat := if (x.pred (f.mf 0 3)).getLsbD l.val != f.bit 6 then 1 else 0
         if add then (r l).toNat + (if o l then 2 ^ 32 else 0) = u + v + c
         else ((r l).toNat : Int) - (if o l then 2 ^ 32 else 0) = (u : Int) - v - c := by
  intro s x e sh h hact a b
  have hc : ∀ c : Bool, (if c then 1 else 0 : Nat) = c.toNat := fun c => by cases c <;> rfl
  rcases hi with ⟨rfl, rfl⟩ | ⟨rfl, rfl⟩
  · have hd : sh.d = .lane 1 := congrArg (fun p : Shape × Option Frame => p.1.d) h.form.symm
    obtain ⟨t, y, he, hp, hs, hl, hq⟩ := h.carryOp hact hd addCarry
    refine ⟨t, y, _, _, (exec_iaddc f s).trans he, hp, hs, hl, hq, fun l => ?_⟩
    simp only [if_true, hc, ← BitVec.toNat_setWidth]
    exact addCarry_digits _ _ _
  · have hd : sh.d = .lane 1 := congrArg (fun p : Shape × Option Frame => p.1.d) h.form.symm
    obtain ⟨t, y, he, hp, hs, hl, hq⟩ := h.carryOp hact hd subBorrow
    refine ⟨t, y, _, _, (exec_isubb f s).trans he, hp, hs, hl, hq, fun l => ?_⟩
    simp only [Bool.false_eq_true, if_false, hc, ← BitVec.toNat_setWidth]
    exact subBorrow_digits _ _ _

/-! ## Results in the low half of a word (R90, R91) -/

theorem toNat_low_ofInt (t : Int) : (((BitVec.ofInt 64 t).setWidth 32).toNat : Int) = t % 2 ^ 32 := by
  rw [BitVec.toNat_setWidth, BitVec.toNat_ofInt]
  omega

theorem toNat_ofInt_word (t : Int) : ((BitVec.ofInt 64 t).toNat : Int) = t % 2 ^ 64 := by
  rw [BitVec.toNat_ofInt]
  omega

theorem toInt_low_ofInt {t : Int} (hlo : -2 ^ 31 ≤ t) (hhi : t ≤ 2 ^ 31 - 1) : ((BitVec.ofInt 64 t).setWidth 32).toInt = t := by
  have hn := toNat_low_ofInt t
  rw [BitVec.toInt_eq_toNat_cond]
  split <;> omega

theorem sumBelow_eq (g : Nat → Int) (n : Nat) : sumBelow g n = ((List.range n).map g).sum := by
  induction n with
  | zero => rfl
  | succ n ih => rw [sumBelow, ih, List.range_succ, List.map_append, List.sum_append]; simp

/-- The result of `isad` before it is cut to 32 bits. -/
def isadResult (v : Nat) (a b c : W64) : W64 :=
  BitVec.ofInt 64 ((c.setWidth 32).toNat + sumBelow (fun j =>
    let d := elem (tySigned v) (tyWidth v) j a - elem (tySigned v) (tyWidth v) j b
    if d < 0 then -d else d) (32 / tyWidth v))

theorem isadResult_low (v : Nat) (a b c : W64) : (((isadResult v a b c).setWidth 32).toNat : Int) =
    (c.toNat + ((List.range (32 / tyWidth v)).map fun j => |elem (tySigned v) (tyWidth v) j a - elem (tySigned v) (tyWidth v) j b|).sum) % 2 ^ 32 := by
  rw [isadResult, toNat_low_ofInt, BitVec.toNat_setWidth]
  simp only [sumBelow_eq, ite_neg_eq_abs]
  omega

/-- The accumulator of a dot product (R91). -/
theorem dotAcc_eq (signed : Bool) (c : W64) :
    (if signed then sextN c.toNat 32 else (c.toNat % 2 ^ 32 : Nat)) =
      if signed then (c.setWidth 32).toInt else ((c.setWidth 32).toNat : Int) := by
  rw [← sextN_eq_toInt, BitVec.toNat_setWidth, sextN_mod]

/-- The value of a dot product before it is saturated or reduced (R91). -/
def dotSum (f : Frame) (n : Nat) (signed : Bool) (a b c : W64) : Int :=
  (if signed then (c.setWidth 32).toInt else ((c.setWidth 32).toNat : Int)) +
    ((List.range (32 / n)).map fun j => elem signed n j a * elem (signed && !f.bit 1) n j b).sum

/-- A sum saturated to 32 bits, or reduced to them. -/
theorem satSum_low (sat signed : Bool) (t : Int) :
    let r := BitVec.ofInt 64 (if sat then (if signed then satI t (-2 ^ 31) (2 ^ 31 - 1) else satI t 0 (2 ^ 32 - 1)) else t)
    if sat then (if signed then (r.setWidth 32).toInt = max (-2 ^ 31) (min t (2 ^ 31 - 1))
      else (((r.setWidth 32).toNat : Int) = max 0 (min t (2 ^ 32 - 1))))
    else (((r.setWidth 32).toNat : Int) = t % 2 ^ 32) := by
  cases sat with
  | false => exact toNat_low_ofInt t
  | true =>
    cases signed with
    | true =>
      obtain ⟨hlo, hhi⟩ := satI_mem t (lo := -2 ^ 31) (hi := 2 ^ 31 - 1) (by decide)
      exact (toInt_low_ofInt hlo hhi).trans (satI_eq_max_min t (by decide))
    | false =>
      obtain ⟨hlo, hhi⟩ := satI_mem t (lo := 0) (hi := 2 ^ 32 - 1) (by decide)
      refine (toNat_low_ofInt _).trans ((Int.emod_eq_of_lt hlo ?_).trans (satI_eq_max_min t (by decide)))
      exact lt_of_le_of_lt hhi (by decide)

/-- A dot product, saturated to its type or reduced to 32 bits (R91). -/
theorem computes_of_dotOp {i : Instr} {f : Frame} {n : Nat} {signed : Bool} (hexec : ∀ s, exec i s = s.dotOp i f n signed) (hd : PlacesResult i f false) :
    Computes i f 3 false false false signed false id fun a b c r =>
      if f.bit 0 then (if signed then (r.setWidth 32).toInt = max (-2 ^ 31) (min (dotSum f n signed a b c) (2 ^ 31 - 1))
        else (((r.setWidth 32).toNat : Int) = max 0 (min (dotSum f n signed a b c) (2 ^ 32 - 1))))
      else (((r.setWidth 32).toNat : Int) = dotSum f n signed a b c % 2 ^ 32) := by
  refine computes_of_alu (fun a b c => BitVec.ofInt 64 (if f.bit 0 then (if signed then satI (dotSum f n signed a b c) (-2 ^ 31) (2 ^ 31 - 1)
    else satI (dotSum f n signed a b c) 0 (2 ^ 32 - 1)) else dotSum f n signed a b c)) (fun s => ?_) hd fun _ a b c => satSum_low _ _ _
  simp only [hexec, State.dotOp, dotAcc_eq, sumBelow_eq]
  rfl

/-- Settles O2: the two digits of a carry chain, and products and sums that `State.alu` puts in their place. -/
theorem carriesWideAndPacked : Obligations.CarriesWideAndPacked := by
  refine ⟨carryChains, fun f => ⟨?_, ?_, ?_, ?_⟩⟩
  · exact computes_of_alu _ (exec_imulhi f) (.of_alu rfl rfl fun _ => rfl) fun _ a b c => toNat_low_ofInt _
  · exact computes_of_alu _ (exec_imadw f) (.of_alu rfl rfl fun _ => rfl) fun _ a b c => toNat_ofInt_word _
  · exact computes_of_alu (isadResult f.vn) (exec_isad f) (.of_alu rfl rfl fun _ => rfl) fun _ => isadResult_low f.vn
  · rintro i n (⟨rfl, rfl⟩ | ⟨rfl, rfl⟩)
    · refine computes_of_legal fun hwf => ?_
      have hv : f.vn ∈ [4, 5] := Instr.type_of_alu rfl hwf
      have hs : (f.vn == 4) = tySigned f.vn := by revert hv; generalize f.vn = v; revert v; decide
      exact computes_of_dotOp (fun s => by rw [← hs]; exact exec_dot4 f s) (.of_alu rfl rfl fun _ => rfl)
    · refine computes_of_legal fun hwf => ?_
      have hv : f.vn ∈ [0, 1] := Instr.type_of_alu rfl hwf
      have hs : (f.vn == 0) = tySigned f.vn := by revert hv; generalize f.vn = v; revert v; decide
      exact computes_of_dotOp (fun s => by rw [← hs]; exact exec_dot8 f s) (.of_alu rfl rfl fun _ => rfl)

end Sys2Proof.Machine
end

section
/-! PROOFS. Shifts and rotations (R92). -/

namespace Sys2Proof.Machine

/-! ## Shifts of a value of a type -/

theorem tyWidth_pos (v : Nat) : 0 < tyWidth v := by unfold tyWidth; split <;> decide
theorem tyWidth_le (v : Nat) : tyWidth v ≤ 64 := by unfold tyWidth; split <;> decide

theorem sextN_mem (v : Nat) {n : Nat} (hn : 0 < n) : -2 ^ (n - 1) ≤ sextN v n ∧ sextN v n < 2 ^ (n - 1) := by
  have hp : (2 : Int) ^ n = 2 * 2 ^ (n - 1) := (mul_pow_sub_one hn.ne' 2).symm
  have hlo := @Int.le_bmod v (2 ^ n) (by positivity)
  have hhi := @Int.bmod_lt v (2 ^ n) (by positivity)
  push_cast at hlo hhi
  rw [sextN_eq_bmod]
  omega

/-- The sign-extended value of a word that holds an integer of `n` bits. -/
theorem sextN_ofInt {n : Nat} (hn : 0 < n) (h64 : n ≤ 64) {t : Int} (hlo : -2 ^ (n - 1) ≤ t) (hhi : t < 2 ^ (n - 1)) :
    sextN (BitVec.ofInt 64 t).toNat n = t := by
  have hp : (2 : Int) ^ n = 2 * 2 ^ (n - 1) := (mul_pow_sub_one hn.ne' 2).symm
  have hdvd : (2 ^ n : Nat) ∣ 2 ^ 64 := pow_dvd_pow 2 h64
  rw [sextN_eq_bmod, ← Int.bmod_bmod_of_dvd hdvd, ← BitVec.toInt_eq_toNat_bmod, BitVec.toInt_ofInt, Int.bmod_bmod_of_dvd hdvd]
  exact Int.bmod_eq_of_le (by push_cast; omega) (by push_cast; omega)

theorem shl_low {n k : Nat} (hn : n ≤ 64) (a : Nat) :
    (BitVec.ofInt 64 (if n ≤ k then 0 else (a % 2 ^ n * 2 ^ k % 2 ^ n : Nat))).toNat % 2 ^ n = a * 2 ^ k % 2 ^ n := by
  have hdvd : 2 ^ n ∣ 2 ^ 64 := pow_dvd_pow 2 hn
  split
  · next h => exact (Nat.mod_eq_zero_of_dvd (Dvd.dvd.mul_left (pow_dvd_pow 2 h) a)).symm
  · rw [BitVec.ofInt_natCast, BitVec.toNat_ofNat, Nat.mod_mod_of_dvd _ hdvd, Nat.mod_mod, Nat.mod_mul_mod]

theorem shr_low {n k : Nat} (hn : n ≤ 64) (a : Nat) :
    (BitVec.ofInt 64 (if n ≤ k then 0 else (a % 2 ^ n / 2 ^ k : Nat))).toNat % 2 ^ n = a % 2 ^ n / 2 ^ k := by
  have ha : a % 2 ^ n < 2 ^ n := Nat.mod_lt _ (by positivity)
  split
  · next h => exact (Nat.div_eq_of_lt (ha.trans_le (Nat.pow_le_pow_right (by decide) h))).symm
  · rw [BitVec.ofInt_natCast, BitVec.toNat_ofNat, Nat.mod_mod_of_dvd _ (pow_dvd_pow 2 hn), Nat.mod_eq_of_lt ((Nat.div_le_self _ _).trans_lt ha)]

/-- A shift of `n` bits by `n` or more leaves the sign, as one by `n` does. -/
theorem ediv_two_pow_of_le {z : Int} {n k : Nat} (hlo : -2 ^ n ≤ z) (hhi : z < 2 ^ n) (h : n ≤ k) : z / 2 ^ k = z / 2 ^ n := by
  have hpow : (2 : Int) ^ n ≤ 2 ^ k := pow_le_pow_right₀ (by decide) h
  have hpos : (0 : Int) < 2 ^ n := by positivity
  rcases lt_or_ge z 0 with hz | hz
  · rw [Int.ediv_eq_neg_one_of_neg_of_le hz (by omega), Int.ediv_eq_neg_one_of_neg_of_le hz (by omega)]
  · rw [Int.ediv_eq_zero_of_lt hz (by omega), Int.ediv_eq_zero_of_lt hz hhi]

theorem ediv_mem {z m : Int} {d : Int} (hd : 0 < d) (hlo : -m ≤ z) (hhi : z < m) : -m ≤ z / d ∧ z / d < m := by
  constructor
  · rw [Int.le_ediv_iff_mul_le hd]; nlinarith
  · rw [Int.ediv_lt_iff_lt_mul hd]; nlinarith

theorem sar_value {n k : Nat} (hn : 0 < n) (h64 : n ≤ 64) (a : Nat) :
    sextN (BitVec.ofInt 64 (sextN (a % 2 ^ n) n / 2 ^ (if n ≤ k then n else k))).toNat n = sextN a n / 2 ^ k := by
  obtain ⟨hlo, hhi⟩ := sextN_mem a hn
  have hshift : sextN a n / 2 ^ (if n ≤ k then n else k) = sextN a n / 2 ^ k := by
    split
    · next h =>
      have hpow : (2 : Int) ^ (n - 1) ≤ 2 ^ n := pow_le_pow_right₀ (by decide) (Nat.sub_le n 1)
      exact (ediv_two_pow_of_le (by omega) (by omega) h).symm
    · rfl
  rw [sextN_mod, hshift]
  obtain ⟨h1, h2⟩ := ediv_mem (d := 2 ^ k) (by positivity) hlo hhi
  exact sextN_ofInt hn h64 h1 h2

/-- A shift of a value of its type is a result of two operands in the destination of that type. -/
theorem computes_of_shiftOp {i : Instr} {f : Frame} {g : Nat → Nat → Nat → Int} {P : W64 → W64 → W64 → Prop}
    (hexec : ∀ s, exec i s = s.shiftOp i f g) {vs : List Nat} {own na nb nc : Nat} {duOk ok : Bool}
    (hs : i.shape = (Form.alu f vs own (Form.tw f.vn) na nb nc duOk ok, some f)) (hown : own.testBit 10 = false)
    (hP : ∀ a b : W64, P a b (BitVec.ofInt 64 (g (tyWidth f.vn) (a.toNat % 2 ^ tyWidth f.vn) (b.toNat % 256)))) :
    let wide := decide (f.vn = 6 ∨ f.vn = 7)
    Computes i f 2 wide false false (tySigned f.vn) wide (if wide then id else ext32 (tySigned f.vn)) fun a b _ r => P a b r :=
  computes_of_alu (fun a b _ => BitVec.ofInt 64 (g (tyWidth f.vn) (a.toNat % 2 ^ tyWidth f.vn) (b.toNat % 256))) hexec
    (.of_alu hs hown fun _ => by simp [Form.tw]) fun _ a b _ => hP a b

/-! ## The funnel shift -/

theorem toNat_append32 (a b : W32) : (a ++ b : W64).toNat = a.toNat * 2 ^ 32 + b.toNat := by
  rw [BitVec.toNat_append, ← Nat.shiftLeft_add_eq_or_of_lt b.isLt, Nat.shiftLeft_eq]

/-- The result of `shf`. -/
def shfResult (right : Bool) (a b c : W64) : W64 :=
  let k := Nat.min (shamt c) 32
  let w := a.toNat % 2 ^ 32 * 2 ^ 32 + b.toNat % 2 ^ 32
  BitVec.ofNat 64 (if right then w / 2 ^ k % 2 ^ 32 else w * 2 ^ k / 2 ^ 32 % 2 ^ 32)

theorem shfResult_low (right : Bool) (a b c : W64) :
    let w : W64 := a.setWidth 32 ++ b.setWidth 32
    let m := min (c.toNat % 256) 32
    (shfResult right a b c).setWidth 32 = if right then (w >>> m).setWidth 32 else (w <<< m).extractLsb' 32 32 := by
  intro w m
  have hw : w.toNat = a.toNat % 2 ^ 32 * 2 ^ 32 + b.toNat % 2 ^ 32 := by
    rw [toNat_append32, BitVec.toNat_setWidth, BitVec.toNat_setWidth]
  apply BitVec.eq_of_toNat_eq
  cases right with
  | true =>
    simp only [shfResult, if_true, BitVec.toNat_setWidth, BitVec.toNat_ofNat, BitVec.toNat_ushiftRight, Nat.shiftRight_eq_div_pow, hw]
    exact (Nat.mod_mod_of_dvd _ (by decide)).trans (Nat.mod_mod _ _)
  | false =>
    simp only [shfResult, Bool.false_eq_true, if_false, BitVec.toNat_setWidth, BitVec.toNat_ofNat, BitVec.extractLsb'_toNat, BitVec.toNat_shiftLeft,
      Nat.shiftRight_eq_div_pow, Nat.shiftLeft_eq, hw]
    have hm : Nat.min (shamt c) 32 = m := rfl
    rw [hm]
    generalize (a.toNat % 2 ^ 32 * 2 ^ 32 + b.toNat % 2 ^ 32) * 2 ^ m = p
    omega

/-! ## Rotation -/

def rotResult (right : Bool) (a b : W64) : W64 :=
  ((if right then (a.setWidth 32).rotateRight (b.toNat % 256 % 32) else (a.setWidth 32).rotateLeft (b.toNat % 256 % 32)) : W32).setWidth 64

theorem rotResult_bit (right : Bool) (a b : W64) (j : Nat) (hj : j < 32) :
    (rotResult right a b).getLsbD j = a.getLsbD ((if right then j + b.toNat % 256 else j + 32 - b.toNat % 256 % 32) % 32) := by
  have hk : b.toNat % 256 % 32 < 32 := Nat.mod_lt _ (by decide)
  have hj64 : j < 64 := by omega
  cases right with
  | true =>
    simp only [rotResult, if_true, BitVec.getLsbD_setWidth, BitVec.getLsbD_rotateRight, hj64, decide_true, Bool.true_and, Nat.mod_mod,
      Bool.cond_decide]
    split
    · rw [show (j + b.toNat % 256) % 32 = b.toNat % 256 % 32 + j by omega]
      simp only [show b.toNat % 256 % 32 + j < 32 by omega, decide_true, Bool.true_and]
    · rw [show (j + b.toNat % 256) % 32 = j - (32 - b.toNat % 256 % 32) by omega]
      simp only [show j - (32 - b.toNat % 256 % 32) < 32 by omega, hj, decide_true, Bool.true_and]
  | false =>
    simp only [rotResult, Bool.false_eq_true, if_false, BitVec.getLsbD_setWidth, BitVec.getLsbD_rotateLeft, hj64, decide_true, Bool.true_and, Nat.mod_mod,
      Bool.cond_decide]
    split
    · rw [show (j + 32 - b.toNat % 256 % 32) % 32 = 32 - b.toNat % 256 % 32 + j by omega]
      simp only [show 32 - b.toNat % 256 % 32 + j < 32 by omega, decide_true, Bool.true_and]
    · rw [show (j + 32 - b.toNat % 256 % 32) % 32 = j - b.toNat % 256 % 32 by omega]
      simp only [show j - b.toNat % 256 % 32 < 32 by omega, hj, decide_true, Bool.true_and]

/-- Settles O3: shifts of the value of a type, the funnel shift of a pair of words, and rotations bit by bit. -/
theorem shifts : Obligations.Shifts := by
  intro f
  have hn := tyWidth_le f.vn
  refine ⟨?_, ?_, ?_, ?_, ?_⟩
  · exact computes_of_shiftOp (exec_shl f) rfl rfl fun a b => shl_low hn a.toNat
  · exact computes_of_shiftOp (exec_shr f) rfl rfl fun a b => shr_low hn a.toNat
  · exact computes_of_shiftOp (exec_sar f) rfl rfl fun a b => sar_value (tyWidth_pos _) hn a.toNat
  · exact computes_of_alu (shfResult (f.bit 0)) (exec_shf f) (.of_alu rfl rfl fun _ => rfl) fun _ => shfResult_low (f.bit 0)
  · exact computes_of_alu (fun a b _ => rotResult (f.bit 0) a b) (exec_rot f) (.of_alu rfl rfl fun _ => rfl) fun _ a b _ => rotResult_bit (f.bit 0) a b

end Sys2Proof.Machine
end

section
/-! PROOFS. Logic and bit counts (R93), bit fields, bytes and extension (R94, R96), bit by bit. -/

namespace Sys2Proof.Machine

/-! ## Numbers by their bits -/

theorem ofBits_lt (g : Nat → Bool) (n : Nat) : ofBits g n < 2 ^ n := by
  induction n with
  | zero => exact Nat.one_pos
  | succ n ih =>
    rw [ofBits, Nat.pow_succ]
    split <;> omega

theorem testBit_ofBits (g : Nat → Bool) (n j : Nat) : (ofBits g n).testBit j = (decide (j < n) && g j) := by
  induction n with
  | zero => simp [ofBits]
  | succ n ih =>
    have hsum : ofBits g n + (if g n then 2 ^ n else 0) = 2 ^ n * (g n).toNat + ofBits g n := by cases g n <;> simp [Nat.add_comm]
    rw [ofBits, hsum, Nat.testBit_two_pow_mul_add _ (ofBits_lt g n), ih]
    rcases Nat.lt_trichotomy j n with h | rfl | h
    · simp [h, Nat.lt_succ_of_lt h]
    · cases g j <;> simp
    · have hne : ¬ j < n := by omega
      have hne1 : ¬ j < n + 1 := by omega
      have hlt : (g n).toNat < 2 ^ (j - n) := lt_of_le_of_lt (Bool.toNat_le _) (Nat.one_lt_two_pow (by omega))
      simp [hne, hne1, Nat.testBit_lt_two_pow hlt]

/-- The bits of a word built bit by bit. -/
theorem getLsbD_ofBits {n : Nat} (g : Nat → Bool) {j : Nat} (hj : j < n) (hn : n ≤ 64) : (BitVec.ofNat 64 (ofBits g n)).getLsbD j = g j := by
  rw [BitVec.getLsbD_ofNat, testBit_ofBits]
  simp [hj, hj.trans_le hn]

/-- A sign-extended number repeats its highest bit. -/
theorem getLsbD_ofInt_sextN (w x : Nat) {n j : Nat} (hn : 0 < n) (hj : j < w) : (BitVec.ofInt w (sextN x n)).getLsbD j = x.testBit (min j (n - 1)) := by
  have hext : BitVec.ofInt w (sextN x n) = (BitVec.ofNat n x).signExtend w := by
    rw [BitVec.signExtend, ← sextN_eq_toInt, BitVec.toNat_ofNat, sextN_mod]
  rw [hext, BitVec.getLsbD_signExtend, BitVec.msb_eq_getLsbD_last, BitVec.getLsbD_ofNat, BitVec.getLsbD_ofNat]
  by_cases h : j < n
  · rw [Nat.min_eq_left (by omega)]; simp [h, hj]
  · rw [Nat.min_eq_right (by omega)]; simp [h, hj, hn]

/-! ## Logic and counts (R93) -/

/-- The 64-bit type of R93, R95 and R96 takes a pair. -/
theorem wide_of_word {v : Nat} (h : v ∈ [1, 7]) : Form.tw v = if v == 7 then 2 else 1 := by
  revert v
  decide

/-- A word of logic is a result of two operands in the destination of their type. -/
theorem computes_of_logicOp {i : Instr} {f : Frame} {g : W64 → W64 → W64} {b : Bool → Bool → Bool}
    (hexec : ∀ s, exec i s = s.logicOp i f g) {own na nb nc : Nat} {duOk ok : Bool}
    (hs : i.shape = (Form.alu f [1, 7] own (Form.tw f.vn) na nb nc duOk ok, some f)) (hown : own.testBit 10 = false)
    (hg : ∀ (u v : W64) (j : Nat), (g u v).getLsbD j = b (u.getLsbD j) (v.getLsbD j)) :
    Computes i f 2 (f.vn == 7) (f.vn == 7) false false (f.vn == 7) (if f.vn == 7 then id else ext32 false)
      fun u v _ r => ∀ j : Nat, j < tyWidth f.vn → r.getLsbD j = b (u.getLsbD j) (v.getLsbD j) :=
  computes_of_alu (fun u v _ => g u v) hexec (.of_alu hs hown wide_of_word) fun _ u v _ j _ => hg u v j

theorem getLsbD_lop3 (f : Frame) (a b c : W64) (j : Nat) (hj : j < 32) :
    (lop3 (f.mf 0 8) a b c).getLsbD j = f.m.getLsbD ((a.getLsbD j).toNat + 2 * (b.getLsbD j).toNat + 4 * (c.getLsbD j).toNat) := by
  have ha := (a.getLsbD j).toNat_le
  have hb := (b.getLsbD j).toNat_le
  have hc := (c.getLsbD j).toNat_le
  rw [lop3, getLsbD_ofBits _ hj (by decide), Frame.mf, Nat.testBit_mod_two_pow, Nat.shiftRight_zero, BitVec.testBit_toNat,
    decide_eq_true (by omega), Bool.true_and]

theorem popcount_eq (a : W64) (n : Nat) : popcount a n = ((List.range n).filter fun j => a.getLsbD j).length := by
  induction n with
  | zero => rfl
  | succ n ih =>
    rw [popcount, ih, List.range_succ, List.filter_append, List.length_append]
    cases h : a.getLsbD n <;> simp [h]

theorem popcount_le (a : W64) (n : Nat) : popcount a n ≤ n := by
  rw [popcount_eq]
  exact (List.length_filter_le _ _).trans (List.length_range).le

theorem leadZeros_spec (a : W64) (n : Nat) :
    leadZeros a n ≤ n ∧ (∀ j : Nat, j < n → n ≤ j + leadZeros a n → a.getLsbD j = false) ∧
      (leadZeros a n < n → a.getLsbD (n - 1 - leadZeros a n) = true) := by
  induction n with
  | zero => exact ⟨le_rfl, fun j h => absurd h (Nat.not_lt_zero j), fun h => absurd h (Nat.lt_irrefl 0)⟩
  | succ n ih =>
    rw [leadZeros]
    cases hn : a.getLsbD n with
    | true =>
      rw [if_pos rfl]
      exact ⟨Nat.zero_le _, fun j _ _ => by omega, fun _ => hn⟩
    | false =>
      obtain ⟨hle, hzero, hone⟩ := ih
      rw [if_neg Bool.false_ne_true]
      refine ⟨by omega, fun j hj h => ?_, fun h => ?_⟩
      · rcases Nat.lt_succ_iff_lt_or_eq.1 hj with hlt | rfl
        · exact hzero j hlt (by omega)
        · exact hn
      · rw [show n + 1 - 1 - (leadZeros a n + 1) = n - 1 - leadZeros a n by omega]
        exact hone (by omega)

theorem trailZeros_spec (a : W64) (n : Nat) {k : Nat} (hk : k ≤ n) :
    trailZeros a n k ≤ k ∧ (∀ j : Nat, j < trailZeros a n k → a.getLsbD (n - k + j) = false) ∧
      (trailZeros a n k < k → a.getLsbD (n - k + trailZeros a n k) = true) := by
  induction k with
  | zero => exact ⟨le_rfl, fun j h => absurd h (Nat.not_lt_zero j), fun h => absurd h (Nat.lt_irrefl 0)⟩
  | succ k ih =>
    rw [trailZeros]
    cases hn : a.getLsbD (n - (k + 1)) with
    | true => exact ⟨Nat.zero_le _, fun j h => absurd h (Nat.not_lt_zero j), fun _ => hn⟩
    | false =>
      obtain ⟨hle, hzero, hone⟩ := ih (by omega)
      rw [if_neg Bool.false_ne_true]
      refine ⟨by omega, fun j hj => ?_, fun h => ?_⟩
      · rcases j with _ | j
        · exact hn
        · rw [show n - (k + 1) + (j + 1) = n - k + j by omega]
          exact hzero j (by omega)
      · rw [show n - (k + 1) + (trailZeros a n k + 1) = n - k + trailZeros a n k by omega]
        exact hone (by omega)

theorem toNat_count {m n : Nat} (hm : m ≤ n) (hn : n ≤ 64) : (BitVec.ofNat 64 m).toNat = m :=
  Nat.mod_eq_of_lt (lt_of_le_of_lt (hm.trans hn) (by decide))

/-- A count of bits is a 32-bit result of one operand. -/
theorem computes_of_countOp {i : Instr} {f : Frame} {g : Nat → W64 → Nat} {P : Nat → W64 → Nat → Prop} (hexec : ∀ s, exec i s = s.countOp i f g)
    {own na nb nc : Nat} {duOk ok : Bool} {vs : List Nat} (hs : i.shape = (Form.alu f vs own 1 na nb nc duOk ok, some f)) (hown : own.testBit 10 = false)
    (hle : ∀ n a, g n a ≤ n) (hP : ∀ n a, P n a (g n a)) :
    Computes i f 1 (f.vn == 7) false false false false id fun a _ _ r => P (tyWidth f.vn) a r.toNat := by
  refine computes_of_alu (fun a _ _ => BitVec.ofNat 64 (g (tyWidth f.vn) a)) hexec (.of_alu hs hown fun _ => rfl) fun _ a _ _ => ?_
  have hcount := toNat_count (hle (tyWidth f.vn) a) (tyWidth_le f.vn)
  exact hcount.symm ▸ hP (tyWidth f.vn) a

/-! ## Fields (R94) -/

/-- The bits of a field of a word, its low 32 bits read. -/
theorem testBit_field (a : W64) (lo n j : Nat) :
    (a.toNat % 2 ^ 32 / 2 ^ lo % 2 ^ n).testBit j = (decide (j < n) && (decide (lo + j < 32) && a.getLsbD (lo + j))) := by
  rw [Nat.testBit_mod_two_pow, ← Nat.shiftRight_eq_div_pow, Nat.testBit_shiftRight, Nat.testBit_mod_two_pow, BitVec.testBit_toNat]

/-- The result of `bfx` of bits `lo` to `hi`. -/
def bfxResult (signed : Bool) (lo hi : Nat) (a : W64) : W64 :=
  if hi < lo then 0
  else
    let n := hi - lo + 1
    let x := a.toNat % 2 ^ 32 / 2 ^ lo % 2 ^ n
    BitVec.ofInt 64 (if signed then sextN x n else x)

theorem getLsbD_bfxResult (signed : Bool) {lo hi : Nat} (hhi : hi < 32) (a : W64) {j : Nat} (hj : j < 32) :
    (bfxResult signed lo hi a).getLsbD j = if hi < lo then false else if lo + j ≤ hi then a.getLsbD (lo + j) else signed && a.getLsbD hi := by
  unfold bfxResult
  split
  · exact BitVec.getLsbD_zero
  next hlo =>
    have hj64 : j < 64 := by omega
    dsimp only
    cases signed with
    | true =>
      rw [if_pos rfl, getLsbD_ofInt_sextN _ _ (Nat.succ_pos _) hj64, testBit_field]
      split
      · next h => rw [Nat.min_eq_left (by omega)]; simp [show j < hi - lo + 1 by omega, show lo + j < 32 by omega]
      · next h =>
        rw [Nat.min_eq_right (by omega), show lo + (hi - lo + 1 - 1) = hi by omega]
        simp [hhi]
    | false =>
      rw [if_neg Bool.false_ne_true, BitVec.ofInt_natCast, BitVec.getLsbD_ofNat, testBit_field]
      split
      · next h => simp [hj64, show j < hi - lo + 1 by omega, show lo + j < 32 by omega]
      · next h => simp [show ¬ j < hi - lo + 1 by omega]

/-- The result of `bfi` at bits `lo` to `hi`. -/
def bfiResult (lo hi : Nat) (a c : W64) : W64 :=
  if hi < lo then c
  else
    let m : W64 := BitVec.ofNat 64 ((2 ^ (hi - lo + 1) - 1) * 2 ^ lo)
    (c &&& ~~~m) ||| ((a <<< lo) &&& m)

/-- Ones at `n` places from `lo` on. -/
theorem getLsbD_ones (n lo : Nat) {j : Nat} (hj : j < 64) : (BitVec.ofNat 64 ((2 ^ n - 1) * 2 ^ lo)).getLsbD j = decide (lo ≤ j ∧ j < lo + n) := by
  rw [BitVec.getLsbD_ofNat, Nat.testBit_mul_two_pow, Nat.testBit_two_pow_sub_one, decide_eq_true hj, Bool.true_and, ← Bool.decide_and]
  exact decide_eq_decide.2 (by omega)

theorem getLsbD_bfiResult (lo hi : Nat) (a c : W64) {j : Nat} (hj : j < 32) :
    (bfiResult lo hi a c).getLsbD j = if lo ≤ j ∧ j ≤ hi then a.getLsbD (j - lo) else c.getLsbD j := by
  have hj64 : j < 64 := by omega
  unfold bfiResult
  split
  · rw [if_neg (by omega)]
  · simp only [BitVec.getLsbD_or, BitVec.getLsbD_and, BitVec.getLsbD_not, BitVec.getLsbD_shiftLeft, getLsbD_ones _ _ hj64, hj64, decide_true, Bool.true_and]
    by_cases h : lo ≤ j ∧ j ≤ hi
    · rw [if_pos h, decide_eq_true (by omega)]
      simp [show ¬ j < lo by omega]
    · rw [if_neg h, decide_eq_false (by omega)]
      simp

/-! ## Bytes (R94) -/

theorem prmtByte_lt (src sel j : Nat) : prmtByte src sel j < 256 := by
  unfold prmtByte
  extract_lets c b
  have hb : b < 256 := Nat.mod_lt _ (by decide)
  split
  · exact hb
  · decide
  · split <;> decide
  · decide

/-- Byte `j` of four bytes in a word. -/
theorem extract_bytes (g : Nat → Nat) (hg : ∀ j, g j < 256) {j : Nat} (hj : j < 4) :
    (BitVec.ofNat 64 (g 0 + 256 * g 1 + 65536 * g 2 + 16777216 * g 3)).extractLsb' (8 * j) 8 = BitVec.ofNat 8 (g j) := by
  have h0 := hg 0
  have h1 := hg 1
  have h2 := hg 2
  have h3 := hg 3
  apply BitVec.eq_of_toNat_eq
  rw [BitVec.extractLsb'_toNat, BitVec.toNat_ofNat, BitVec.toNat_ofNat, Nat.shiftRight_eq_div_pow]
  interval_cases j <;> omega

/-- The selector of a byte of `prmt`, and the byte that it selects. -/
theorem prmtByte_eq (w c : W64) {j : Nat} (hj : j < 4) :
    let sel := c.extractLsb' (8 * j) 8
    let byte := w.extractLsb' (8 * (sel.toNat % 8)) 8
    BitVec.ofNat 8 (prmtByte w.toNat (c.toNat % 2 ^ 32) j) = match sel.toNat / 8 % 4 with
      | 0 => byte
      | 1 => 0
      | 2 => if byte.msb then 0xFF else 0
      | _ => 0xFF := by
  intro sel byte
  have hsel : c.toNat % 2 ^ 32 / 256 ^ j % 256 = sel.toNat := by
    rw [BitVec.extractLsb'_toNat, Nat.shiftRight_eq_div_pow]
    interval_cases j <;> omega
  have hbyte : w.toNat / 256 ^ (sel.toNat % 8) % 256 = byte.toNat := by
    rw [show byte.toNat = w.toNat >>> (8 * (sel.toNat % 8)) % 2 ^ 8 from rfl, Nat.shiftRight_eq_div_pow, show 256 = 2 ^ 8 by rfl, ← pow_mul]
  simp only [prmtByte, hsel, hbyte, BitVec.msb_eq_decide]
  have hmode : sel.toNat / 8 % 4 < 4 := Nat.mod_lt _ (by decide)
  generalize sel.toNat / 8 % 4 = mode at hmode
  interval_cases mode
  · exact (BitVec.ofNat_toNat 8 byte).trans (BitVec.setWidth_eq byte)
  · rfl
  · by_cases h : 128 ≤ byte.toNat <;> simp [h]
  · rfl

def prmtResult (a b c : W64) : W64 :=
  let src := b.toNat % 2 ^ 32 * 2 ^ 32 + a.toNat % 2 ^ 32
  let byte := prmtByte src (c.toNat % 2 ^ 32)
  BitVec.ofNat 64 (byte 0 + 256 * byte 1 + 65536 * byte 2 + 16777216 * byte 3)

theorem prmtResult_byte (a b c : W64) (j : Nat) (hj : j < 4) :
    let sel := c.extractLsb' (8 * j) 8
    let w : W64 := b.setWidth 32 ++ a.setWidth 32
    let byte := w.extractLsb' (8 * (sel.toNat % 8)) 8
    (prmtResult a b c).extractLsb' (8 * j) 8 = match sel.toNat / 8 % 4 with
      | 0 => byte
      | 1 => 0
      | 2 => if byte.msb then 0xFF else 0
      | _ => 0xFF := by
  intro sel w
  have hw : w.toNat = b.toNat % 2 ^ 32 * 2 ^ 32 + a.toNat % 2 ^ 32 := by
    rw [toNat_append32, BitVec.toNat_setWidth, BitVec.toNat_setWidth]
  rw [prmtResult, ← hw]
  exact (extract_bytes _ (prmtByte_lt w.toNat _) hj).trans (prmtByte_eq w c hj)

/-! ## Extension by a variable amount (R96) -/

/-- The result of `sext` and `zext`. -/
def extResult (signed : Bool) (a b : W64) : W64 :=
  let n := b.toNat % 256
  let x := a.toNat % 2 ^ 32
  let r : W32 := if n = 0 then 0 else if 32 ≤ n then BitVec.ofNat 32 x
    else if signed then BitVec.ofInt 32 (sextN x n) else BitVec.ofNat 32 (x % 2 ^ n)
  if signed then r.signExtend 64 else r.setWidth 64

theorem getLsbD_extend (signed : Bool) (r : W32) {j : Nat} (hj : j < 64) :
    (if signed then r.signExtend 64 else r.setWidth 64).getLsbD j = if j < 32 then r.getLsbD j else signed && r.getLsbD 31 := by
  cases signed with
  | true =>
    rw [if_pos rfl, BitVec.getLsbD_signExtend, BitVec.msb_eq_getLsbD_last]
    simp [hj]
  | false =>
    rw [if_neg Bool.false_ne_true, BitVec.getLsbD_setWidth]
    split
    · simp [hj]
    · next h => simp [BitVec.getLsbD_of_ge r j (by omega)]

theorem getLsbD_extResult (signed : Bool) (a b : W64) (j : Nat) (hj : j < 64) :
    let n := min (b.toNat % 256) 32
    (extResult signed a b).getLsbD j = if n = 0 then false else if j < n then a.getLsbD j else signed && a.getLsbD (n - 1) := by
  intro n
  have hlow : ∀ k, (a.toNat % 2 ^ 32).testBit k = (decide (k < 32) && a.getLsbD k) := fun k => by
    rw [Nat.testBit_mod_two_pow, BitVec.testBit_toNat]
  unfold extResult
  simp only [getLsbD_extend _ _ hj]
  by_cases h0 : b.toNat % 256 = 0
  · simp [h0, n]
  rw [if_neg h0, if_neg (by omega : ¬ n = 0)]
  by_cases h32 : 32 ≤ b.toNat % 256
  · have hn : n = 32 := by omega
    simp only [if_pos h32, hn, BitVec.getLsbD_ofNat, hlow]
    split <;> simp_all
  have hn : n = b.toNat % 256 := by omega
  have h32n : ¬ 32 ≤ n := by omega
  simp only [← hn, if_neg h32n]
  cases signed with
  | true =>
    rw [if_pos rfl, getLsbD_ofInt_sextN 32 _ (by omega) (by decide : 31 < 32), hlow, Nat.min_eq_right (by omega), decide_eq_true (by omega)]
    by_cases hjn : j < n
    · rw [if_pos (by omega), if_pos hjn, getLsbD_ofInt_sextN 32 _ (by omega) (by omega), hlow, Nat.min_eq_left (by omega), decide_eq_true (by omega),
        Bool.true_and]
    · rw [if_neg hjn]
      split
      · rw [getLsbD_ofInt_sextN 32 _ (by omega) (by omega), hlow, Nat.min_eq_right (by omega), decide_eq_true (by omega)]
      · rfl
  | false =>
    simp only [Bool.false_eq_true, if_false, Bool.false_and, BitVec.getLsbD_ofNat, Nat.testBit_mod_two_pow, BitVec.testBit_toNat]
    by_cases hjn : j < n
    · simp [hjn, show j < 32 by omega]
    · simp [hjn]

/-- An extension is a result of two 32-bit operands in the destination of its type. -/
theorem computes_of_extOp {i : Instr} {f : Frame} {signed : Bool} (hexec : ∀ s, exec i s = s.extOp i f signed)
    {own na nb nc : Nat} {duOk ok : Bool} {vs : List Nat} (hs : i.shape = (Form.alu f vs own (Form.tw f.vn) na nb nc duOk ok, some f))
    (hown : own.testBit 10 = false) :
    Computes i f 2 false false false signed (decide (f.vn = 6 ∨ f.vn = 7)) id fun a b _ r => ∀ j : Nat, j < 64 →
      let n := min (b.toNat % 256) 32
      r.getLsbD j = if n = 0 then false else if j < n then a.getLsbD j else signed && a.getLsbD (n - 1) :=
  computes_of_alu (fun a b _ => extResult signed a b) hexec (.of_alu hs hown fun _ => by simp [Form.tw]) fun _ a b _ => getLsbD_extResult signed a b

/-- Settles O4: each result by its bits. -/
theorem logicFieldsAndBytes : Obligations.LogicFieldsAndBytes := by
  refine ⟨fun f => ⟨?_, ?_, ?_, ?_, ?_, ?_⟩, fun f => ⟨?_, ?_, ?_, ?_⟩⟩
  · intro i g hm
    simp only [List.mem_cons, Prod.mk.injEq, List.not_mem_nil, or_false] at hm
    rcases hm with ⟨rfl, rfl⟩ | ⟨rfl, rfl⟩ | ⟨rfl, rfl⟩
    · exact computes_of_logicOp (exec_and f) rfl rfl fun u v j => BitVec.getLsbD_and
    · exact computes_of_logicOp (exec_or f) rfl rfl fun u v j => BitVec.getLsbD_or
    · exact computes_of_logicOp (exec_xor f) rfl rfl fun u v j => BitVec.getLsbD_xor
  · exact computes_of_alu (fun a b c => lop3 (f.mf 0 8) a b c) (exec_lop3 f) (.of_alu rfl rfl fun _ => rfl) fun _ => getLsbD_lop3 f
  · exact computes_of_countOp (P := fun n a c => c = ((List.range n).filter fun j => a.getLsbD j).length) (exec_popc f) rfl rfl
      (fun n a => popcount_le a n) fun n a => popcount_eq a n
  · exact computes_of_countOp (P := fun n a c => c ≤ n ∧ (∀ j : Nat, j < n → n ≤ j + c → a.getLsbD j = false) ∧ (c < n → a.getLsbD (n - 1 - c) = true))
      (exec_clz f) rfl rfl (fun n a => (leadZeros_spec a n).1) fun n a => leadZeros_spec a n
  · refine computes_of_countOp (P := fun n a c => c ≤ n ∧ (∀ j : Nat, j < c → a.getLsbD j = false) ∧ (c < n → a.getLsbD c = true))
      (exec_ctz f) rfl rfl (fun n a => (trailZeros_spec a n le_rfl).1) fun n a => ?_
    simpa using trailZeros_spec a n le_rfl
  · exact computes_of_alu (fun a _ _ => BitVec.ofNat 64 (ofBits (fun i => a.getLsbD (tyWidth f.vn - 1 - i)) (tyWidth f.vn))) (exec_brev f)
      (.of_alu rfl rfl wide_of_word) fun _ a _ _ j hj => getLsbD_ofBits _ hj (tyWidth_le f.vn)
  · exact computes_of_alu (fun a b _ => bfxResult (decide (f.vn = 0)) (b.toNat % 32) (b.toNat / 256 % 32) a)
      (fun s => by simp only [bfxResult, decide_eq_true_eq]; exact exec_bfx f s) (.of_alu rfl rfl fun _ => rfl)
      fun _ a b _ j hj => getLsbD_bfxResult _ (Nat.mod_lt _ (by decide)) a hj
  · exact computes_of_alu (fun a b c => bfiResult (b.toNat % 32) (b.toNat / 256 % 32) a c) (exec_bfi f) (.of_alu rfl rfl fun _ => rfl)
      fun _ a b c j hj => getLsbD_bfiResult _ _ a c hj
  · exact computes_of_alu prmtResult (exec_prmt f) (.of_alu rfl rfl fun _ => rfl) fun _ => prmtResult_byte
  · rintro i sx (⟨rfl, rfl⟩ | ⟨rfl, rfl⟩)
    · exact computes_of_extOp (exec_sext f) rfl rfl
    · exact computes_of_extOp (exec_zext f) rfl rfl

end Sys2Proof.Machine
end

section
/-! PROOFS. Comparisons, selection, moves and addresses (R84, R95, R96). -/

namespace Sys2Proof.Machine

theorem YieldsPred.congr {i : Instr} {f : Frame} {n : Nat} {taint : Warp → Mask} {P Q : Warp → Fin 32 → Bool} (h : YieldsPred i f n taint P)
    (hPQ : ∀ x l, P x l = Q x l) : YieldsPred i f n taint Q := by
  have e : P = Q := funext fun x => funext fun l => hPQ x l
  exact e ▸ h

/-- The condition codes of `icmp` (R95). -/
theorem icond_eq (c : Nat) (a b : Int) : icond c a b = match c with
    | 0 => decide (a = b) | 1 => decide (a ≠ b) | 2 => decide (a < b) | 3 => decide (a ≤ b) | 4 => decide (b < a) | _ => decide (b ≤ a) := by
  match c with
  | 0 => exact beq_eq_decide a b
  | 1 => exact (congrArg not (beq_eq_decide a b)).trans decide_not.symm
  | 2 => rfl
  | 3 => rfl
  | 4 => rfl
  | n + 5 => rfl

/-- A comparison writes its predicate (R95). -/
theorem yieldsPred_of_cmpOp {i : Instr} {f : Frame} {wide : Bool} (hexec : ∀ s, exec i s = s.cmpOp i wide) :
    YieldsPred i f f.xd (fun x => (x.oprA f wide (tySigned f.vn)).tag ||| (x.oprB f wide (tySigned f.vn)).tag) fun x l =>
      icond (f.mf 0 3) (tyVal f.vn ((x.oprA f wide (tySigned f.vn)).val l)) (tyVal f.vn ((x.oprB f wide (tySigned f.vn)).val l)) := by
  intro s x e sh h hact
  obtain ⟨y, hp, hs, hr⟩ := h.predResult f.xd (fun l => icond (f.mf 0 3) (tyVal f.vn ((x.oprA f wide (tySigned f.vn)).val l))
    (tyVal f.vn ((x.oprB f wide (tySigned f.vn)).val l))) ((x.oprA f wide (tySigned f.vn)).tag ||| (x.oprB f wide (tySigned f.vn)).tag)
  refine ⟨_, y, ?_, hp, hs, hr⟩
  rw [hexec, State.cmpOp, h.issueOnce, if_neg hact]
  rfl

/-- The value and the tag of the source that a predicate selects (R84, R95). -/
theorem yields_isel (f : Frame) :
    let wide := f.vn == 7
    let sel := fun (x : Warp) => if f.bit 3 then ~~~(x.pred (f.mf 0 3)) else x.pred (f.mf 0 3)
    Yields (.isel f) f wide id (fun x => ((x.oprA f wide false).tag &&& sel x) ||| ((x.oprB f wide false).tag &&& ~~~(sel x))) fun x l r =>
      r = if (sel x).getLsbD l.val then (x.oprA f wide false).val l else (x.oprB f wide false).val l := by
  intro wide sel s x e sh h hact
  have hd : PlacesResult (.isel f) f wide := .of_alu rfl rfl wide_of_word
  obtain ⟨y, hp, hs, hr⟩ := h.result hact f.du wide (hd sh h.form h.legal) h.du_defined
    (fun l => if (sel x).getLsbD l.val then (x.oprA f wide false).val l else (x.oprB f wide false).val l)
    (((x.oprA f wide false).tag &&& sel x) ||| ((x.oprB f wide false).tag &&& ~~~(sel x))) id
  refine ⟨_, y, _, ?_, hp, hs, fun l => rfl, hr⟩
  rw [exec_isel, execIsel, h.issueOnce, if_neg hact]
  rfl

theorem laneOpr_low (x : Warp) (n : Nat) (l : Fin 32) : ((x.laneOpr n false).val l).setWidth 32 = (x.lane n).1[l] := by
  simp [Warp.laneOpr]

theorem laneOpr_val (x : Warp) (n : Nat) (l : Fin 32) : (((x.laneOpr n false).val l).setWidth 32).setWidth 64 = (x.laneOpr n false).val l := by
  rw [laneOpr_low]
  simp [Warp.laneOpr]

/-- A base, a scaled index and an offset (R96). -/
theorem yields_lea (f : Frame) :
    let ext := fun v : W64 => if tySigned f.vn then (v.setWidth 32).signExtend 64 else (v.setWidth 32).setWidth 64
    Yields (.lea f) f true id (fun x => (x.laneOpr f.xa false).tag ||| (x.uniOpr f.kb).tag) fun x l r =>
      r = (x.uni f.kb).1 + ext ((x.laneOpr f.xa false).val l) * BitVec.ofNat 64 (2 ^ f.mf 0 3) + f.imm.signExtend 64 := by
  intro ext s x e sh h hact
  have hsh : sh = (Instr.lea f).shape.1 := congrArg Prod.fst h.form.symm
  have hv : f.vn = 6 ∨ f.vn = 7 := by
    have hok := Shape.legal_ok (Instr.legal_of_shape h.form h.legal)
    simp only [hsh, Instr.shape, Bool.and_eq_true, Bool.or_eq_true, beq_iff_eq] at hok
    exact hok.1.1
  have hext : ∀ l, (if f.vn = 6 then (((x.laneOpr f.xa false).val l).setWidth 32).signExtend 64 else (x.laneOpr f.xa false).val l) =
      ext ((x.laneOpr f.xa false).val l) := by
    intro l
    rcases hv with h6 | h7
    · simp [ext, h6, tySigned]
    · simpa [ext, h7, tySigned] using (laneOpr_val x f.xa l).symm
  obtain ⟨y, hp, hs, hr⟩ := h.result hact f.du true (by rw [hsh]; rfl) h.du_defined
    (fun l => (x.uniOpr f.kb).val l + (ext ((x.laneOpr f.xa false).val l) <<< f.mf 0 3) + f.imm.signExtend 64)
    ((x.laneOpr f.xa false).tag ||| (x.uniOpr f.kb).tag) id
  refine ⟨_, y, _, ?_, hp, hs, fun l => ?_, hr⟩
  · rw [exec_lea, execLea, h.issueOnce, if_neg hact]
    simp only [← hext]
    rfl
  · have hpow : BitVec.twoPow 64 (f.mf 0 3) = BitVec.ofNat 64 (2 ^ f.mf 0 3) := by
      apply BitVec.eq_of_toNat_eq
      rw [BitVec.toNat_twoPow, BitVec.toNat_ofNat]
    rw [BitVec.shiftLeft_eq_mul_twoPow, hpow]
    rfl

/-- Settles O5: comparisons write a predicate, and selections, moves and addresses their destination. -/
theorem compareSelectAndMoves : Obligations.CompareSelectAndMoves := by
  refine ⟨fun f => ⟨?_, yields_isel f⟩, fun f => ⟨?_, ?_, ?_, yields_lea f⟩⟩
  · rintro i wide (⟨rfl, rfl⟩ | ⟨rfl, rfl⟩)
    · exact (yieldsPred_of_cmpOp (exec_icmp f)).congr fun x l => icond_eq _ _ _
    · exact (yieldsPred_of_cmpOp (exec_icmp64 f)).congr fun x l => icond_eq _ _ _
  · exact computes_of_alu (fun a _ _ => a) (exec_mov f) (.of_alu rfl rfl wide_of_word) fun _ a _ _ => rfl
  · refine computes_of_alu (fun _ _ _ => if tySigned f.vn then f.imm.signExtend 64 else f.imm.setWidth 64) (exec_movi f) (fun sh hs _ => ?_) fun _ _ _ _ => ?_
    · obtain rfl : (Instr.movi f).shape.1 = sh := congrArg Prod.fst hs
      simp [Instr.shape, Form.alu, Form.tw]
    · simp
  · exact computes_of_alu (fun a b _ =>
      let b := if f.bit 2 then (if tySigned f.vn then (b.setWidth 32).signExtend 64 else (b.setWidth 32).setWidth 64) else b
      if f.bit 1 then a - b else a + b) (exec_iadd64 f) (.of_alu rfl rfl fun _ => rfl) fun _ _ _ _ => rfl

end Sys2Proof.Machine
end

section
/-! PROOFS. Results of floating point (R84, R97, R98): lanes, and the flags that they raise. -/

namespace Sys2Proof.Machine

/-! ## Flags -/

theorem Exc.bits_or (a b : Exc) : (a.or b).bits = a.bits ||| b.bits := by
  simp only [Exc.bits, Exc.or, ← BitVec.setWidth_or, BitVec.or_append, BitVec.ofBool_or_ofBool]

theorem Exc.bits_none : ({} : Exc).bits = 0#64 := rfl

theorem getLsbD_foldl_or (ls : List (Fin 32)) (e : Fin 32 → Exc) (a : Exc) (k : Nat) :
    (ls.foldl (fun (a : Exc) l => a.or (e l)) a).bits.getLsbD k = (a.bits.getLsbD k || ls.any fun l => (e l).bits.getLsbD k) := by
  induction ls generalizing a with
  | nil => simp
  | cons l ls ih => rw [List.foldl_cons, ih, Exc.bits_or, BitVec.getLsbD_or, List.any_cons, Bool.or_assoc]

/-- The exceptions that lanes add to `FPCTL` (R98). -/
def raisedBits (act t : Mask) (e : Fin 32 → Exc) : W64 := ((lanesOf (act &&& ~~~t)).foldl (fun (a : Exc) l => a.or (e l)) {}).bits

theorem FlagsHold.of_ctl {x y : Warp} {act t : Mask} {e : Fin 32 → Exc} (h : y.fp.ctl = x.fp.ctl ||| raisedBits act t e) : FlagsHold x y act t e := by
  intro k _
  rw [h, BitVec.getLsbD_or, raisedBits, getLsbD_foldl_or, Exc.bits_none, BitVec.getLsbD_zero, Bool.false_or]

/-! ## Lanes and flags of a ready instruction -/

section
variable {i : Instr} {s : State} {x : Warp} {e : Entry} {sh : Shape} {f : Frame}

/-- The floating-point state is beside the registers and the flow of a warp. -/
theorem Wrote.withFp {z : Warp} (hz : Wrote x z e sh f) (fp : FpState) : Wrote x { z with fp := fp } e sh f :=
  ⟨hz.hw, hz.run, hz.wait, hz.owner, ⟨hz.regs.lanes, hz.regs.unis⟩, hz.flaws⟩

theorem Ready.retiresFp {z : Warp} (h : Ready i s x e sh f) (hz : Wrote x z e sh f) (fp : FpState) :
    ∃ y, Passes s ((s.setWarp s.cur { z with fp := fp }).retire s.cur f true) x y e sh f ∧ y.still = { z.still with fp := y.fp } ∧ y.fp = fp ∧
      y.preds = z.preds ∧ y.x = z.x ∧ y.k = z.k := by
  obtain ⟨y, hp, hs, hx, hk⟩ := h.retires (hz.withFp fp)
  have hfp : y.fp = fp := (still_fp hs :)
  exact ⟨y, hp, hfp ▸ hs, hfp, (still_preds hs :), hx, hk⟩

/-- A write of lane results, in one register or in a pair. -/
def Issue.writeLanes (j : Issue) (t : State) (pair : Bool) (v : Fin 32 → W64) (tag : Mask) : State :=
  if pair then j.writePair t j.f.xd v tag else j.writeLane t j.f.xd (fun l => (v l).setWidth 32) tag

/-- A ready instruction with lane destinations writes them, and they hold the result. -/
theorem Ready.writeLanes (h : Ready i s x e sh f) (hact : x.active f e ≠ 0) {pair : Bool} (hd : sh.d = .lane (if pair then 2 else 1))
    (v : Fin 32 → W64) (t : Mask) :
    ∃ z, (s.sees x e sh f).writeLanes (s.opened x e sh f) pair v t = s.setWarp s.cur z ∧ Wrote x z e sh f ∧ z.still = x.still ∧
      DestHolds x z sh f (x.active f e) false pair v t id := by
  have hopened := (Warp.opened_same x e sh f s.clock).still
  cases pair with
  | false =>
    obtain ⟨hz, hs, hl⟩ := h.withLane_wrote hd (fun l => (v l).setWidth 32) t
    exact ⟨_, h.writeLane_opened hact _ t, hz, hs, hl, fun hp => absurd hp Bool.false_ne_true⟩
  | true =>
    by_cases h255 : f.xd = 255
    · exact ⟨_, if_pos h255, h.wrote, hopened, fun hn => absurd h255 hn, fun _ hn => absurd h255 hn⟩
    · have h0 : f.xd ≠ 255 → Reg.x f.xd ∈ sh.writes f := fun h1 => mem_writes_lane hd (j := 0) (by decide) h1 h1
      have h1 : f.xd + 1 ≠ 255 → Reg.x (f.xd + 1) ∈ sh.writes f := fun h1 => mem_writes_lane hd (j := 1) (by decide) h255 h1
      have hlow := h.lanePut f.xd h0 (fun l => if t.getLsbD l.val then poison32 else (v l).setWidth 32) t s.clock h.wrote
      refine ⟨_, ?_, h.lanePut (f.xd + 1) h1 (fun l => if t.getLsbD l.val then poison32 else (v l >>> 32).setWidth 32) t s.clock hlow,
        (Warp.putLane_same ..).still.trans ((Warp.putLane_same ..).still.trans hopened), ?_, fun _ _ => LaneHolds.put ?_ _ _ _ _⟩
      · refine (if_neg h255).trans ?_
        refine (congrArg (Issue.writeLane _ · _ _ _) (h.writeLane_opened hact _ t)).trans ?_
        exact Issue.writeLane_setWarp (s.sees x e sh f) s _ _ _ _ hact
      · exact (LaneHolds.put (Warp.opened_lbind ..) _ _ _ _).keep (Warp.putLane_get_ne _ _ _ _ _ _ (by omega))
      · rw [Warp.putLane_lbind_ne _ _ _ _ _ _ (by omega)]
        exact Warp.opened_lbind ..

theorem Ready.raise_setWarp (_ : Ready i s x e sh f) (z : Warp) (t : Mask) (er : Fin 32 → Exc) :
    (s.sees x e sh f).raise (s.setWarp s.cur z) t er =
      s.setWarp s.cur { z with fp := { z.fp with ctl := z.fp.ctl ||| raisedBits (x.active f e) t er } } :=
  State.modWarp_setWarp s s.cur z _

/-- A floating-point instruction passes that writes lanes, raises their exceptions and moves `SRSEED` on (R84, R98, R114). -/
theorem Ready.floatResult (h : Ready i s x e sh f) (hact : x.active f e ≠ 0) {pair : Bool} (hd : sh.d = .lane (if pair then 2 else 1))
    (v : Fin 32 → W64) (t : Mask) (er : Fin 32 → Exc) (seed : W64 → W64) :
    ∃ y, Passes s ((((s.sees x e sh f).raise ((s.sees x e sh f).writeLanes (s.opened x e sh f) pair v t) t er).modWarp s.cur
        fun q => { q with fp := { q.fp with seed := seed q.fp.seed } }).retire s.cur f true) x y e sh f ∧
      y.still = { x.still with fp := y.fp } ∧ y.fp.seed = seed x.fp.seed ∧ DestHolds x y sh f (x.active f e) false pair v t id ∧
      FlagsHold x y (x.active f e) t er := by
  obtain ⟨z, hwrite, hz, hstill, hdest⟩ := h.writeLanes hact hd v t
  rw [hwrite, h.raise_setWarp, State.modWarp_setWarp]
  obtain ⟨y, hp, hs, hfp, -, hx, hk⟩ := h.retiresFp hz { ctl := z.fp.ctl ||| raisedBits (x.active f e) t er, seed := seed z.fp.seed }
  refine ⟨y, hp, hstill ▸ hs, ?_, hdest.congr hx hk, .of_ctl ?_⟩
  · rw [hfp, still_fp hstill]
  · rw [hfp, still_fp hstill]

/-- The same without a step of `SRSEED`. -/
theorem Ready.floatLanes (h : Ready i s x e sh f) (hact : x.active f e ≠ 0) {pair : Bool} (hd : sh.d = .lane (if pair then 2 else 1))
    (v : Fin 32 → W64) (t : Mask) (er : Fin 32 → Exc) :
    ∃ y, Passes s (((s.sees x e sh f).raise ((s.sees x e sh f).writeLanes (s.opened x e sh f) pair v t) t er).retire s.cur f true) x y e sh f ∧
      y.still = { x.still with fp := y.fp } ∧ y.fp.seed = x.fp.seed ∧ DestHolds x y sh f (x.active f e) false pair v t id ∧
      FlagsHold x y (x.active f e) t er := by
  obtain ⟨y, hp, hrest⟩ := h.floatResult hact hd v t er id
  refine ⟨y, ?_, hrest⟩
  obtain ⟨z, hwrite, -⟩ := h.writeLanes hact hd v t
  rw [hwrite, h.raise_setWarp, State.modWarp_setWarp] at hp
  rwa [hwrite, h.raise_setWarp]

theorem setWidth_ofNat_mod (n : Nat) : (BitVec.ofNat 64 (n % 2 ^ 32)).setWidth 32 = BitVec.ofNat 32 n := by
  apply BitVec.eq_of_toNat_eq
  rw [BitVec.toNat_setWidth, BitVec.toNat_ofNat, BitVec.toNat_ofNat]
  omega

/-- A lane result of 32 bits is the low half of a word. -/
theorem Issue.writeF_eq (j : Issue) (t : State) (tag : Mask) (r : Fin 32 → Nat × Exc) :
    j.writeF t tag r = j.raise (j.writeLanes t false (fun l => BitVec.ofNat 64 ((r l).1 % 2 ^ 32)) tag) tag fun l => (r l).2 := by
  simp only [Issue.writeF, Issue.writeLanes, setWidth_ofNat_mod]
  rfl

end

/-- An instruction yields lane results with exceptions whose body writes them and raises those. -/
theorem yieldsFloat_of_writeLanes {i : Instr} {f : Frame} {pair : Bool} (taint : Warp → Mask → Mask) (r : Warp → Mask → Fin 32 → W64 × Exc)
    (hd : i.shape.1.d = .lane (if pair then 2 else 1))
    (hexec : ∀ s x e sh, Ready i s x e sh f → x.active f e ≠ 0 → exec i s = .next (((s.sees x e sh f).raise
      ((s.sees x e sh f).writeLanes (s.opened x e sh f) pair (fun l => (r x (x.active f e) l).1) (taint x (x.active f e))) (taint x (x.active f e))
      fun l => (r x (x.active f e) l).2).retire s.cur f true)) : YieldsFloat i f pair id taint r := by
  intro s x e sh h hact
  have hsh : sh.d = .lane (if pair then 2 else 1) := by rw [← hd, h.form]
  obtain ⟨y, hp, hs, hseed, hdest, hflags⟩ := h.floatLanes hact hsh (fun l => (r x (x.active f e) l).1) (taint x (x.active f e))
    fun l => (r x (x.active f e) l).2
  exact ⟨_, y, hexec s x e sh h hact, hp, hs, hseed, hdest, hflags⟩

end Sys2Proof.Machine
end

section
/-! PROOFS. Floating-point instructions (R100, R103 to R109) over the arithmetic of their formats. -/

namespace Sys2Proof.Machine

/-- What an FP instruction delivers to a lane, of its operands with their modifiers (R100, R103). -/
def fpLane (f : Frame) (pk : Bool) (n : Nat) (g : Rm → Bool → W32 → W32 → W32 → Nat × Exc) (x : Warp) (l : Fin 32) : Nat × Exc :=
  g (x.rm (f.mf 0 3)) x.fz (signMods (signsOf pk) (f.bit 7) (f.bit 6) (((x.oprA f false false).val l).setWidth 32))
    (if 2 ≤ n then signMods (signsOf pk) (f.bit 5) (f.bit 4) (((x.oprB f false false).val l).setWidth 32) else 0)
    (if 3 ≤ n then signMods (signsOf pk) (f.bit 3) false (((x.oprC f false false).val l).setWidth 32) else 0)

theorem yieldsFloat_of_fpOp {i : Instr} {f : Frame} {pk : Bool} {n : Nat} {g : Rm → Bool → W32 → W32 → W32 → Nat × Exc}
    (hexec : ∀ s, exec i s = s.fpOp i pk n g) (hn : n ∈ [1, 2, 3]) (hd : i.shape.1.d = .lane 1) :
    YieldsFloat i f false id (fun x _ => Taint n (x.oprA f false false) (x.oprB f false false) (x.oprC f false false)) fun x _ l =>
      (BitVec.ofNat 64 ((fpLane f pk n g x l).1 % 2 ^ 32), (fpLane f pk n g x l).2) := by
  refine yieldsFloat_of_writeLanes _ _ hd fun s x e sh h hact => ?_
  rw [hexec, State.fpOp, h.issueOnce, if_neg hact, ← Issue.writeF_eq _ _ _ fun l => fpLane f pk n g x l]
  simp only [List.mem_cons, List.not_mem_nil, or_false] at hn
  rcases hn with rfl | rfl | rfl <;> rfl

/-- The same, for a function of the operands that is the instruction's. -/
theorem yieldsFloat_of_fpOp_eq {i : Instr} {f : Frame} {pk : Bool} {n : Nat} {g g' : Rm → Bool → W32 → W32 → W32 → Nat × Exc} (hg : g = g')
    (hexec : ∀ s, exec i s = s.fpOp i pk n g') (hn : n ∈ [1, 2, 3]) (hd : i.shape.1.d = .lane 1) :
    YieldsFloat i f false id (fun x _ => Taint n (x.oprA f false false) (x.oprB f false false) (x.oprC f false false)) fun x _ l =>
      (BitVec.ofNat 64 ((fpLane f pk n g x l).1 % 2 ^ 32), (fpLane f pk n g x l).2) :=
  hg ▸ yieldsFloat_of_fpOp hexec hn hd

/-- A product whose operands may be signalling NaNs (R101, R103). -/
def Fmt.times (F : Fmt) (rm : Rm) (fz : Bool) (a b : FVal) : Nat × Exc :=
  ((F.product rm fz a b).1, { (F.product rm fz a b).2 with nv := (F.product rm fz a b).2.nv || a.isSig || b.isSig })

/-- The comparison of two lanes under their modifiers (R105). -/
def fcmpLane (f : Frame) (x : Warp) (l : Fin 32) : Bool × Bool :=
  fcond (f.mf 0 3) (f32.decFz x.fz (signMods (signsOf false) (f.bit 7) (f.bit 6) (((x.oprA f false false).val l).setWidth 32)).toNat)
    (f32.decFz x.fz (signMods (signsOf false) (f.bit 5) (f.bit 4) (((x.oprB f false false).val l).setWidth 32)).toNat)

/-- `fcmp` writes a predicate and raises NV (R105). -/
theorem Ready.fcmp {f : Frame} {s : State} {x : Warp} {e : Entry} {sh : Shape} (h : Ready (.fcmp f) s x e sh f) (hact : x.active f e ≠ 0) :
    let taint := (x.oprA f false false).tag ||| (x.oprB f false false).tag
    ∃ t y, exec (.fcmp f) s = .next t ∧ Passes s t x y e sh f ∧ y.still = { x.still with preds := y.preds, fp := y.fp } ∧
      y.fp.seed = x.fp.seed ∧ PredHolds x y (x.active f e) f.xd (fun l => (fcmpLane f x l).1) taint ∧
      FlagsHold x y (x.active f e) taint fun l => { nv := (fcmpLane f x l).2 } := by
  intro taint
  have hopened := Warp.opened_same x e sh f s.clock
  have hpred := PredHolds.put hopened.preds (x.active f e) f.xd (fun l => (fcmpLane f x l).1) taint
  have hwrite : (s.sees x e sh f).writePred (s.opened x e sh f) f.xd (fun l => (fcmpLane f x l).1) taint =
      s.setWarp s.cur ((x.opened e sh f s.clock).putPred f.xd (x.active f e) (maskOf (fun l => (fcmpLane f x l).1) &&& ~~~taint)) :=
    Issue.writePred_setWarp (s.sees x e sh f) s _ _ _ _
  rw [Warp.putPred_eq] at hpred hwrite
  generalize ((x.opened e sh f s.clock).putPred f.xd (x.active f e) (maskOf (fun l => (fcmpLane f x l).1) &&& ~~~taint)).preds = ps at hpred hwrite
  obtain ⟨y, hp, hs, hfp, hps, -, -⟩ := h.retiresFp (h.wrote.withPreds ps)
    { x.fp with ctl := x.fp.ctl ||| raisedBits (x.active f e) taint fun l => { nv := (fcmpLane f x l).2 } }
  refine ⟨_, y, ?_, hp, ?_, by rw [hfp], hpred.congr hps, .of_ctl (by rw [hfp])⟩
  · rw [exec_fcmp, execFcmp, h.issueOnce, if_neg hact, ← hopened.fp]
    refine congrArg (fun u : State => Host.Outcome.next (u.retire s.cur f true)) ?_
    refine Eq.trans ?_ (h.raise_setWarp _ taint _)
    exact congrArg (Issue.raise _ · _ _) hwrite
  · rw [hs, hps, ← hopened.still]
    rfl

/-- The format whose codes `fclass` reads (R107). -/
def fclassFmt (v : Nat) : Fmt := match v with | 0 => f32 | 1 => f16 | _ => bf16

theorem fclassFmt_eq (v : Nat) : fclassFmt v = if v = 0 then f32 else if v = 1 then f16 else bf16 := by
  match v with
  | 0 => rfl
  | 1 => rfl
  | n + 2 => rfl

/-- What `fclass` delivers to a lane. -/
def fclassLane (f : Frame) (x : Warp) (l : Fin 32) : W32 :=
  if (x.oprA f false false).tag.getLsbD l.val then 0x500
  else BitVec.ofNat 32 (fclass (fclassFmt f.vn) (((x.oprA f false false).val l).toNat % 2 ^ (fclassFmt f.vn).width))

/-- The class of A with its poison tag, never poisoned itself (R84, R107). -/
theorem yields_fclass (f : Frame) : Yields (.fclass f) f false id (fun _ => 0) fun x l r => r.setWidth 32 = fclassLane f x l := by
  intro s x e sh h hact
  have hsh : (Instr.fclass f).shape.1 = sh := congrArg Prod.fst h.form
  have hdu : f.du = false := (Form.alu_du rfl (hsh ▸ Instr.legal_of_shape h.form h.legal)).symm
  have hlow : ∀ l, ((fclassLane f x l).setWidth 64).setWidth 32 = fclassLane f x l := fun l => by simp
  obtain ⟨hz, hs, hl⟩ := h.withLane_wrote (hsh ▸ rfl) (fclassLane f x) 0
  obtain ⟨y, hp, hys, hyx, -⟩ := h.retires hz
  refine ⟨_, y, fun l => (fclassLane f x l).setWidth 64, ?_, hp, hys.trans hs, hlow, ?_⟩
  · rw [exec_fclass, execFclass, h.issueOnce, if_neg hact]
    exact congrArg (fun u : State => Host.Outcome.next (u.retire s.cur f true)) (h.writeLane_opened hact (fclassLane f x) 0)
  · rw [hdu]
    refine ⟨?_, fun hpair => absurd hpair Bool.false_ne_true⟩
    simp only [hlow]
    exact hl.congr hyx

/-- Every operand with its modifiers, the dot-pair rounded once (R109). -/
theorem yieldsFloat_bfma2 (f : Frame) :
    YieldsFloat (.bfma2 f) f false id (fun x _ => Taint 3 (x.oprA f false false) (x.oprB f false false) (x.oprC f false false)) fun x _ l =>
      let a := signMods (signsOf true) (f.bit 7) (f.bit 6) (((x.oprA f false false).val l).setWidth 32)
      let b := signMods (signsOf true) (f.bit 5) (f.bit 4) (((x.oprB f false false).val l).setWidth 32)
      let c := signMods (signsOf false) (f.bit 3) false (((x.oprC f false false).val l).setWidth 32)
      let d := fun (h : Nat) (v : W32) => bf16.decFz x.fz (half h v)
      let r := f32.mulAdd (x.rm (f.mf 0 3)) x.fz [(d 0 a, d 0 b), (d 1 a, d 1 b)] (f32.decFz x.fz c.toNat)
      (BitVec.ofNat 64 (r.1 % 2 ^ 32), r.2) := by
  refine yieldsFloat_of_writeLanes _ _ rfl fun s x e sh h hact => ?_
  rw [exec_bfma2, execBfma2, h.issueOnce, if_neg hact]
  exact congrArg (fun u : State => Host.Outcome.next (u.retire s.cur f true)) (Issue.writeF_eq _ _ _ _)

/-- R100, R103, R104, R106, R108: arithmetic instructions, on their operands with modifiers. -/
theorem fpInstructions (f : Frame) (i : Instr) (pk : Bool) (n : Nat) (g : Rm → Bool → W32 → W32 → W32 → Nat × Exc)
    (hm : (i, pk, n, g) ∈ ([
      (.fadd f, false, 2, fun rm fz a b _ => f32.sum rm fz false [f32.decFz fz a.toNat, f32.decFz fz b.toNat]),
      (.fsub f, false, 2, fun rm fz a b _ => f32.sum rm fz false [f32.decFz fz a.toNat, f32.decFz fz (b ^^^ 0x80000000).toNat]),
      (.fmul f, false, 2, fun rm fz a b _ => f32.times rm fz (f32.decFz fz a.toNat) (f32.decFz fz b.toNat)),
      (.fma f, false, 3, fun rm fz a b c => f32.mulAdd rm fz [(f32.decFz fz a.toNat, f32.decFz fz b.toNat)] (f32.decFz fz c.toNat)),
      (.fmin f, false, 2, fun _ fz a b _ => f32.minMax fz false (f.bit 3) a.toNat b.toNat),
      (.fmax f, false, 2, fun _ fz a b _ => f32.minMax fz true (f.bit 3) a.toNat b.toNat),
      (.frnd f, false, 1, fun rm fz a _ _ => frnd rm fz a),
      (.hadd2 f, true, 2, fun rm fz a b _ => packed fun h => (hfmt f).sum rm fz false [(hfmt f).decFz fz (half h a), (hfmt f).decFz fz (half h b)]),
      (.hmul2 f, true, 2, fun rm fz a b _ => packed fun h => (hfmt f).times rm fz ((hfmt f).decFz fz (half h a)) ((hfmt f).decFz fz (half h b))),
      (.hfma2 f, true, 3, fun rm fz a b c => packed fun h =>
        (hfmt f).mulAdd rm fz [((hfmt f).decFz fz (half h a), (hfmt f).decFz fz (half h b))] ((hfmt f).decFz fz (half h c))),
      (.hmnx2 f, true, 2, fun _ fz a b _ => packed fun h => (hfmt f).minMax fz (f.bit 3) false (half h a) (half h b))]
      : List (Instr × Bool × Nat × (Rm → Bool → W32 → W32 → W32 → Nat × Exc)))) :
    YieldsFloat i f false id (fun x _ => Taint n (x.oprA f false false) (x.oprB f false false) (x.oprC f false false)) fun x _ l =>
      (BitVec.ofNat 64 ((fpLane f pk n g x l).1 % 2 ^ 32), (fpLane f pk n g x l).2) := by
  simp only [List.mem_cons, Prod.mk.injEq, List.not_mem_nil, or_false] at hm
  rcases hm with ⟨rfl, rfl, rfl, hg⟩ | ⟨rfl, rfl, rfl, hg⟩ | ⟨rfl, rfl, rfl, hg⟩ | ⟨rfl, rfl, rfl, hg⟩ | ⟨rfl, rfl, rfl, hg⟩ | ⟨rfl, rfl, rfl, hg⟩ |
    ⟨rfl, rfl, rfl, hg⟩ | ⟨rfl, rfl, rfl, hg⟩ | ⟨rfl, rfl, rfl, hg⟩ | ⟨rfl, rfl, rfl, hg⟩ | ⟨rfl, rfl, rfl, hg⟩
  · exact yieldsFloat_of_fpOp_eq hg (exec_fadd f) (by decide) rfl
  · exact yieldsFloat_of_fpOp_eq hg (exec_fsub f) (by decide) rfl
  · exact yieldsFloat_of_fpOp_eq hg (exec_fmul f) (by decide) rfl
  · exact yieldsFloat_of_fpOp_eq hg (exec_fma f) (by decide) rfl
  · exact yieldsFloat_of_fpOp_eq hg (exec_fmin f) (by decide) rfl
  · exact yieldsFloat_of_fpOp_eq hg (exec_fmax f) (by decide) rfl
  · exact yieldsFloat_of_fpOp_eq hg (exec_frnd f) (by decide) rfl
  · exact yieldsFloat_of_fpOp_eq hg (exec_hadd2 f) (by decide) rfl
  · exact yieldsFloat_of_fpOp_eq hg (exec_hmul2 f) (by decide) rfl
  · exact yieldsFloat_of_fpOp_eq hg (exec_hfma2 f) (by decide) rfl
  · exact yieldsFloat_of_fpOp_eq hg (exec_hmnx2 f) (by decide) rfl

end Sys2Proof.Machine
end

section
/-! PROOFS. The values of exact numbers and of floating-point codes, their order, and arithmetic on them (R101, R102, R104, R105, R107). -/

namespace Sys2Proof.Machine

/-! ## Exact numbers -/

/-- The rational number that an exact number is. -/
def Dy.toRat (a : Dy) : ℚ := a.n * (2 : ℚ) ^ a.e

theorem two_zpow_pos (e : Int) : (0 : ℚ) < 2 ^ e := zpow_pos (by norm_num) e

/-- A shift of a numerator by a number of places that is not negative. -/
theorem two_pow_toNat_mul (d e : Int) (h : 0 ≤ d) : (2 : ℚ) ^ d.toNat * 2 ^ e = 2 ^ (d + e) := by
  rw [← zpow_natCast, Int.toNat_of_nonneg h, zpow_add₀ two_ne_zero]

@[simp] theorem Dy.toRat_neg (a : Dy) : a.neg.toRat = -a.toRat := by simp [Dy.toRat, Dy.neg]

@[simp] theorem Dy.toRat_add (a b : Dy) : (a.add b).toRat = a.toRat + b.toRat := by
  unfold Dy.add Dy.toRat
  split
  · next h =>
    have hb := two_pow_toNat_mul (b.e - a.e) a.e (by omega)
    rw [sub_add_cancel] at hb
    push_cast
    rw [add_mul, mul_assoc, hb]
  · next h =>
    have ha := two_pow_toNat_mul (a.e - b.e) b.e (by omega)
    rw [sub_add_cancel] at ha
    push_cast
    rw [add_mul, mul_assoc, ha]

@[simp] theorem Dy.toRat_sub (a b : Dy) : (a.sub b).toRat = a.toRat - b.toRat := by
  rw [Dy.sub, Dy.toRat_add, Dy.toRat_neg, sub_eq_add_neg]

theorem Dy.toRat_eq_zero (a : Dy) : a.toRat = 0 ↔ a.n = 0 := by
  simp [Dy.toRat, (two_zpow_pos a.e).ne']

theorem Dy.toRat_neg_iff (a : Dy) : a.toRat < 0 ↔ a.n < 0 := by
  rw [Dy.toRat, mul_neg_iff]
  have hp := two_zpow_pos a.e
  simp [hp, hp.not_gt]

theorem Dy.isZero_iff (a : Dy) : a.isZero = true ↔ a.toRat = 0 := by
  rw [Dy.toRat_eq_zero, Dy.isZero, beq_iff_eq]

theorem Dy.lt_iff (a b : Dy) : a.lt b = true ↔ a.toRat < b.toRat := by
  rw [Dy.lt, decide_eq_true_eq, ← Dy.toRat_neg_iff, Dy.toRat_sub, sub_neg]

theorem Dy.lt_eq_false_iff (a b : Dy) : a.lt b = false ↔ b.toRat ≤ a.toRat := by
  rw [← Bool.not_eq_true, Dy.lt_iff, not_lt]

@[simp] theorem Dy.toRat_abs (a : Dy) : a.abs.toRat = |a.toRat| := by
  rw [Dy.toRat, Dy.toRat, abs_mul, abs_of_pos (two_zpow_pos a.e), Dy.abs]
  simp

/-! ## The order of values (R104, R105) -/

/-- Two values that order alike: the same, or zeros of one sign. -/
def FVal.Alike (a b : FVal) : Prop := a = b ∨ ∃ s v u, a = .num s v ∧ b = .num s u ∧ v.n = 0 ∧ u.n = 0

theorem Dy.lt_congr {v u : Dy} (hv : v.n = 0) (hu : u.n = 0) (w : Dy) : v.lt w = u.lt w ∧ w.lt v = w.lt u := by
  rw [← Dy.toRat_eq_zero] at hv hu
  constructor <;> rw [Bool.eq_iff_iff, Dy.lt_iff, Dy.lt_iff, hv, hu]

theorem FVal.Alike.lt {a b : FVal} (h : a.Alike b) (c : FVal) : a.lt c = b.lt c ∧ c.lt a = c.lt b := by
  rcases h with rfl | ⟨s, v, u, rfl, rfl, hv, hu⟩
  · exact ⟨rfl, rfl⟩
  · cases c with
    | nan t => exact ⟨rfl, rfl⟩
    | inf t => cases t <;> exact ⟨rfl, rfl⟩
    | num t w => exact Dy.lt_congr hv hu w

theorem FVal.Alike.before {a b : FVal} (h : a.Alike b) (c : FVal) : a.before c = b.before c ∧ c.before a = c.before b := by
  have hs : a.sign = b.sign := by
    rcases h with rfl | ⟨s, v, u, rfl, rfl, -, -⟩ <;> rfl
  simp only [FVal.before, (h.lt c).1, (h.lt c).2, hs, and_self]

theorem FVal.lt_inf_left (s : Bool) (b : FVal) : (FVal.inf s).lt b = (s && b != .inf true) := by
  rcases b with t | (_ | _) | ⟨t, u⟩ <;> cases s <;> rfl

theorem FVal.lt_inf_right (a : FVal) (s : Bool) : a.lt (.inf s) = (!s && a != .inf false) := by
  rcases a with t | (_ | _) | ⟨t, u⟩ <;> cases s <;> rfl

theorem FVal.lt_asymm {a b : FVal} (h : a.lt b = true) : b.lt a = false := by
  rcases a with s | s | ⟨s, v⟩ <;> rcases b with t | t | ⟨t, u⟩
  case num.num => exact (Dy.lt_eq_false_iff u v).2 ((Dy.lt_iff v u).1 h).le
  case inf.nan | inf.inf | inf.num =>
    rw [FVal.lt_inf_left, Bool.and_eq_true] at h
    rw [FVal.lt_inf_right, h.1, Bool.not_true, Bool.false_and]
  case nan.inf | num.inf =>
    rw [FVal.lt_inf_right, Bool.and_eq_true, Bool.not_eq_true'] at h
    rw [FVal.lt_inf_left, h.1, Bool.false_and]
  all_goals rfl

theorem FVal.before_asymm {a b : FVal} (h : a.before b = true) : b.before a = false := by
  simp only [FVal.before, Bool.or_eq_true, Bool.and_eq_true, Bool.not_eq_true'] at h
  rcases h with h | ⟨⟨h, ha⟩, hb⟩
  · simp [FVal.before, FVal.lt_asymm h, h]
  · simp [FVal.before, h, hb]

theorem FVal.before_irrefl (a : FVal) : a.before a = false := by
  by_contra h
  rw [Bool.not_eq_false] at h
  exact absurd (FVal.before_asymm h) (by simp [h])

/-! ## The formats of the arithmetic instructions (R99, R101) -/

def ieeeFormats : List Fmt := [f32, f16, bf16]

theorem Fmt.decFz_sign_zero {F : Fmt} (hF : F ∈ ieeeFormats) (fz s : Bool) : ∃ v, F.decFz fz (F.sign s 0) = .num s v ∧ v.n = 0 := by
  simp only [ieeeFormats, List.mem_cons, List.not_mem_nil, or_false] at hF
  rcases hF with rfl | rfl | rfl <;> cases fz <;> cases s <;> exact ⟨_, rfl, rfl⟩

/-- A code with a zero brought to its plain form (R102, R104). -/
def Fmt.plain (F : Fmt) (fz : Bool) (c : Nat) : Nat :=
  match F.decFz fz c with
  | .num s v => if v.n = 0 then F.sign s 0 else c
  | _ => c

theorem Fmt.decFz_plain {F : Fmt} (hF : F ∈ ieeeFormats) (fz : Bool) (c : Nat) : (F.decFz fz (F.plain fz c)).Alike (F.decFz fz c) := by
  unfold Fmt.plain
  cases h : F.decFz fz c with
  | nan s => exact .inl h
  | inf s => exact .inl h
  | num s v =>
    dsimp only
    split
    · next hv =>
      obtain ⟨u, hu, hu0⟩ := F.decFz_sign_zero hF fz s
      exact .inr ⟨s, u, v, hu, rfl, hu0, hv⟩
    · exact .inl h

/-- The code that `minMax` takes of an operand. -/
theorem Fmt.minMax_code (F : Fmt) (fz : Bool) (c : Nat) :
    (match F.decFz fz c with | .num s x => if x.isZero then F.sign s 0 else c | _ => c) = F.plain fz c := by
  unfold Fmt.plain
  cases F.decFz fz c with
  | nan s => rfl
  | inf s => rfl
  | num s v => simp only [Dy.isZero, beq_iff_eq]

/-- The smaller or the greater of two codes by cases (R104). -/
theorem Fmt.minMax_eq (F : Fmt) (fz max pn : Bool) (p q : Nat) :
    F.minMax fz max pn p q =
      (if (F.decFz fz p).isNan && (F.decFz fz q).isNan then F.nan
        else if (F.decFz fz p).isNan then (if pn then F.nan else F.plain fz q)
        else if (F.decFz fz q).isNan then (if pn then F.nan else F.plain fz p)
        else if max then (if (F.decFz fz p).before (F.decFz fz q) then F.plain fz q else F.plain fz p)
        else if (F.decFz fz q).before (F.decFz fz p) then F.plain fz q else F.plain fz p,
       { nv := (F.decFz fz p).isSig || (F.decFz fz q).isSig }) := by
  rw [← Fmt.minMax_code F fz p, ← Fmt.minMax_code F fz q]
  rfl

/-- Of two numbers or infinities the greatest comes before neither, and neither before the smallest (R104). -/
theorem Fmt.minMax_extreme {F : Fmt} (hF : F ∈ ieeeFormats) (fz max pn : Bool) {p q : Nat} (hp : (F.decFz fz p).isNan = false)
    (hq : (F.decFz fz q).isNan = false) :
    let r := (F.minMax fz max pn p q).1
    (r = F.plain fz p ∨ r = F.plain fz q) ∧ ∀ z ∈ [F.decFz fz p, F.decFz fz q],
      if max then (F.decFz fz r).before z = false else z.before (F.decFz fz r) = false := by
  intro r
  have hr : r = if max then (if (F.decFz fz p).before (F.decFz fz q) then F.plain fz q else F.plain fz p)
      else if (F.decFz fz q).before (F.decFz fz p) then F.plain fz q else F.plain fz p := by
    simp only [r, Fmt.minMax_eq, hp, hq, Bool.and_self, Bool.false_eq_true, if_false]
  have hpp := F.decFz_plain hF fz p
  have hqq := F.decFz_plain hF fz q
  rw [hr, List.forall_mem_cons, List.forall_mem_singleton]
  cases max with
  | true =>
    simp only [if_true]
    cases hb : (F.decFz fz p).before (F.decFz fz q) with
    | true =>
      simp only [if_true]
      exact ⟨.inr trivial, (hqq.before _).1.trans (FVal.before_asymm hb), (hqq.before _).1.trans (FVal.before_irrefl _)⟩
    | false =>
      simp only [Bool.false_eq_true, if_false]
      exact ⟨.inl trivial, (hpp.before _).1.trans (FVal.before_irrefl _), (hpp.before _).1.trans hb⟩
  | false =>
    simp only [Bool.false_eq_true, if_false]
    cases hb : (F.decFz fz q).before (F.decFz fz p) with
    | true =>
      simp only [if_true]
      exact ⟨.inr trivial, (hqq.before _).2.trans (FVal.before_asymm hb), (hqq.before _).2.trans (FVal.before_irrefl _)⟩
    | false =>
      simp only [Bool.false_eq_true, if_false]
      exact ⟨.inl trivial, (hpp.before _).2.trans (FVal.before_irrefl _), (hpp.before _).2.trans hb⟩

/-! ## Sums and products (R101) -/

theorem Fmt.sign_false (F : Fmt) (c : Nat) : F.sign false c = c := rfl

/-- A value rounded once, beyond the greatest finite one, and under FZ (R101, R102). -/
theorem Fmt.enc_eq (F : Fmt) (rm : Rm) (fz : Bool) (v : Dy) {c : Nat} (hc : F.overflow rm (decide (v.n < 0)) = c) :
    let neg := decide (v.n < 0)
    let r := F.round rm neg v.n.natAbs v.e
    F.enc rm fz v =
      if F.maxCode < r.code then (F.sign neg c, { of_ := true, nx := true })
      else if fz = true ∧ r.code ≠ 0 ∧ r.code < 2 ^ F.mb then (F.sign neg 0, { uf := true, nx := true })
      else (F.sign neg r.code, { uf := r.tiny && r.inexact, nx := r.inexact }) := by
  intro neg r
  have hiff : (fz && decide (r.code < 2 ^ F.mb) && r.code != 0) = true ↔ fz = true ∧ r.code ≠ 0 ∧ r.code < 2 ^ F.mb := by
    rw [Bool.and_eq_true, Bool.and_eq_true, decide_eq_true_eq, bne_iff_ne]
    tauto
  simp only [← hc, ← hiff]
  rfl

theorem Fmt.overflow_eq (F : Fmt) (rm : Rm) (neg : Bool) : F.overflow rm neg = match rm with
    | .rne => F.infCode
    | .rz => F.maxCode
    | .ru => if neg then F.maxCode else F.infCode
    | .rd => if neg then F.infCode else F.maxCode := by
  cases rm <;> cases neg <;> rfl

/-- A sum or a product with a NaN (R101). -/
theorem Fmt.nan_operand (F : Fmt) (rm : Rm) (fz : Bool) {a b : FVal} (h : a.isNan = true ∨ b.isNan = true) :
    F.sum rm fz false [a, b] = (F.nan, { nv := a.isSig || b.isSig }) ∧ F.product rm fz a b = (F.nan, { nv := a.isSig || b.isSig }) := by
  cases a with
  | nan s => cases b <;> simp [Fmt.sum, Fmt.product, FVal.mul, FVal.isNan, FVal.isSig]
  | inf s => cases b <;> simp [FVal.isNan] at h <;> simp [Fmt.sum, Fmt.product, FVal.mul, FVal.isNan, FVal.isSig]
  | num s v => cases b <;> simp [FVal.isNan] at h <;> simp [Fmt.sum, Fmt.product, FVal.mul, FVal.isNan, FVal.isSig]

/-- Sums and products of two infinities (R101). -/
theorem Fmt.inf_inf (F : Fmt) (rm : Rm) (fz s t : Bool) :
    F.sum rm fz false [.inf s, .inf t] = (if s = t then (F.sign s F.infCode, {}) else (F.nan, { nv := true })) ∧
      F.product rm fz (.inf s) (.inf t) = (F.sign (s != t) F.infCode, {}) := by
  cases s <;> cases t <;> exact ⟨rfl, rfl⟩

/-- Sums and products of an infinity and a number (R101). -/
theorem Fmt.inf_num (F : Fmt) (rm : Rm) (fz s t : Bool) (v : Dy) :
    F.sum rm fz false [.inf s, .num t v] = (F.sign s F.infCode, {}) ∧ F.sum rm fz false [.num t v, .inf s] = (F.sign s F.infCode, {}) ∧
      F.product rm fz (.inf s) (.num t v) = (if v.n = 0 then (F.nan, { nv := true }) else (F.sign (s != t) F.infCode, {})) ∧
      F.product rm fz (.num t v) (.inf s) = (if v.n = 0 then (F.nan, { nv := true }) else (F.sign (s != t) F.infCode, {})) := by
  have hsum : F.sum rm fz false [.inf s, .num t v] = (F.sign s F.infCode, {}) ∧ F.sum rm fz false [.num t v, .inf s] = (F.sign s F.infCode, {}) := by
    cases s <;> exact ⟨by simp [Fmt.sum, FVal.isNan, Fmt.sign_false], by simp [Fmt.sum, FVal.isNan, Fmt.sign_false]⟩
  refine ⟨hsum.1, hsum.2, ?_, ?_⟩
  · by_cases h : v.n = 0 <;> simp [Fmt.product, FVal.mul, Dy.isZero, h]
  · by_cases h : v.n = 0 <;> simp [Fmt.product, FVal.mul, Dy.isZero, h, Bool.xor_comm t s]

/-- The sign of an exact zero sum of two numbers (R101). -/
def zeroSumSign (rm : Rm) (s t : Bool) (v u : Dy) : Bool :=
  if v.isZero && !s && (u.isZero && !t) then false else if v.isZero && s && (u.isZero && t) then true else rm == .rd

theorem zeroSumSign_same (rm : Rm) (s : Bool) {v u : Dy} (hv : v.n = 0) (hu : u.n = 0) : zeroSumSign rm s s v u = s := by
  cases s <;> simp [zeroSumSign, Dy.isZero, hv, hu]

theorem zeroSumSign_else (rm : Rm) {s t : Bool} {v u : Dy} (h : ¬ (v.n = 0 ∧ u.n = 0 ∧ s = t)) : zeroSumSign rm s t v u = decide (rm = .rd) := by
  have hpos : ¬ (v.isZero && !s && (u.isZero && !t)) = true := by
    simp only [Dy.isZero, Bool.and_eq_true, beq_iff_eq, Bool.not_eq_true']
    rintro ⟨⟨hv, rfl⟩, hu, rfl⟩
    exact h ⟨hv, hu, rfl⟩
  have hneg : ¬ (v.isZero && s && (u.isZero && t)) = true := by
    simp only [Dy.isZero, Bool.and_eq_true, beq_iff_eq]
    rintro ⟨⟨hv, rfl⟩, hu, rfl⟩
    exact h ⟨hv, hu, rfl⟩
  rw [zeroSumSign, if_neg hpos, if_neg hneg]
  exact beq_eq_decide rm .rd

theorem Fmt.sum_num_num_eq (F : Fmt) (rm : Rm) (fz s t : Bool) (v u : Dy) :
    let w := ((⟨0, 0⟩ : Dy).add v).add u
    F.sum rm fz false [.num s v, .num t u] = if w.n ≠ 0 then F.enc rm fz w else (F.sign (zeroSumSign rm s t v u) 0, {}) := by
  intro w
  by_cases hw : w.n = 0 <;> simp [Fmt.sum, FVal.isNan, Dy.isZero, zeroSumSign, w, hw]

/-- The sum of two numbers: exact, rounded once, with the sign of a zero sum (R101). -/
theorem Fmt.sum_num_num (F : Fmt) (rm : Rm) (fz s t : Bool) (v u : Dy) :
    ∃ w : Dy, (w.sub (v.add u)).isZero = true ∧ F.sum rm fz false [.num s v, .num t u] =
      if w.n ≠ 0 then F.enc rm fz w else if v.n = 0 ∧ u.n = 0 ∧ s = t then (F.sign s 0, {}) else (F.sign (decide (rm = .rd)) 0, {}) := by
  refine ⟨((⟨0, 0⟩ : Dy).add v).add u, ?_, ?_⟩
  · have hzero : (⟨0, 0⟩ : Dy).toRat = 0 := (Dy.toRat_eq_zero _).2 rfl
    rw [Dy.isZero_iff, Dy.toRat_sub, Dy.toRat_add, Dy.toRat_add, Dy.toRat_add, hzero]
    ring
  · rw [Fmt.sum_num_num_eq]
    congr 1
    split
    · next h =>
      obtain ⟨hv, hu, rfl⟩ := h
      rw [zeroSumSign_same rm s hv hu]
    · next h => rw [zeroSumSign_else rm h]

/-- The product of two numbers: exact and rounded once, a zero with its sign (R101). -/
theorem Fmt.product_num_num (F : Fmt) (rm : Rm) (fz s t : Bool) (v u : Dy) : F.product rm fz (.num s v) (.num t u) =
    if v.n = 0 ∨ u.n = 0 then (F.sign (s != t) 0, {}) else F.enc rm fz ⟨v.n * u.n, v.e + u.e⟩ := by
  simp only [Fmt.product, FVal.mul, Dy.isZero, Dy.mul, beq_iff_eq, mul_eq_zero]

/-- A product and an addend, rounded once (R103). -/
theorem Fmt.mulAdd_one (F : Fmt) (rm : Rm) (fz : Bool) (a b c : FVal) : F.mulAdd rm fz [(a, b)] c = match a.mul b with
    | none => (F.nan, { nv := true })
    | some p => ((F.sum rm fz false [p, c]).1,
      { (F.sum rm fz false [p, c]).2 with nv := (F.sum rm fz false [p, c]).2.nv || a.isSig || b.isSig || c.isSig }) := by
  unfold Fmt.mulAdd
  cases h : a.mul b with
  | none => simp [h, Fmt.sum]
  | some p => simp [h, Bool.or_assoc]

/-! ## Classes (R107) -/

theorem testBit_top {n k : Nat} (h : n < 2 ^ (k + 1)) : n.testBit k = decide (2 ^ k ≤ n) := by
  rw [Nat.testBit_eq_decide_div_mod_eq]
  refine decide_eq_decide.2 ?_
  rw [Nat.pow_succ] at h
  have hpos : 0 < 2 ^ k := by positivity
  constructor
  · intro h1
    by_contra hlt
    rw [Nat.div_eq_of_lt (by omega)] at h1
    omega
  · intro hle
    rw [Nat.div_eq_of_lt_le (k := 1) (by omega) (by omega)]

/-- The class of a code by its sign, its exponent field and its fraction field. -/
theorem Fmt.fclass_eq {F : Fmt} (hinf : F.inf = true) (hmb : 0 < F.mb) {c : Nat} (hc : c < 2 ^ F.width) :
    let s := decide (2 ^ (F.eb + F.mb) ≤ c)
    let ex := c / 2 ^ F.mb % 2 ^ F.eb
    let fr := c % 2 ^ F.mb
    fclass F c = 2 ^ (if ex = 2 ^ F.eb - 1 then (if fr = 0 then (if s then 0 else 7) else if fr < 2 ^ (F.mb - 1) then 8 else 9)
      else if ex = 0 then (if fr = 0 then (if s then 3 else 4) else if s then 2 else 5) else if s then 1 else 6) := by
  intro s ex fr
  have hpow : 2 ^ (F.eb + F.mb) = 2 ^ F.mb * 2 ^ F.eb := by rw [pow_add, mul_comm]
  have hs : c.testBit (F.eb + F.mb) = s := testBit_top (by rwa [Fmt.width, show 1 + F.eb + F.mb = F.eb + F.mb + 1 by omega] at hc)
  have hex : c % 2 ^ (F.eb + F.mb) / 2 ^ F.mb = ex := by rw [hpow, Nat.mod_mul_right_div_self]
  have hfr : c % 2 ^ (F.eb + F.mb) % 2 ^ F.mb = fr := by rw [hpow, Nat.mod_mul_right_mod]
  have htop : fr.testBit (F.mb - 1) = decide (2 ^ (F.mb - 1) ≤ fr) :=
    testBit_top (by rw [Nat.sub_add_cancel hmb]; exact Nat.mod_lt _ (by positivity))
  have hlow : c % 2 ^ (F.eb + F.mb) < 2 ^ F.mb ↔ ex = 0 := by
    rw [← hex, Nat.div_eq_zero_iff]
    simp
  have hpos : 0 < 2 ^ F.mb := by positivity
  unfold fclass Fmt.dec
  simp only [hinf, hs, hex, hfr, htop, hlow, Bool.true_and, Bool.not_true, Bool.false_and, Bool.false_eq_true, if_false, decide_eq_true_eq]
  generalize s = b
  by_cases h1 : ex = 2 ^ F.eb - 1
  · rw [if_pos h1, if_pos h1]
    by_cases h2 : fr = 0
    · cases b <;> simp [h2]
    · by_cases h3 : fr < 2 ^ (F.mb - 1)
      · simp [h2, h3, Nat.not_le.2 h3]
      · simp [h2, h3, Nat.not_lt.1 h3]
  · rw [if_neg h1, if_neg h1]
    by_cases h2 : ex = 0
    · by_cases h3 : fr = 0
      · cases b <;> simp [h2, h3, Dy.isZero]
      · cases b <;> simp [h2, h3, Dy.isZero]
    · have hne : ((fr : Int) + 2 ^ F.mb) ≠ 0 := by positivity
      cases b
      · simp [h2, Dy.isZero, hne]
      · have hne' : -2 ^ F.mb + -(fr : Int) ≠ 0 := fun h0 => hne (by omega)
        simp [h2, Dy.isZero, hne']

end Sys2Proof.Machine
end

section
/-! PROOFS. O6: floating-point instructions, what their arithmetic delivers, and their flags. -/

namespace Sys2Proof.Machine

theorem Yields.mono {i : Instr} {f : Frame} {pair : Bool} {u : W64 → W64} {taint : Warp → Mask} {P Q : Warp → Fin 32 → W64 → Prop}
    (h : Yields i f pair u taint P) (hPQ : ∀ x l r, P x l r → Q x l r) : Yields i f pair u taint Q := by
  intro s x e sh hr hact
  obtain ⟨t, y, r, he, hp, hs, hv, hd⟩ := h s x e sh hr hact
  exact ⟨t, y, r, he, hp, hs, fun l => hPQ x l _ (hv l), hd⟩

/-- NaN operands of `minMax`, and its flag (R104). -/
theorem Fmt.minMax_nan (F : Fmt) (fz max pn : Bool) (p q : Nat) :
    let a := F.decFz fz p
    let b := F.decFz fz q
    let r := F.minMax fz max pn p q
    r.2 = { nv := a.isSig || b.isSig } ∧
      (a.isNan = true ∧ b.isNan = true ∨ pn = true ∧ (a.isNan = true ∨ b.isNan = true) → r.1 = F.nan) ∧
      (pn = false → (a.isNan = true → b.isNan = false → r.1 = F.plain fz q) ∧ (b.isNan = true → a.isNan = false → r.1 = F.plain fz p)) := by
  intro a b r
  have hr : r = (if a.isNan && b.isNan then F.nan else if a.isNan then (if pn then F.nan else F.plain fz q)
      else if b.isNan then (if pn then F.nan else F.plain fz p) else if max then (if a.before b then F.plain fz q else F.plain fz p)
      else if b.before a then F.plain fz q else F.plain fz p, { nv := a.isSig || b.isSig }) := F.minMax_eq fz max pn p q
  refine ⟨by rw [hr], ?_, fun hpn => ⟨fun ha hb => by simp [hr, ha, hb, hpn], fun hb ha => by simp [hr, ha, hb, hpn]⟩⟩
  rintro (⟨ha, hb⟩ | ⟨hpn, ha | hb⟩)
  · simp [hr, ha, hb]
  · simp [hr, hpn, ha]
  · cases ha : a.isNan <;> simp [hr, hpn, ha, hb]

theorem ieee_fields {F : Fmt} (hF : F ∈ ieeeFormats) : F.inf = true ∧ 0 < F.mb := by
  revert F
  decide

/-- What each condition of `fcmp` gives, and whether it raises NV (R105). -/
theorem fcond_flag {n : Nat} (hn : n < 8) (a b : FVal) :
    (fcond n a b).2 = (if 2 ≤ n ∧ n ≤ 5 then a.isNan || b.isNan else a.isSig || b.isSig) ∧
      ((a.isNan || b.isNan) = true → (fcond n a b).1 = decide (n = 1 ∨ n = 7)) := by
  constructor
  · interval_cases n <;> rfl
  · intro h
    interval_cases n <;> simp [fcond, h]

theorem fcond_ordered (n : Nat) (a b : FVal) (h : (a.isNan || b.isNan) = false) : (fcond n a b).1 = match n with
    | 0 => !a.lt b && !b.lt a
    | 1 => a.lt b || b.lt a
    | 2 => a.lt b
    | 3 => !b.lt a
    | 4 => b.lt a
    | 5 => !a.lt b
    | 6 => true
    | _ => false := by
  unfold fcond
  split <;> simp [h]

/-- Settles O6: the instructions over the arithmetic of their formats, and that arithmetic for each kind of operand. -/
theorem floatInstructions : Obligations.FloatInstructions := by
  refine ⟨fun f i pk n g hm => fpInstructions f i pk n g hm, fun f => ⟨fun s x e sh h hact => h.fcmp hact, ?_, yieldsFloat_bfma2 f⟩, ?_, ?_⟩
  · refine (yields_fclass f).mono fun x l r hr => ?_
    rw [hr, fclassLane, fclassFmt_eq]
    rfl
  · intro F hF rm fz
    obtain ⟨hinf, hmb⟩ := ieee_fields hF
    refine ⟨fun v _ => F.enc_eq rm fz v (F.overflow_eq rm _), fun a b h => F.nan_operand rm fz h, fun s t => F.inf_inf rm fz s t,
      fun s t v => F.inf_num rm fz s t v, fun s t v u => ⟨F.sum_num_num rm fz s t v u, F.product_num_num rm fz s t v u⟩,
      fun a b c => F.mulAdd_one rm fz a b c, fun s t v u => rfl, fun max pn p q _ _ => ?_, fun c hc => F.fclass_eq hinf hmb hc⟩
    obtain ⟨hflag, hnan, hone⟩ := F.minMax_nan fz max pn p q
    exact ⟨hflag, hnan, hone, fun ha hb => F.minMax_extreme hF fz max pn ha hb⟩
  · intro a b
    refine ⟨fun n hn => ⟨(fcond_flag hn a b).1, (fcond_flag hn a b).2, fcond_ordered n a b⟩, fun s t v u => ⟨rfl, ?_, ?_, ?_⟩⟩
    · rw [FVal.lt_inf_left]; cases s <;> rfl
    · rw [FVal.lt_inf_right]; cases s <;> rfl
    · rw [FVal.lt_inf_left]; cases s <;> cases t <;> rfl

end Sys2Proof.Machine
end

section
/-! PROOFS. Conversions between formats (R110 to R117): what they write, raise and draw. -/

namespace Sys2Proof.Machine

/-- What `cvt` delivers to a lane (R112). -/
def cvtLane (f : Frame) (x : Warp) (l : Fin 32) : W64 × Exc :=
  convert (f.mf 8 4) (f.mf 4 4) (f.bit 3) (x.rm (f.mf 0 3)) ((x.laneOpr f.xa (decide (f.mf 8 4 = 6 ∨ f.mf 8 4 = 7))).val l)

/-- R112: one conversion, in a lane or a pair. -/
theorem yieldsFloat_cvt (f : Frame) :
    YieldsFloat (.cvt f) f (decide (f.mf 4 4 = 6 ∨ f.mf 4 4 = 7)) id (fun x _ => (x.laneOpr f.xa (decide (f.mf 8 4 = 6 ∨ f.mf 8 4 = 7))).tag)
      fun x _ l => cvtLane f x l := by
  refine yieldsFloat_of_writeLanes _ _ (by simp [Instr.shape, Form.tw]) fun s x e sh h hact => ?_
  rw [exec_cvt, execCvt, h.issueOnce, if_neg hact]
  simp only [Issue.writeLanes, decide_eq_true_eq]
  rfl

/-- What `cvtsr` delivers to a lane (R114, R115). -/
def cvtsrLane (f : Frame) (x : Warp) (l : Fin 32) : Nat × Exc :=
  cvtSr (f.mf 4 4) (srbits (x.fp.seed.setWidth 32) l.val) (f32.dec (((x.laneOpr f.xa false).val l).toNat % 2 ^ 32))

/-- R114, R115: stochastic rounding with one step of `SRSEED`. -/
theorem yieldsFloat_cvtsr (f : Frame) :
    YieldsFloat (.cvtsr f) f false (fun v => (xs (v.setWidth 32)).setWidth 64) (fun x _ => (x.laneOpr f.xa false).tag)
      fun x _ l => (BitVec.ofNat 64 ((cvtsrLane f x l).1 % 2 ^ 32), (cvtsrLane f x l).2) := by
  intro s x e sh h hact
  have hd : sh.d = .lane 1 := congrArg (fun p : Shape × Option Frame => p.1.d) h.form.symm
  obtain ⟨y, hp, hs, hseed, hdest, hflags⟩ := h.floatResult hact (pair := false) hd (fun l => BitVec.ofNat 64 ((cvtsrLane f x l).1 % 2 ^ 32))
    (x.laneOpr f.xa false).tag (fun l => (cvtsrLane f x l).2) fun v => (xs (v.setWidth 32)).setWidth 64
  refine ⟨_, y, ?_, hp, hs, hseed, hdest, hflags⟩
  rw [exec_cvtsr, execCvtsr, h.issueOnce, if_neg hact, ← Issue.writeF_eq _ _ _ fun l => cvtsrLane f x l]
  rfl

/-- The third operand of `cvtpk`, zero where the form does not name it (R116). -/
def Warp.packInto (x : Warp) (f : Frame) : Opr := if f.bit 11 then x.laneOpr f.xc false else { val := fun _ => 0, tag := 0 }

/-- What `cvtpk` delivers to a lane (R116). -/
def cvtpkLane (f : Frame) (x : Warp) (l : Fin 32) : Nat × Exc :=
  let n := packWidth (f.mf 4 4)
  let at_ := 2 * n * f.mf 12 2
  let cv := fun v : W64 => cvtFloat (f.mf 4 4) (x.rm (f.mf 0 3)) (f.bit 3) (f32.dec (v.toNat % 2 ^ 32))
  let a := cv ((x.laneOpr f.xa false).val l)
  let b := cv ((x.laneOpr f.xb false).val l)
  let m : W64 := BitVec.ofNat 64 ((2 ^ (2 * n) - 1) * 2 ^ at_)
  ((((x.packInto f).val l) &&& ~~~m).toNat % 2 ^ 32 + (a.1 + b.1 * 2 ^ n) * 2 ^ at_, a.2.or b.2)

theorem yieldsFloat_cvtpk (f : Frame) :
    YieldsFloat (.cvtpk f) f false id (fun x _ => (x.laneOpr f.xa false).tag ||| (x.laneOpr f.xb false).tag ||| (x.packInto f).tag)
      fun x _ l => (BitVec.ofNat 64 ((cvtpkLane f x l).1 % 2 ^ 32), (cvtpkLane f x l).2) := by
  refine yieldsFloat_of_writeLanes _ _ rfl fun s x e sh h hact => ?_
  rw [exec_cvtpk, execCvtpk, h.issueOnce, if_neg hact, ← Issue.writeF_eq _ _ _ fun l => cvtpkLane f x l]
  rfl

/-- One block over the active lanes (R117): what `cvtmx` makes of it. -/
def cvtmxBlock (f : Frame) (x : Warp) (act : Mask) : (Fin 32 → W64) × Exc :=
  mxLanes (f.mf 4 4) act (x.laneOpr f.xa false).val (if f.bit 0 then some (x.laneOpr f.xb false).val else none)

theorem yieldsFloat_cvtmx (f : Frame) :
    YieldsFloat (.cvtmx f) f (f.bit 0) id
      (fun x act => if ((x.laneOpr f.xa false).tag ||| (if f.bit 0 then (x.laneOpr f.xb false).tag else 0)) &&& act = 0 then 0 else allLanes)
      fun x act l => ((cvtmxBlock f x act).1 l, (cvtmxBlock f x act).2) := by
  refine yieldsFloat_of_writeLanes _ _ rfl fun s x e sh h hact => ?_
  rw [exec_cvtmx, execCvtmx, h.issueOnce, if_neg hact]
  rfl

end Sys2Proof.Machine
end

section
/-! PROOFS. Rounding (R99, R101): the codes of a format count its magnitudes upward, and a magnitude rounds to one of the two codes about it. -/

namespace Sys2Proof.Machine

/-! ## Codes as magnitudes, without a bound on the exponent -/

/-- The magnitude of a code, its exponent field unbounded. -/
def Fmt.magnitude (F : Fmt) (c : Nat) : Dy :=
  let ex := c / 2 ^ F.mb
  ⟨if ex = 0 then c % 2 ^ F.mb else c % 2 ^ F.mb + 2 ^ F.mb, F.emin - F.mb + (if ex = 0 then 0 else (ex : Int) - 1)⟩

/-- The exponent of the least magnitude of a format. -/
def Fmt.elow (F : Fmt) : Int := F.emin - F.mb

section
variable {F : Fmt} {j k : Nat}

/-- The significand `k` of a code, one past the greatest included, at exponent `j` above the least. -/
theorem Fmt.toRat_magnitude (hk : k ≤ 2 ^ (F.mb + 1)) (hj : j = 0 ∨ 2 ^ F.mb ≤ k) :
    (F.magnitude (j * 2 ^ F.mb + k)).toRat = k * 2 ^ (F.elow + j) := by
  have hpos : 0 < 2 ^ F.mb := by positivity
  rw [pow_succ] at hk
  rcases Nat.lt_or_ge k (2 ^ F.mb) with hlt | hge
  · obtain rfl : j = 0 := hj.resolve_right (Nat.not_le.2 hlt)
    have hex : (0 * 2 ^ F.mb + k) / 2 ^ F.mb = 0 := by rw [zero_mul, zero_add, Nat.div_eq_of_lt hlt]
    have hfr : (0 * 2 ^ F.mb + k) % 2 ^ F.mb = k := by rw [zero_mul, zero_add, Nat.mod_eq_of_lt hlt]
    simp only [Fmt.magnitude, hex, if_true, Dy.toRat, Fmt.elow]
    rw [show (((0 * 2 ^ F.mb + k : Nat) : Int) % 2 ^ F.mb) = ((k : Nat) : Int) by exact_mod_cast hfr]
    simp
  rcases Nat.lt_or_ge k (2 ^ F.mb * 2) with hlt2 | hge2
  · obtain ⟨r, rfl⟩ : ∃ r, k = 2 ^ F.mb + r := ⟨k - 2 ^ F.mb, by omega⟩
    have hr : r < 2 ^ F.mb := by omega
    have hsum : j * 2 ^ F.mb + (2 ^ F.mb + r) = r + 2 ^ F.mb * (j + 1) := by ring
    have hex : (j * 2 ^ F.mb + (2 ^ F.mb + r)) / 2 ^ F.mb = j + 1 := by
      rw [hsum, Nat.add_mul_div_left _ _ hpos, Nat.div_eq_of_lt hr, zero_add]
    have hfr : (j * 2 ^ F.mb + (2 ^ F.mb + r)) % 2 ^ F.mb = r := by rw [hsum, Nat.add_mul_mod_self_left, Nat.mod_eq_of_lt hr]
    simp only [Fmt.magnitude, hex, if_neg (Nat.succ_ne_zero j), Dy.toRat, Fmt.elow]
    rw [show (((j * 2 ^ F.mb + (2 ^ F.mb + r) : Nat) : Int) % 2 ^ F.mb) = ((r : Nat) : Int) by exact_mod_cast hfr]
    push_cast
    rw [add_sub_cancel_right, add_comm (r : ℚ)]
  · obtain rfl : k = 2 ^ F.mb * 2 := by omega
    have hsum : j * 2 ^ F.mb + 2 ^ F.mb * 2 = 2 ^ F.mb * (j + 2) := by ring
    have hex : (j * 2 ^ F.mb + 2 ^ F.mb * 2) / 2 ^ F.mb = j + 2 := by rw [hsum, Nat.mul_div_cancel_left _ hpos]
    have hfr : (j * 2 ^ F.mb + 2 ^ F.mb * 2) % 2 ^ F.mb = 0 := by rw [hsum, Nat.mul_mod_right]
    simp only [Fmt.magnitude, hex, if_neg (Nat.succ_ne_zero (j + 1)), Dy.toRat, Fmt.elow]
    rw [show (((j * 2 ^ F.mb + 2 ^ F.mb * 2 : Nat) : Int) % 2 ^ F.mb) = ((0 : Nat) : Int) by exact_mod_cast hfr]
    push_cast
    rw [show F.emin - F.mb + ((j : Int) + 2 - 1) = F.emin - F.mb + j + 1 by ring, zpow_add_one₀ two_ne_zero]
    ring

/-- The next code is one unit of the last place further. -/
theorem Fmt.toRat_magnitude_succ (hk : k < 2 ^ (F.mb + 1)) (hj : j = 0 ∨ 2 ^ F.mb ≤ k) :
    (F.magnitude (j * 2 ^ F.mb + k + 1)).toRat = (k + 1) * 2 ^ (F.elow + j) := by
  have h := Fmt.toRat_magnitude (F := F) (j := j) (k := k + 1) hk (hj.imp_right fun h => h.trans (Nat.le_succ k))
  rw [← add_assoc] at h
  exact_mod_cast h

end

/-- Every code is a significand at an exponent. -/
theorem Fmt.code_split (F : Fmt) (c : Nat) : ∃ j k, c = j * 2 ^ F.mb + k ∧ k < 2 ^ (F.mb + 1) ∧ (j = 0 ∨ 2 ^ F.mb ≤ k) := by
  have hpos : 0 < 2 ^ F.mb := by positivity
  have hmod : c % 2 ^ F.mb < 2 ^ F.mb := Nat.mod_lt _ hpos
  have hdiv := Nat.div_add_mod c (2 ^ F.mb)
  rw [pow_succ]
  cases hex : c / 2 ^ F.mb with
  | zero => exact ⟨0, c, by omega, by rw [hex] at hdiv; omega, .inl rfl⟩
  | succ j =>
    refine ⟨j, c % 2 ^ F.mb + 2 ^ F.mb, ?_, by omega, .inr (by omega)⟩
    rw [hex, mul_add, mul_comm] at hdiv
    omega

theorem Fmt.magnitude_strictMono (F : Fmt) : StrictMono fun c => (F.magnitude c).toRat := by
  refine strictMono_nat_of_lt_succ fun c => ?_
  obtain ⟨j, k, rfl, hk, hj⟩ := F.code_split c
  rw [Fmt.toRat_magnitude hk.le hj, Fmt.toRat_magnitude_succ hk hj]
  exact mul_lt_mul_of_pos_right (by linarith) (two_zpow_pos _)

/-! ## Where a magnitude lies among the codes -/

/-- The exponent at which `m × 2^e` is cut: the last place of its own binade, or of the least. -/
def Fmt.cutAt (F : Fmt) (m : Nat) (e : Int) : Int := if (Nat.log2 m : Int) + e < F.emin then F.elow else (Nat.log2 m : Int) + e - F.mb

/-- `m × 2^e` as an integer over a power of two, in units of `2^q`. -/
def cutNum (m : Nat) (e q : Int) : Nat := m * 2 ^ (e - q).toNat
def cutPlaces (e q : Int) : Nat := (q - e).toNat

theorem cut_value (m : Nat) (e q : Int) : (m : ℚ) * 2 ^ e * 2 ^ cutPlaces e q = cutNum m e q * 2 ^ q := by
  unfold cutPlaces cutNum
  rcases le_total e q with h | h
  · have hs := two_pow_toNat_mul (q - e) e (by omega)
    rw [sub_add_cancel] at hs
    rw [show (e - q).toNat = 0 by omega, pow_zero, mul_one, mul_assoc, mul_comm ((2 : ℚ) ^ e), hs]
  · have hs := two_pow_toNat_mul (e - q) q (by omega)
    rw [sub_add_cancel] at hs
    rw [show (q - e).toNat = 0 by omega, pow_zero, mul_one]
    push_cast
    rw [mul_assoc, hs]

/-- The two codes about a magnitude: `lo` is at it or below, the next above it; `r / 2^s` is the part of the last place between them. -/
structure Fmt.Between (F : Fmt) (m : Nat) (e : Int) (lo n s : Nat) (u : ℚ) : Prop where
  unit : 0 < u
  value : (m : ℚ) * 2 ^ e * 2 ^ s = n * u
  low : (F.magnitude lo).toRat = (n / 2 ^ s : Nat) * u
  high : (F.magnitude (lo + 1)).toRat = ((n / 2 ^ s : Nat) + 1) * u
  code : ∀ rm neg, (F.round rm neg m e).code + n / 2 ^ s = lo + roundShift rm neg n s
  exact : ∀ rm neg, (F.round rm neg m e).inexact = decide (n % 2 ^ s ≠ 0)
  parity : 0 < F.mb → lo % 2 = n / 2 ^ s % 2

theorem two_zpow_log2 {m : Nat} (hm : m ≠ 0) (e : Int) :
    (2 : ℚ) ^ ((Nat.log2 m : Int) + e) ≤ m * 2 ^ e ∧ (m : ℚ) * 2 ^ e < 2 ^ ((Nat.log2 m : Int) + e + 1) := by
  have hlo : (2 : ℚ) ^ Nat.log2 m ≤ m := by exact_mod_cast Nat.log2_self_le hm
  have hhi : (m : ℚ) < 2 ^ (Nat.log2 m + 1) := by exact_mod_cast Nat.lt_log2_self
  have he := two_zpow_pos e
  constructor
  · rw [zpow_add₀ two_ne_zero, zpow_natCast]
    exact mul_le_mul_of_nonneg_right hlo he.le
  · rw [show (Nat.log2 m : Int) + e + 1 = ((Nat.log2 m + 1 : Nat) : Int) + e by push_cast; ring, zpow_add₀ two_ne_zero, zpow_natCast]
    exact mul_lt_mul_of_pos_right hhi he

/-- A cut at the last place leaves at most the digits of a significand, and in a normal binade no fewer. -/
theorem cutNum_bounds {m : Nat} (hm : m ≠ 0) (e : Int) {q : Int} {b : Nat} (hq : (Nat.log2 m : Int) + e ≤ q + b) :
    cutNum m e q / 2 ^ cutPlaces e q < 2 ^ (b + 1) ∧ (q + b ≤ (Nat.log2 m : Int) + e → 2 ^ b ≤ cutNum m e q / 2 ^ cutPlaces e q) := by
  obtain ⟨hlo, hhi⟩ := two_zpow_log2 hm e
  have hv := cut_value m e q
  have hs : (0 : ℚ) < 2 ^ cutPlaces e q := by positivity
  have hu := two_zpow_pos q
  have hb : ∀ n : Nat, (2 : ℚ) ^ (q + n) = 2 ^ n * 2 ^ q := fun n => by rw [add_comm, zpow_add₀ two_ne_zero, zpow_natCast]
  constructor
  · rw [Nat.div_lt_iff_lt_mul (by positivity)]
    have hle : (2 : ℚ) ^ ((Nat.log2 m : Int) + e + 1) ≤ 2 ^ (q + (b + 1 : Nat)) := zpow_le_zpow_right₀ (by norm_num) (by push_cast; omega)
    have hlt : (cutNum m e q : ℚ) * 2 ^ q < 2 ^ (b + 1) * 2 ^ cutPlaces e q * 2 ^ q := by
      rw [← hv, mul_right_comm ((2 : ℚ) ^ (b + 1)), ← hb]
      exact mul_lt_mul_of_pos_right (hhi.trans_le hle) hs
    exact_mod_cast lt_of_mul_lt_mul_right hlt hu.le
  · intro hq2
    rw [Nat.le_div_iff_mul_le (by positivity)]
    have hle : (2 : ℚ) ^ (q + b) ≤ 2 ^ ((Nat.log2 m : Int) + e) := zpow_le_zpow_right₀ (by norm_num) hq2
    have hlt : (2 : ℚ) ^ b * 2 ^ cutPlaces e q * 2 ^ q ≤ (cutNum m e q : ℚ) * 2 ^ q := by
      rw [← hv, mul_right_comm, ← hb]
      exact mul_le_mul_of_nonneg_right (hle.trans hlo) hs.le
    exact_mod_cast le_of_mul_le_mul_right hlt hu

/-- The significand that `round` makes, whether or not places are cut off. -/
theorem pick_cut (rm : Rm) (neg : Bool) (m : Nat) (e q : Int) :
    (if e ≤ q then roundShift rm neg m (q - e).toNat else m * 2 ^ (e - q).toNat) = roundShift rm neg (cutNum m e q) (cutPlaces e q) := by
  unfold cutNum cutPlaces
  split
  · next h => rw [show (e - q).toNat = 0 by omega, pow_zero, mul_one]
  · next h =>
    rw [show (q - e).toNat = 0 by omega]
    generalize m * 2 ^ (e - q).toNat = n
    cases rm <;> simp [roundShift, Nat.mod_one]

theorem exact_cut (m : Nat) (e q : Int) :
    (!(decide (e ≥ q) || decide (m % 2 ^ (q - e).toNat = 0))) = decide (cutNum m e q % 2 ^ cutPlaces e q ≠ 0) := by
  unfold cutNum cutPlaces
  rcases lt_or_ge e q with h | h
  · rw [show (e - q).toNat = 0 by omega, pow_zero, mul_one]
    simp [h]
  · rw [show (q - e).toNat = 0 by omega]
    simp [h, Nat.mod_one]

theorem Fmt.elow_le_cutAt (F : Fmt) (m : Nat) (e : Int) : F.elow ≤ F.cutAt m e := by
  unfold Fmt.cutAt Fmt.elow
  split <;> omega

/-- The code that `round` delivers: a significand, above the codes of the lower binades. -/
theorem Fmt.round_code (F : Fmt) (rm : Rm) (neg : Bool) (m : Nat) (e : Int) :
    let q := F.cutAt m e
    (F.round rm neg m e).code = (q - F.elow).toNat * 2 ^ F.mb + roundShift rm neg (cutNum m e q) (cutPlaces e q) := by
  intro q
  rw [← pick_cut]
  rfl

/-- `round` gives one of the two codes about a magnitude. -/
theorem Fmt.round_between (F : Fmt) {m : Nat} (hm : m ≠ 0) (e : Int) :
    let q := F.cutAt m e
    F.Between m e ((q - F.elow).toNat * 2 ^ F.mb + cutNum m e q / 2 ^ cutPlaces e q) (cutNum m e q) (cutPlaces e q) (2 ^ q) := by
  intro q
  have hlow : F.elow ≤ q := F.elow_le_cutAt m e
  have hq : (Nat.log2 m : Int) + e ≤ q + F.mb := by
    simp only [q, Fmt.cutAt, Fmt.elow]
    split <;> omega
  obtain ⟨hk, hge⟩ := cutNum_bounds hm e hq
  have hj : (q - F.elow).toNat = 0 ∨ 2 ^ F.mb ≤ cutNum m e q / 2 ^ cutPlaces e q := by
    by_cases h : (Nat.log2 m : Int) + e < F.emin
    · left
      simp [q, Fmt.cutAt, h]
    · right
      exact hge (by simp [q, Fmt.cutAt, h])
  have hu : F.elow + ((q - F.elow).toNat : Int) = q := by omega
  refine ⟨two_zpow_pos q, cut_value m e q, ?_, ?_, fun rm neg => ?_, fun rm neg => ?_, fun hmb => ?_⟩
  · rw [Fmt.toRat_magnitude hk.le hj, hu]
  · rw [Fmt.toRat_magnitude_succ hk hj, hu]
  · rw [Fmt.round_code, show F.cutAt m e = q from rfl]
    omega
  · rw [← exact_cut]
    rfl
  · obtain ⟨b, hb⟩ := Nat.exists_eq_succ_of_ne_zero hmb.ne'
    rw [hb, pow_succ, ← mul_assoc]
    omega

end Sys2Proof.Machine
end

section
/-! PROOFS. O7: conversions, and what rounding delivers (R99, R101, R110 to R117). -/

namespace Sys2Proof.Machine

/-! ## The two codes about a magnitude (R99) -/

section
variable {F : Fmt} {m : Nat} {e : Int} {lo n s : Nat} {u : ℚ}

/-- How far the lower code is below the value, in units of the last place. -/
theorem Fmt.Between.below (h : F.Between m e lo n s u) :
    ((⟨m, e⟩ : Dy).sub (F.magnitude lo)).toRat * 2 ^ s = (n % 2 ^ s : Nat) * u := by
  have hn : (n : ℚ) = 2 ^ s * (n / 2 ^ s : Nat) + (n % 2 ^ s : Nat) := by exact_mod_cast (Nat.div_add_mod n (2 ^ s)).symm
  have hv : (⟨m, e⟩ : Dy).toRat * 2 ^ s = n * u := h.value
  rw [Dy.toRat_sub, sub_mul, hv, h.low, hn]
  ring

/-- How far the next code is above it. -/
theorem Fmt.Between.above (h : F.Between m e lo n s u) :
    ((F.magnitude (lo + 1)).sub ⟨m, e⟩).toRat * 2 ^ s = (2 ^ s - (n % 2 ^ s : Nat)) * u := by
  have hn : (n : ℚ) = 2 ^ s * (n / 2 ^ s : Nat) + (n % 2 ^ s : Nat) := by exact_mod_cast (Nat.div_add_mod n (2 ^ s)).symm
  have hv : (⟨m, e⟩ : Dy).toRat * 2 ^ s = n * u := h.value
  rw [Dy.toRat_sub, sub_mul, hv, h.high, hn]
  ring

theorem Fmt.Between.rest_lt (_ : F.Between m e lo n s u) : n % 2 ^ s < 2 ^ s := Nat.mod_lt _ (by positivity)

/-- The value is not below the lower code, and below the next. -/
theorem Fmt.Between.bounds (h : F.Between m e lo n s u) :
    (F.magnitude lo).toRat ≤ (⟨m, e⟩ : Dy).toRat ∧ (⟨m, e⟩ : Dy).toRat < (F.magnitude (lo + 1)).toRat := by
  have hs : (0 : ℚ) < 2 ^ s := by positivity
  have hb := h.below
  have ha := h.above
  have hr : ((n % 2 ^ s : Nat) : ℚ) < 2 ^ s := by exact_mod_cast h.rest_lt
  rw [Dy.toRat_sub] at hb ha
  constructor
  · have h0 : 0 ≤ ((⟨m, e⟩ : Dy).toRat - (F.magnitude lo).toRat) * 2 ^ s := hb ▸ mul_nonneg (Nat.cast_nonneg _) h.unit.le
    linarith [nonneg_of_mul_nonneg_left h0 hs]
  · have h0 : 0 < ((F.magnitude (lo + 1)).toRat - (⟨m, e⟩ : Dy).toRat) * 2 ^ s := ha ▸ mul_pos (by linarith) h.unit
    linarith [pos_of_mul_pos_left h0 hs.le]

theorem Fmt.Between.isZero_below (h : F.Between m e lo n s u) : ((⟨m, e⟩ : Dy).sub (F.magnitude lo)).isZero = decide (n % 2 ^ s = 0) := by
  have hs : (2 : ℚ) ^ s ≠ 0 := by positivity
  have hb := h.below
  rw [Bool.eq_iff_iff, Dy.isZero_iff, decide_eq_true_eq]
  constructor
  · intro h0
    rw [h0, zero_mul, eq_comm, mul_eq_zero, or_iff_left h.unit.ne'] at hb
    exact_mod_cast hb
  · intro h0
    rw [h0, Nat.cast_zero, zero_mul, mul_eq_zero, or_iff_left hs] at hb
    exact hb

/-- The next code is nearer exactly where more than half of the last place was cut off, and the lower code where less was. -/
theorem Fmt.Between.nearer (h : F.Between m e lo n s u) :
    ((F.magnitude (lo + 1)).sub ⟨m, e⟩).lt ((⟨m, e⟩ : Dy).sub (F.magnitude lo)) = decide (2 ^ s < 2 * (n % 2 ^ s)) ∧
      ((⟨m, e⟩ : Dy).sub (F.magnitude lo)).lt ((F.magnitude (lo + 1)).sub ⟨m, e⟩) = decide (2 * (n % 2 ^ s) < 2 ^ s) := by
  have hs : (0 : ℚ) < 2 ^ s := by positivity
  constructor
  · rw [Bool.eq_iff_iff, Dy.lt_iff, decide_eq_true_eq, ← mul_lt_mul_iff_left₀ hs, h.below, h.above, mul_lt_mul_iff_left₀ h.unit, sub_lt_iff_lt_add, ← two_mul]
    exact_mod_cast Iff.rfl
  · rw [Bool.eq_iff_iff, Dy.lt_iff, decide_eq_true_eq, ← mul_lt_mul_iff_left₀ hs, h.below, h.above, mul_lt_mul_iff_left₀ h.unit, lt_sub_iff_add_lt, ← two_mul]
    exact_mod_cast Iff.rfl

/-! ## Rounding by each mode -/

/-- A mode that rounds up delivers the next code. -/
theorem Fmt.Between.code_eq (h : F.Between m e lo n s u) {rm : Rm} {neg up : Bool}
    (hup : roundShift rm neg n s = if up then n / 2 ^ s + 1 else n / 2 ^ s) : (F.round rm neg m e).code = if up then lo + 1 else lo := by
  have hc := h.code rm neg
  rw [hup] at hc
  cases up with
  | true => simp only [if_true] at hc ⊢; omega
  | false => simp only [Bool.false_eq_true, if_false] at hc ⊢; omega

theorem Fmt.Between.code_rz (h : F.Between m e lo n s u) (neg : Bool) : (F.round .rz neg m e).code = lo := h.code_eq (up := false) rfl

theorem Fmt.Between.code_rne (h : F.Between m e lo n s u) (hmb : 0 < F.mb) (neg : Bool) :
    let below := (⟨m, e⟩ : Dy).sub (F.magnitude lo)
    let above := (F.magnitude (lo + 1)).sub ⟨m, e⟩
    (F.round .rne neg m e).code = if above.lt below || (!below.lt above && lo % 2 == 1) then lo + 1 else lo := by
  intro below above
  refine h.code_eq ?_
  have hup : (decide (2 ^ s < 2 * (n % 2 ^ s)) || (2 * (n % 2 ^ s) == 2 ^ s && n / 2 ^ s % 2 == 1)) =
      (above.lt below || (!below.lt above && lo % 2 == 1)) := by
    rw [h.nearer.1, h.nearer.2, h.parity hmb, Bool.eq_iff_iff]
    simp only [Bool.or_eq_true, Bool.and_eq_true, decide_eq_true_eq, beq_iff_eq, Bool.not_eq_true', decide_eq_false_iff_not]
    omega
  rw [← hup]
  rfl

theorem Fmt.Between.code_ru (h : F.Between m e lo n s u) (neg : Bool) :
    (F.round .ru neg m e).code = if ((⟨m, e⟩ : Dy).sub (F.magnitude lo)).isZero || neg then lo else lo + 1 := by
  rw [h.code_eq (up := n % 2 ^ s != 0 && !neg) rfl, h.isZero_below]
  by_cases h0 : n % 2 ^ s = 0 <;> cases neg <;> simp [h0]

theorem Fmt.Between.code_rd (h : F.Between m e lo n s u) (neg : Bool) :
    (F.round .rd neg m e).code = if ((⟨m, e⟩ : Dy).sub (F.magnitude lo)).isZero || !neg then lo else lo + 1 := by
  rw [h.code_eq (up := n % 2 ^ s != 0 && neg) rfl, h.isZero_below]
  by_cases h0 : n % 2 ^ s = 0 <;> cases neg <;> simp [h0]

theorem Fmt.Between.inexact_eq (h : F.Between m e lo n s u) (rm : Rm) (neg : Bool) :
    (F.round rm neg m e).inexact = !((⟨m, e⟩ : Dy).sub (F.magnitude lo)).isZero := by
  rw [h.exact, h.isZero_below, ← decide_not]

/-- No code is nearer to the value than both of the two codes about it. -/
theorem Fmt.Between.far (h : F.Between m e lo n s u) (c : Nat) :
    (⟨m, e⟩ : Dy).toRat - (F.magnitude lo).toRat ≤ |(⟨m, e⟩ : Dy).toRat - (F.magnitude c).toRat| ∨
      (F.magnitude (lo + 1)).toRat - (⟨m, e⟩ : Dy).toRat ≤ |(⟨m, e⟩ : Dy).toRat - (F.magnitude c).toRat| := by
  obtain ⟨hlo, hhi⟩ := h.bounds
  have hmono := F.magnitude_strictMono.monotone
  rcases Nat.lt_or_ge lo c with hc | hc
  · have hle : (F.magnitude (lo + 1)).toRat ≤ (F.magnitude c).toRat := hmono hc
    exact .inr (le_abs.2 (.inr (by linarith)))
  · have hle : (F.magnitude c).toRat ≤ (F.magnitude lo).toRat := hmono hc
    exact .inl (le_abs.2 (.inl (by linarith)))

/-- Rounding to nearest delivers a code than which none is nearer (R99). -/
theorem Fmt.Between.nearest (h : F.Between m e lo n s u) (hmb : 0 < F.mb) (neg : Bool) (c : Nat) :
    ((⟨m, e⟩ : Dy).sub (F.magnitude c)).abs.lt ((⟨m, e⟩ : Dy).sub (F.magnitude (F.round .rne neg m e).code)).abs = false := by
  rw [Dy.lt_eq_false_iff, Dy.toRat_abs, Dy.toRat_abs, Dy.toRat_sub, Dy.toRat_sub, h.code_rne hmb]
  obtain ⟨hlo, hhi⟩ := h.bounds
  have hfar := h.far c
  split
  · next hup =>
    have hnear : (F.magnitude (lo + 1)).toRat - (⟨m, e⟩ : Dy).toRat ≤ (⟨m, e⟩ : Dy).toRat - (F.magnitude lo).toRat := by
      rw [Bool.or_eq_true, Bool.and_eq_true, Bool.not_eq_true', Dy.lt_iff, Dy.lt_eq_false_iff, Dy.toRat_sub, Dy.toRat_sub] at hup
      rcases hup with hlt | ⟨hle, -⟩
      · exact hlt.le
      · exact hle
    rw [abs_sub_comm, abs_of_nonneg (by linarith)]
    rcases hfar with h1 | h1 <;> linarith
  · next hup =>
    have hnear : (⟨m, e⟩ : Dy).toRat - (F.magnitude lo).toRat ≤ (F.magnitude (lo + 1)).toRat - (⟨m, e⟩ : Dy).toRat := by
      rw [Bool.or_eq_true, not_or, Bool.not_eq_true, Dy.lt_eq_false_iff, Dy.toRat_sub, Dy.toRat_sub] at hup
      exact hup.1
    rw [abs_of_nonneg (by linarith)]
    rcases hfar with h1 | h1 <;> linarith

end

/-! ## Tininess after rounding (R101) -/

theorem roundShift_eq_or (rm : Rm) (neg : Bool) (n s : Nat) : roundShift rm neg n s = n / 2 ^ s ∨ roundShift rm neg n s = n / 2 ^ s + 1 := by
  obtain ⟨up, hup⟩ : ∃ up : Bool, roundShift rm neg n s = if up then n / 2 ^ s + 1 else n / 2 ^ s := ⟨_, rfl⟩
  cases up with
  | true => exact .inr hup
  | false => exact .inl hup

/-- Rounded at the last place of its own binade, a magnitude has a full significand, or is the next power of two. -/
theorem roundShift_cut_bounds {m : Nat} (hm : m ≠ 0) (e : Int) (b : Nat) (rm : Rm) (neg : Bool) :
    let q := (Nat.log2 m : Int) + e - b
    2 ^ b ≤ roundShift rm neg (cutNum m e q) (cutPlaces e q) ∧ roundShift rm neg (cutNum m e q) (cutPlaces e q) ≤ 2 ^ (b + 1) := by
  intro q
  obtain ⟨hhi, hlo⟩ := cutNum_bounds hm e (q := q) (b := b) (by omega)
  have hfull := hlo (by omega)
  rcases roundShift_eq_or rm neg (cutNum m e q) (cutPlaces e q) with h | h <;> omega

/-- A full significand, the next power of two included, is below a power of two by its binade, unless it is that power. -/
theorem significand_lt_iff {k b : Nat} (hlo : 2 ^ b ≤ k) (hhi : k ≤ 2 ^ (b + 1)) (q x : Int) :
    (k : ℚ) * 2 ^ q < 2 ^ x ↔ q + b < x ∧ ¬ (q + b = x - 1 ∧ k = 2 ^ (b + 1)) := by
  have hu := two_zpow_pos q
  have hpow : ∀ n : Nat, (2 : ℚ) ^ (q + n) = (2 ^ n : Nat) * 2 ^ q := fun n => by
    rw [add_comm, zpow_add₀ two_ne_zero, zpow_natCast, Nat.cast_pow, Nat.cast_ofNat]
  rcases lt_trichotomy (q + b) (x - 1) with h | h | h
  · refine iff_of_true ?_ ⟨by omega, fun hc => h.ne hc.1⟩
    calc (k : ℚ) * 2 ^ q ≤ (2 ^ (b + 1) : Nat) * 2 ^ q := mul_le_mul_of_nonneg_right (by exact_mod_cast hhi) hu.le
      _ = 2 ^ (q + (b + 1 : Nat)) := (hpow _).symm
      _ < 2 ^ x := zpow_lt_zpow_right₀ (by norm_num) (by push_cast; omega)
  · rw [show x = q + (b + 1 : Nat) by push_cast; omega, hpow, mul_lt_mul_iff_left₀ hu, Nat.cast_lt]
    push_cast
    constructor
    · exact fun hlt => ⟨by omega, fun hc => hlt.ne hc.2⟩
    · exact fun hne => lt_of_le_of_ne hhi fun hc => hne.2 ⟨by omega, hc⟩
  · refine iff_of_false (not_lt.2 ?_) fun hc => by omega
    calc (2 : ℚ) ^ x ≤ 2 ^ (q + b) := zpow_le_zpow_right₀ (by norm_num) (by omega)
      _ = (2 ^ b : Nat) * 2 ^ q := hpow b
      _ ≤ k * 2 ^ q := mul_le_mul_of_nonneg_right (by exact_mod_cast hlo) hu.le

/-- A magnitude is tiny if its significand, rounded at the last place of its own binade, is below the least normal value. -/
theorem Fmt.tiny_eq (F : Fmt) (rm : Rm) (neg : Bool) {m : Nat} (hm : m ≠ 0) (e : Int) :
    let q := (Nat.log2 m : Int) + e - F.mb
    (F.round rm neg m e).tiny = decide ((roundShift rm neg (cutNum m e q) (cutPlaces e q) : ℚ) * 2 ^ q < 2 ^ F.emin) := by
  intro q
  obtain ⟨hlo, hhi⟩ := roundShift_cut_bounds hm e F.mb rm neg
  have htiny : (F.round rm neg m e).tiny = (decide ((Nat.log2 m : Int) + e < F.emin) &&
      !((Nat.log2 m : Int) + e == F.emin - 1 && roundShift rm neg (cutNum m e q) (cutPlaces e q) == 2 ^ (F.mb + 1))) := by
    rw [← pick_cut]
    rfl
  rw [htiny, Bool.eq_iff_iff, decide_eq_true_eq, significand_lt_iff hlo hhi, show q + (F.mb : Int) = Nat.log2 m + e from sub_add_cancel _ _]
  simp only [Bool.and_eq_true, Bool.not_eq_true', Bool.and_eq_false_iff, decide_eq_true_eq, beq_eq_false_iff_ne, not_and_or, ne_eq, q]

/-- In a normal binade the code that `round` delivers is worth its significand, rounded at the last place of the binade. -/
theorem Fmt.toRat_magnitude_round (F : Fmt) (rm : Rm) (neg : Bool) {m : Nat} (hm : m ≠ 0) {e : Int} (hn : F.emin ≤ (Nat.log2 m : Int) + e) :
    let q := (Nat.log2 m : Int) + e - F.mb
    (F.magnitude (F.round rm neg m e).code).toRat = roundShift rm neg (cutNum m e q) (cutPlaces e q) * 2 ^ q := by
  intro q
  obtain ⟨hlo, hhi⟩ := roundShift_cut_bounds hm e F.mb rm neg
  have hq : F.cutAt m e = q := if_neg (not_lt.2 hn)
  have hj : F.elow + ((q - F.elow).toNat : Int) = q := by
    unfold Fmt.elow
    omega
  rw [Fmt.round_code, hq, Fmt.toRat_magnitude hhi (.inr hlo), hj]

/-- Tininess is judged after rounding without a bound on the exponent: by the code in a format `G` of the same precision in which the value is normal. -/
theorem Fmt.tiny_eq_lt (F : Fmt) (rm : Rm) (neg : Bool) {m : Nat} (hm : m ≠ 0) {e : Int} (k : Nat) :
    let G : Fmt := { F with eb := k }
    G.emin ≤ (Nat.log2 m : Int) + e → (F.round rm neg m e).tiny = (G.magnitude (G.round rm neg m e).code).lt ⟨1, F.emin⟩ := by
  intro G hn
  rw [F.tiny_eq rm neg hm e, Bool.eq_iff_iff, decide_eq_true_eq, Dy.lt_iff, G.toRat_magnitude_round rm neg hm hn, Dy.toRat, Int.cast_one, one_mul]

/-! ## What the obligation states -/

/-- R99, R101: a magnitude that is not zero, rounded to a format by each mode. -/
theorem Fmt.rounding (F : Fmt) (hmb : 0 < F.mb) {m : Nat} (hm : m ≠ 0) (e : Int) :
    let v : Dy := ⟨m, e⟩
    (∀ c : Nat, (v.sub (F.magnitude c)).abs.lt (v.sub (F.magnitude (F.round .rne false m e).code)).abs = false) ∧
    v.lt (F.magnitude (F.round .rz false m e).code) = false ∧ v.lt (F.magnitude ((F.round .rz false m e).code + 1)) = true ∧
    (v.sub (F.magnitude (F.round .rz false m e).code)).isZero = !(F.round .rz false m e).inexact ∧
    ∀ neg : Bool,
      let lo := (F.round .rz neg m e).code
      let below := v.sub (F.magnitude lo)
      let above := (F.magnitude (lo + 1)).sub v
      lo = (F.round .rz false m e).code ∧
      (F.round .rne neg m e).code = (if above.lt below || (!below.lt above && lo % 2 == 1) then lo + 1 else lo) ∧
      (F.round .ru neg m e).code = (if below.isZero || neg then lo else lo + 1) ∧
      (F.round .rd neg m e).code = (if below.isZero || !neg then lo else lo + 1) ∧
      ∀ rm : Rm, (F.round rm neg m e).inexact = !below.isZero ∧ ∀ k : Nat,
        let G : Fmt := { F with eb := k }
        G.emin ≤ v.log2 → (F.round rm neg m e).tiny = (G.magnitude (G.round rm neg m e).code).lt ⟨1, F.emin⟩ := by
  intro v
  have h := F.round_between hm e
  obtain ⟨hlo, hhi⟩ := h.bounds
  simp only [h.code_rz]
  refine ⟨h.nearest hmb false, (Dy.lt_eq_false_iff _ _).2 hlo, (Dy.lt_iff _ _).2 hhi, ?_, fun neg => ⟨trivial, h.code_rne hmb neg, h.code_ru neg, h.code_rd neg, fun rm =>
    ⟨h.inexact_eq rm neg, fun k => F.tiny_eq_lt rm neg hm k⟩⟩⟩
  rw [h.inexact_eq, Bool.not_not]

/-- Settles O7: each conversion writes what the model computes for its lane (R110 to R117); a magnitude lies between two codes, and each mode delivers
the one that it names (R99). -/
theorem conversionsAndRounding : Obligations.ConversionsAndRounding := by
  unfold Obligations.ConversionsAndRounding
  refine ⟨fun f => ⟨yieldsFloat_cvt f, yieldsFloat_cvtsr f, ?_, yieldsFloat_cvtmx f⟩, fun F hF m e hm => ?_⟩
  · have hpk := yieldsFloat_cvtpk f
    unfold cvtpkLane Warp.packInto packWidth at hpk
    cases h : f.bit 11 <;> simpa only [h, Bool.false_eq_true, if_true, if_false] using hpk
  · have hmb : ∀ F ∈ [f32, f16, bf16, e4m3, e5m2, e2m1], 0 < F.mb := by decide
    exact F.rounding (hmb F hF) hm e

end Sys2Proof.Machine
end

section
/-! PROOFS. O8: predicate instructions (R138 to R141). -/

namespace Sys2Proof.Machine

/-- An instruction whose body writes one predicate yields it (R84, R138). -/
theorem yieldsPred_of_writePred {i : Instr} {f : Frame} {n : Nat} {taint : Warp → Mask} {P : Warp → Fin 32 → Bool}
    (hexec : ∀ s x e sh, Ready i s x e sh f → x.active f e ≠ 0 →
      exec i s = .next (((s.sees x e sh f).writePred (s.opened x e sh f) n (P x) (taint x)).retire s.cur f true)) : YieldsPred i f n taint P := by
  intro s x e sh h hact
  obtain ⟨y, hp, hs, hr⟩ := h.predResult n (P x) (taint x)
  exact ⟨_, y, hexec s x e sh h hact, hp, hs, hr⟩

/-- The bit of a lane's value that `pset` takes (R139). -/
def psetBit (f : Frame) (x : Warp) (l : Fin 32) : Bool :=
  match f.vn with
  | 0 => ((x.oprA f false false).val l).getLsbD (((x.oprB f false false).val l).toNat % 32)
  | 1 => ((x.oprA f false false).val l).getLsbD l.val
  | _ => decide (((x.oprA f false false).val l).setWidth 32 ≠ 0#32)

theorem yieldsPred_pset (f : Frame) :
    YieldsPred (.pset f) f f.xd (fun x => (x.oprA f false false).tag ||| (if f.vn = 0 then (x.oprB f false false).tag else 0))
      fun x l => psetBit f x l != f.bit 0 := by
  refine yieldsPred_of_writePred fun s x e sh h hact => ?_
  rw [exec_pset, execPset, h.issueOnce, if_neg hact]
  refine congrArg₂ (fun (p : Fin 32 → Bool) (t : Mask) => Host.Outcome.next
    (((s.sees x e sh f).writePred (s.opened x e sh f) f.xd p t).retire s.cur f true)) (funext fun l => congrArg (· != f.bit 0) ?_) ?_
  · simp only [State.sees, psetBit]
    match f.vn with
    | 0 => rfl
    | 1 => rfl
    | n + 2 => exact Bool.eq_iff_iff.2 (by simp)
  · simp only [State.sees, apply_ite Opr.tag]

/-- `plop` looks the three predicates up in its table (R140). -/
theorem yieldsPred_plop (f : Frame) :
    YieldsPred (.plop f) f f.xd (fun _ => 0) fun x l =>
      f.m.getLsbD (4 * ((x.pred f.xa).getLsbD l.val).toNat + 2 * ((x.pred f.xb).getLsbD l.val).toNat + ((x.pred (f.mf 8 3)).getLsbD l.val).toNat) := by
  refine yieldsPred_of_writePred fun s x e sh h hact => ?_
  rw [exec_plop, execPlop, h.issueOnce, if_neg hact]
  rfl

/-! ## `pmov` (R141) -/

theorem sum_bits_eq_ofBits (g : Nat → Bool) (n : Nat) : ((List.range n).map fun j => (g j).toNat * 2 ^ j).sum = ofBits g n := by
  induction n with
  | zero => rfl
  | succ n ih =>
    rw [List.range_succ, List.map_append, List.sum_append, ih, ofBits]
    cases h : g n <;> simp [h]

theorem packPreds_bit (x : Warp) (l : Fin 32) {j : Nat} (hj : j < 32) :
    (packPreds x l).getLsbD j = (decide (j < 8) && (x.pred j).getLsbD l.val) := by
  rw [packPreds, sum_bits_eq_ofBits fun n => (x.pred n).getLsbD l.val, BitVec.getLsbD_ofNat, testBit_ofBits, decide_eq_true hj, Bool.true_and]

/-- `pmov` to a lane register. -/
theorem yields_pmov {f : Frame} (hv : f.vn = 0) : Yields (.pmov f) f false id (fun _ => 0) fun x l r =>
    ∀ j : Nat, j < 32 → r.getLsbD j = (decide (j < 8) && (x.pred j).getLsbD l.val) := by
  intro s x e sh h hact
  have hsh : sh = { d := .lane 1 } := by simpa [Instr.shape, hv] using (congrArg Prod.fst h.form).symm
  have hdu : f.du = false := by
    cases hb : f.du with
    | false => rfl
    | true =>
      have hbit := Shape.legal_bit (Instr.legal_of_shape h.form h.legal) hb
      rw [hsh] at hbit
      exact absurd hbit (by decide)
  obtain ⟨hz, hs, hl⟩ := h.withLane_wrote (by rw [hsh]) (packPreds x) 0
  obtain ⟨y, hp, hys, hyx, -⟩ := h.retires hz
  have hlow : ∀ l, ((packPreds x l).setWidth 64).setWidth 32 = packPreds x l := fun l => by simp
  refine ⟨_, y, fun l => (packPreds x l).setWidth 64, ?_, hp, hys.trans hs, fun l j hj => ?_, ?_⟩
  · rw [exec_pmov, execPmov, h.issueOnce, if_neg hact, if_pos hv]
    exact congrArg (fun u : State => Host.Outcome.next (u.retire s.cur f true)) (h.writeLane_opened hact (packPreds x) 0)
  · rw [BitVec.getLsbD_setWidth, packPreds_bit x l hj]
    simp [show j < 64 by omega]
  · rw [hdu]
    refine ⟨?_, fun hpair => absurd hpair Bool.false_ne_true⟩
    simp only [hlow]
    exact hl.congr hyx

/-- The warp in whose predicates the bits of a lane register have been put, those of a list that the instruction names. -/
def Warp.takesBits (x : Warp) (f : Frame) (act : Mask) (a : Lanes W32) (t : Mask) (ns : List Nat) : Warp :=
  ns.foldl (fun y n => if f.bit n then y.putPred n act (maskOf (fun l => a[l].getLsbD n) &&& ~~~t) else y) x

theorem Warp.takesBits_cons (x : Warp) (f : Frame) (act : Mask) (a : Lanes W32) (t : Mask) (n : Nat) (ns : List Nat) :
    x.takesBits f act a t (n :: ns) =
      (if f.bit n then x.putPred n act (maskOf (fun l => a[l].getLsbD n) &&& ~~~t) else x).takesBits f act a t ns := rfl

theorem Warp.takesBits_eq (x : Warp) (f : Frame) (act : Mask) (a : Lanes W32) (t : Mask) (ns : List Nat) :
    x.takesBits f act a t ns = { x with preds := (x.takesBits f act a t ns).preds } := by
  induction ns generalizing x with
  | nil => rfl
  | cons n ns ih =>
    rw [Warp.takesBits_cons]
    split
    · rw [Warp.putPred_eq]
      exact ih _
    · exact ih x

theorem Warp.takesBits_pred (x : Warp) (f : Frame) (act : Mask) (a : Lanes W32) (t : Mask) (ns : List Nat) {m : Nat} (hm : m < 7) (l : Fin 32) :
    ((x.takesBits f act a t ns).pred m).getLsbD l.val =
      if m ∈ ns ∧ f.bit m ∧ act.getLsbD l.val then a[l].getLsbD m && !t.getLsbD l.val else (x.pred m).getLsbD l.val := by
  induction ns generalizing x with
  | nil => simp [Warp.takesBits]
  | cons n ns ih =>
    rw [Warp.takesBits_cons, ih]
    by_cases hmn : m = n
    · subst hmn
      by_cases hb : f.bit m = true
      · have hput := PredHolds.put (x := x) rfl act m (fun l => a[l].getLsbD m) t m hm l
        simp only [hb, if_true, hput, true_and, List.mem_cons, true_or]
        split <;> [simp_all; rfl]
      · simp [hb]
    · have hput : ∀ v, ((x.putPred n act v).pred m) = x.pred m := fun v => by rw [Warp.putPred_get _ _ _ _ _ hm, if_neg hmn]
      have hkeep : ((if f.bit n then x.putPred n act (maskOf (fun l => a[l].getLsbD n) &&& ~~~t) else x).pred m) = x.pred m := by
        split <;> [exact hput _; rfl]
      simp only [List.mem_cons, hmn, false_or, hkeep]

theorem Issue.writePreds_setWarp (i : Issue) (s : State) (x : Warp) (f : Frame) (a : Lanes W32) (t : Mask) (ns : List Nat) :
    ns.foldl (fun u n => if f.bit n then i.writePred u n (fun l => a[l].getLsbD n) t else u) (s.setWarp i.w x) =
      s.setWarp i.w (x.takesBits f i.act a t ns) := by
  induction ns generalizing x with
  | nil => rfl
  | cons n ns ih =>
    rw [List.foldl_cons, Warp.takesBits_cons]
    split
    · rw [Issue.writePred_setWarp]
      exact ih _
    · exact ih x

/-- `pmov` to the predicates that M names. -/
theorem Ready.pmov_preds {f : Frame} {s : State} {x : Warp} {e : Entry} {sh : Shape} (hv : f.vn ≠ 0) (h : Ready (.pmov f) s x e sh f)
    (hact : x.active f e ≠ 0) :
    ∃ t y, exec (.pmov f) s = .next t ∧ Passes s t x y e sh f ∧ y.still = { x.still with preds := y.preds } ∧
      ∀ m : Nat, m < 7 → ∀ l : Fin 32, (y.pred m).getLsbD l.val =
        if f.bit m ∧ (x.active f e).getLsbD l.val then (x.lane f.xa).1[l].getLsbD m && !(x.lane f.xa).2.getLsbD l.val
        else (x.pred m).getLsbD l.val := by
  have hsame := Warp.opened_same x e sh f s.clock
  have hbits := fun (m : Nat) (hm : m < 7) =>
    Warp.takesBits_pred (x.opened e sh f s.clock) f (x.active f e) (x.lane f.xa).1 (x.lane f.xa).2 (List.range 7) hm
  have hwrite := Issue.writePreds_setWarp (s.sees x e sh f) s (x.opened e sh f s.clock) f (x.lane f.xa).1 (x.lane f.xa).2 (List.range 7)
  change List.foldl _ _ _ = s.setWarp s.cur ((x.opened e sh f s.clock).takesBits f (x.active f e) (x.lane f.xa).1 (x.lane f.xa).2 (List.range 7)) at hwrite
  rw [Warp.takesBits_eq] at hbits hwrite
  generalize ((x.opened e sh f s.clock).takesBits f (x.active f e) (x.lane f.xa).1 (x.lane f.xa).2 (List.range 7)).preds = ps at hbits hwrite
  obtain ⟨y, hp, hys, -⟩ := h.retires (h.wrote.withPreds ps)
  have hpreds : y.preds = ps := (still_preds hys :)
  refine ⟨_, y, ?_, hp, ?_, fun m hm l => ?_⟩
  · rw [exec_pmov, execPmov, h.issueOnce, if_neg hact, if_neg hv]
    exact congrArg (fun u : State => Host.Outcome.next (u.retire s.cur f true)) hwrite
  · rw [hys, hpreds, ← hsame.still]
    rfl
  · have hy : y.pred m = ({ x.opened e sh f s.clock with preds := ps } : Warp).pred m := by simp only [Warp.pred, hpreds]
    have hx : (x.opened e sh f s.clock).pred m = x.pred m := by simp only [Warp.pred, hsame.preds]
    rw [hy, hbits m hm l, hx]
    simp [hm]

/-- Settles O8: results in one predicate, the byte of a lane's predicates, and predicates from the bits of a register. -/
theorem predicateOperations : Obligations.PredicateOperations := fun f =>
  ⟨yieldsPred_pset f, yieldsPred_plop f, yields_pmov, fun hv _ _ _ _ h hact => h.pmov_preds hv hact⟩

end Sys2Proof.Machine
end

section
/-! PROOFS. Producers whose results are values (R32, R98, R142): a result on its way to a lane register or a uniform register, and the flags of its lanes. -/

namespace Sys2Proof.Machine

/-! ## The warp that awaits a result -/

/-- The warp whose register is empty until a result arrives. -/
def Warp.awaitsPut (x : Warp) (r : Reg) (p : Put) (id stamp : Nat) : Warp :=
  { x.markEmpty r stamp with results := (x.markEmpty r stamp).results ++ [{ id := id, puts := [p] }] }

/-- The warp that awaits a result in the lanes of a mask; `xz` takes none. -/
def Warp.awaitsLane (x : Warp) (act : Mask) (n : Nat) (v : Fin 32 → W32) (t : Mask) (id stamp : Nat) : Warp :=
  if n = 255 then x
  else x.awaitsPut (.x n) (.x n act (Vector.ofFn fun l => if t.getLsbD l.val then poison32 else v l) t) id stamp

/-- The warp that awaits a uniform result. -/
def Warp.awaitsUni (x : Warp) (n : Nat) (v : W64) (t : Bool) (id stamp : Nat) : Warp :=
  x.awaitsPut (.k n) (.k n (if t then poison64 else v) t) id stamp

theorem State.modWarp_fresh (s : State) (w : Nat) (x : Warp) (g : Warp → Warp) :
    (s.setWarp w x).fresh.2.modWarp w g = { s with nextId := s.nextId + 1 }.setWarp w (g x) :=
  (State.modWarp_setWarp { s with nextId := s.nextId + 1 } w x g)

theorem Issue.produceLane_setWarp (i : Issue) (s : State) (x : Warp) (n : Nat) (v : Fin 32 → W32) (t : Mask) (h : i.act ≠ 0) :
    i.produceLane (s.setWarp i.w x) n v t = { s with nextId := s.nextId + 1 }.setWarp i.w (x.awaitsLane i.act n v t s.nextId s.clock) := by
  unfold Issue.produceLane Warp.awaitsLane
  rw [if_neg h]
  dsimp only
  split
  · rfl
  · exact State.modWarp_fresh s i.w x _

theorem Issue.produceUni_setWarp (i : Issue) (s : State) (x : Warp) (n : Nat) (v : W64) (t : Bool) (h : i.act ≠ 0) :
    i.produceUni (s.setWarp i.w x) n v t = { s with nextId := s.nextId + 1 }.setWarp i.w (x.awaitsUni n v t s.nextId s.clock) := by
  unfold Issue.produceUni
  rw [if_neg h]
  exact State.modWarp_fresh s i.w x _

theorem firstLane_of_ne_zero {m : Mask} (h : m ≠ 0) : ∃ l, firstLane m = some l := by
  cases hl : lanesOf m with
  | cons l ls => exact ⟨l, by rw [firstLane, hl]; rfl⟩
  | nil =>
    refine absurd (BitVec.eq_of_getLsbD_eq fun k hk => ?_) h
    have hmem : ⟨k, hk⟩ ∉ lanesOf m := by rw [hl]; exact List.not_mem_nil
    rw [mem_lanesOf] at hmem
    simpa using hmem

/-! ## What waits for the result -/

section
variable {x y z : Warp} {e : Entry} {sh : Shape} {f : Frame}

theorem Wrote.awaitsPut (hz : Wrote x z e sh f) {r : Reg} (hr : r ∈ sh.writes f) (p : Put) (id stamp : Nat) :
    Wrote x (z.awaitsPut r p id stamp) e sh f := by
  have hs := z.markEmpty_same r stamp
  obtain ⟨hpsn, htrap⟩ := z.markEmpty_psn r stamp
  refine ⟨hs.hw.trans hz.hw, hs.run.trans hz.run, (z.markEmpty_wait r stamp).trans hz.wait, hs.owner.trans hz.owner, ⟨fun n hn => ?_, fun n hn => ?_⟩,
    fun ha => ?_⟩
  · exact (z.markEmpty_lbind_ne (fun q => hn (q ▸ hr)) stamp).trans (hz.regs.lanes n hn)
  · exact (z.markEmpty_ubind_ne (fun q => hn (q ▸ hr)) stamp).trans (hz.regs.unis n hn)
  · obtain ⟨h1, h2⟩ := hz.flaws ha
    exact ⟨hpsn.trans h1, (congrArg TrapRegs.poison htrap).trans h2⟩

/-- A warp that awaits a result differs from what it was in registers and in what is on its way. -/
theorem Warp.awaitsPut_still (z : Warp) (r : Reg) (p : Put) (id stamp : Nat) :
    (z.awaitsPut r p id stamp).still = { z.still with results := z.results ++ [{ id := id, puts := [p] }] } ∧
      (z.awaitsPut r p id stamp).results = z.results ++ [{ id := id, puts := [p] }] := by
  have hs := (z.markEmpty_same r stamp).still
  have hres : (z.markEmpty r stamp).results = z.results := (congrArg Warp.results hs :)
  refine ⟨?_, congrArg (· ++ [_]) hres⟩
  rw [← hs, ← hres]
  rfl

theorem Warp.awaitsPut_isEmpty (z : Warp) {r : Reg} (h : r ≠ .x 255) (p : Put) (id stamp : Nat) : (z.awaitsPut r p id stamp).isEmpty r = true := by
  have he := z.markEmpty_isEmpty h stamp
  cases r <;> exact he

theorem LaneWaits.awaitsLane (hres : z.results = x.results) (act : Mask) (n : Nat) (v : Fin 32 → W32) (t : Mask) (id stamp : Nat) :
    LaneWaits x (z.awaitsLane act n v t id stamp) act n v t := by
  unfold LaneWaits Warp.awaitsLane
  by_cases hn : n = 255
  · rw [if_pos hn, if_pos hn]
    exact hres
  · rw [if_neg hn, if_neg hn]
    refine ⟨z.awaitsPut_isEmpty (fun q => hn (Reg.x.inj q)) _ _ _, id, Vector.ofFn fun l => if t.getLsbD l.val then poison32 else v l, ?_, fun l _ => ?_⟩
    · rw [(z.awaitsPut_still ..).2, hres]
    · exact Vector.getElem_ofFn l.isLt

theorem UniWaits.awaitsUni (hres : z.results = x.results) (n : Nat) (v : W64) (t : Bool) (id stamp : Nat) :
    UniWaits x (z.awaitsUni n v t id stamp) n v t := by
  refine ⟨z.awaitsPut_isEmpty (r := .k n) nofun _ _ _, id, ?_⟩
  rw [Warp.awaitsUni, (z.awaitsPut_still ..).2, hres]

theorem Warp.isEmpty_congr (hx : y.x = z.x) (hk : y.k = z.k) (r : Reg) : y.isEmpty r = z.isEmpty r := by
  cases r <;> simp only [Warp.isEmpty, hx, hk]

/-- What waits, waits also in a warp with the same registers and results, and for other values that agree in its lanes. -/
theorem LaneWaits.congr {act : Mask} {n : Nat} {v v' : Fin 32 → W32} {t : Mask} (h : LaneWaits x z act n v t) (hx : y.x = z.x) (hk : y.k = z.k)
    (hres : y.results = z.results) (hv : ∀ l : Fin 32, act.getLsbD l.val = true → v l = v' l) : LaneWaits x y act n v' t := by
  unfold LaneWaits at h ⊢
  rw [Warp.isEmpty_congr hx hk, hres]
  split
  · next hn => rwa [if_pos hn] at h
  · next hn =>
    rw [if_neg hn] at h
    obtain ⟨he, id, val, hr, hval⟩ := h
    exact ⟨he, id, val, hr, fun l hl => (hval l hl).trans (by rw [hv l hl])⟩

theorem UniWaits.congr {n : Nat} {v : W64} {t : Bool} (h : UniWaits x z n v t) (hx : y.x = z.x) (hk : y.k = z.k) (hres : y.results = z.results) :
    UniWaits x y n v t := by
  unfold UniWaits at h ⊢
  rwa [Warp.isEmpty_congr hx hk, hres]

theorem FlagsHold.congr {act t t' : Mask} {er er' : Fin 32 → Exc} (h : FlagsHold x y act t er)
    (ht : ∀ l : Fin 32, act.getLsbD l.val = true → t.getLsbD l.val = t'.getLsbD l.val) (he : ∀ l : Fin 32, act.getLsbD l.val = true → er l = er' l) :
    FlagsHold x y act t' er' := by
  have hmask : act &&& ~~~t = act &&& ~~~t' := by
    refine BitVec.eq_of_getLsbD_eq fun k hk => ?_
    rw [BitVec.getLsbD_and, BitVec.getLsbD_and, BitVec.getLsbD_not, BitVec.getLsbD_not]
    cases ha : act.getLsbD k with
    | false => rfl
    | true => rw [show t.getLsbD k = t'.getLsbD k from ht ⟨k, hk⟩ ha]
  intro k hk
  rw [h k hk, hmask]
  refine congrArg (x.fp.ctl.getLsbD k || ·) ?_
  rw [Bool.eq_iff_iff, List.any_eq_true, List.any_eq_true]
  refine exists_congr fun l => and_congr_right fun hl => ?_
  rw [mem_lanesOf, BitVec.getLsbD_and, Bool.and_eq_true] at hl
  rw [he l hl.1]

end

/-! ## The result of a ready producer -/

section
variable {i : Instr} {s : State} {x : Warp} {e : Entry} {sh : Shape} {f : Frame}

/-- The warp that awaits a cross-lane result in the destination that DU selects (R142). -/
def Warp.awaitsCross (z : Warp) (f : Frame) (act : Mask) (du : Bool) (v : Fin 32 → W32) (t : Mask) (id stamp : Nat) : Warp :=
  if du then match firstLane act with
    | some l => z.awaitsUni f.kd ((v l).setWidth 64) (t &&& act != 0) id stamp
    | none => z
  else z.awaitsLane act f.xd v t id stamp

theorem Issue.cross_setWarp (j : Issue) (s : State) (z : Warp) (du : Bool) (v : Fin 32 → W32) (t : Mask) (h : j.act ≠ 0) :
    j.cross (s.setWarp j.w z) du v t =
      { s with nextId := s.nextId + 1 }.setWarp j.w (z.awaitsCross j.f j.act du v t s.nextId s.clock) := by
  obtain ⟨l, hl⟩ := firstLane_of_ne_zero h
  unfold Issue.cross Warp.awaitsCross
  cases du with
  | true =>
    simp only [hl, if_true]
    exact Issue.produceUni_setWarp j s z _ _ _ h
  | false => exact Issue.produceLane_setWarp j s z _ _ _ h

/-- The destination that DU selects awaits the result of a ready producer; nothing else of its warp has changed. -/
theorem Ready.awaitsCross (_ : Ready i s x e sh f) (hact : x.active f e ≠ 0) {du : Bool} (hd : sh.d = Form.sel du 1) (v : Fin 32 → W32) (t : Mask)
    {z : Warp} (hz : Wrote x z e sh f) (hres : z.results = x.results) (id stamp : Nat) :
    let q := z.awaitsCross f (x.active f e) du v t id stamp
    Wrote x q e sh f ∧ q.still = { z.still with results := q.results } ∧ q.fp = z.fp ∧ q.preds = z.preds ∧
      if du then ∃ l : Fin 32, firstLane (x.active f e) = some l ∧ UniWaits x q f.kd ((v l).setWidth 64) (t &&& x.active f e != 0)
      else LaneWaits x q (x.active f e) f.xd v t := by
  obtain ⟨l, hl⟩ := firstLane_of_ne_zero hact
  have hput : ∀ (r : Reg) (p : Put), r ∈ sh.writes f → Wrote x (z.awaitsPut r p id stamp) e sh f ∧
      (z.awaitsPut r p id stamp).still = { z.still with results := (z.awaitsPut r p id stamp).results } ∧
      (z.awaitsPut r p id stamp).fp = z.fp ∧ (z.awaitsPut r p id stamp).preds = z.preds := fun r p hr => by
    obtain ⟨hs, hq⟩ := z.awaitsPut_still r p id stamp
    exact ⟨hz.awaitsPut hr p id stamp, hq ▸ hs, (congrArg Warp.fp hs :), (congrArg Warp.preds hs :)⟩
  cases du with
  | true =>
    have hr : Reg.k f.kd ∈ sh.writes f := by simp [Shape.writes, hd, Form.sel, Opd.regs, Frame.kd]
    obtain ⟨h1, h2, h3, h4⟩ := hput (.k f.kd) (.k f.kd (if t &&& x.active f e != 0 then poison64 else (v l).setWidth 64) (t &&& x.active f e != 0)) hr
    have hq : z.awaitsCross f (x.active f e) true v t id stamp = z.awaitsUni f.kd ((v l).setWidth 64) (t &&& x.active f e != 0) id stamp := by
      simp only [Warp.awaitsCross, hl, if_true]
    rw [hq]
    exact ⟨h1, h2, h3, h4, l, hl, .awaitsUni hres _ _ _ _ _⟩
  | false =>
    have hwait := LaneWaits.awaitsLane hres (x.active f e) f.xd v t id stamp
    have hq : z.awaitsCross f (x.active f e) false v t id stamp = z.awaitsLane (x.active f e) f.xd v t id stamp := rfl
    rw [hq]
    by_cases hn : f.xd = 255
    · have hsame : z.awaitsLane (x.active f e) f.xd v t id stamp = z := if_pos hn
      rw [hsame] at hwait ⊢
      exact ⟨hz, rfl, rfl, rfl, hwait⟩
    · have hput' := hput (.x f.xd) (.x f.xd (x.active f e) (Vector.ofFn fun l => if t.getLsbD l.val then poison32 else v l) t)
        (mem_writes_lane (n := 1) hd (j := 0) (by decide) hn hn)
      have hlane : z.awaitsLane (x.active f e) f.xd v t id stamp = z.awaitsPut (.x f.xd) _ id stamp := if_neg hn
      rw [hlane] at hwait ⊢
      obtain ⟨h1, h2, h3, h4⟩ := hput'
      exact ⟨h1, h2, h3, h4, hwait⟩

/-- The state in which a ready producer's result is on its way and its flags are raised (R98, R142). -/
def State.crossed (s : State) (x : Warp) (e : Entry) (sh : Shape) (f : Frame) (du : Bool) (v : Fin 32 → W32) (t q : Mask) (er : Fin 32 → Exc) : State :=
  (s.sees x e sh f).raise ((s.sees x e sh f).cross (s.opened x e sh f) du v t) q er

/-- A ready producer passes; its destination waits for the result, and the flags of its lanes are raised. -/
theorem Ready.late (h : Ready i s x e sh f) (hact : x.active f e ≠ 0) {du : Bool} (hd : sh.d = Form.sel du 1) (v : Fin 32 → W32) (t q : Mask)
    (er : Fin 32 → Exc) :
    ∃ y, Passes s ((s.crossed x e sh f du v t q er).retire s.cur f true) x y e sh f ∧ y.still = { x.still with fp := y.fp, results := y.results } ∧
      y.fp.seed = x.fp.seed ∧
      (if du then ∃ l : Fin 32, firstLane (x.active f e) = some l ∧ UniWaits x y f.kd ((v l).setWidth 64) (t &&& x.active f e != 0)
        else LaneWaits x y (x.active f e) f.xd v t) ∧
      FlagsHold x y (x.active f e) q er := by
  have hopened := Warp.opened_same x e sh f s.clock
  obtain ⟨hz, hstill, hfp, -, hwait⟩ := h.awaitsCross hact hd v t h.wrote (congrArg Warp.results hopened.still :) s.nextId s.clock
  have hstate : s.crossed x e sh f du v t q er = { s with nextId := s.nextId + 1 }.setWarp s.cur
      { (x.opened e sh f s.clock).awaitsCross f (x.active f e) du v t s.nextId s.clock with
        fp := { x.fp with ctl := x.fp.ctl ||| raisedBits (x.active f e) q er } } := by
    rw [State.crossed, State.opened, show s.cur = (s.sees x e sh f).w from rfl, Issue.cross_setWarp _ _ _ _ _ _ hact, ← hopened.fp, ← hfp]
    exact State.modWarp_setWarp ..
  rw [hstate]
  generalize (x.opened e sh f s.clock).awaitsCross f (x.active f e) du v t s.nextId s.clock = z at *
  have hp := h.passes_numbered (hz.withFp { x.fp with ctl := x.fp.ctl ||| raisedBits (x.active f e) q er }) (s.nextId + 1)
  have hs := Warp.retired_still { s with nextId := s.nextId + 1 } s.cur
    { z with fp := { x.fp with ctl := x.fp.ctl ||| raisedBits (x.active f e) q er } } f true
  have hx := Warp.retired_x { s with nextId := s.nextId + 1 } s.cur
    { z with fp := { x.fp with ctl := x.fp.ctl ||| raisedBits (x.active f e) q er } } f true
  have hk := Warp.retired_k { s with nextId := s.nextId + 1 } s.cur
    { z with fp := { x.fp with ctl := x.fp.ctl ||| raisedBits (x.active f e) q er } } f true
  generalize Warp.retired { s with nextId := s.nextId + 1 } s.cur
    { z with fp := { x.fp with ctl := x.fp.ctl ||| raisedBits (x.active f e) q er } } f true = y at hp hs hx hk
  have hyfp : y.fp = { x.fp with ctl := x.fp.ctl ||| raisedBits (x.active f e) q er } := (congrArg Warp.fp hs :)
  have hres : y.results = z.results := (congrArg Warp.results hs :)
  refine ⟨y, hp, ?_, by rw [hyfp], ?_, .of_ctl (by rw [hyfp])⟩
  · rw [hs, hyfp, hres, ← hopened.still]
    exact congrArg (fun u : Warp => { u with fp := { x.fp with ctl := x.fp.ctl ||| raisedBits (x.active f e) q er } }) hstill
  · cases du with
    | true =>
      obtain ⟨l, hl, hu⟩ := hwait
      exact ⟨l, hl, hu.congr hx hk hres⟩
    | false => exact hwait.congr hx hk hres fun _ _ => rfl

/-- No flag is raised by results that have none. -/
theorem Issue.raise_none (j : Issue) (s : State) (z : Warp) (q : Mask) : j.raise (s.setWarp j.w z) q (fun _ => {}) = s.setWarp j.w z := by
  unfold Issue.raise
  rw [State.modWarp_setWarp]
  have hnone : ∀ ls : List (Fin 32), ls.foldl (fun (a : Exc) _ => a.or {}) {} = {} := by
    intro ls
    induction ls with
    | nil => rfl
    | cons l ls ih => exact ih
  simp only [hnone, Exc.bits_none, BitVec.or_zero]

/-- A cross-lane operation without flags. -/
theorem State.crossed_plain (s : State) (x : Warp) (e : Entry) (sh : Shape) (f : Frame) (du : Bool) (v : Fin 32 → W32) (t q : Mask)
    (hact : x.active f e ≠ 0) :
    s.crossed x e sh f du v t q (fun _ => {}) = (s.sees x e sh f).cross (s.opened x e sh f) du v t := by
  rw [State.crossed, State.opened, show s.cur = (s.sees x e sh f).w from rfl, Issue.cross_setWarp _ _ _ _ _ _ hact]
  exact Issue.raise_none ..

end

/-- An instruction yields a late result whose body sets it out and raises its flags. -/
theorem yieldsLate_of_crossed {i : Instr} {f : Frame} {du : Bool} {taint : Warp → Mask → Mask} {r : Warp → Mask → Fin 32 → W32}
    {er : Warp → Mask → Fin 32 → Exc} {quiet : Warp → Mask → Mask} (hd : i.shape.1.d = Form.sel du 1)
    (hexec : ∀ s x e sh, Ready i s x e sh f → x.active f e ≠ 0 → exec i s = .next ((s.crossed x e sh f du (r x (x.active f e)) (taint x (x.active f e))
      (quiet x (x.active f e)) (er x (x.active f e))).retire s.cur f true)) : YieldsLate i f du taint r er quiet := by
  intro s x e sh h hact act
  have hsh : sh.d = Form.sel du 1 := by rw [← hd, h.form]
  obtain ⟨y, hp, hs, hseed, hwait, hflags⟩ := h.late hact hsh (r x act) (taint x act) (quiet x act) (er x act)
  exact ⟨_, y, hexec s x e sh h hact, hp, hs, hseed, hwait, hflags⟩

/-- The same without flags. -/
theorem yieldsLate_of_cross {i : Instr} {f : Frame} {du : Bool} {taint : Warp → Mask → Mask} {r : Warp → Mask → Fin 32 → W32}
    (hd : i.shape.1.d = Form.sel du 1)
    (hexec : ∀ s x e sh, Ready i s x e sh f → x.active f e ≠ 0 → exec i s = .next (((s.sees x e sh f).cross (s.opened x e sh f) du
      (r x (x.active f e)) (taint x (x.active f e))).retire s.cur f true)) : YieldsLate i f du taint r (fun _ _ _ => {}) (fun _ _ => 0) :=
  yieldsLate_of_crossed hd fun s x e sh h hact => by rw [hexec s x e sh h hact, State.crossed_plain _ _ _ _ _ _ _ _ _ hact]

end Sys2Proof.Machine
end

section
/-! PROOFS. O10: special functions (R151 to R156). -/

namespace Sys2Proof.Machine

/-- Operand A of a special function under its modifiers (R100, R151). -/
def sfuOperand (f : Frame) (v : W64) : W32 :=
  let m : W32 := if f.bit 6 then v.setWidth 32 &&& 0x7FFFFFFF else v.setWidth 32
  if f.bit 7 then m ^^^ 0x80000000 else m

theorem signMods_sfu (f : Frame) (v : W64) : signMods (signsOf false) (f.bit 7) (f.bit 6) (v.setWidth 32) = sfuOperand f v := by
  have hsign : ~~~(signsOf false) = (0x7FFFFFFF : W32) := by decide
  simp only [signMods, sfuOperand, hsign]
  rfl

/-- What the issue of a special function leaves (R151). -/
theorem yieldsLate_of_special {i : Instr} {f : Frame} {g : Sfn} (hexec : ∀ s, exec i s = s.special i g) (hd : i.shape.1.d = .lane 1) :
    YieldsLate i f false (fun x _ => (x.oprA f false false).tag)
      (fun x _ l => BitVec.ofNat 32 (g.eval x.fz (sfuOperand f ((x.oprA f false false).val l))).1)
      (fun x _ l => (g.eval x.fz (sfuOperand f ((x.oprA f false false).val l))).2) fun x _ => (x.oprA f false false).tag :=
  yieldsLate_of_crossed hd fun s x e sh h hact => by
    rw [hexec, State.special, h.issueOnce, if_neg hact]
    simp only [← signMods_sfu]
    rfl

theorem specialFunctions_issue (f : Frame) (i : Instr) (g : Sfn) (hm : (i, g) ∈ [(Instr.rcp f, sfRcp), (.rsq f, sfRsq), (.sqrt f, sfSqrt), (.ex2 f, sfEx2),
      (.lg2 f, sfLg2), (.sin f, sfSin), (.cos f, sfCos), (.tanh f, sfTanh), (.sigm f, sfSigm), (.erf f, sfErf)]) :
    (∀ s, exec i s = s.special i g) ∧ i.shape.1.d = .lane 1 := by
  simp only [List.mem_cons, Prod.mk.injEq, List.not_mem_nil, or_false] at hm
  rcases hm with ⟨rfl, rfl⟩ | ⟨rfl, rfl⟩ | ⟨rfl, rfl⟩ | ⟨rfl, rfl⟩ | ⟨rfl, rfl⟩ | ⟨rfl, rfl⟩ | ⟨rfl, rfl⟩ | ⟨rfl, rfl⟩ | ⟨rfl, rfl⟩ | ⟨rfl, rfl⟩
  all_goals exact ⟨fun _ => rfl, rfl⟩

/-! ## The fixed points (R154) -/

theorem Sfn.eval_inf (g : Sfn) {fz : Bool} {a : W32} {s : Bool} (h : f32.decFz fz a.toNat = .inf s) : g.eval fz a = if s then g.ninf else g.pinf := by
  simp only [Sfn.eval, h]

theorem Sfn.eval_zero (g : Sfn) {fz : Bool} {a : W32} {s : Bool} {v : Dy} (h : f32.decFz fz a.toNat = .num s v) (hv : v.isZero = true) :
    g.eval fz a = if s then g.nzero else g.pzero := by
  unfold Sfn.eval
  rw [h]
  exact if_pos hv

/-- At −∞, −0, +0 and +∞ a function has the values that its row fixes. -/
theorem Sfn.eval_fixed (g : Sfn) (fz : Bool) :
    g.eval fz 0xFF800000 = g.ninf ∧ g.eval fz 0x80000000 = g.nzero ∧ g.eval fz 0 = g.pzero ∧ g.eval fz 0x7F800000 = g.pinf := by
  have hninf : f32.decFz fz (0xFF800000#32).toNat = .inf true := by cases fz <;> decide
  have hpinf : f32.decFz fz (0x7F800000#32).toNat = .inf false := by cases fz <;> decide
  have hnzero : ∃ v, f32.decFz fz (0x80000000#32).toNat = .num true v ∧ v.isZero = true := by cases fz <;> exact ⟨_, rfl, rfl⟩
  have hpzero : ∃ v, f32.decFz fz (0#32).toNat = .num false v ∧ v.isZero = true := by cases fz <;> exact ⟨_, rfl, rfl⟩
  obtain ⟨_, hn, hn0⟩ := hnzero
  obtain ⟨_, hp, hp0⟩ := hpzero
  exact ⟨g.eval_inf hninf, g.eval_zero hn hn0, g.eval_zero hp hp0, g.eval_inf hpinf⟩

/-- Settles O10: every special function is one issue over its own table, and its row fixes the four points. -/
theorem specialFunctions : Obligations.SpecialFunctions := by
  refine ⟨fun f i g hm => ?_, fun g a b c d hm fz => ?_⟩
  · obtain ⟨hexec, hd⟩ := specialFunctions_issue f i g hm
    exact yieldsLate_of_special hexec hd
  · obtain ⟨hninf, hnzero, hpzero, hpinf⟩ := g.eval_fixed fz
    rw [hninf, hnzero, hpzero, hpinf]
    simp only [List.mem_cons, Prod.mk.injEq, List.not_mem_nil, or_false] at hm
    rcases hm with ⟨rfl, rfl, rfl, rfl, rfl⟩ | ⟨rfl, rfl, rfl, rfl, rfl⟩ | ⟨rfl, rfl, rfl, rfl, rfl⟩ | ⟨rfl, rfl, rfl, rfl, rfl⟩ | ⟨rfl, rfl, rfl, rfl, rfl⟩ |
      ⟨rfl, rfl, rfl, rfl, rfl⟩ | ⟨rfl, rfl, rfl, rfl, rfl⟩ | ⟨rfl, rfl, rfl, rfl, rfl⟩ | ⟨rfl, rfl, rfl, rfl, rfl⟩ | ⟨rfl, rfl, rfl, rfl, rfl⟩
    all_goals exact ⟨rfl, rfl, rfl, rfl⟩

end Sys2Proof.Machine
end

section
/-! PROOFS. O9: shuffles, votes, matches and lane queries (R143, R144, R148, R149). -/

namespace Sys2Proof.Machine

/-! ## Votes and lane queries (R144, R149) -/

/-- The lanes of a vote in which its predicate holds (R144). -/
def voteHeld (f : Frame) (x : Warp) (act : Mask) : Mask := act &&& (if f.bit 6 then ~~~(x.pred f.xa) else x.pred f.xa)

/-- A vote to a predicate (R144). -/
theorem yieldsPred_vote {f : Frame} (hv : f.vn ≤ 2) {s : State} {x : Warp} {e : Entry} {sh : Shape} (h : Ready (.vote f) s x e sh f)
    (hact : x.active f e ≠ 0) :
    let n := countOf (x.active f e)
    let c := countOf (voteHeld f x (x.active f e))
    ∃ t y, exec (.vote f) s = .next t ∧ Passes s t x y e sh f ∧ y.still = { x.still with preds := y.preds } ∧
      PredHolds x y (x.active f e) f.xd (fun _ => if f.vn = 0 then decide (f.mf 0 6 ≤ c) else if f.vn = 1 then decide (c = n) else decide (c = n ∨ c = 0)) 0 := by
  intro n c
  obtain ⟨y, hp, hs, hr⟩ := h.predResult f.xd
    (fun _ => if f.vn = 0 then decide (f.mf 0 6 ≤ c) else if f.vn = 1 then decide (c = n) else decide (c = n ∨ c = 0)) 0
  refine ⟨_, y, ?_, hp, hs, hr⟩
  rw [exec_vote, execVote, h.issueOnce, if_neg hact]
  have hcases : f.vn = 0 ∨ f.vn = 1 ∨ f.vn = 2 := by omega
  rcases hcases with hv | hv | hv
  · simp only [hv]
    rfl
  · simp only [hv]
    exact congrArg (fun p => Host.Outcome.next (((s.sees x e sh f).writePred (s.opened x e sh f) f.xd p 0).retire s.cur f true))
      (funext fun _ => (beq_eq_decide c n))
  · simp only [hv]
    exact congrArg (fun p => Host.Outcome.next (((s.sees x e sh f).writePred (s.opened x e sh f) f.xd p 0).retire s.cur f true))
      (funext fun _ => show (c == n || c == 0) = decide (c = n ∨ c = 0) by rw [Bool.decide_or, beq_eq_decide, beq_eq_decide])

/-- A vote to a register (R144). -/
theorem yieldsLate_vote {f : Frame} (hv : 3 ≤ f.vn) : YieldsLate (.vote f) f f.du (fun _ _ => 0)
    (fun x act _ => if f.vn = 3 then voteHeld f x act else BitVec.ofNat 32 (countOf (voteHeld f x act))) (fun _ _ _ => {}) (fun _ _ => 0) := by
  have hshape : (Instr.vote f).shape.1.d = Form.sel f.du 1 := if_neg (by omega)
  refine yieldsLate_of_cross hshape fun s x e sh h hact => ?_
  rw [exec_vote, execVote, h.issueOnce, if_neg hact]
  by_cases h3 : f.vn = 3
  · simp only [h3]
    rfl
  · obtain ⟨n, hn⟩ : ∃ n, f.vn = n + 4 := ⟨f.vn - 4, by omega⟩
    simp only [hn]
    rfl

/-- The lanes below a lane (R149). -/
theorem countOf_below (act : Mask) (l : Fin 32) :
    countOf (act &&& ((1#32 <<< l.val) - 1)) = ((List.finRange 32).filter fun k => act.getLsbD k.val && decide (k < l)).length := by
  have hbelow : ∀ k l : Fin 32, ((1#32 <<< l.val) - 1).getLsbD k.val = decide (k < l) := by decide
  simp only [countOf, lanesOf, BitVec.getLsbD_and, hbelow]

/-- Lane queries (R149). -/
theorem yieldsLate_lanes (f : Frame) : YieldsLate (.lanes f) f (f.du && f.vn != 2) (fun _ _ => 0) (fun x act l => match f.vn with
    | 0 => act
    | 1 => x.live
    | 2 => BitVec.ofNat 32 ((List.finRange 32).filter fun k => act.getLsbD k.val && decide (k < l)).length
    | _ => BitVec.ofNat 32 (countOf act)) (fun _ _ _ => {}) (fun _ _ => 0) := by
  refine yieldsLate_of_cross (congrArg (Form.sel · 1) (Bool.and_comm ..)) fun s x e sh h hact => ?_
  rw [exec_lanes, execLanes, h.issueOnce, if_neg hact]
  simp only [← countOf_below]
  match f.vn with
  | 0 => rw [show (f.du && 0 != 2) = f.du from Bool.and_true _]; rfl
  | 1 => rw [show (f.du && 1 != 2) = f.du from Bool.and_true _]; rfl
  | 2 => rw [show (f.du && 2 != 2) = false from Bool.and_false _]; rfl
  | n + 3 => rw [show (f.du && n + 3 != 2) = f.du from Bool.and_true _]; rfl

/-! ## Matches (R148) -/

theorem getLsbD_maskOf (g : Fin 32 → Bool) (l : Fin 32) : (maskOf g).getLsbD l.val = g l :=
  (BitVec.getLsbD_eq_getElem l.isLt).trans (maskOf_get g l)

theorem lanesOf_peers (act : Mask) (a : Fin 32 → W64) (l : Fin 32) :
    lanesOf (peers act a l) = (List.finRange 32).filter fun k => act.getLsbD k.val && a k == a l := by
  refine List.filter_congr fun k _ => ?_
  rw [peers, BitVec.getLsbD_and, getLsbD_maskOf]

/-- The peers of a lane are all active lanes where there are as many of them. -/
theorem peers_eq_act (act : Mask) (a : Fin 32 → W64) (l : Fin 32) :
    (peers act a l == act) = decide (countOf (peers act a l) = countOf act) := by
  rw [beq_eq_decide, decide_eq_decide]
  refine ⟨congrArg countOf, fun h => ?_⟩
  have hsub : (lanesOf (peers act a l)).Sublist (lanesOf act) := by
    refine List.monotone_filter_right _ fun k hk => ?_
    rw [peers, BitVec.getLsbD_and, Bool.and_eq_true] at hk
    exact hk.1
  have hlanes := hsub.eq_of_length h
  refine BitVec.eq_of_getLsbD_eq fun k hk => ?_
  rw [Bool.eq_iff_iff, ← mem_lanesOf (l := ⟨k, hk⟩), ← mem_lanesOf (l := ⟨k, hk⟩), hlanes]

theorem firstLane_number (m : Mask) :
    ((firstLane m).map fun k => BitVec.ofNat 32 k.val).getD 0 = BitVec.ofNat 32 (((lanesOf m).head?.map (·.val)).getD 0) := by
  rw [firstLane]
  cases (lanesOf m).head? <;> rfl

/-- What a match delivers to a lane (R148). -/
def matchResult (f : Frame) (act : Mask) (a : Fin 32 → W64) (l : Fin 32) : W32 :=
  match f.vn with
  | 0 => BitVec.ofNat 32 (((lanesOf (peers act a l)).head?.map (·.val)).getD 0)
  | 1 => peers act a l
  | 2 => BitVec.ofNat 32 (lanesOf (peers act a l)).length
  | _ => if (lanesOf (peers act a l)).length = countOf act then 1 else 0

/-- Poison in any active lane poisons every lane of the result (R142, R148). -/
def spreads (t act : Mask) : Mask := if t &&& act = 0 then 0 else allLanes

theorem Issue.tainted_eq (i : Issue) (t : Mask) : (if i.tainted t then allLanes else 0) = spreads t i.act := by
  unfold Issue.tainted spreads
  rw [BitVec.and_comm]
  by_cases h : t &&& i.act = 0 <;> simp [h]

theorem yieldsLate_matchLanes (f : Frame) : YieldsLate (.matchLanes f) f (f.du && f.vn == 3)
    (fun x act => spreads (x.laneOpr f.xa (f.bit 0)).tag act) (fun x act => matchResult f act (x.laneOpr f.xa (f.bit 0)).val) (fun _ _ _ => {})
    (fun _ _ => 0) := by
  refine yieldsLate_of_cross (congrArg (Form.sel · 1) (Bool.and_comm ..)) fun s x e sh h hact => ?_
  have hv : f.vn ≤ 3 := by
    have hok := Shape.legal_ok (Instr.legal_of_shape h.form h.legal)
    rw [show sh = (Instr.matchLanes f).shape.1 from congrArg Prod.fst h.form.symm] at hok
    exact of_decide_eq_true hok
  have htaint := (s.sees x e sh f).tainted_eq (x.laneOpr f.xa (f.bit 0)).tag
  have hcross : ∀ (du : Bool) (g g' : Fin 32 → W32), g = g' →
      (s.sees x e sh f).cross (s.opened x e sh f) du g (if (s.sees x e sh f).tainted (x.laneOpr f.xa (f.bit 0)).tag then allLanes else 0) =
        (s.sees x e sh f).cross (s.opened x e sh f) du g' (spreads (x.laneOpr f.xa (f.bit 0)).tag (x.active f e)) := fun du g g' hg => by
    rw [hg, htaint]
    rfl
  rw [exec_matchLanes, execMatchLanes, h.issueOnce, if_neg hact]
  refine congrArg (fun u : State => Host.Outcome.next (u.retire s.cur f true)) ?_
  have hcases : f.vn = 0 ∨ f.vn = 1 ∨ f.vn = 2 ∨ f.vn = 3 := by omega
  unfold matchResult
  rcases hcases with hv | hv | hv | hv
  · rw [hv, show (f.du && (0 == 3)) = false from Bool.and_false _]
    exact hcross _ _ _ (funext fun l => firstLane_number _)
  · rw [hv, show (f.du && (1 == 3)) = false from Bool.and_false _]
    exact hcross _ _ _ rfl
  · rw [hv, show (f.du && (2 == 3)) = false from Bool.and_false _]
    exact hcross _ _ _ rfl
  · rw [hv, show (f.du && (3 == 3)) = f.du from Bool.and_true _]
    refine hcross _ _ _ (funext fun l => ?_)
    rw [peers_eq_act]
    simp only [decide_eq_true_eq]
    rfl

/-! ## Shuffles (R143) -/

/-- The place of the source of a shuffle in the segment of its lane. -/
def shflOffset (mode w b l : Nat) : Nat :=
  match mode with
  | 0 => b % w
  | 1 => (l % w + b) % w
  | 2 => (l % w) ^^^ (b % w)
  | _ => w - 1 - l % w

theorem shflSource_eq (mode w b l : Nat) : shflSource mode w b l = l / w * w + shflOffset mode w b l := by
  have hbase : l - l % w = l / w * w := by
    have := Nat.div_add_mod' l w
    omega
  have hoff : l - l / w * w = l % w := by
    have := Nat.div_add_mod' l w
    omega
  unfold shflSource shflOffset
  simp only [hbase, hoff]
  match mode with
  | 0 => rfl
  | 1 => rfl
  | 2 => rfl
  | n + 3 => rfl

theorem shflOffset_lt (mode b l k : Nat) : shflOffset mode (2 ^ k) b l < 2 ^ k := by
  have hw : 0 < 2 ^ k := Nat.two_pow_pos k
  unfold shflOffset
  split
  · exact Nat.mod_lt _ hw
  · exact Nat.mod_lt _ hw
  · exact Nat.xor_lt_two_pow (Nat.mod_lt _ hw) (Nat.mod_lt _ hw)
  · omega

/-- The source of a shuffle over segments of at most 32 lanes is a lane. -/
theorem shflSource_lt {mode k : Nat} (hk : k ≤ 5) (b : Nat) (l : Fin 32) : shflSource mode (2 ^ k) b l.val < 32 := by
  obtain ⟨n, hn⟩ : 2 ^ k ∣ 32 := Nat.pow_dvd_pow 2 hk
  have hseg : l.val / 2 ^ k < n := Nat.div_lt_of_lt_mul (hn ▸ l.isLt)
  have hoff := shflOffset_lt mode b l k
  calc shflSource mode (2 ^ k) b l.val < (l.val / 2 ^ k + 1) * 2 ^ k := by rw [shflSource_eq, Nat.add_one_mul]; omega
    _ ≤ n * 2 ^ k := Nat.mul_le_mul_right _ hseg
    _ = 32 := by rw [hn, Nat.mul_comm]

/-- The operand that gives a shuffle its sources (R143). -/
def Warp.shflB (x : Warp) (f : Frame) : Opr := if f.vn = 3 then { val := fun _ => 0, tag := 0 } else x.oprB f false false

/-- The source lane of each lane. -/
def Warp.shflFrom (x : Warp) (f : Frame) (l : Fin 32) : Nat := shflSource f.vn (2 ^ f.mf 3 3) (((x.shflB f).val l).toNat % 256) l.val

/-- The lanes in which the result of a shuffle is poisoned. -/
def Warp.shflTaint (x : Warp) (f : Frame) (act : Mask) : Mask :=
  maskOf fun l => act.getLsbD (x.shflFrom f l) && (x.lane f.xa).2.getLsbD (x.shflFrom f l) || (x.shflB f).tag.getLsbD l.val

/-- What a shuffle delivers: the value of the source lane, where it is active. -/
def Warp.shflValue (x : Warp) (f : Frame) (act : Mask) (l : Fin 32) : W32 :=
  if act.getLsbD (x.shflFrom f l) then (x.lane f.xa).1[x.shflFrom f l]?.getD 0 else 0

theorem lane_getD (v : Lanes W32) (k : Fin 32) : v[k] = v[k.val]?.getD 0 := by
  rw [Vector.getElem?_eq_getElem k.isLt]
  rfl

section
variable {f : Frame} {s : State} {x : Warp} {e : Entry} {sh : Shape}

theorem Ready.exec_shfl (h : Ready (.shfl f) s x e sh f) (hact : x.active f e ≠ 0) :
    exec (.shfl f) s = .next (((s.sees x e sh f).cross ((s.sees x e sh f).writePred (s.opened x e sh f) (f.mf 0 3)
      (fun l => (x.active f e).getLsbD (x.shflFrom f l)) (x.shflB f).tag) false (x.shflValue f (x.active f e)) (x.shflTaint f (x.active f e))).retire
      s.cur f true) := by
  have hk : f.mf 3 3 ≤ 5 := by
    have hok := Shape.legal_ok (Instr.legal_of_shape h.form h.legal)
    rw [show sh = (Instr.shfl f).shape.1 from congrArg Prod.fst h.form.symm] at hok
    simp only [Instr.shape, Bool.and_eq_true, decide_eq_true_eq] at hok
    exact hok.1.2
  have hsrc : ∀ l, (Fin.ofNat 32 (x.shflFrom f l)).val = x.shflFrom f l := fun l => Nat.mod_eq_of_lt (shflSource_lt hk _ l)
  have hstate : ∀ {ok ok' : Fin 32 → Bool} {v v' : Fin 32 → W32} {t t' : Mask}, ok = ok' → v = v' → t = t' →
      (s.sees x e sh f).produceLane ((s.sees x e sh f).writePred (s.opened x e sh f) (f.mf 0 3) ok (x.shflB f).tag) f.xd v t =
        (s.sees x e sh f).produceLane ((s.sees x e sh f).writePred (s.opened x e sh f) (f.mf 0 3) ok' (x.shflB f).tag) f.xd v' t' := by
    rintro _ _ _ _ _ _ rfl rfl rfl
    rfl
  rw [Machine.exec_shfl, execShfl, h.issueOnce, if_neg hact]
  refine congrArg (fun u : State => Host.Outcome.next (u.retire s.cur f true)) (hstate (funext fun l => ?_) (funext fun l => ?_)
    (congrArg maskOf (funext fun l => ?_)))
  · exact congrArg (x.active f e).getLsbD (hsrc l)
  · rw [lane_getD]
    exact congrArg (fun k => if (x.active f e).getLsbD k then (x.lane f.xa).1[k]?.getD 0 else 0) (hsrc l)
  · exact congrArg (fun k => (x.active f e).getLsbD k && (x.lane f.xa).2.getLsbD k || (x.shflB f).tag.getLsbD l.val) (hsrc l)

/-- A shuffle (R143): its predicate says which sources are active, and its register waits for their values. -/
theorem Ready.shfl (h : Ready (.shfl f) s x e sh f) (hact : x.active f e ≠ 0) :
    ∃ t y, exec (.shfl f) s = .next t ∧ Passes s t x y e sh f ∧ y.still = { x.still with preds := y.preds, results := y.results } ∧
      PredHolds x y (x.active f e) (f.mf 0 3) (fun l => (x.active f e).getLsbD (x.shflFrom f l)) (x.shflB f).tag ∧
      LaneWaits x y (x.active f e) f.xd (x.shflValue f (x.active f e)) (x.shflTaint f (x.active f e)) := by
  have hopened := Warp.opened_same x e sh f s.clock
  have hd : sh.d = Form.sel false 1 := congrArg (fun p : Shape × Option Frame => p.1.d) h.form.symm
  have hpred := PredHolds.put hopened.preds (x.active f e) (f.mf 0 3) (fun l => (x.active f e).getLsbD (x.shflFrom f l)) (x.shflB f).tag
  have hwrite : (s.sees x e sh f).writePred (s.opened x e sh f) (f.mf 0 3) (fun l => (x.active f e).getLsbD (x.shflFrom f l)) (x.shflB f).tag =
      s.setWarp s.cur ((x.opened e sh f s.clock).putPred (f.mf 0 3) (x.active f e)
        (maskOf (fun l => (x.active f e).getLsbD (x.shflFrom f l)) &&& ~~~(x.shflB f).tag)) := Issue.writePred_setWarp (s.sees x e sh f) s _ _ _ _
  have hexec := h.exec_shfl hact
  rw [Warp.putPred_eq] at hpred hwrite
  rw [hwrite, show s.cur = (s.sees x e sh f).w from rfl, Issue.cross_setWarp _ _ _ _ _ _ hact] at hexec
  generalize ((x.opened e sh f s.clock).putPred (f.mf 0 3) (x.active f e)
    (maskOf (fun l => (x.active f e).getLsbD (x.shflFrom f l)) &&& ~~~(x.shflB f).tag)).preds = ps at hpred hexec
  obtain ⟨hz, hstill, -, hps, hwait⟩ := h.awaitsCross hact hd (x.shflValue f (x.active f e)) (x.shflTaint f (x.active f e)) (h.wrote.withPreds ps)
    (congrArg Warp.results hopened.still :) s.nextId s.clock
  change _ = Host.Outcome.next (State.retire (State.setWarp _ s.cur (({ x.opened e sh f s.clock with preds := ps } : Warp).awaitsCross f (x.active f e) false
    _ _ s.nextId s.clock)) s.cur f true) at hexec
  generalize ({ x.opened e sh f s.clock with preds := ps } : Warp).awaitsCross f (x.active f e) false (x.shflValue f (x.active f e))
    (x.shflTaint f (x.active f e)) s.nextId s.clock = z at *
  have hs := Warp.retired_still { s with nextId := s.nextId + 1 } s.cur z f true
  have hypreds : (Warp.retired { s with nextId := s.nextId + 1 } s.cur z f true).preds = ps := (still_preds hs).trans hps
  have hyres : (Warp.retired { s with nextId := s.nextId + 1 } s.cur z f true).results = z.results := (congrArg Warp.results hs :)
  refine ⟨_, _, hexec, h.passes_numbered hz (s.nextId + 1), ?_, hpred.congr hypreds, ?_⟩
  · rw [hs, hstill, hypreds, hyres, ← hopened.still]
    rfl
  · exact LaneWaits.congr hwait (Warp.retired_x ..) (Warp.retired_k ..) hyres fun _ _ => rfl

end

end Sys2Proof.Machine
end

section
/-! PROOFS. O9: reductions (R145, R146): an associative operation over the tree of R146 is the operation in lane order. -/

namespace Sys2Proof.Machine

/-! ## The operations of R145 -/

/-- The values of an operation without its flags. -/
def valueOf (g : W32 → W32 → W32 × Exc) (p q : W32) : W32 := (g p q).1

/-- A lane value as the number that the comparisons of R145 order. -/
def ordered (unsigned : Bool) (p : W32) : Int := if unsigned then p.toNat else p.toInt

theorem lt_ordered (unsigned : Bool) (p q : W32) :
    (if unsigned then decide (p.toNat < q.toNat) else decide (p.toInt < q.toInt)) = decide (ordered unsigned p < ordered unsigned q) := by
  cases unsigned
  · rfl
  · exact decide_eq_decide.2 Int.ofNat_lt.symm

/-- Of two values the one that a total order prefers, the first on ties, in any grouping. -/
theorem prefer_assoc {α : Type} (k : α → Int) (p q r : α) :
    let m := fun a b : α => if decide (k b < k a) then b else a
    m (m p q) r = m p (m q r) := by
  intro m
  simp only [m, decide_eq_true_eq]
  by_cases h1 : k q < k p <;> by_cases h2 : k r < k q <;> by_cases h3 : k r < k p <;> simp only [h1, h2, h3, if_true, if_false] <;> omega

/-- The integer operations are associative. -/
theorem combine_assoc {v : Nat} (hv : v ≤ 5) (unsigned : Bool) (rm : Rm) (fz : Bool) : Std.Associative (valueOf (combine v unsigned rm fz)) := by
  refine ⟨fun p q r => ?_⟩
  have hcases : v = 0 ∨ v = 1 ∨ v = 2 ∨ v = 3 ∨ v = 4 ∨ v = 5 := by omega
  rcases hcases with rfl | rfl | rfl | rfl | rfl | rfl
  · exact BitVec.add_assoc ..
  · simp only [valueOf, combine, lt_ordered]
    exact prefer_assoc (ordered unsigned) p q r
  · have hneg : ∀ a b : W32, (ordered unsigned a < ordered unsigned b) = (-ordered unsigned b < -ordered unsigned a) := fun a b => by
      rw [Int.neg_lt_neg_iff]
    simp only [valueOf, combine, lt_ordered, hneg]
    exact prefer_assoc (fun a => -ordered unsigned a) p q r
  · exact BitVec.and_assoc ..
  · exact BitVec.or_assoc ..
  · exact BitVec.xor_assoc ..

/-- The integer operations raise no flags. -/
theorem combine_plain {v : Nat} (hv : v ≤ 5) (unsigned : Bool) (rm : Rm) (fz : Bool) (p q : W32) : (combine v unsigned rm fz p q).2 = {} := by
  have hcases : v = 0 ∨ v = 1 ∨ v = 2 ∨ v = 3 ∨ v = 4 ∨ v = 5 := by omega
  rcases hcases with rfl | rfl | rfl | rfl | rfl | rfl <;> rfl

/-! ## The tree -/

section
variable {g : W32 → W32 → W32 × Exc}

/-- The present values of a list, combined from the right. -/
def joined (g : W32 → W32 → W32 × Exc) (vs : List (Option W32)) : Option W32 := vs.foldr (Option.merge (valueOf g)) none

theorem merge_assoc (hg : Std.Associative (valueOf g)) (p q r : Option W32) :
    Option.merge (valueOf g) p (Option.merge (valueOf g) q r) = Option.merge (valueOf g) (Option.merge (valueOf g) p q) r := by
  cases p <;> cases q <;> cases r <;> simp [Option.merge, hg.assoc]

/-- Two neighbours meet, and where the operation raises no flags they add none. -/
theorem pairUp_cons_cons (g : W32 → W32 → W32 × Exc) (a b : Option W32) (r : List (Option W32)) :
    (pairUp g (a :: b :: r)).1 = Option.merge (valueOf g) a b :: (pairUp g r).1 ∧
      ((∀ p q, (g p q).2 = {}) → (pairUp g r).2 = {} → (pairUp g (a :: b :: r)).2 = {}) := by
  cases a <;> cases b
  case some.some p q =>
    refine ⟨rfl, fun hg hr => ?_⟩
    show (pairUp g r).2.or (g p q).2 = {}
    rw [hg, hr]
    rfl
  all_goals exact ⟨rfl, fun _ hr => hr⟩

/-- Neighbours that meet leave the combination as it is. -/
theorem joined_pairUp (hg : Std.Associative (valueOf g)) : ∀ vs, joined g (pairUp g vs).1 = joined g vs
  | [] => rfl
  | [_] => rfl
  | a :: b :: r => by
    rw [(pairUp_cons_cons g a b r).1]
    show Option.merge (valueOf g) (Option.merge (valueOf g) a b) (joined g (pairUp g r).1) = _
    rw [joined_pairUp hg r, ← merge_assoc hg]
    rfl

theorem length_pairUp : ∀ vs, (pairUp g vs).1.length = (vs.length + 1) / 2
  | [] => rfl
  | [_] => by simp [pairUp]
  | a :: b :: r => by
    rw [(pairUp_cons_cons g a b r).1, List.length_cons, length_pairUp r, List.length_cons, List.length_cons]
    omega

theorem pairUp_plain (hg : ∀ p q, (g p q).2 = {}) : ∀ vs, (pairUp g vs).2 = {}
  | [] => rfl
  | [_] => rfl
  | a :: b :: r => (pairUp_cons_cons g a b r).2 hg (pairUp_plain hg r)

/-- The root of a tree high enough for its leaves is their combination in order. -/
theorem root_eq_joined (hg : Std.Associative (valueOf g)) (n : Nat) (vs : List (Option W32)) (h : vs.length ≤ 2 ^ n) :
    (tree g n vs).1.head?.bind id = joined g vs := by
  induction n generalizing vs with
  | zero =>
    match vs, h with
    | [], _ => rfl
    | [a], _ => cases a <;> rfl
  | succ n ih =>
    have hlen : (pairUp g vs).1.length ≤ 2 ^ n := by
      rw [length_pairUp]
      rw [Nat.pow_succ] at h
      omega
    rw [← joined_pairUp hg, ← ih _ hlen]
    rfl

theorem tree_plain (hg : ∀ p q, (g p q).2 = {}) (n : Nat) (vs : List (Option W32)) : (tree g n vs).2 = {} := by
  induction n generalizing vs with
  | zero => rfl
  | succ n ih =>
    show (pairUp g vs).2.or (tree g n (pairUp g vs).1).2 = {}
    rw [pairUp_plain hg, ih]
    rfl

/-- Values in order, combined from the left; nothing where there is none. -/
def inOrderOf (g : W32 → W32 → W32 × Exc) : List W32 → Option W32
  | [] => none
  | a :: as => some (as.foldl (valueOf g) a)

theorem inOrderOf_cons (hg : Std.Associative (valueOf g)) (a : W32) (as : List W32) :
    inOrderOf g (a :: as) = Option.merge (valueOf g) (some a) (inOrderOf g as) := by
  cases as with
  | nil => rfl
  | cons b bs => exact congrArg some (List.foldl_assoc (op := valueOf g))

/-- Lanes that are not active hold no value. -/
theorem joined_lanes (hg : Std.Associative (valueOf g)) (p : Fin 32 → Bool) (a : Fin 32 → W32) (ls : List (Fin 32)) :
    joined g (ls.map fun l => if p l then some (a l) else none) = inOrderOf g ((ls.filter p).map a) := by
  induction ls with
  | nil => rfl
  | cons l ls ih =>
    have hcons : joined g ((l :: ls).map fun l => if p l then some (a l) else none) =
        Option.merge (valueOf g) (if p l then some (a l) else none) (joined g (ls.map fun l => if p l then some (a l) else none)) := rfl
    rw [hcons, ih]
    by_cases h : p l = true
    · rw [if_pos h, List.filter_cons_of_pos h, List.map_cons, inOrderOf_cons hg]
    · rw [if_neg h, List.filter_cons_of_neg h]
      exact Option.merge_none_left

end

/-- Operand A of `redux` and `scan` (R145). -/
def crossOperand (f : Frame) (x : Warp) (l : Fin 32) : W32 :=
  if 6 ≤ f.vn then signMods 0x80000000 (f.bit 7) (f.bit 6) (x.lane f.xa).1[l] else (x.lane f.xa).1[l]

/-- The operation of `redux` and `scan` (R145). -/
def crossOp (f : Frame) (x : Warp) : W32 → W32 → W32 × Exc := combine f.vn (f.bit 0) (x.rm (f.mf 0 3)) (x.fp.ctl.getLsbD 8)

/-- The tree of R146 over the active lanes. -/
def reduxTree (f : Frame) (x : Warp) (act : Mask) : List (Option W32) × Exc :=
  tree (crossOp f x) 5 ((List.finRange 32).map fun l => if act.getLsbD l.val then some (crossOperand f x l) else none)

theorem reduxTree_int {f : Frame} (hv : f.vn ≤ 5) (x : Warp) (act : Mask) :
    (reduxTree f x act).1.head?.bind id = inOrderOf (crossOp f x) ((lanesOf act).map (crossOperand f x)) ∧ (reduxTree f x act).2 = {} := by
  have hassoc := combine_assoc hv (f.bit 0) (x.rm (f.mf 0 3)) (x.fp.ctl.getLsbD 8)
  refine ⟨?_, tree_plain (combine_plain hv _ _ _) _ _⟩
  exact (root_eq_joined (g := crossOp f x) hassoc 5 _ (by simp)).trans
    (joined_lanes hassoc (fun l => act.getLsbD l.val) (crossOperand f x) (List.finRange 32))

/-- A reduction over the active lanes (R146). -/
theorem yieldsLate_redux (f : Frame) : YieldsLate (.redux f) f f.du (fun x act => spreads (x.lane f.xa).2 act)
    (fun x act _ => ((reduxTree f x act).1.head?.bind id).getD 0) (fun x act _ => (reduxTree f x act).2) (fun x act => spreads (x.lane f.xa).2 act) :=
  yieldsLate_of_crossed rfl fun s x e sh h hact => by
    have htaint := (s.sees x e sh f).tainted_eq (x.lane f.xa).2
    rw [exec_redux, execRedux, h.issueOnce, if_neg hact]
    have hstate : ∀ {t t' : Mask}, t = t' →
        (s.sees x e sh f).raise ((s.sees x e sh f).cross (s.opened x e sh f) f.du (fun _ => ((reduxTree f x (x.active f e)).1.head?.bind id).getD 0) t) t
          (fun _ => (reduxTree f x (x.active f e)).2) =
        s.crossed x e sh f f.du (fun _ => ((reduxTree f x (x.active f e)).1.head?.bind id).getD 0) t' t' fun _ => (reduxTree f x (x.active f e)).2 := by
      rintro _ _ rfl
      rfl
    exact congrArg (fun u : State => Host.Outcome.next (u.retire s.cur f true)) (hstate htaint)

/-- Results without flags raise none, whatever lanes are quiet. -/
theorem FlagsHold.plain {x y : Warp} {act t : Mask} (h : FlagsHold x y act t fun _ => {}) (t' : Mask) : FlagsHold x y act t' fun _ => {} := by
  have hnone : ∀ (ls : List (Fin 32)) (k : Nat), (ls.any fun _ => ({} : Exc).bits.getLsbD k) = false := fun ls k =>
    List.any_eq_false.2 fun _ _ => by simp [Exc.bits_none]
  intro k hk
  rw [h k hk, hnone, hnone]

/-- The integer reductions, in lane order and without flags (R146). -/
theorem yieldsLate_redux_int {f : Frame} (hv : f.vn ≤ 5) : YieldsLate (.redux f) f f.du (fun x act => spreads (x.lane f.xa).2 act)
    (fun x act _ => (inOrderOf (crossOp f x) ((lanesOf act).map (crossOperand f x))).getD 0) (fun _ _ _ => {}) (fun _ _ => 0) := by
  intro s x e sh h hact
  obtain ⟨t, y, he, hp, hs, hseed, hwait, hflags⟩ := yieldsLate_redux f s x e sh h hact
  obtain ⟨hroot, hplain⟩ := reduxTree_int hv x (x.active f e)
  simp only [hroot] at hwait
  simp only [hplain] at hflags
  exact ⟨t, y, he, hp, hs, hseed, hwait, hflags.plain 0⟩

end Sys2Proof.Machine
end

section
/-! PROOFS. O9: scans (R147), and the obligation. -/

namespace Sys2Proof.Machine

/-! ## Lanes in order -/

/-- A rising list is what lies below one of its members, the member, and what lies above it. -/
theorem split_rising {ls : List (Fin 32)} (h : ls.Pairwise (· < ·)) {l : Fin 32} (hl : l ∈ ls) :
    ls = ls.filter (decide <| · < l) ++ l :: ls.filter (decide <| l < ·) := by
  induction ls with
  | nil => exact absurd hl List.not_mem_nil
  | cons a as ih =>
    obtain ⟨ha, has⟩ := List.pairwise_cons.1 h
    by_cases hal : a = l
    · subst hal
      have hbelow : as.filter (decide <| · < a) = [] := List.filter_eq_nil_iff.2 fun b hb => by simpa using (ha b hb).le
      have habove : as.filter (decide <| a < ·) = as := List.filter_eq_self.2 fun b hb => by simpa using ha b hb
      simp [hbelow, habove]
    · have hmem : l ∈ as := (List.mem_cons.1 hl).resolve_left (Ne.symm hal)
      have hlt : a < l := ha l hmem
      have hnot : ¬ l < a := hlt.le.not_gt
      rw [List.filter_cons_of_pos (by simpa using hlt), List.filter_cons_of_neg (by simpa using hnot), List.cons_append]
      exact congrArg (a :: ·) (ih has hmem)

theorem lanesOf_rising (m : Mask) : (lanesOf m).Pairwise (· < ·) := (List.pairwise_lt_finRange 32).filter _

/-! ## The scan of a list of lanes -/

section
variable {exc : Bool} {g : W32 → W32 → W32 × Exc} {a : Fin 32 → W32} {t : Mask}

/-- What `scan` has for a lane, from what it carries to it (R147). -/
def Scan.entry (exc : Bool) (g : W32 → W32 → W32 × Exc) (a : Fin 32 → W32) (t : Mask) (c : Scan) (l : Fin 32) : W32 × Bool × Exc × Bool :=
  let r := match c.acc with
    | some y => g y (a l)
    | none => (a l, {})
  (if exc then c.acc.getD 0 else r.1, if exc then c.tagged else c.tagged || t.getLsbD l.val, r.2, c.tagged || t.getLsbD l.val)

theorem Scan.lane_eq (c : Scan) (l : Fin 32) : Scan.lane exc g a t c l =
    { acc := some (match c.acc with | some y => (g y (a l)).1 | none => a l), tagged := c.tagged || t.getLsbD l.val,
      out := c.out ++ [(l.val, Scan.entry exc g a t c l)] } := by
  unfold Scan.lane Scan.entry
  cases c.acc <;> cases exc <;> rfl

theorem Tbl.get?_append {α : Type} (t u : Tbl α) (k : Nat) : Tbl.get? (t ++ u) k = (t.get? k).orElse fun _ => u.get? k := by
  induction t with
  | nil => rfl
  | cons p t ih =>
    obtain ⟨i, v⟩ := p
    rw [List.cons_append, Tbl.get?, Tbl.get?, ih]
    split <;> rfl

/-- Lanes leave the results of other lanes as they are. -/
theorem Scan.foldl_out (ls : List (Fin 32)) (c : Scan) {k : Nat} (h : (c.out.get? k).isSome ∨ ∀ l ∈ ls, l.val ≠ k) :
    (ls.foldl (Scan.lane exc g a t) c).out.get? k = c.out.get? k := by
  induction ls generalizing c with
  | nil => rfl
  | cons l ls ih =>
    have hone : (Scan.lane exc g a t c l).out.get? k = c.out.get? k := by
      rw [Scan.lane_eq, Tbl.get?_append]
      rcases h with h | h
      · obtain ⟨v, hv⟩ := Option.isSome_iff_exists.1 h
        rw [hv]
        rfl
      · have hne : k ≠ l.val := (h l List.mem_cons_self).symm
        simp [Tbl.get?, hne]
    rw [List.foldl_cons, ih _ ?_, hone]
    exact h.imp (hone ▸ ·) fun h m hm => h m (List.mem_cons_of_mem _ hm)

/-- The result of a lane is what the lanes before it carry to it. -/
theorem Scan.out_of_lane (pre post : List (Fin 32)) (c : Scan) {l : Fin 32} (hc : c.out = []) (hpre : l ∉ pre) :
    ((pre ++ l :: post).foldl (Scan.lane exc g a t) c).out.get? l.val = some (Scan.entry exc g a t (pre.foldl (Scan.lane exc g a t) c) l) := by
  have hnone : (pre.foldl (Scan.lane exc g a t) c).out.get? l.val = none := by
    rw [Scan.foldl_out pre c (.inr fun m hm hml => hpre ((Fin.ext hml : m = l) ▸ hm)), hc]
    rfl
  have hlane : (Scan.lane exc g a t (pre.foldl (Scan.lane exc g a t) c) l).out.get? l.val =
      some (Scan.entry exc g a t (pre.foldl (Scan.lane exc g a t) c) l) := by
    rw [Scan.lane_eq, Tbl.get?_append, hnone]
    simp [Tbl.get?]
  rw [List.foldl_append, List.foldl_cons, Scan.foldl_out post _ (.inl (by rw [hlane]; rfl)), hlane]

/-- What `scan` has combined before a lane: the values of the lanes before it, after the identity under `.exc` (R147). -/
def carried (exc : Bool) (ident : W32) (g : W32 → W32 → W32 × Exc) (vs : List W32) : Option W32 :=
  if exc then some (vs.foldl (valueOf g) ident) else inOrderOf g vs

theorem Scan.foldl_acc (ident : W32) (ls : List (Fin 32)) :
    (ls.foldl (Scan.lane exc g a t) { acc := if exc then some ident else none }).acc = carried exc ident g (ls.map a) := by
  have hsome : ∀ (ls : List (Fin 32)) (c : Scan) (p : W32), c.acc = some p →
      (ls.foldl (Scan.lane exc g a t) c).acc = some ((ls.map a).foldl (valueOf g) p) := fun ls => by
    induction ls with
    | nil => exact fun c p h => h
    | cons l ls ih =>
      intro c p h
      rw [List.foldl_cons, List.map_cons, List.foldl_cons]
      refine ih _ _ ?_
      rw [Scan.lane_eq, h]
      rfl
  unfold carried
  cases exc with
  | true => exact hsome ls _ _ rfl
  | false =>
    cases ls with
    | nil => rfl
    | cons l ls =>
      rw [List.foldl_cons]
      refine hsome ls _ (a l) ?_
      rw [Scan.lane_eq]
      rfl

theorem Scan.foldl_tagged (ls : List (Fin 32)) (c : Scan) :
    (ls.foldl (Scan.lane exc g a t) c).tagged = (c.tagged || ls.any fun l => t.getLsbD l.val) := by
  induction ls generalizing c with
  | nil => simp
  | cons l ls ih => rw [List.foldl_cons, ih, Scan.lane_eq, List.any_cons, Bool.or_assoc]

end

/-! ## The scan of the active lanes -/

section
variable {f : Frame} {x : Warp} {act : Mask} {l : Fin 32}

/-- The values of the active lanes below a lane, combined (R147). -/
def scanBefore (f : Frame) (x : Warp) (act : Mask) (l : Fin 32) : Option W32 :=
  carried (f.bit 4) (identity f.vn (f.bit 0)) (crossOp f x) (((lanesOf act).filter (decide <| · < l)).map (crossOperand f x))

/-- The value of a lane with those below it, and the flags of its rounding. -/
def scanUpto (f : Frame) (x : Warp) (act : Mask) (l : Fin 32) : W32 × Exc :=
  match scanBefore f x act l with
  | none => (crossOperand f x l, {})
  | some p => crossOp f x p (crossOperand f x l)

/-- A tagged value is among those of the active lanes below a lane, or up to it. -/
def scanDirty (x : Warp) (f : Frame) (act : Mask) (strict : Bool) (l : Fin 32) : Bool :=
  (lanesOf act).any fun k => (x.lane f.xa).2.getLsbD k.val && (if strict then decide (k < l) else decide (k ≤ l))

/-- What `execScan` carries through the active lanes. -/
def scanOf (f : Frame) (x : Warp) (act : Mask) : Scan :=
  (lanesOf act).foldl (Scan.lane (f.bit 4) (crossOp f x) (crossOperand f x) (x.lane f.xa).2)
    { acc := if f.bit 4 then some (identity f.vn (f.bit 0)) else none }

theorem any_filter_lt (ls : List (Fin 32)) (p : Fin 32 → Bool) (l : Fin 32) :
    ((ls.filter (decide <| · < l)).any p) = ls.any fun k => p k && decide (k < l) := by
  rw [List.any_filter]
  exact congrArg ls.any (funext fun k => Bool.and_comm ..)

/-- The result of an active lane (R147): poisoned where it takes a tagged value in, and without flags where its rounding does. -/
theorem scanOf_active (hl : act.getLsbD l.val = true) : (scanOf f x act).out.get? l.val =
    some (if f.bit 4 then (scanBefore f x act l).getD 0 else (scanUpto f x act l).1, scanDirty x f act (f.bit 4) l, (scanUpto f x act l).2,
      scanDirty x f act false l) := by
  have hmem : l ∈ lanesOf act := mem_lanesOf.2 hl
  have hsplit := split_rising (lanesOf_rising act) hmem
  have hpre : l ∉ (lanesOf act).filter (decide <| · < l) := fun h => by simpa using (List.mem_filter.1 h).2
  have hout : (scanOf f x act).out.get? l.val = some (Scan.entry (f.bit 4) (crossOp f x) (crossOperand f x) (x.lane f.xa).2
      (((lanesOf act).filter (decide <| · < l)).foldl (Scan.lane (f.bit 4) (crossOp f x) (crossOperand f x) (x.lane f.xa).2)
        { acc := if f.bit 4 then some (identity f.vn (f.bit 0)) else none }) l) := by
    rw [scanOf, hsplit]
    exact (Scan.out_of_lane _ _ _ rfl hpre).trans (by rw [← hsplit])
  have hacc := Scan.foldl_acc (exc := f.bit 4) (g := crossOp f x) (a := crossOperand f x) (t := (x.lane f.xa).2) (identity f.vn (f.bit 0))
    ((lanesOf act).filter (decide <| · < l))
  have htag := Scan.foldl_tagged (exc := f.bit 4) (g := crossOp f x) (a := crossOperand f x) (t := (x.lane f.xa).2)
    ((lanesOf act).filter (decide <| · < l)) { acc := if f.bit 4 then some (identity f.vn (f.bit 0)) else none }
  have hstrict : scanDirty x f act true l = ((lanesOf act).filter (decide <| · < l)).any fun k => (x.lane f.xa).2.getLsbD k.val :=
    (any_filter_lt _ _ _).symm
  have hupto : scanDirty x f act false l = (scanDirty x f act true l || (x.lane f.xa).2.getLsbD l.val) := by
    rw [Bool.eq_iff_iff, Bool.or_eq_true]
    simp only [scanDirty, List.any_eq_true, Bool.and_eq_true, if_true, Bool.false_eq_true, if_false, decide_eq_true_eq]
    constructor
    · rintro ⟨k, hk, htk, hkl⟩
      rcases hkl.lt_or_eq with h | h
      · exact .inl ⟨k, hk, htk, h⟩
      · exact .inr (h ▸ htk)
    · rintro (⟨k, hk, htk, hkl⟩ | htl)
      · exact ⟨k, hk, htk, hkl.le⟩
      · exact ⟨l, hmem, htl, le_refl l⟩
  rw [Bool.false_or, ← hstrict] at htag
  rw [hout, Scan.entry, hacc, htag, ← hupto]
  unfold scanUpto scanBefore
  cases f.bit 4 <;> cases carried _ (identity f.vn (f.bit 0)) (crossOp f x) (((lanesOf act).filter (decide <| · < l)).map (crossOperand f x)) <;> rfl

theorem scanOf_inactive (hl : act.getLsbD l.val = false) : (scanOf f x act).out.get? l.val = none := by
  refine Scan.foldl_out _ _ (.inr fun m hm hml => ?_)
  rw [mem_lanesOf, hml, hl] at hm
  exact Bool.false_ne_true hm

end

/-- What `execScan` has for a lane. -/
def scanGet (f : Frame) (x : Warp) (act : Mask) (l : Fin 32) : W32 × Bool × Exc × Bool := (scanOf f x act).out.getD l.val (0, false, {}, false)

theorem scanGet_active {f : Frame} {x : Warp} {act : Mask} {l : Fin 32} (hl : act.getLsbD l.val = true) : scanGet f x act l =
    (if f.bit 4 then (scanBefore f x act l).getD 0 else (scanUpto f x act l).1, scanDirty x f act (f.bit 4) l, (scanUpto f x act l).2,
      scanDirty x f act false l) := by
  rw [scanGet, Tbl.getD, scanOf_active hl, Option.getD_some]

/-- The poisoned lanes of a scan are among the active ones. -/
theorem scanGet_taint (f : Frame) (x : Warp) (act : Mask) : (maskOf fun l => (scanGet f x act l).2.1) = maskOf (scanDirty x f act (f.bit 4)) &&& act := by
  refine BitVec.eq_of_getLsbD_eq fun k hk => ?_
  rw [BitVec.getLsbD_and, getLsbD_maskOf _ ⟨k, hk⟩, getLsbD_maskOf _ ⟨k, hk⟩]
  cases hl : act.getLsbD k with
  | true => rw [scanGet_active (l := ⟨k, hk⟩) hl, Bool.and_true]
  | false => rw [scanGet, Tbl.getD, scanOf_inactive (l := ⟨k, hk⟩) hl, Option.getD_none, Bool.and_false]

/-- A scan over the active lanes (R147). -/
theorem yieldsLate_scan (f : Frame) : YieldsLate (.scan f) f false (fun x act => maskOf (scanDirty x f act (f.bit 4)) &&& act)
    (fun x act l => if f.bit 4 then (scanBefore f x act l).getD 0 else (scanUpto f x act l).1) (fun x act l => (scanUpto f x act l).2)
    (fun x act => maskOf (scanDirty x f act false)) := by
  intro s x e sh h hact
  have hd : sh.d = Form.sel false 1 := congrArg (fun p : Shape × Option Frame => p.1.d) h.form.symm
  obtain ⟨y, hp, hs, hseed, hwait, hflags⟩ := h.late hact hd (fun l => (scanGet f x (x.active f e) l).1)
    (maskOf fun l => (scanGet f x (x.active f e) l).2.1) (maskOf fun l => (scanGet f x (x.active f e) l).2.2.2)
    fun l => (scanGet f x (x.active f e) l).2.2.1
  refine ⟨_, y, ?_, hp, hs, hseed, ?_, hflags.congr (fun l hl => ?_) fun l hl => ?_⟩
  · rw [exec_scan, execScan, h.issueOnce, if_neg hact]
    rfl
  · rw [scanGet_taint] at hwait
    exact LaneWaits.congr hwait rfl rfl rfl fun l hl => by rw [scanGet_active hl]
  · rw [getLsbD_maskOf, getLsbD_maskOf, scanGet_active hl]
  · rw [scanGet_active hl]

theorem YieldsLate.congr {i : Instr} {f : Frame} {du : Bool} {taint quiet : Warp → Mask → Mask} {r r' : Warp → Mask → Fin 32 → W32}
    {er : Warp → Mask → Fin 32 → Exc} (h : YieldsLate i f du taint r er quiet) (hr : ∀ x act l, r x act l = r' x act l) :
    YieldsLate i f du taint r' er quiet := by
  obtain rfl : r = r' := funext fun x => funext fun act => funext (hr x act)
  exact h

/-- Settles O9: shuffles, votes, lane queries and matches lane by lane, reductions over their tree, and scans from lane to lane. -/
theorem crossLaneInstructions : Obligations.CrossLaneInstructions := by
  refine ⟨fun f => ⟨fun s x e sh h hact => ?_, fun hv s x e sh h hact => yieldsPred_vote hv h hact, yieldsLate_vote, yieldsLate_lanes f, ?_⟩,
    fun f => ⟨fun hv => ?_, fun _ => yieldsLate_redux f, ?_⟩⟩
  · intro act w b tb src
    obtain ⟨t, y, he, hp, hs, hpred, hwait⟩ := h.shfl hact
    have hb : ∀ l, ((x.shflB f).val l).toNat % 256 = b l := fun l => by
      simp only [b, Warp.shflB]
      split <;> rfl
    have htb : (x.shflB f).tag = tb := by
      simp only [tb, Warp.shflB]
      split <;> rfl
    have hsrc : x.shflFrom f = src := funext fun l => by
      rw [Warp.shflFrom, shflSource_eq, hb]
      rfl
    rw [hsrc, htb] at hpred
    refine ⟨t, y, x.shflTaint f act, he, hp, hs, fun l => ?_, hpred, ?_⟩
    · rw [Warp.shflTaint, getLsbD_maskOf, hsrc, htb]
    · have hvalue : x.shflValue f act = fun l => if act.getLsbD (src l) then (x.lane f.xa).1[src l]?.getD 0 else 0 := funext fun l => by
        rw [Warp.shflValue, hsrc]
      exact hvalue ▸ hwait
  · have h := yieldsLate_matchLanes f
    unfold matchResult at h
    simp only [lanesOf_peers] at h
    exact h
  · refine (yieldsLate_redux_int hv).congr fun x act l => ?_
    change (inOrderOf (crossOp f x) ((lanesOf act).map (crossOperand f x))).getD 0 =
      match (lanesOf act).map (crossOperand f x) with | [] => 0 | a :: as => as.foldl (valueOf (crossOp f x)) a
    cases (lanesOf act).map (crossOperand f x) <;> rfl
  · exact yieldsLate_scan f

end Sys2Proof.Machine
end

section
/-! PROOFS. Frontiers (R37, R38, R120): what entries that are added make of a frontier. -/

namespace Sys2Proof.Machine

/-! ## Entries that take others in -/

/-- The lanes of an entry stand in another, at the same address and at no lower priority. -/
structure Entry.Within (a b : Entry) : Prop where
  pc : b.pc = a.pc
  prio : a.prio ≤ b.prio
  lanes : ∀ l : Fin 32, a.mask.getLsbD l.val = true → b.mask.getLsbD l.val = true

theorem Entry.Within.refl (a : Entry) : a.Within a := ⟨rfl, BitVec.le_refl _, fun _ h => h⟩
theorem Entry.Within.trans {a b c : Entry} (h : a.Within b) (k : b.Within c) : a.Within c :=
  ⟨k.pc.trans h.pc, BitVec.le_trans h.prio k.prio, fun l hl => k.lanes l (h.lanes l hl)⟩

theorem Entry.within_merge (e a : Entry) : e.Within (e.merge a) := by
  refine ⟨rfl, ?_, fun l hl => ?_⟩
  · unfold Entry.merge
    dsimp only
    split
    · exact BitVec.le_refl _
    · next h => exact BitVec.not_lt.1 h
  · simp only [Entry.merge, BitVec.getLsbD_or, hl, Bool.or_true]

theorem Entry.merge_within {e a : Entry} (h : a.pc = e.pc) : a.Within (e.merge a) := by
  refine ⟨h.symm, ?_, fun l hl => ?_⟩
  · unfold Entry.merge
    dsimp only
    split
    · next h => exact BitVec.le_of_lt h
    · exact BitVec.le_refl _
  · simp only [Entry.merge, BitVec.getLsbD_or, hl, Bool.true_or]

theorem Entry.within_foldl_merge (as : List Entry) (e : Entry) : e.Within (as.foldl Entry.merge e) := by
  induction as generalizing e with
  | nil => exact .refl e
  | cons a as ih => exact (e.within_merge a).trans (ih _)

theorem Entry.foldl_merge_within {as : List Entry} {e a : Entry} (ha : a ∈ as) (hpc : a.pc = e.pc) : a.Within (as.foldl Entry.merge e) := by
  induction as generalizing e with
  | nil => exact absurd ha List.not_mem_nil
  | cons b as ih =>
    rcases List.mem_cons.1 ha with rfl | ha
    · exact (Entry.merge_within hpc).trans (Entry.within_foldl_merge ..)
    · exact ih ha hpc

theorem Entry.lane_of_foldl_merge {as : List Entry} {e : Entry} {l : Fin 32} (h : (as.foldl Entry.merge e).mask.getLsbD l.val = true) :
    e.mask.getLsbD l.val = true ∨ ∃ a ∈ as, a.mask.getLsbD l.val = true := by
  induction as generalizing e with
  | nil => exact .inl h
  | cons b as ih =>
    rcases ih h with h | ⟨a, ha, hl⟩
    · rw [Entry.merge, BitVec.getLsbD_or, Bool.or_eq_true] at h
      exact h.symm.imp_right fun h => ⟨b, List.mem_cons_self, h⟩
    · exact .inr ⟨a, List.mem_cons_of_mem _ ha, hl⟩

theorem Entry.mem_insert {e b : Entry} {es : List Entry} : b ∈ Entry.insert e es ↔ b = e ∨ b ∈ es := by
  induction es with
  | nil => exact List.mem_cons
  | cons a es ih =>
    unfold Entry.insert
    split
    · exact List.mem_cons
    · rw [List.mem_cons, ih, List.mem_cons]
      exact or_left_comm

/-! ## Frontiers -/

/-- The lanes of an entry stand in a frontier. -/
def Holds (es : List Entry) (a : Entry) : Prop := ∃ b ∈ es, a.Within b

theorem ne_zero_of_lane {m : Mask} {l : Fin 32} (h : m.getLsbD l.val = true) : m ≠ 0 := fun h0 => by simp [h0] at h

/-- An entry that has lanes stands in the frontier to which it is added. -/
theorem Holds.add_self (es : List Entry) {e : Entry} (h : e.mask ≠ 0) : Holds (Entry.add es e) e := by
  unfold Entry.add
  rw [if_neg h]
  exact ⟨_, Entry.mem_insert.2 (.inl rfl), Entry.within_foldl_merge ..⟩

/-- What stands in a frontier stands there when an entry has been added. -/
theorem Holds.add {es : List Entry} {a : Entry} (h : Holds es a) (e : Entry) : Holds (Entry.add es e) a := by
  unfold Entry.add
  split
  · exact h
  · obtain ⟨b, hb, hab⟩ := h
    by_cases hpc : b.pc = e.pc
    · have hmem : b ∈ es.filter fun a => a.pc == e.pc := List.mem_filter.2 ⟨hb, by simpa using hpc⟩
      exact ⟨_, Entry.mem_insert.2 (.inl rfl), hab.trans (Entry.foldl_merge_within hmem hpc)⟩
    · exact ⟨b, Entry.mem_insert.2 (.inr (List.mem_filter.2 ⟨hb, by simpa using hpc⟩)), hab⟩

/-- The lanes of a frontier to which an entry has been added are those of the entry and of the frontier. -/
theorem Entry.lane_of_add {es : List Entry} {e b : Entry} (hb : b ∈ Entry.add es e) {l : Fin 32} (hl : b.mask.getLsbD l.val = true) :
    e.pc = b.pc ∧ e.mask.getLsbD l.val = true ∨ ∃ a ∈ es, a.pc = b.pc ∧ a.mask.getLsbD l.val = true := by
  unfold Entry.add at hb
  split at hb
  · exact .inr ⟨b, hb, rfl, hl⟩
  · rcases Entry.mem_insert.1 hb with rfl | hb
    · have hpc := (Entry.within_foldl_merge (es.filter fun a => a.pc == e.pc) e).pc
      rcases Entry.lane_of_foldl_merge hl with h | ⟨a, ha, h⟩
      · exact .inl ⟨hpc.symm, h⟩
      · obtain ⟨ha, hap⟩ := List.mem_filter.1 ha
        exact .inr ⟨a, ha, (beq_iff_eq.1 hap).trans hpc.symm, h⟩
    · exact .inr ⟨b, List.mem_of_mem_filter hb, rfl, hl⟩

theorem Holds.foldl {es : List Entry} {a : Entry} (h : Holds es a) (ns : List Entry) : Holds (ns.foldl Entry.add es) a := by
  induction ns generalizing es with
  | nil => exact h
  | cons n ns ih => exact ih (h.add n)

theorem Holds.foldl_new (es : List Entry) {ns : List Entry} {n : Entry} (hn : n ∈ ns) (h : n.mask ≠ 0) : Holds (ns.foldl Entry.add es) n := by
  induction ns generalizing es with
  | nil => exact absurd hn List.not_mem_nil
  | cons m ns ih =>
    rcases List.mem_cons.1 hn with rfl | hn
    · exact (Holds.add_self es h).foldl ns
    · exact ih _ hn

theorem Entry.lane_of_foldl_add {es ns : List Entry} {b : Entry} (hb : b ∈ ns.foldl Entry.add es) {l : Fin 32} (hl : b.mask.getLsbD l.val = true) :
    (∃ n ∈ ns, n.pc = b.pc ∧ n.mask.getLsbD l.val = true) ∨ ∃ a ∈ es, a.pc = b.pc ∧ a.mask.getLsbD l.val = true := by
  induction ns generalizing es with
  | nil => exact .inr ⟨b, hb, rfl, hl⟩
  | cons n ns ih =>
    rcases ih hb with ⟨m, hm, h⟩ | ⟨a, ha, hpc, h⟩
    · exact .inl ⟨m, List.mem_cons_of_mem _ hm, h⟩
    · rcases Entry.lane_of_add ha h with ⟨hn, h⟩ | ⟨c, hc, hcp, h⟩
      · exact .inl ⟨n, List.mem_cons_self, hn.trans hpc, h⟩
      · exact .inr ⟨c, hc, hcp.trans hpc, h⟩

/-! ## The frontier update of R120 -/

section
variable {i : Instr} {s : State} {x y z : Warp} {e : Entry} {sh : Shape} {f : Frame}

/-- The entries that take the place of the head of a transfer (R120). -/
def State.forks (s : State) (x : Warp) (e : Entry) (f : Frame) (target : Fin 32 → Entry) (fprio : BitVec 8) : List Entry :=
  (lanesOf (x.active f e)).map (fun l => { target l with pc := s.land s.cur x (target l).pc, mask := 1#32 <<< l.val }) ++
    [{ prio := fprio, pc := s.land s.cur x (e.pc + BitVec.ofNat 57 f.form.bytes), mask := e.mask &&& ~~~(x.active f e) }]

theorem getLsbD_one_shift (k l : Fin 32) : (1#32 <<< k.val).getLsbD l.val = (l == k) := (BitVec.getLsbD_eq_getElem l.isLt).trans (one_shift_get k l)

theorem getLsbD_active {l : Nat} (h : (x.active f e).getLsbD l = true) : e.mask.getLsbD l = true := by
  rw [Warp.active, BitVec.getLsbD_and, Bool.and_eq_true] at h
  exact h.1

theorem Splits.of_forks {target : Fin 32 → Entry} {fprio : BitVec 8} (h : y.hw = (x.replaceHead (s.forks x e f target fprio)).hw) :
    Splits s x y e f (fun l => ((target l).pc, (target l).prio)) fprio := by
  have hstands : ∀ n ∈ s.forks x e f target fprio, ∀ l : Fin 32, n.mask.getLsbD l.val = true → StandsAt y l n.pc n.prio := fun n hn l hl => by
    obtain ⟨b, hb, hpc, hprio, hlanes⟩ := Holds.foldl_new x.hw.tail hn (ne_zero_of_lane hl)
    exact ⟨b, h ▸ hb, hpc, hlanes l hl, hprio⟩
  refine ⟨fun l hl => ?_, fun l he hl => ?_, fun a ha => ?_, fun b hb l hl => ?_⟩
  · refine hstands _ (List.mem_append_left _ (List.mem_map_of_mem (mem_lanesOf.2 hl))) l ?_
    rw [getLsbD_one_shift, beq_self_eq_true]
  · refine hstands _ (List.mem_append_right _ List.mem_cons_self) l ?_
    rw [BitVec.getLsbD_and, BitVec.getLsbD_not, he, hl]
    simp
  · obtain ⟨b, hb, hpc, hprio, hlanes⟩ := Holds.foldl ⟨a, ha, .refl a⟩ (s.forks x e f target fprio)
    exact ⟨b, h ▸ hb, hpc, hprio, hlanes⟩
  · rw [h] at hb
    rcases Entry.lane_of_foldl_add hb hl with ⟨n, hn, -, hnl⟩ | h
    · left
      rcases List.mem_append.1 hn with hn | hn
      · obtain ⟨k, hk, rfl⟩ := List.mem_map.1 hn
        rw [getLsbD_one_shift, beq_iff_eq] at hnl
        exact getLsbD_active (hnl ▸ mem_lanesOf.1 hk)
      · obtain rfl := List.mem_singleton.1 hn
        rw [BitVec.getLsbD_and, Bool.and_eq_true] at hnl
        exact hnl.1
    · exact .inr h

/-! ## An instruction that has changed the frontier -/

theorem Warp.replaceHead_congr (h : z.hw = x.hw) (es : List Entry) : (z.replaceHead es).hw = (x.replaceHead es).hw :=
  congrArg (fun hw : List Entry => es.foldl Entry.add hw.tail) h

/-- An instruction retires that has put entries in the place of the head (R120). -/
theorem Ready.jumps (_ : Ready i s x e sh f) (hz : Wrote x z e sh f) (es : List Entry) :
    ∃ y, Retires s ((s.setWarp s.cur (z.replaceHead es)).retire s.cur f false) x y e sh f ∧ y.hw = (x.replaceHead es).hw ∧ y.still = z.still ∧
      y.x = z.x ∧ y.k = z.k := by
  obtain ⟨hw, ho⟩ := State.retire_only_warp s (z.replaceHead es) f false
  have hrun : (Warp.retired s s.cur (z.replaceHead es) f false).run = if f.eor then 0 else x.run + 1 :=
    congrArg (fun n : Nat => if f.eor then 0 else n + 1) hz.run
  exact ⟨_, ⟨hw, hrun, hz.wait, ho, ⟨hz.regs.lanes, hz.regs.unis⟩, hz.flaws⟩, Warp.replaceHead_congr hz.hw es, rfl, rfl, rfl⟩

/-- Code lies where it lay for the warp that an instruction writes. -/
theorem State.land_setWarp (s : State) (hown : z.owner = x.owner) (pc : BitVec 57) : (s.setWarp s.cur z).land s.cur z pc = s.land s.cur x pc :=
  (SameCode.setWarp s s.cur z).land s.cur hown pc

theorem Issue.branch_setWarp (hown : z.owner = x.owner) (target : Fin 32 → Entry) (fprio : BitVec 8) :
    (s.sees x e sh f).branch (s.setWarp s.cur z) target fprio = s.setWarp s.cur (z.replaceHead (s.forks x e f target fprio)) := by
  have hmod : (s.sees x e sh f).branch (s.setWarp s.cur z) target fprio = s.setWarp s.cur (z.replaceHead
      ((lanesOf (x.active f e)).map (fun l => { target l with pc := (s.setWarp s.cur z).land s.cur z (target l).pc, mask := 1#32 <<< l.val }) ++
        [{ prio := fprio, pc := (s.setWarp s.cur z).land s.cur z (e.pc + BitVec.ofNat 57 f.form.bytes), mask := e.mask &&& ~~~(x.active f e) }])) :=
    State.modWarp_setWarp ..
  rw [hmod]
  simp only [State.land_setWarp s hown, State.forks]

/-- A ready transfer splits its head entry (R120). -/
theorem Ready.branches (h : Ready i s x e sh f) (hz : Wrote x z e sh f) (target : Fin 32 → Entry) (fprio : BitVec 8) :
    ∃ y, Retires s (((s.sees x e sh f).branch (s.setWarp s.cur z) target fprio).retire s.cur f false) x y e sh f ∧ y.still = z.still ∧
      Splits s x y e f (fun l => ((target l).pc, (target l).prio)) fprio ∧ y.x = z.x := by
  obtain ⟨y, hr, hhw, hs, hx, -⟩ := h.jumps hz (s.forks x e f target fprio)
  exact ⟨y, Issue.branch_setWarp hz.owner target fprio ▸ hr, hs, .of_forks hhw, hx⟩

/-! ## Targets and link values (R124, R125) -/

theorem shift_two_eq_mul {w : Nat} (a : BitVec w) : a <<< 2 = a * BitVec.twoPow w 2 := BitVec.shiftLeft_eq_mul_twoPow a 2

theorem indexed_pc (kb : W64) (o : W32) : (indexed kb o).pc = (kb.setWidth 57 + (o.extractLsb' 2 22).setWidth 57 * 4) &&& ~~~3#57 := by
  rw [indexed, wordPc, shift_two_eq_mul]
  rfl

/-- The fields of a link value: priority, zero, word address (R125). -/
theorem Issue.link_fields (j : Issue) (p : BitVec 8) :
    (j.link p).extractLsb' 56 8 = p ∧ (j.link p).getLsbD 55 = false ∧ (j.link p).extractLsb' 0 55 = j.follow.extractLsb' 2 55 := by
  refine ⟨(BitVec.extractLsb'_append_eq_of_le (by decide)).trans BitVec.extractLsb'_append_eq_left, ?_, BitVec.extractLsb'_append_eq_right⟩
  rw [Issue.link, BitVec.getLsbD_append, BitVec.getLsbD_append]
  simp

theorem high_half (v : W64) : (v >>> 32).setWidth 32 = v.extractLsb' 32 32 := BitVec.eq_of_getLsbD_eq fun k hk => by simp [hk]

/-- The destination pair of a call holds its link value (R125). -/
def Linked (x y : Warp) (e : Entry) (sh : Shape) (f : Frame) (p : BitVec 8) : Prop :=
  x.active f e ≠ 0 → f.xd ≠ 255 → ∃ L : W64, L.extractLsb' 56 8 = p ∧ L.getLsbD 55 = false ∧
    L.extractLsb' 0 55 = (e.pc + BitVec.ofNat 57 f.form.bytes).extractLsb' 2 55 ∧ LaneHolds x y sh f (x.active f e) f.xd (fun _ => L.setWidth 32) 0 ∧
    LaneHolds x y sh f (x.active f e) (f.xd + 1) (fun _ => L.extractLsb' 32 32) 0

theorem Issue.writePair_idle {j : Issue} (hj : j.act = 0) (t : State) (n : Nat) (v : Fin 32 → W64) (m : Mask) : j.writePair t n v m = t := by
  unfold Issue.writePair
  split
  · rfl
  · unfold Issue.writeLane
    rw [if_pos hj, if_pos hj]

/-- A call writes its link value. -/
theorem Ready.links (h : Ready i s x e sh f) (hd : sh.d = .lane 2) (p : BitVec 8) :
    ∃ z, (s.sees x e sh f).writePair (s.opened x e sh f) f.xd (fun _ => (s.sees x e sh f).link p) 0 = s.setWarp s.cur z ∧ Wrote x z e sh f ∧
      z.still = x.still ∧ ∀ y, y.x = z.x → Linked x y e sh f p := by
  by_cases hact : x.active f e = 0
  · exact ⟨_, Issue.writePair_idle (j := s.sees x e sh f) hact _ _ _ _, h.wrote, (Warp.opened_same x e sh f s.clock).still, fun _ _ h0 => absurd hact h0⟩
  · obtain ⟨z, hz, hwr, hs, hlow, hhigh⟩ := h.writeLanes hact (pair := true) hd (fun _ => (s.sees x e sh f).link p) 0
    refine ⟨z, hz, hwr, hs, fun y hy _ h255 => ?_⟩
    obtain ⟨hp, h55, hpc⟩ := (s.sees x e sh f).link_fields p
    exact ⟨_, hp, h55, hpc, hlow.congr hy, (funext fun _ => high_half _) ▸ (hhigh rfl h255).congr hy⟩

/-! ## Transfers (R123 to R125) and their traps (R126, R177) -/

/-- The poison of the operands of an indexed transfer (R124). -/
def Warp.ixTaint (x : Warp) (f : Frame) : Mask := (x.lane f.xa).2 ||| if (x.uni f.kb).2 then allLanes else 0

/-- What an indexed transfer takes an active lane to (R124). -/
def Warp.ixTarget (x : Warp) (f : Frame) (l : Fin 32) : BitVec 57 × BitVec 8 :=
  (((x.uni f.kb).1.setWidth 57 + (((x.lane f.xa).1[l]).extractLsb' 2 22).setWidth 57 * 4) &&& ~~~3#57, ((x.lane f.xa).1[l]).extractLsb' 24 8)

theorem Issue.tainted_sees (t : Mask) : (s.sees x e sh f).tainted t = decide (t &&& x.active f e ≠ 0) := by
  rw [BitVec.and_comm]
  exact Bool.eq_iff_iff.2 (bne_iff_ne.trans decide_eq_true_iff.symm)

theorem Ready.bra (h : Ready (.bra f) s x e sh f) :
    ∃ t y, exec (.bra f) s = .next t ∧ Retires s t x y e sh f ∧ y.still = x.still ∧
      Splits s x y e f (fun _ => (e.pc + f.imm.signExtend 57, f.m.setWidth 8)) f.b.num := by
  rw [exec_bra, execBra, h.issue]
  obtain ⟨y, hr, hs, hsp, -⟩ := h.branches h.wrote (fun _ => { prio := Frame.m8 f, pc := e.pc + f.imm.signExtend 57, mask := 0 }) f.b.num
  exact ⟨_, y, rfl, hr, hs.trans (Warp.opened_same x e sh f s.clock).still, hsp⟩

theorem Ready.call (h : Ready (.call f) s x e sh f) :
    ∃ t y, exec (.call f) s = .next t ∧ Retires s t x y e sh f ∧ y.still = x.still ∧
      Splits s x y e f (fun _ => (e.pc + f.imm.signExtend 57, f.m.setWidth 8)) f.b.num ∧ Linked x y e sh f f.b.num := by
  have hd : sh.d = .lane 2 := by cases h.form; rfl
  obtain ⟨z, hz, hwr, hzs, hl⟩ := h.links hd f.b.num
  obtain ⟨y, hr, hs, hsp, hx⟩ := h.branches hwr (fun _ => { prio := Frame.m8 f, pc := e.pc + f.imm.signExtend 57, mask := 0 }) f.b.num
  rw [← hz] at hr
  rw [Machine.exec_call, execCall, h.issue]
  exact ⟨_, y, rfl, hr, hs.trans hzs, hsp, hl y hx⟩

theorem ixTarget_eq (x : Warp) (f : Frame) : (fun l => ((indexed (x.uni f.kb).1 (x.lane f.xa).1[l]).pc, (indexed (x.uni f.kb).1 (x.lane f.xa).1[l]).prio)) = x.ixTarget f :=
  funext fun _ => Prod.ext (indexed_pc ..) rfl

theorem Ready.brx (h : Ready (.brx f) s x e sh f) (hc : x.ixTaint f &&& x.active f e = 0) :
    ∃ t y, exec (.brx f) s = .next t ∧ Retires s t x y e sh f ∧ y.still = x.still ∧ Splits s x y e f (x.ixTarget f) (f.m.setWidth 8) := by
  rw [exec_brx, execBrx, h.issue]
  obtain ⟨y, hr, hs, hsp, -⟩ := h.branches h.wrote (fun l => indexed (x.uni f.kb).1 (x.lane f.xa).1[l]) (Frame.m8 f)
  rw [ixTarget_eq] at hsp
  have hclean : (s.sees x e sh f).tainted (x.ixTaint f) = false := (Issue.tainted_sees _).trans (decide_eq_false (not_not.2 hc))
  exact ⟨_, y, congrArg (Host.Outcome.next <| Act.after · s s.cur f e) (if_neg (Bool.eq_false_iff.1 hclean)), hr,
    hs.trans (Warp.opened_same x e sh f s.clock).still, hsp⟩

theorem Ready.callx (h : Ready (.callx f) s x e sh f) (hc : x.ixTaint f &&& x.active f e = 0) :
    ∃ t y, exec (.callx f) s = .next t ∧ Retires s t x y e sh f ∧ y.still = x.still ∧ Splits s x y e f (x.ixTarget f) (f.m.setWidth 8) ∧
      Linked x y e sh f (f.m.setWidth 8) := by
  have hd : sh.d = .lane 2 := by cases h.form; rfl
  obtain ⟨z, hz, hwr, hzs, hl⟩ := h.links hd (f.m.setWidth 8)
  obtain ⟨y, hr, hs, hsp, hx⟩ := h.branches hwr (fun l => indexed (x.uni f.kb).1 (x.lane f.xa).1[l]) (Frame.m8 f)
  rw [ixTarget_eq] at hsp
  rw [← hz] at hr
  rw [exec_callx, execCallx, h.issue]
  have hclean : (s.sees x e sh f).tainted (x.ixTaint f) = false := (Issue.tainted_sees _).trans (decide_eq_false (not_not.2 hc))
  exact ⟨_, y, congrArg (Host.Outcome.next <| Act.after · s s.cur f e) (if_neg (Bool.eq_false_iff.1 hclean)), hr, hs.trans hzs, hsp, hl y hx⟩

/-- The target and priority that a link value gives (R125). -/
def returnTo (v : W64) : Entry := { prio := v.extractLsb' 56 8, pc := (v.extractLsb' 0 55).setWidth 57 <<< 2, mask := 0 }

theorem Ready.ret (h : Ready (.ret f) s x e sh f) (hc : (x.laneOpr f.xa true).tag &&& x.active f e = 0) :
    ∃ t y, exec (.ret f) s = .next t ∧ Retires s t x y e sh f ∧ y.still = x.still ∧
      Splits s x y e f (fun l => ((((x.laneOpr f.xa true).val l).extractLsb' 0 55).setWidth 57 * 4, ((x.laneOpr f.xa true).val l).extractLsb' 56 8))
        (f.m.setWidth 8) := by
  rw [exec_ret, execRet, h.issue]
  obtain ⟨y, hr, hs, hsp, -⟩ := h.branches h.wrote (fun l => returnTo ((x.laneOpr f.xa true).val l)) (Frame.m8 f)
  simp only [returnTo, shift_two_eq_mul] at hsp
  have hclean : (s.sees x e sh f).tainted (x.laneOpr f.xa true).tag = false := (Issue.tainted_sees _).trans (decide_eq_false (not_not.2 hc))
  exact ⟨_, y, congrArg (Host.Outcome.next <| Act.after · s s.cur f e) (if_neg (Bool.eq_false_iff.1 hclean)), hr,
    hs.trans (Warp.opened_same x e sh f s.clock).still, hsp⟩

/-- Poison in an active lane taints an operand (R126). -/
theorem Issue.tainted_of (t : Mask) (ht : t &&& x.active f e ≠ 0) : (s.sees x e sh f).tainted t = true :=
  (Issue.tainted_sees t).trans (decide_eq_true ht)

theorem Ready.brx_traps (h : Ready (.brx f) s x e sh f) (ht : x.ixTaint f &&& x.active f e ≠ 0) : exec (.brx f) s = .next (s.takeTrap s.cur 9 0 e.pc) := by
  rw [exec_brx, execBrx, h.issue]
  exact congrArg (Host.Outcome.next <| Act.after · s s.cur f e) (if_pos (Issue.tainted_of _ ht))

theorem Ready.callx_traps (h : Ready (.callx f) s x e sh f) (ht : x.ixTaint f &&& x.active f e ≠ 0) : exec (.callx f) s = .next (s.takeTrap s.cur 9 0 e.pc) := by
  rw [exec_callx, execCallx, h.issue]
  exact congrArg (Host.Outcome.next <| Act.after · s s.cur f e) (if_pos (Issue.tainted_of _ ht))

theorem Ready.ret_traps (h : Ready (.ret f) s x e sh f) (ht : (x.laneOpr f.xa true).tag &&& x.active f e ≠ 0) :
    exec (.ret f) s = .next (s.takeTrap s.cur 9 0 e.pc) := by
  rw [exec_ret, execRet, h.issue]
  exact congrArg (Host.Outcome.next <| Act.after · s s.cur f e) (if_pos (Issue.tainted_of _ ht))

/-- An instruction with an active lane whose body answers a trap traps. -/
theorem Ready.traps (h : Ready i s x e sh f) (hact : x.active f e ≠ 0) {body : Issue → State → Act} {code : Nat} {info : W64}
    (hb : body (s.sees x e sh f) (s.opened x e sh f) = .trap code info) : s.issueOnce i body = .next (s.takeTrap s.cur code info e.pc) := by
  rw [h.issueOnce, if_neg hact, hb]
  rfl

theorem Ready.sleep_traps (h : Ready (.sleep f) s x e sh f) (hact : x.active f e ≠ 0) (hu : f.bu = true) (ht : (x.uni f.kb).2 = true) :
    exec (.sleep f) s = .next (s.takeTrap s.cur 9 0 e.pc) := by
  rw [exec_sleep, execSleep]
  exact h.traps hact (if_pos (show (f.bu && (x.uni f.kb).2) = true by rw [hu, ht]; rfl))

theorem Ready.tmsetRel_traps (h : Ready (.tmsetRel f) s x e sh f) (hact : x.active f e ≠ 0) (hi : f.bi = false) (ht : (x.uni f.ka).2 = true) :
    exec (.tmsetRel f) s = .next (s.takeTrap s.cur 9 0 e.pc) := by
  rw [exec_tmsetRel, execTmsetRel]
  exact h.traps hact (if_pos (show (!f.bi && (x.uni f.ka).2) = true by rw [hi, ht]; rfl))

theorem Ready.tmsetAbs_traps (h : Ready (.tmsetAbs f) s x e sh f) (hact : x.active f e ≠ 0) (ht : (x.uni f.ka).2 = true) :
    exec (.tmsetAbs f) s = .next (s.takeTrap s.cur 9 0 e.pc) := by
  rw [exec_tmsetAbs, execTmsetAbs]
  exact h.traps hact (if_pos ht)

/-- The value that an instruction writes to a system register is poisoned (R175). -/
theorem Issue.srValue_tagged (ht : if f.au then (x.uni f.ka).2 = true else
    ∃ l : Fin 32, firstLane (x.active f e) = some l ∧ (x.lane f.xa).2.getLsbD l.val = true) : (s.sees x e sh f).srValue.2 = true := by
  unfold Issue.srValue State.sees
  split at ht
  · next ha => rw [if_pos ha, ht]
  · next ha =>
    obtain ⟨l, hl, ht⟩ := ht
    simp only [if_neg ha, hl, ht]

theorem Ready.register_traps (hi : i ∈ [Instr.setsr f, .tlbinvWrite f, .errinjWrite f]) (h : Ready i s x e sh f) (hact : x.active f e ≠ 0)
    (ht : if f.au then (x.uni f.ka).2 = true else ∃ l : Fin 32, firstLane (x.active f e) = some l ∧ (x.lane f.xa).2.getLsbD l.val = true) :
    exec i s = .next (s.takeTrap s.cur 9 0 e.pc) := by
  have hv := Issue.srValue_tagged (s := s) (sh := sh) ht
  simp only [List.mem_cons, List.not_mem_nil, or_false] at hi
  rcases hi with rfl | rfl | rfl
  · rw [Machine.exec_setsr, execSetsr]
    exact h.traps hact (if_pos hv)
  · rw [exec_tlbinvWrite, execTlbinvWrite]
    exact h.traps hact (if_pos hv)
  · rw [exec_errinjWrite, execErrinjWrite]
    exact h.traps hact (if_pos hv)

end

/-- Settles O11: a transfer puts one entry per active lane and one for the other lanes in the place of its head, and what has been added to a frontier stands
in it; a poisoned control value is looked at before anything is written. -/
theorem branchesAndTheirTraps : Obligations.BranchesAndTheirTraps := by
  unfold Obligations.BranchesAndTheirTraps
  refine ⟨fun f s x e sh => ⟨Ready.bra, Ready.brx, Ready.call, Ready.callx, Ready.ret⟩, fun f s x e sh =>
    ⟨Ready.brx_traps, Ready.callx_traps, Ready.ret_traps, Ready.sleep_traps, Ready.tmsetRel_traps, Ready.tmsetAbs_traps,
      fun i hi h hact ht => h.register_traps hi hact ht⟩⟩

end Sys2Proof.Machine
end

section
/-! PROOFS. The end of a warp (R127, R166): what a step of the device does to the warps, and `exit`. -/

namespace Sys2Proof.Machine

/-! ## Steps that change no warp -/

theorem foldl_warps {α : Type} {g : State → α → State} (hg : ∀ s a, (g s a).warps = s.warps) (l : List α) (s : State) : (l.foldl g s).warps = s.warps := by
  induction l generalizing s with
  | nil => rfl
  | cons a l ih => exact (ih _).trans (hg s a)

theorem State.clearFull_warps (s : State) (ks : List Nat) : (s.clearFull ks).warps = s.warps :=
  foldl_warps (fun s w => by
    by_cases h : (span (w * 8) 8).all ks.contains = true
    · rw [if_pos h]; rfl
    · rw [if_neg h]) _ s

theorem State.putBytes_warps (s : State) (ks : List Nat) (bs : List Byte) : (s.putBytes ks bs).warps = s.warps :=
  (foldl_warps (g := State.noteWrite) (fun _ _ => rfl) ks _).trans (State.clearFull_warps ..)

theorem State.storeVirt_warps (s : State) (p va : Nat) (bs : List Byte) : (s.storeVirt p va bs).warps = s.warps := by
  unfold State.storeVirt
  cases s.virtRaw p va bs.length 1 with
  | none => rfl
  | some ks => exact s.putBytes_warps ks bs

theorem State.writeSlot_warps (s : State) (x : Warp) (off : Nat) (bs : List Byte) : (s.writeSlot x off bs).warps = s.warps := by
  unfold State.writeSlot
  cases s.slotRaw x off bs.length 1 with
  | none => rfl
  | some ks => exact s.putBytes_warps ks bs

theorem State.putPost_warps (s : State) (x : Warp) (p : Post) : (s.putPost x p).warps = s.warps := by
  unfold State.putPost
  cases p.record with
  | some r => exact s.writeSlot_warps ..
  | none =>
    cases s.readSlot x 2 1 with
    | none => rfl
    | some v => exact s.writeSlot_warps ..

theorem State.useVirt_warps (s : State) (p va n : Nat) : (s.useVirt p va n).warps = s.warps := by rw [State.useVirt_eq]

theorem State.fillArea_warps (s : State) (p die place n : Nat) : (s.fillArea p die place n).warps = s.warps := by
  unfold State.fillArea
  cases s.proc? p with
  | none => rfl
  | some q => exact State.storeVirt_warps ..

theorem State.poolTask_warps (s : State) (die : Nat) (r : TaskRec) : (s.poolTask die r).warps = s.warps := by
  unfold State.poolTask
  by_cases h : s.poolLength die r.proc r.pcls < s.poolCap die
  · rw [if_pos h]; rfl
  · rw [if_neg h]; exact s.fillArea_warps ..

theorem State.depositTask_warps (s : State) (die : Nat) (r : TaskRec) : (s.depositTask die r).warps = s.warps := by
  refine (State.modScope_warps ..).trans ?_
  by_cases h : s.poolTakes die r.proc r.pcls 1 = true
  · rw [if_pos h]; exact s.poolTask_warps die r
  · rw [if_neg h]; rfl

theorem State.joinTask_warps (s : State) (die p : Nat) (succ : W64) (killed : Bool) : (s.joinTask die p succ killed).warps = s.warps := by
  have hstore : ∀ bs, ((s.useVirt p succ.toNat 8).storeVirt p succ.toNat bs).warps = s.warps :=
    fun bs => (State.storeVirt_warps ..).trans (s.useVirt_warps ..)
  unfold State.joinTask
  dsimp only
  split
  · rfl
  · split
    · rfl
    · cases (s.useVirt p succ.toNat 8).anyMarked _ with
      | true => exact s.useVirt_warps ..
      | false =>
        rw [if_neg Bool.false_ne_true]
        split
        · split
          · exact (State.depositTask_warps ..).trans ((State.useVirt_warps ..).trans (hstore _))
          · exact hstore _
        · exact hstore _

theorem State.dropScope_warps (fuel : Nat) (s : State) (n : Nat) : (s.dropScope fuel n).warps = s.warps := by
  induction fuel generalizing s n with
  | zero => rfl
  | succ fuel ih =>
    unfold State.dropScope
    split
    · rfl
    · next c _ =>
      have hstore : (if c.ack = 0 then s else s.storeVirt c.proc c.ack.toNat (toBytes 8 (Nat.min c.discards 65535 * 2 ^ 32 +
          (if c.state == .cancelled then 2 ^ 16 else 0) + n))).warps = s.warps := by
        split
        · rfl
        · exact s.storeVirt_warps ..
      dsimp only
      split
      · rfl
      · split
        · exact (ih _ _).trans hstore
        · exact hstore

theorem State.discardSlices_warps (s : State) (w : Nat) : (s.discardSlices w).warps = s.warps := by
  unfold State.discardSlices
  split <;> rfl

/-! ## A warp that has ended (R127, R424) -/

/-- A warp that has ended, not by a kill: it has no lane left and waits for nothing. -/
structure Warp.Over (y : Warp) : Prop where
  ended : y.marks.ended = true
  killed : y.marks.killed = false
  hw : y.hw = []
  sp : y.sp = []
  wait : y.wait = none

theorem State.putPosts_warp (s : State) (w : Nat) {x : Warp} (hw : s.warp? w = some x) :
    ∃ c, (s.putPosts w).warp? w = some { x with call := c } := by
  unfold State.putPosts
  rw [hw]
  dsimp only
  split
  · refine ⟨{ x.call with posts := [] }, ?_⟩
    rw [State.warp?, foldl_warps (fun s p => s.putPost_warps x p)]
    exact State.warp?_setWarp_self ..
  · exact ⟨x.call, hw⟩

/-- What the end of a warp that has nothing outstanding does to its task or ensemble makes no warp. -/
theorem State.reap_over {s : State} {w : Nat} {x : Warp} (hw : s.warp? w = some x) (h : x.Over) : ∀ y, (s.reap w).warp? w = some y → y.Over := by
  obtain ⟨c, hput⟩ := s.putPosts_warp w hw
  have hmod := State.modWarp_eq hput fun x => if x.marks.ended then { x with log := x.log.filter fun e => e.2.state != .failed } else x
  rw [if_pos h.ended] at hmod
  intro y hy
  unfold State.reap at hy
  simp only [hmod, State.warp?_setWarp_self] at hy
  split at hy
  · exact absurd h.ended (by simp_all)
  · split at hy
    · rw [State.warp?_setWarp_self] at hy
      obtain rfl := Option.some.inj hy
      exact ⟨h.ended, h.killed, h.hw, h.sp, h.wait⟩
    · have hgone : ∀ t : State, t.warps = (((s.putPosts w).setWarp w { x with call := c, log := x.log.filter fun e => e.2.state != .failed }).warps.erase w) →
          t.warp? w ≠ some y := fun t ht h => by
        rw [State.warp?, ht, Tbl.get?_erase_self] at h
        exact Option.some_ne_none y h.symm
      refine absurd hy (hgone _ ?_)
      split
      · exact (State.dropScope_warps ..).trans ((State.joinTask_warps ..).trans (State.discardSlices_warps ..))
      · split
        · exact State.discardSlices_warps ..
        · split
          · exact State.discardSlices_warps ..
          · exact State.discardSlices_warps ..

theorem State.leaveGangs_warp {s : State} {w : Nat} {x : Warp} (hw : s.warp? w = some x) (killed : Bool) :
    ∃ ms, (s.leaveGangs w killed).warp? w = some { x with members := ms } := by
  unfold State.leaveGangs
  rw [hw]
  dsimp only
  split
  · exact ⟨x.members, hw⟩
  · refine ⟨[], (congrArg (Tbl.get? · w) (foldl_warps ?_ x.members _)).trans (State.warp?_setWarp_self ..)⟩
    exact fun _ _ => rfl

/-- The warp when its last lane has ended. -/
def Warp.over (x : Warp) : Warp := { x with hw := [], sp := [], wait := none, marks := { x.marks with ended := true, killed := false } }

/-- The state when the last lane of a warp has ended, before its gangs hear of it. -/
def State.ends (s : State) (w : Nat) (x : Warp) : State :=
  ((s.setWarp w x.over).freeSlot w).mapCmds (coreOf w) fun d => if !(d.w == w && d.owned) then some d else some { d with token := none }

theorem State.endWarp_ends {s : State} {w : Nat} {x : Warp} (hw : s.warp? w = some x) : s.endWarp w false = ((s.ends w x).leaveGangs w false).reap w := by
  unfold State.endWarp
  rw [hw]
  rfl

theorem State.ends_warps (s : State) (w : Nat) (x : Warp) : (s.ends w x).warps = (s.setWarp w x.over).warps := State.freeSlot_warps ..

theorem State.ends_rest (s : State) (w : Nat) (x : Warp) : s.ends w x = { s.setWarp w x.over with cores := (s.ends w x).cores } := by
  unfold State.ends State.mapCmds
  rw [State.freeSlot_eq]
  rfl

theorem State.ends_warp? (s : State) (w : Nat) (x : Warp) : (s.ends w x).warp? w = some x.over := by
  rw [State.warp?, State.ends_warps]
  exact State.warp?_setWarp_self ..

theorem State.endWarp_over {s : State} {w : Nat} {x : Warp} (hw : s.warp? w = some x) : ∀ y, (s.endWarp w false).warp? w = some y → y.Over := by
  rw [State.endWarp_ends hw]
  obtain ⟨ms, hms⟩ := State.leaveGangs_warp (s.ends_warp? w x) false
  exact State.reap_over hms ⟨rfl, rfl, rfl, rfl, rfl⟩

/-- A warp of an ensemble that has nothing outstanding leaves its slot, and the live count of its ensemble (R127, R425). -/
structure Leaves (s t : State) (w n : Nat) (q : Ensemble) : Prop where
  gone : t.warp? w = none
  live : t.ensembles.get? n = some { q with live := q.live - 1 }
  mem : t.mem = s.mem
  others : ∀ v, v ≠ w → t.warp? v = s.warp? v

theorem State.leaveGangs_none {s : State} {w n : Nat} {x : Warp} (hw : s.warp? w = some x) (hm : x.members = []) (hn : x.owner.ensemble = some n)
    (killed : Bool) : s.leaveGangs w killed = s.setWarp w x := by
  have hx : { x with members := [] } = x := hm ▸ rfl
  unfold State.leaveGangs
  simp only [hw, hn, hm, List.foldl_nil, hx]

theorem State.reap_leaves {s : State} {w n : Nat} {x : Warp} {q : Ensemble} (hw : s.warp? w = some x) (hover : x.Over) (hquiet : s.quiet w x = true)
    (htask : x.owner.task = false) (hn : x.owner.ensemble = some n) (hq : s.ensembles.get? n = some q) : Leaves s (s.reap w) w n q := by
  obtain ⟨-, -, -, hposts, hlog, -⟩ : (s.flightsOf w).isEmpty = true ∧ x.results.isEmpty = true ∧ x.call.call.isNone = true ∧ x.call.posts = [] ∧
      x.log = [] ∧ x.fifth.isNone = true := by simpa [State.quiet, htask, and_assoc] using hquiet
  have hput : s.putPosts w = s := by simp [State.putPosts, hw, hposts]
  have hmod := State.modWarp_eq hw fun x => if x.marks.ended then { x with log := x.log.filter fun e => e.2.state != .failed } else x
  have hx : { x with log := x.log.filter fun e => e.2.state != .failed } = x := by
    cases x
    simp only at hlog
    subst hlog
    rfl
  rw [if_pos hover.ended, hx] at hmod
  have hquiet : (s.setWarp w x).quiet w x = true := hquiet
  have hdie : ∀ t : State, (t.discardSlices w).ensembles = t.ensembles ∧ (t.discardSlices w).mem = t.mem := fun t => by
    unfold State.discardSlices
    split <;> exact ⟨rfl, rfl⟩
  unfold State.reap
  simp only [hput, hmod, State.warp?_setWarp_self, hover.ended, hover.killed, hquiet, htask, hn, Bool.not_true, Bool.false_eq_true, if_false, Bool.or_false]
  have hens : ∀ r, (State.discardSlices { s.setWarp w x with warps := (s.setWarp w x).warps.erase w } w).ensembles.get? n = r → some q = r :=
    fun r hr => hq.symm.trans (by rwa [(hdie _).1] at hr)
  split
  · next q' hq' =>
    obtain rfl : q = q' := Option.some.inj (hens _ hq')
    refine ⟨?_, Tbl.get?_set_self .., (hdie _).2, fun v hv => ?_⟩
    · exact (congrArg (Tbl.get? · w) (State.discardSlices_warps ..)).trans (Tbl.get?_erase_self ..)
    · refine (congrArg (Tbl.get? · v) (State.discardSlices_warps ..)).trans ((Tbl.get?_erase_ne _ hv).trans (State.warp?_setWarp_ne s x hv))
  · next hq' => exact absurd (hens _ hq') (Option.some_ne_none q)

theorem State.endWarp_leaves {s : State} {w n : Nat} {x : Warp} {q : Ensemble} (hw : s.warp? w = some x) (hm : x.members = [])
    (hquiet : s.quiet w x = true) (htask : x.owner.task = false) (hn : x.owner.ensemble = some n) (hq : s.ensembles.get? n = some q) :
    Leaves s (s.endWarp w false) w n q := by
  have hover : x.over.Over := ⟨rfl, rfl, rfl, rfl, rfl⟩
  have hrest := s.ends_rest w x
  have hflights : (s.ends w x).flights = s.flights := by rw [hrest]; rfl
  have hens : (s.ends w x).ensembles = s.ensembles := by rw [hrest]; rfl
  have hmem : (s.ends w x).mem = s.mem := by rw [hrest]; rfl
  have hquiet : ((s.ends w x).setWarp w x.over).quiet w x.over = true := by
    simp only [State.quiet, htask, Bool.not_false, Bool.true_or, Bool.and_true, State.flightsOf] at hquiet
    simp only [State.quiet, State.flightsOf, Warp.over, htask, State.setWarp_flights, hflights, hquiet, Bool.not_false, Bool.true_or, Bool.and_true]
  rw [State.endWarp_ends hw, State.leaveGangs_none (s.ends_warp? w x) hm hn]
  obtain ⟨hgone, hlive, hkeep, hothers⟩ := State.reap_leaves (State.warp?_setWarp_self ..) hover hquiet htask hn ((congrArg (Tbl.get? · n) hens).trans hq)
  refine ⟨hgone, hlive, hkeep.trans hmem, fun v hv => (hothers v hv).trans ?_⟩
  rw [State.warp?_setWarp_ne _ _ hv, State.warp?, State.ends_warps]
  exact State.warp?_setWarp_ne _ _ hv

/-! ## `exit` (R127) -/

section
variable {s : State} {x : Warp} {e : Entry} {sh : Shape} {f : Frame}

/-- The entry in which the lanes go on that an `exit` does not end (R120, R127). -/
def State.exitEntry (s : State) (x : Warp) (e : Entry) (f : Frame) : Entry :=
  { prio := f.m.setWidth 8, pc := s.land s.cur x (e.pc + BitVec.ofNat 57 f.form.bytes), mask := e.mask &&& ~~~(x.active f e) }

/-- The warp without the lanes that an `exit` has ended. -/
def State.exited (s : State) (x : Warp) (e : Entry) (f : Frame) : Warp := { x with wait := none }.replaceHead [s.exitEntry x e f]

theorem reads_exit : (Instr.exit f).shape.1.reads f = [] := rfl

/-- An `exit` that does not wait: the warp ends where no lane is left, and goes on otherwise. -/
theorem Ready.exec_exit (h : Ready (.exit f) s x e sh f) (hfree : x.active f e ≠ 0 → x.logBusy = false) :
    exec (.exit f) s = .next ((if (s.exited x e f).hw.isEmpty && (s.exited x e f).sp.isEmpty then
      Act.done ((s.setWarp s.cur (s.exited x e f)).endWarp s.cur false) else .jump (s.setWarp s.cur (s.exited x e f))).after s s.cur f e) := by
  obtain rfl : (Instr.exit f).shape.1 = sh := congrArg Prod.fst h.form
  have hbusy : (x.active f e != 0 && x.logBusy) = false := by
    by_cases hact : x.active f e = 0
    · rw [hact]; rfl
    · rw [hfree hact, Bool.and_false]
  have hmod : (s.setWarp s.cur { x with wait := none }).modWarp s.cur (fun z =>
      z.replaceHead [{ prio := Frame.m8 f, pc := (s.setWarp s.cur { x with wait := none }).land s.cur z (e.pc + BitVec.ofNat 57 f.form.bytes),
                       mask := e.mask &&& ~~~(x.active f e) }]) = s.setWarp s.cur (s.exited x e f) := by
    rw [State.modWarp_setWarp, State.land_setWarp (x := x) (z := { x with wait := none }) s rfl]
    rfl
  rw [Machine.exec_exit, execExit, h.issue, h.opened_no_reads reads_exit]
  dsimp only [State.sees, Issue.follow, Issue.rest]
  simp only [hbusy, Bool.false_eq_true, if_false, hmod, State.warp?_setWarp_self]

/-- An `exit` that leaves a lane of its warp retires. -/
theorem Ready.exit_retires (h : Ready (.exit f) s x e sh f) (hfree : x.active f e ≠ 0 → x.logBusy = false)
    (hleft : (s.exited x e f).hw ≠ [] ∨ x.sp ≠ []) :
    ∃ t y, exec (.exit f) s = .next t ∧ Retires s t x y e sh f ∧ y.still = x.still ∧ y.hw = (x.replaceHead [s.exitEntry x e f]).hw := by
  obtain rfl : (Instr.exit f).shape.1 = sh := congrArg Prod.fst h.form
  have hz : Wrote x { x with wait := none } e (Instr.exit f).shape.1 f := Warp.opened_of_no_reads reads_exit x s.clock ▸ h.wrote
  obtain ⟨y, hr, hhw, hs, -, -⟩ := h.jumps hz [s.exitEntry x e f]
  have hlanes : ¬ ((s.exited x e f).hw.isEmpty && (s.exited x e f).sp.isEmpty) = true := by
    rw [Bool.and_eq_true, List.isEmpty_iff, List.isEmpty_iff, not_and_or]
    exact hleft
  rw [h.exec_exit hfree, if_neg hlanes]
  exact ⟨_, y, rfl, hr, hs, hhw⟩

/-- Where no lane is left the warp ends. -/
theorem Ready.exit_ends (h : Ready (.exit f) s x e sh f) (hfree : x.logBusy = false) (hrest : e.mask &&& ~~~(x.active f e) = 0) (htail : x.hw.tail = [])
    (hsp : x.sp = []) : (s.exited x e f).hw = [] ∧ exec (.exit f) s = .next ((s.setWarp s.cur (s.exited x e f)).endWarp s.cur false) := by
  have hhw : (s.exited x e f).hw = [] := by
    show Entry.add x.hw.tail (s.exitEntry x e f) = []
    exact (if_pos hrest).trans htail
  have hover : ((s.exited x e f).hw.isEmpty && (s.exited x e f).sp.isEmpty) = true := by
    rw [hhw, show (s.exited x e f).sp = [] from hsp]
    rfl
  rw [h.exec_exit fun _ => hfree, if_pos hover]
  exact ⟨hhw, rfl⟩

theorem logBusy_eq_false (hlog : x.log = []) (hfifth : x.fifth = none) : x.logBusy = false := by rw [Warp.logBusy, hlog, hfifth]; rfl
theorem logBusy_eq_true (h : x.log ≠ [] ∨ x.fifth ≠ none) : x.logBusy = true := by
  rw [Warp.logBusy, Bool.or_eq_true, Bool.not_eq_true', List.isEmpty_eq_false_iff, Option.isSome_iff_ne_none]
  exact h

theorem exited_lanes (h : e.mask &&& ~~~(x.active f e) ≠ 0 ∨ x.hw.tail ≠ []) : (s.exited x e f).hw ≠ [] := by
  show Entry.add x.hw.tail (s.exitEntry x e f) ≠ []
  by_cases hrest : e.mask &&& ~~~(x.active f e) = 0
  · exact fun hnil => h.resolve_left (not_not.2 hrest) ((if_pos hrest).symm.trans hnil)
  · obtain ⟨b, hb, -⟩ := Holds.add_self x.hw.tail (e := s.exitEntry x e f) hrest
    exact List.ne_nil_of_mem hb

theorem Ready.exit_waits (h : Ready (.exit f) s x e sh f) (hact : x.active f e ≠ 0) (hbusy : x.log ≠ [] ∨ x.fifth ≠ none) :
    ∃ t, exec (.exit f) s = .next t ∧ HeldAt s t x f .oplog := by
  refine ⟨_, ?_, State.heldAt h.warp f .oplog⟩
  have hwait : (x.active f e != 0 && x.logBusy) = true := by rw [logBusy_eq_true hbusy, Bool.and_true]; exact bne_iff_ne.2 hact
  rw [Machine.exec_exit, execExit, h.issue]
  exact congrArg (Host.Outcome.next <| Act.after · s s.cur f e) (if_pos hwait)

theorem Ready.exit_leaves (h : Ready (.exit f) s x e sh f) {n : Nat} {q : Ensemble} (hlog : x.log = []) (hfifth : x.fifth = none)
    (hrest : e.mask &&& ~~~(x.active f e) = 0) (htail : x.hw.tail = []) (hsp : x.sp = []) (hm : x.members = []) (hres : x.results = [])
    (htask : x.owner.task = false) (hn : x.owner.ensemble = some n) (hq : s.ensembles.get? n = some q) (hf : s.flightsOf s.cur = [])
    (hcall : x.call.call = none) (hposts : x.call.posts = []) : ∃ t, exec (.exit f) s = .next t ∧ Leaves s t s.cur n q := by
  obtain ⟨-, hexec⟩ := h.exit_ends (logBusy_eq_false hlog hfifth) hrest htail hsp
  have hf : ∀ z, (s.setWarp s.cur z).flightsOf s.cur = [] := fun _ => hf
  have hquiet : (s.setWarp s.cur (s.exited x e f)).quiet s.cur (s.exited x e f) = true := by
    simp [State.quiet, hf, State.exited, Warp.replaceHead, hres, hcall, hposts, hlog, hfifth, htask]
  obtain ⟨hgone, hlive, hmem, hothers⟩ := State.endWarp_leaves (State.warp?_setWarp_self ..) (x := s.exited x e f) hm hquiet htask hn hq
  exact ⟨_, hexec, hgone, hlive, hmem, fun v hv => (hothers v hv).trans (State.warp?_setWarp_ne _ _ hv)⟩

end

/-- Settles O12: the lanes that `exit` does not end stay in the frontier; when none is left the warp is marked ended, and what its end does to its task or
ensemble makes no warp. -/
theorem exitEndsLanes : Obligations.ExitEndsLanes := by
  unfold Obligations.ExitEndsLanes
  refine ⟨fun f s x e sh h hact hmask => ?_, fun f s x e sh h hact => ⟨fun hlog hfifth hleft => ?_, fun hlog hfifth hrest htail hsp => ?_, ?_, fun hbusy => ?_⟩⟩
  · have hrest : e.mask &&& ~~~(x.active f e) = e.mask := by rw [hact, show ~~~(0 : Mask) = BitVec.allOnes 32 from rfl, BitVec.and_allOnes]
    have := h.exit_retires (fun h0 => absurd hact h0) (.inl (exited_lanes (s := s) (.inl (hrest.symm ▸ hmask))))
    rwa [State.exitEntry, hrest] at this
  · rw [← or_assoc] at hleft
    exact h.exit_retires (fun _ => logBusy_eq_false hlog hfifth) (hleft.imp_left exited_lanes)
  · obtain ⟨-, hexec⟩ := h.exit_ends (logBusy_eq_false hlog hfifth) hrest htail hsp
    refine ⟨_, hexec, fun y hy => ?_⟩
    obtain ⟨hended, hkilled, hhw, hsp, hwait⟩ := State.endWarp_over (State.warp?_setWarp_self ..) y hy
    exact ⟨hended, hkilled, hhw, hsp, hwait⟩
  · intro n q hlog hfifth hrest htail hsp hm hres htask hn hq hf hcall hposts
    obtain ⟨t, hexec, hgone, hlive, hmem, hothers⟩ := h.exit_leaves hlog hfifth hrest htail hsp hm hres htask hn hq hf hcall hposts
    exact ⟨t, hexec, hgone, hlive, hmem, hothers⟩
  · obtain ⟨t, hexec, y, hy, hwait, hhw, -, -, -, ht, -, -⟩ := h.exit_waits hact hbusy
    exact ⟨t, y, hexec, hy, hhw, hwait, by rw [ht]⟩

end Sys2Proof.Machine
end

section
/-! PROOFS. Instructions that hold a warp back: `nop`, `yield`, `setprio`, `brk`, `wait` and `sleep` (R129 to R134), and the entry of a handler (R161). -/

namespace Sys2Proof.Machine

/-! ## States in which only the current warp differs -/

theorem OnlyWarp.trans {s t u : State} (h : OnlyWarp s t) (g : OnlyWarp t u) (hcur : t.cur = s.cur) : OnlyWarp s u := by
  refine ⟨fun w hw => (g.others w (hcur ▸ hw)).trans (h.others w hw), fun c => ?_, ?_⟩
  · obtain ⟨q, hq⟩ := h.cores c
    obtain ⟨r, hr⟩ := g.cores c
    exact ⟨r, by rw [hr, hq]⟩
  · have hg := g.rest
    rw [h.rest] at hg
    exact hg

theorem OnlyWarp.cur {s t : State} (h : OnlyWarp s t) : t.cur = s.cur := by rw [h.rest]

theorem OnlyWarp.setWarp (s : State) (z : Warp) : OnlyWarp s (s.setWarp s.cur z) := ⟨fun _ hw => State.warp?_setWarp_ne _ _ hw, fun _ => ⟨_, rfl⟩, rfl⟩

theorem OnlyWarp.freeSlot (s : State) (w : Nat) : OnlyWarp s (s.freeSlot w) := by
  refine ⟨fun v _ => ?_, s.freeSlot_core w, ?_⟩
  · rw [State.warp?, State.freeSlot_warps]
    rfl
  · rw [State.freeSlot_eq]

theorem OnlyWarp.sameCode {s t : State} (h : OnlyWarp s t) : SameCode s t := by
  have hcore : ∀ c, (t.core c).tlb = (s.core c).tlb ∧ (t.core c).icache = (s.core c).icache := fun c => by
    obtain ⟨q, hq⟩ := h.cores c
    rw [hq]
    exact ⟨rfl, rfl⟩
  refine ⟨?_, ?_, ?_, ?_, ?_, fun c => (hcore c).1, fun c => (hcore c).2⟩
  all_goals rw [h.rest]

/-! ## The entry of a handler (R161) -/

/-- The warp when it has entered its handler. -/
def State.handling (s : State) (q : Warp) (e : Entry) (code : Nat) (info : W64) (rpc : BitVec 57) : Warp :=
  { q with
    trap := { q.trap with act := true, tpend := q.trap.tpend || q.trap.fired.isSome, vec := trapVector code, code := code, rlen := q.run, info := info,
                          rprio := e.prio, rpc := BitVec.ofNat 55 (rpc.toNat / 4) }
    run := 0, kept := [], wait := none }.replaceHead
      [{ prio := 255, pc := s.land s.cur q (BitVec.ofNat 57 (q.trap.tvBase.toNat * 256 + 64 * trapVector code)), mask := e.mask }]

theorem State.handling_entered (s : State) (q : Warp) (e : Entry) (code : Nat) (info : W64) (rpc : BitVec 57) :
    Entered s q (s.handling q e code info rpc) e code info rpc := ⟨rfl, rfl, rfl, rfl⟩

theorem State.takeTrap_takes {s : State} {q : Warp} {e : Entry} {code : Nat} (hw : s.warp? s.cur = some q) (hhead : q.hw.head? = some e)
    (htakes : q.takes code = true) (info : W64) (rpc : BitVec 57) :
    s.takeTrap s.cur code info rpc = (s.setWarp s.cur (s.handling q e code info rpc)).freeSlot s.cur := by
  unfold State.takeTrap
  rw [hw]
  dsimp only
  split
  · next hnil =>
    rw [hnil] at hhead
    exact absurd hhead.symm (Option.some_ne_none e)
  · next a es hcons =>
    rw [hcons] at hhead
    obtain rfl : a = e := Option.some.inj hhead
    rw [if_pos (show (q.trap.tvEn.getLsbD (trapVector code) && !q.trap.act) = true from htakes)]
    rfl

/-- A trap that the warp takes enters its handler; of the machine only the warp differs. -/
theorem State.takeTrap_enters {s : State} {q : Warp} {e : Entry} {code : Nat} (hw : s.warp? s.cur = some q) (hhead : q.hw.head? = some e)
    (htakes : q.takes code = true) (info : W64) (rpc : BitVec 57) :
    ∃ y, (s.takeTrap s.cur code info rpc).warp? s.cur = some y ∧ Entered s q y e code info rpc ∧ OnlyWarp s (s.takeTrap s.cur code info rpc) := by
  rw [State.takeTrap_takes hw hhead htakes]
  refine ⟨_, ?_, s.handling_entered q e code info rpc, (OnlyWarp.setWarp s _).trans (OnlyWarp.freeSlot _ _) rfl⟩
  rw [State.warp?, State.freeSlot_warps]
  exact State.warp?_setWarp_self ..

/-- A handler is entered alike in two states that differ in the warp alone. -/
theorem Entered.of_only {s t : State} {q y : Warp} {e : Entry} {code : Nat} {info : W64} {rpc : BitVec 57} (h : Entered t q y e code info rpc)
    (ho : OnlyWarp s t) : Entered s q y e code info rpc := by
  obtain ⟨htrap, hrun, hwait, hhw⟩ := h
  rw [ho.cur, ho.sameCode.land s.cur rfl] at hhw
  exact ⟨htrap, hrun, hwait, hhw⟩

/-! ## `nop`, `yield`, `setprio` and `brk` (R129 to R132) -/

section
variable {i : Instr} {s : State} {x z : Warp} {e : Entry} {sh : Shape} {f : Frame}

theorem Ready.opened_still (_ : Ready i s x e sh f) : (x.opened e sh f s.clock).still = x.still := (Warp.opened_same x e sh f s.clock).still

/-- The address of the instruction that follows. -/
def followPc (e : Entry) (f : Frame) : BitVec 57 := e.pc + BitVec.ofNat 57 f.form.bytes

theorem Ready.nop (h : Ready (.nop f) s x e sh f) : ∃ t y, exec (.nop f) s = .next t ∧ Passes s t x y e sh f ∧ y.still = x.still := by
  rw [exec_nop, execNop, h.issue]
  exact ⟨_, _, rfl, h.passes h.wrote, (Warp.retired_still ..).trans h.opened_still⟩

theorem Ready.yield (h : Ready (.yield f) s x e sh f) (hact : x.active f e ≠ 0) :
    ∃ t y, exec (.yield f) s = .next t ∧ Passes s t x y e sh f ∧ y.still = { x.still with yielded := true, age := 0 } := by
  have hw := h.wrote
  have hz : Wrote x { x.opened e sh f s.clock with yielded := true, age := 0 } e sh f :=
    ⟨hw.hw, hw.run, hw.wait, hw.owner, ⟨hw.regs.lanes, hw.regs.unis⟩, hw.flaws⟩
  rw [exec_yield, execYield, h.issueOnce, if_neg hact, State.opened]
  dsimp only [State.sees]
  rw [State.modWarp_setWarp]
  exact ⟨_, _, rfl, h.passes hz, (Warp.retired_still ..).trans (congrArg (fun y : Warp => { y with yielded := true, age := 0 }) h.opened_still)⟩

theorem Ready.setprio (h : Ready (.setprio f) s x e sh f) (hact : x.active f e ≠ 0) :
    ∃ t y, exec (.setprio f) s = .next t ∧ Retires s t x y e sh f ∧ y.still = x.still ∧
      y.hw = (x.replaceHead [{ prio := f.m.setWidth 8, pc := s.land s.cur x (followPc e f), mask := e.mask }]).hw := by
  obtain ⟨y, hr, hhw, hs, -, -⟩ := h.jumps h.wrote [{ prio := f.m.setWidth 8, pc := s.land s.cur x (followPc e f), mask := e.mask }]
  rw [exec_setprio, execSetprio, h.issueOnce, if_neg hact, State.opened]
  dsimp only [State.sees, Issue.follow]
  rw [State.modWarp_setWarp, State.land_setWarp s h.wrote.owner]
  exact ⟨_, y, rfl, hr, hs.trans h.opened_still, hhw⟩

theorem Warp.retired_takes (u : State) (w : Nat) (z : Warp) (f : Frame) (b : Bool) (code : Nat) : (Warp.retired u w z f b).takes code = z.takes code := by
  rw [Warp.takes, Warp.takes, (Warp.retired_flaws u w z f b).2]

theorem reads_brk : (Instr.brk f).shape.1.reads f = [] := rfl

/-- The breakpoint trap comes after retirement (R132). -/
theorem Ready.brk (h : Ready (.brk f) s x e sh f) (hact : x.active f e ≠ 0) (htakes : x.takes 0x20 = true) (hmask : e.mask ≠ 0) :
    ∃ t q y e', exec (.brk f) s = .next t ∧ t.warp? s.cur = some y ∧ Moved s x q e f ∧ q.hw.head? = some e' ∧
      Entered s q y e' 0x20 (BitVec.setWidth 64 (f.m.setWidth 8)) (followPc e f) ∧ OnlyWarp s t := by
  obtain rfl : (Instr.brk f).shape.1 = sh := congrArg Prod.fst h.form
  have hz := h.wrote
  have hmoved := h.moved hz.hw hz.run hz.wait hz.owner
  obtain ⟨hw, ho⟩ := State.retire_only_warp s (x.opened e (Instr.brk f).shape.1 f s.clock) f true
  have hne : (Warp.retired s s.cur (x.opened e (Instr.brk f).shape.1 f s.clock) f true).hw ≠ [] := by
    obtain ⟨b, hb, -⟩ := Holds.add_self x.hw.tail (e := { e with pc := s.land s.cur x (followPc e f) }) hmask
    rw [hmoved.pc]
    exact List.ne_nil_of_mem hb
  have hhead := List.head?_eq_some_head hne
  have hq : (Warp.retired s s.cur (x.opened e (Instr.brk f).shape.1 f s.clock) f true).takes 0x20 = true := by
    rw [Warp.retired_takes, Warp.opened_of_no_reads reads_brk]
    exact htakes
  obtain ⟨y, hy, hent, honly⟩ := State.takeTrap_enters (ho.cur.symm ▸ hw :
    State.warp? _ (State.cur ((s.setWarp s.cur (x.opened e (Instr.brk f).shape.1 f s.clock)).retire s.cur f true)) = _) hhead hq
      (BitVec.setWidth 64 (f.m.setWidth 8)) (followPc e f)
  rw [ho.cur] at hy honly
  rw [exec_brk, execBrk, h.issueOnce, if_neg hact]
  exact ⟨_, _, y, _, rfl, hy, hmoved, hhead, hent.of_only ho, ho.trans honly ho.cur⟩

/-! ## `wait` (R133) -/

theorem Warp.noneEmpty_iff : x.noneEmpty = true ↔ (∀ r ∈ x.x, r.2.empty = false) ∧ ∀ r ∈ x.k, r.2.empty = false := by
  simp [Warp.noneEmpty]

theorem State.stored_iff {w : Nat} : (s.writesDone w && !x.logBusy) = true ↔ (∀ a ∈ s.flights, a.w = w → a.writes = false) ∧ x.log = [] ∧ x.fifth = none := by
  simp [State.writesDone, State.flightsOf, Warp.logBusy]

theorem Warp.tokensClear_iff : x.tokensClear = true ↔ ∀ c ∈ x.copy.cnt, c.2 = 0 := by
  simp [Warp.tokensClear]

theorem State.allOver_iff : s.waitOver s.cur x 2 = true ↔ ((∀ r ∈ x.x, r.2.empty = false) ∧ ∀ r ∈ x.k, r.2.empty = false) ∧
    ((∀ a ∈ s.flights, a.w = s.cur → a.writes = false) ∧ x.log = [] ∧ x.fifth = none) ∧ ∀ c ∈ x.copy.cnt, c.2 = 0 := by
  rw [← Warp.noneEmpty_iff, ← State.stored_iff, ← Warp.tokensClear_iff]
  simp only [State.waitOver, Bool.and_eq_true, and_assoc]

/-- A warp that suspends has ended its run; of the machine only the warp differs. -/
theorem State.suspend_only_warp {s : State} {x : Warp} (hw : s.warp? s.cur = some x) (wt : Wait) (n : Nat) :
    ((s.hold s.cur wt).modWarp s.cur fun q => { q with waitLen := n, run := 0 }).warp? s.cur =
        some { x with wait := some wt, kept := [], waitLen := n, run := 0 } ∧
      OnlyWarp s ((s.hold s.cur wt).modWarp s.cur fun q => { q with waitLen := n, run := 0 }) := by
  have hheld : s.hold s.cur wt = (s.setWarp s.cur { x with wait := some wt, kept := [] }).freeSlot s.cur := by rw [State.hold, State.modWarp_eq hw]
  have hh : (s.hold s.cur wt).warp? s.cur = some { x with wait := some wt, kept := [] } := by
    rw [hheld, State.warp?, State.freeSlot_warps]
    exact State.warp?_setWarp_self ..
  have ho : OnlyWarp s (s.hold s.cur wt) := hheld ▸ (OnlyWarp.setWarp s _).trans (OnlyWarp.freeSlot _ _) rfl
  have hset : ∀ z, OnlyWarp (s.hold s.cur wt) ((s.hold s.cur wt).setWarp s.cur z) := fun z => by
    have := OnlyWarp.setWarp (s.hold s.cur wt) z
    rwa [ho.cur] at this
  rw [State.modWarp_eq hh]
  exact ⟨State.warp?_setWarp_self .., ho.trans (hset _) ho.cur⟩

/-- A `wait` whose body is a test of the warp passes where it holds, and suspends otherwise. -/
theorem Ready.waits (h : Ready i s x e sh f) (hact : x.active f e ≠ 0) {v : Nat} {wt : Wait} {c : Prop} (hr : sh.reads f = [])
    (hi : exec i s = s.issueOnce i fun j t => j.waitFor t v wt) (hc : s.waitOver s.cur x v = true ↔ c) :
    (c → ∃ t y, exec i s = .next t ∧ Passes s t x y e sh f ∧ y.still = x.still) ∧
    (¬ c → ∃ t y, exec i s = .next t ∧ t.warp? s.cur = some y ∧ y.wait = some wt ∧ y.hw = x.hw ∧ y.run = 0 ∧ y.waitLen = f.form.bytes ∧ OnlyWarp s t) := by
  have hover : (s.setWarp s.cur { x with wait := none }).waitOver s.cur { x with wait := none } v = s.waitOver s.cur x v := rfl
  have hbody : (s.sees x e sh f).waitFor (s.setWarp s.cur { x with wait := none }) v wt =
      if s.waitOver s.cur x v then .next (s.setWarp s.cur { x with wait := none }) else .suspend (s.setWarp s.cur { x with wait := none }) wt := by
    unfold Issue.waitFor
    simp only [State.sees, State.warp?_setWarp_self, hover]
  have hz : Wrote x { x with wait := none } e sh f := Warp.opened_of_no_reads hr x s.clock ▸ h.wrote
  rw [hi, h.issueOnce, if_neg hact, h.opened_no_reads hr, hbody]
  refine ⟨fun hcond => ?_, fun hcond => ?_⟩
  · rw [if_pos (hc.2 hcond)]
    exact ⟨_, _, rfl, h.passes hz, Warp.retired_still ..⟩
  · rw [if_neg (mt hc.1 hcond)]
    obtain ⟨hy, ho⟩ := State.suspend_only_warp (s := s.setWarp s.cur { x with wait := none }) (State.warp?_setWarp_self ..) wt f.form.bytes
    exact ⟨_, _, rfl, hy, rfl, rfl, rfl, rfl, (OnlyWarp.setWarp s _).trans ho rfl⟩

/-! ## `sleep` (R134, R137) -/

/-- Where a retired warp stands, and what it waits for. -/
theorem Ready.retired_flow (h : Ready i s x e sh f) (hhw : z.hw = x.hw) (hrun : z.run = x.run) (hown : z.owner = x.owner) :
    (Warp.retired s s.cur z f true).hw = (x.replaceHead [{ e with pc := s.land s.cur x (followPc e f) }]).hw ∧
      (Warp.retired s s.cur z f true).run = (if f.eor then 0 else x.run + 1) ∧ (Warp.retired s s.cur z f true).wait = z.wait := by
  obtain ⟨es, hx⟩ := List.head?_eq_some_iff.1 h.head
  have hl : ∀ pc, s.land s.cur z pc = s.land s.cur x pc := fun pc => (SameCode.refl s).land s.cur hown pc
  refine ⟨?_, ?_, ?_⟩ <;> simp [Warp.retired, Warp.replaceHead, hhw, hx, hl, hrun, followPc]

/-- For how long a `sleep` sleeps (R134). -/
def Warp.sleepTime (x : Warp) (f : Frame) : Nat := if f.bi then f.imm.toNat else (x.uni f.kb).1.toNat % 2 ^ 32

/-- The wait of a `sleep`. -/
def Warp.asleep (x : Warp) (f : Frame) (clock : Nat) : Option Wait := if x.sleepTime f = 0 then none else some (.sleep (clock + x.sleepTime f))

theorem Ready.sleep (h : Ready (.sleep f) s x e sh f) (hact : x.active f e ≠ 0) (hclean : f.bu = true → (x.uni f.kb).2 = false) :
    ∃ t y, exec (.sleep f) s = .next t ∧ t.warp? s.cur = some y ∧ y.wait = x.asleep f s.clock ∧
      y.hw = (x.replaceHead [{ e with pc := s.land s.cur x (followPc e f) }]).hw ∧ y.run = (if f.eor then 0 else x.run + 1) ∧ OnlyWarp s t := by
  have hz := h.wrote
  have htag : (f.bu && (x.uni f.kb).2) = false := by
    cases hu : f.bu with
    | false => rfl
    | true => rw [hclean hu, Bool.and_false]
  have hsleeps : (if x.sleepTime f = 0 then s.opened x e sh f else (s.opened x e sh f).modWarp s.cur fun z => { z with wait := some (.sleep (s.clock + x.sleepTime f)) }) =
      s.setWarp s.cur { x.opened e sh f s.clock with wait := x.asleep f s.clock } := by
    unfold Warp.asleep State.opened
    split
    · rw [← hz.wait]
    · rw [State.modWarp_setWarp]
  obtain ⟨hw, ho⟩ := State.retire_only_warp s { x.opened e sh f s.clock with wait := x.asleep f s.clock } f true
  obtain ⟨hhw, hrun, hwait⟩ := h.retired_flow (z := { x.opened e sh f s.clock with wait := x.asleep f s.clock }) hz.hw hz.run hz.owner
  rw [← hsleeps] at hw ho
  rw [exec_sleep, execSleep, h.issueOnce, if_neg hact]
  exact ⟨_, _, congrArg (Host.Outcome.next <| Act.after · s s.cur f e) (if_neg (Bool.eq_false_iff.1 htag)), hw, hwait, hhw, hrun, ho⟩

end

/-- Settles O13: each body changes its warp alone; `wait` is a test of the warp, and the trap of `brk` acts on the warp that has retired. -/
theorem nopsWaitsAndBreaks : Obligations.NopsWaitsAndBreaks := by
  unfold Obligations.NopsWaitsAndBreaks
  refine ⟨fun f s x e sh => ⟨Ready.nop, Ready.yield, Ready.setprio, Ready.brk⟩, fun f s x e sh => ⟨?_, Ready.sleep⟩⟩
  rintro i wt c (⟨rfl, rfl, rfl⟩ | ⟨rfl, rfl, rfl⟩ | ⟨rfl, rfl, rfl⟩) h hact
  · obtain rfl : (Instr.waitRegs f).shape.1 = sh := congrArg Prod.fst h.form
    exact h.waits hact (v := 0) rfl (exec_waitRegs f s) Warp.noneEmpty_iff
  · obtain rfl : (Instr.waitSt f).shape.1 = sh := congrArg Prod.fst h.form
    exact h.waits hact (v := 1) rfl (exec_waitSt f s) State.stored_iff
  · obtain rfl : (Instr.waitAll f).shape.1 = sh := congrArg Prod.fst h.form
    exact h.waits hact (v := 2) rfl (exec_waitAll f s) State.allOver_iff

end Sys2Proof.Machine
end

section
/-! PROOFS. The read of a watch: one word of global memory of a device in which nothing moves (R136, R352, R368, R375, R405). -/

namespace Sys2Proof.Machine

/-! ## What stays of a state while a word is read -/

/-- The warps, the memory and the clock are the same. -/
structure SameRun (s t : State) : Prop where
  warps : t.warps = s.warps
  mem : t.mem = s.mem
  clock : t.clock = s.clock

theorem SameRun.trans {s t u : State} (h : SameRun s t) (k : SameRun t u) : SameRun s u := ⟨k.warps.trans h.warps, k.mem.trans h.mem, k.clock.trans h.clock⟩

theorem Walked.sameRun {s u : State} {core : Nat} (h : Walked s u core) : SameRun s u := by
  refine ⟨?_, ?_, ?_⟩ <;> rw [h.rest]

theorem Walked.migpol {s u : State} {core : Nat} (h : Walked s u core) (d : Nat) : (u.die d).migpol = (s.die d).migpol := by
  obtain ⟨ws, hd⟩ := h.dies d
  rw [hd]

/-- An error that is found stops no migration where none runs. -/
theorem State.errorFound_still {s : State} (h : ∀ d ∈ s.dies, d.2.slots = []) (k : Nat) : s.errorFound k = s := by
  have hnone : ∀ p, s.findSlot p = none := fun p => List.findSome?_eq_none_iff.2 fun d hd => by rw [h d hd]; rfl
  unfold State.errorFound
  rw [hnone]

theorem State.foldl_errorFound_still {s : State} (h : ∀ d ∈ s.dies, d.2.slots = []) (ks : List Nat) : ks.foldl State.errorFound s = s := by
  induction ks with
  | nil => rfl
  | cons k ks ih => rw [List.foldl_cons, State.errorFound_still h, ih]

/-- No request starts a migration where none is enabled (R407). -/
theorem State.promote_sameRun {s : State} (h : ∀ d, (s.die d).migpol.getLsbD 63 = false) (p va core : Nat) : SameRun s (s.promote p va core) := by
  have hw := s.noteWalk_walked core p va core
  unfold State.promote
  split
  · exact hw.sameRun
  · dsimp only
    rw [hw.migpol, h, Bool.and_false, Bool.false_and, if_neg Bool.false_ne_true]
    exact hw.sameRun

theorem State.countRequest_rest (s : State) (k : Nat) : (s.countRequest k).2 = { s with samples := (s.countRequest k).2.samples, hotness := (s.countRequest k).2.hotness } := by
  unfold State.countRequest
  dsimp only
  split <;> rfl

theorem State.sampleRequest_sameRun {s : State} (h : ∀ d, (s.die d).migpol.getLsbD 63 = false) (k p va core : Nat) :
    SameRun s (s.sampleRequest k p va core) := by
  have hrest := s.countRequest_rest k
  unfold State.sampleRequest
  generalize s.countRequest k = r at hrest
  obtain ⟨hot, t⟩ := r
  have hrest : t = { s with samples := t.samples, hotness := t.hotness } := hrest
  have ht : SameRun s t := by
    refine ⟨?_, ?_, ?_⟩ <;> rw [hrest]
  have hdie : ∀ d, (t.die d).migpol.getLsbD 63 = false := fun d => by
    rw [hrest]
    exact h d
  dsimp only
  split
  · exact ht.trans (State.promote_sameRun hdie p va core)
  · exact ht

/-! ## A watched word -/

/-- The bytes of a word under a leaf. -/
def wordKeys (pte : W64) (va n : Nat) : List Nat := (List.range n).map fun i => leafKey pte (va + i)

theorem wordKeys_head (pte : W64) (va : Nat) {n : Nat} (h : 0 < n) : (wordKeys pte va n).head? = some (leafKey pte va) := by
  obtain ⟨n, rfl⟩ := Nat.exists_eq_succ_of_ne_zero h.ne'
  rw [wordKeys, List.range_succ_eq_map]
  rfl

/-- The access with which a warp reads the word that it watches. -/
def Watch.asks (q : Watch) (s : State) (w : Nat) : Access := { q.acc with id := s.nextId, w := w, core := coreOf w }

/-- What a warp watches is one word of global memory that translates, whose home answers with no mark, at its turn; nothing of the warp is on its way, and nothing
moves in the device. -/
structure Watching (s : State) (w : Nat) (x : Warp) (q : Watch) (l : LaneAcc) (pte : W64) (place : Nat) : Prop where
  warp : s.warp? w = some x
  space : q.acc.space = .global
  op : q.acc.op = .load 0
  lanes : q.acc.lanes = [l]
  done : q.acc.done = []
  ord : q.acc.ord = 0
  rel : q.acc.rel = none
  log : x.log = []
  fifth : x.fifth = none
  sent : ∀ n, q.sent = some n → s.clock < n + 2 ^ 24
  flights : ∀ g ∈ s.flights, g.w ≠ w
  quiet : Quiet s
  low : l.addr < 2 ^ 57
  wide : 0 < q.acc.width
  leaf : (s.translate (coreOf w) q.acc.proc l.addr 0).1 = .leaf pte place
  near : pteTier pte ≠ 3
  works : s.keyFault (leafKey pte l.addr) = none
  clean : (s.coreView (coreOf w) fun _ => true).anyMarked (wordKeys pte l.addr q.acc.width) = false
  served : s.portsOpen (wordKeys pte l.addr q.acc.width) (s.homeRank (coreOf w) (leafKey pte l.addr)) = true

/-- The lane of a watch with the bytes of its word. -/
def Watch.lane (q : Watch) (l : LaneAcc) (pte : W64) : LaneAcc := { l with keys := wordKeys pte l.addr q.acc.width, node := none }

/-- The state when the address of a watch has been translated. -/
def State.found (s : State) (w : Nat) (q : Watch) (l : LaneAcc) : State := (s.translate (coreOf w) q.acc.proc l.addr 0).2

section
variable {s : State} {w : Nat} {x : Warp} {q : Watch} {l : LaneAcc} {pte : W64} {place : Nat}

theorem State.found_walked (s : State) (w : Nat) (q : Watch) (l : LaneAcc) : Walked s (s.found w q l) (coreOf w) := State.translate_walked ..

theorem State.reachOf_word {a : Access} {t : State} (hspace : a.space = .global) (hperm : a.op.perm = 0) (hlow : l.addr < 2 ^ 57)
    (htr : s.translate a.core a.proc l.addr 0 = (.leaf pte place, t)) (hnear : pteTier pte ≠ 3) :
    s.reachOf x a l = (.keys (wordKeys pte l.addr a.width), t) := by
  have hva : x.accVa a l = l.addr := by simp only [Warp.accVa, hspace]
  unfold State.reachOf
  simp only [hspace, if_neg (Nat.not_le.2 hlow)]
  unfold State.reachVa
  simp only [hva, hperm, htr, if_neg hnear, hspace]
  rfl

theorem Watching.resolve (h : Watching s w x q l pte place) : s.resolve x (q.asks s w) = (.ok [q.lane l pte], s.found w q l) := by
  have hof := State.reachOf_word (x := x) (a := q.asks s w) h.space (congrArg AccOp.perm h.op) h.low (Prod.ext h.leaf rfl) h.near
  unfold State.resolve
  simp only [show (q.asks s w).lanes = [l] from h.lanes, show (q.asks s w).done = [] from h.done, List.foldl_cons, List.foldl_nil, List.any_nil,
    Bool.false_eq_true, if_false, hof]
  rfl

theorem Watching.found_still (h : Watching s w x q l pte place) : ∀ d ∈ (s.found w q l).dies, d.2.slots = [] := (s.found_walked w q l).still h.quiet.slots

theorem Watching.found_logged (_ : Watching s w x q l pte place) : (s.found w q l).loggedOf = s.loggedOf := by
  funext v
  rw [State.loggedOf, State.loggedOf, State.warp?, (s.found_walked w q l).sameRun.warps]
  rfl

/-- Nothing orders the read of a watch after another access (R169, R208, R366). -/
theorem Watching.inOrder (h : Watching s w x q l pte place) (ls : List LaneAcc) : (s.found w q l).inOrder (q.asks s w) ls = true := by
  have hwalk := s.found_walked w q l
  have hflights : (s.found w q l).flights = s.flights := by rw [hwalk.rest]
  have hlog : (s.found w q l).loggedOf (q.asks s w).w = [] := by
    rw [h.found_logged]
    simp [State.loggedOf, Watch.asks, h.warp, Warp.logged, h.log, h.fifth]
  have hwrites : (q.asks s w).writes = false := by simp [Access.writes, Watch.asks, h.op]
  have hreleases : (q.asks s w).releases = none := by simp [Access.releases, Access.isDet, Watch.asks, h.op, h.ord]
  have hfl : ∀ g ∈ (s.found w q l).flights, g.w ≠ (q.asks s w).w := hflights ▸ h.flights
  have hready := State.releaseReady_idle (fun g hg hw => absurd hw (hfl g hg)) hlog (State.fenceHeld_load hwrites) hreleases
  have hrec : ∀ k, (s.found w q l).recordOpen (q.asks s w).core (q.asks s w).rel k (q.asks s w).id = true := fun k => by
    unfold State.recordOpen
    rw [show (q.asks s w).rel = none from h.rel]
  have hspace : ((q.asks s w).space != .cluster) = true := by rw [show (q.asks s w).space = .global from h.space]; rfl
  unfold State.inOrder
  simp only [hlog, List.all_nil, hready, hwrites, hrec, State.slotOpen, hspace, List.all_filter]
  simpa using fun g hg => .inr (.inl (hfl g hg))

theorem Watching.mayPerform (h : Watching s w x q l pte place) : (s.found w q l).mayPerform (q.asks s w) [q.lane l pte] = true := by
  have hredir : (s.found w q l).redirect = s.redirect := funext fun k => (State.redirect_still h.found_still k).trans (State.redirect_still h.quiet.slots k).symm
  have hports : (s.found w q l).portsOpen (wordKeys pte l.addr q.acc.width) ((s.found w q l).homeRank (coreOf w) (leafKey pte l.addr)) = true := by
    have hclock := (s.found_walked w q l).sameRun.clock
    have hp : (s.found w q l).ports = s.ports := by rw [(s.found_walked w q l).rest]
    have := h.served
    unfold State.portsOpen State.homeRank at this ⊢
    rwa [hp, hclock, hredir]
  unfold State.mayPerform
  rw [h.inOrder, Bool.true_and]
  simp only [List.head?_cons, Option.bind_some, Watch.lane, wordKeys_head pte l.addr h.wide, Option.all_some, List.flatMap_cons, List.flatMap_nil,
    List.append_nil, Watch.asks, hports, Bool.or_true]

theorem Watching.laneFault (h : Watching s w x q l pte place) : (s.found w q l).laneFault (q.lane l pte) = none := by
  have hkey := h.works
  rw [State.keyFault_still h.quiet.slots] at hkey
  simp only [State.laneFault, Watch.lane, wordKeys_head pte l.addr h.wide, Option.bind_some]
  rw [State.keyFault_still h.found_still, (s.found_walked w q l).homeFault]
  exact hkey

/-- The warp sees all early writes of its core, of which none is its own. -/
theorem Watching.coreView (h : Watching s w x q l pte place) :
    SameBytes (s.coreView (coreOf w) fun _ => true) ((s.found w q l).coreView (coreOf w) fun f => f.w != w || f.id < s.nextId) := by
  have hwalk := s.found_walked w q l
  have horder : SameOrder s (s.found w q l) := ⟨by rw [hwalk.rest], h.found_logged,
    funext fun k => (State.redirect_still h.found_still k).trans (State.redirect_still h.quiet.slots k).symm⟩
  have hall : (s.coreView (coreOf w) fun _ => true) = s.coreView (coreOf w) fun f => f.w != w || f.id < s.nextId := by
    unfold State.coreView
    refine List.foldl_ext _ _ s fun t g hg => ?_
    have hother : (g.w != w) = true := bne_iff_ne.2 (h.flights g hg)
    simp only [hother, Bool.true_or]
  rw [hall]
  exact horder.coreView ⟨by rw [hwalk.rest], by rw [hwalk.rest]⟩ _ _

/-- The state when the word has been read. -/
def State.looked (s : State) (w : Nat) (q : Watch) (l : LaneAcc) (pte : W64) : State :=
  let a := q.asks s w
  let ks := wordKeys pte l.addr q.acc.width
  let t := ((ks.map (s.found w q l).redirect).foldl State.errorFound ((s.found w q l).noteReads { a with lanes := [q.lane l pte] })).l1Drop (coreOf w)
    ((s.found w q l).asid q.acc.proc) [l.addr]
  (t.notePorts ks ((s.found w q l).homeRank (coreOf w) (ks.headD 0))).sampleRequest (ks.headD 0) q.acc.proc l.addr (coreOf w)

/-- The value of the watched word, as the core of the warp sees it. -/
def State.wordBytes (s : State) (w : Nat) (q : Watch) (l : LaneAcc) (pte : W64) : List Byte :=
  (wordKeys pte l.addr q.acc.width).map (s.coreView (coreOf w) fun _ => true).byte

theorem Watching.readWatch (h : Watching s w x q l pte place) :
    s.readWatch x (q.asks s w) = (.got (s.wordBytes w q l pte) false false, s.looked w q l pte) := by
  have hview := h.coreView
  have hks : (wordKeys pte l.addr q.acc.width).map (s.found w q l).redirect = wordKeys pte l.addr q.acc.width := by
    rw [show (s.found w q l).redirect = id from funext (State.redirect_still h.found_still), List.map_id]
  have hbytes : State.bytes ((s.found w q l).coreView (coreOf w) fun f => f.w != w || f.id < s.nextId) (wordKeys pte l.addr q.acc.width) = s.wordBytes w q l pte := by
    rw [State.bytes, hview.byte]
    rfl
  have hmarks := (hview.anyMarked (wordKeys pte l.addr q.acc.width)).trans h.clean
  have hgot : WatchRead.got (State.bytes ((s.found w q l).coreView (coreOf w) fun f => f.w != w || f.id < s.nextId)
        ((wordKeys pte l.addr q.acc.width).map (s.found w q l).redirect))
      (State.anyMarked ((s.found w q l).coreView (coreOf w) fun f => f.w != w || f.id < s.nextId)
        ((wordKeys pte l.addr q.acc.width).map (s.found w q l).redirect)) false = .got (s.wordBytes w q l pte) false false := by
    rw [hks, hbytes, hmarks]
  unfold State.readWatch
  rw [h.resolve]
  dsimp only
  rw [h.mayPerform, if_neg (show ¬ (!true) = true from nofun), if_neg (show ¬ (q.lane l pte).node.isSome = true from nofun), h.laneFault]
  exact Prod.ext hgot rfl

/-- A warp has looked at its word: of the warps it alone may have seen more stores of its core; memory is the same. -/
structure Looked (s t : State) (w : Nat) (x : Warp) : Prop where
  warp : ∃ saw, t.warp? w = some { x with sawMark := saw }
  others : ∀ v, v ≠ w → t.warp? v = s.warp? v
  mem : t.mem = s.mem
  clock : t.clock = s.clock

theorem Watching.looked (h : Watching s w x q l pte place) : Looked s (s.looked w q l pte) w x := by
  have hwalk := s.found_walked w q l
  have hrun := hwalk.sameRun
  have hw : (s.found w q l).warp? w = some x := (congrArg (Tbl.get? · w) hrun.warps).trans h.warp
  obtain ⟨saw, -, -, hwarp, hothers, -, hrest⟩ := State.noteReads_noted (s := s.found w q l) (a := { q.asks s w with lanes := [q.lane l pte] }) hw
  generalize hu : (s.found w q l).noteReads { q.asks s w with lanes := [q.lane l pte] } = u at hwarp hothers hrest
  have hstill : ∀ d ∈ u.dies, d.2.slots = [] := by
    rw [hrest]
    exact h.found_still
  have hpol : ∀ d, (u.die d).migpol.getLsbD 63 = false := fun d => by
    rw [hrest]
    exact (congrArg (BitVec.getLsbD · 63) (hwalk.migpol d)).trans (h.quiet.promote d)
  have hlook : SameRun u (s.looked w q l pte) := by
    unfold State.looked
    dsimp only
    rw [hu, State.foldl_errorFound_still hstill]
    refine SameRun.trans (t := (u.l1Drop (coreOf w) ((s.found w q l).asid q.acc.proc) [l.addr]).notePorts (wordKeys pte l.addr q.acc.width)
      ((s.found w q l).homeRank (coreOf w) ((wordKeys pte l.addr q.acc.width).headD 0))) ⟨rfl, rfl, rfl⟩ ?_
    refine State.sampleRequest_sameRun ?_ ..
    exact hpol
  refine ⟨⟨saw, (congrArg (Tbl.get? · w) hlook.warps).trans hwarp⟩, fun v hv => (congrArg (Tbl.get? · v) hlook.warps).trans ((hothers v hv).trans
    (congrArg (Tbl.get? · v) hrun.warps)), hlook.mem.trans ?_, hlook.clock.trans ?_⟩
  · rw [hrest]
    exact hrun.mem
  · rw [hrest]
    exact hrun.clock

end

end Sys2Proof.Machine
end

section
/-! PROOFS. The end of a wait on an address: the predicate, the address that follows, the acquire (R136, R208). -/

namespace Sys2Proof.Machine

/-- An acquire leaves the flow and the predicates of its warp, memory and the place of code. -/
structure Acquires (s t : State) (w : Nat) (x y : Warp) : Prop where
  warp : t.warp? w = some y
  hw : y.hw = x.hw
  run : y.run = x.run
  wait : y.wait = x.wait
  preds : y.preds = x.preds
  others : ∀ v, v ≠ w → t.warp? v = s.warp? v
  mem : t.mem = s.mem
  code : SameCode s t

/-- A watch has ended with a result: its warp has gone past the instruction, and has acquired at the scope of its watch. -/
structure Ends (s t : State) (w : Nat) (x y : Warp) (q : Watch) (res : Bool) : Prop where
  completed : Completed t w x y
  pred : PredHolds x y q.acc.act q.pd (fun _ => res) 0
  others : ∀ v, v ≠ w → t.warp? v = s.warp? v
  mem : t.mem = s.mem
  drops : ∀ scope, q.acq = some scope → 2 ≤ scope → (t.core (coreOf w)).l1 = []

section
variable {s t : State} {w : Nat} {x z : Warp} {q : Watch}

theorem State.acquire_sameCode (s : State) (core scope : Nat) : SameCode s (s.acquire core scope) := by
  have hcore : ∀ c, ((s.acquire core scope).core c).tlb = (s.core c).tlb ∧ ((s.acquire core scope).core c).icache = (s.core c).icache := fun c => by
    rw [State.acquire_core]
    split <;> exact ⟨rfl, rfl⟩
  refine ⟨?_, ?_, ?_, ?_, ?_, fun c => (hcore c).1, fun c => (hcore c).2⟩
  all_goals rw [State.acquire_rest]

theorem State.acquireFor_acquires (hw : s.warp? w = some x) (scope : Nat) :
    ∃ y, Acquires s (s.acquireFor w scope) w x y ∧ (2 ≤ scope → ((s.acquireFor w scope).core (coreOf w)).l1 = []) := by
  unfold State.acquireFor
  by_cases hscope : 2 ≤ scope
  · rw [if_pos hscope, State.modWarp_eq hw]
    refine ⟨{ x with loadMark := s.nextId, dropMark := s.nextId }, ⟨?_, rfl, rfl, rfl, rfl, fun v hv => ?_, ?_, ?_⟩, fun _ => ?_⟩
    · rw [State.acquire_warp?, State.warp?_setWarp_self]
    · rw [State.acquire_warp?, State.warp?_setWarp_ne _ _ hv]
    · rw [State.acquire_rest]
      rfl
    · exact (SameCode.setWarp s w _).trans (State.acquire_sameCode ..)
    · rw [State.acquire_core, if_pos ⟨hscope, rfl⟩]
  · rw [if_neg hscope]
    exact ⟨x, ⟨hw, rfl, rfl, rfl, rfl, fun _ _ => rfl, rfl, SameCode.refl s⟩, fun h => absurd h hscope⟩

/-- The warp when the wait of its head instruction is over. -/
def State.passed (s : State) (w : Nat) (x : Warp) : Warp :=
  { (match x.hw with
     | e :: _ => x.replaceHead [{ e with pc := s.land w x (e.pc + BitVec.ofNat 57 x.waitLen) }]
     | [] => x) with run := 0, kept := [], wait := none }

theorem State.finishWait_eq (hw : s.warp? w = some x) : s.finishWait w = s.setWarp w (s.passed w x) := by
  unfold State.finishWait
  rw [hw]
  rfl

theorem State.passed_hw {e : Entry} {r : List Entry} (hx : x.hw = e :: r) :
    (s.passed w x).hw = (x.replaceHead [{ e with pc := s.land w x (e.pc + BitVec.ofNat 57 x.waitLen) }]).hw := by
  simp only [State.passed, hx]

theorem State.passed_preds (s : State) (w : Nat) (x : Warp) : (s.passed w x).preds = x.preds := by
  unfold State.passed
  cases x.hw <;> rfl

theorem allLanes_mask (res : Bool) : (if res then allLanes else 0) = maskOf (fun _ : Fin 32 => res) &&& ~~~0 := by
  cases res <;> rfl

/-- The state after the acquire of a watch, where it has one. -/
def Watch.acquired (q : Watch) (s : State) (w : Nat) : State := match q.acq with | some scope => s.acquireFor w scope | none => s

/-- A watch ends (R136). -/
theorem State.endWatch_ends (hw : s.warp? w = some x) (hwait : x.wait = some (.watch q)) (res : Bool) : ∃ y, Ends s (s.endWatch w res) w x y q res := by
  obtain ⟨z, hz⟩ : ∃ z, z = x.putPred q.pd q.acc.act (maskOf (fun _ => res) &&& ~~~0) := ⟨_, rfl⟩
  have hpred : PredHolds x z q.acc.act q.pd (fun _ => res) 0 := hz ▸ PredHolds.put rfl q.acc.act q.pd (fun _ => res) 0
  have hzhw : z.hw = x.hw ∧ z.waitLen = x.waitLen ∧ z.owner = x.owner := by
    rw [hz]
    unfold Warp.putPred
    split <;> exact ⟨rfl, rfl, rfl⟩
  obtain ⟨hhw, hlen, hown⟩ := hzhw
  have hfin : (s.setWarp w z).finishWait w = s.setWarp w ((s.setWarp w z).passed w z) := by
    rw [State.finishWait_eq (State.warp?_setWarp_self ..), State.setWarp_setWarp]
  obtain ⟨t, ht⟩ : ∃ t, t = s.setWarp w ((s.setWarp w z).passed w z) := ⟨_, rfl⟩
  have hcode : SameCode (s.setWarp w z) t := by
    rw [ht]
    exact ⟨rfl, rfl, rfl, rfl, rfl, fun _ => rfl, fun _ => rfl⟩
  have htw : t.warp? w = some ((s.setWarp w z).passed w z) := by
    rw [ht]
    exact State.warp?_setWarp_self ..
  have hend : s.endWatch w res = q.acquired t w := by
    unfold State.endWatch
    simp only [hw, hwait]
    rw [allLanes_mask, ← hz, hfin, ← ht]
    rfl
  have hacq : ∃ y, Acquires t (s.endWatch w res) w ((s.setWarp w z).passed w z) y ∧
      ∀ scope, q.acq = some scope → 2 ≤ scope → ((s.endWatch w res).core (coreOf w)).l1 = [] := by
    rw [hend]
    unfold Watch.acquired
    cases q.acq with
    | none => exact ⟨_, ⟨htw, rfl, rfl, rfl, rfl, fun _ _ => rfl, rfl, SameCode.refl t⟩, nofun⟩
    | some scope =>
      obtain ⟨y, hy, hdrop⟩ := State.acquireFor_acquires htw scope
      exact ⟨y, hy, fun sc hsc h2 => hdrop (Option.some.inj hsc ▸ h2)⟩
  obtain ⟨y, hy, hdrop⟩ := hacq
  refine ⟨y, ⟨hy.warp, fun e r hx => ?_, hy.run, hy.wait⟩, ?_, fun v hv => (hy.others v hv).trans ?_, hy.mem.trans ?_, hdrop⟩
  · rw [hy.hw, State.passed_hw (hhw.trans hx), ← (hcode.trans hy.code).land w (rfl : z.owner = z.owner), (SameCode.refl _).land w hown, hlen]
    exact Warp.replaceHead_congr hhw _
  · exact hpred.congr (hy.preds.trans (State.passed_preds ..))
  · rw [ht]
    exact State.warp?_setWarp_ne _ _ hv
  · rw [ht]
    rfl

/-! ## The decision of a watch (R136) -/

/-- The deadline of a watch has come. -/
def Watch.late (q : Watch) (now : Nat) : Bool := q.deadline.any fun d => d ≤ now

/-- The watch as it goes on. -/
def Watch.again (q : Watch) (now : Nat) : Watch := { q with lastEval := now, faulted := false, entry := none, far := false, sent := none }

/-- What the look at a watched word makes of its warp `x` (R136). -/
structure Decided (s t : State) (w : Nat) (x y : Warp) (q : Watch) (met : Bool) : Prop where
  goesOn : WatchGoesOn t w x y q s.clock met (q.late s.clock)
  run : (met || q.late s.clock) = false → y.run = x.run
  others : ∀ v, v ≠ w → t.warp? v = s.warp? v
  mem : t.mem = s.mem
  drops : (met || q.late s.clock) = true → ∀ scope, q.acq = some scope → 2 ≤ scope → (t.core (coreOf w)).l1 = []

theorem WatchGoesOn.of_ends {y : Warp} {met late : Bool} {now : Nat} (h : (met || late) = true) (hc : Completed t w x y)
    (hp : PredHolds x y q.acc.act q.pd (fun _ => met) 0) : WatchGoesOn t w x y q now met late := by
  unfold WatchGoesOn
  rw [if_pos h]
  exact ⟨hc, hp⟩

theorem PredHolds.of_preds {y : Warp} {act : Mask} {n : Nat} {v : Fin 32 → Bool} {m : Mask} (h : PredHolds z y act n v m) (hp : z.preds = x.preds) :
    PredHolds x y act n v m := by
  unfold PredHolds Warp.pred at h ⊢
  rwa [hp] at h

/-- A warp that differs in what it waits for, and has seen more, completes alike. -/
theorem Ends.of_same {u : State} {y : Warp} {p : Watch} {res : Bool} (h : Ends u t w z y p res) (hhw : z.hw = x.hw) (hlen : z.waitLen = x.waitLen)
    (hown : z.owner = x.owner) (hpreds : z.preds = x.preds) (hact : p.acc.act = q.acc.act) (hpd : p.pd = q.pd) :
    Completed t w x y ∧ PredHolds x y q.acc.act q.pd (fun _ => res) 0 := by
  obtain ⟨⟨hwarp, hgo, hrun, hwait⟩, hpred, -, -, -⟩ := h
  refine ⟨⟨hwarp, fun e r hx => ?_, hrun, hwait⟩, ?_⟩
  · rw [hgo e r (hhw.trans hx), (SameCode.refl t).land w hown, hlen]
    exact Warp.replaceHead_congr hhw _
  · rw [← hact, ← hpd]
    exact hpred.of_preds hpreds

/-- The first look at which the word meets the condition ends the watch with true, the first from the deadline on with false. -/
theorem State.decideWatch_decides {u : State} (h : Looked s u w x) (bs : List Byte) :
    ∃ y, Decided s (u.decideWatch w q bs false) w x y q (waitCond q.cond (ofBytes bs) (q.cmp.toNat % 2 ^ (8 * q.acc.width))) := by
  obtain ⟨⟨saw, hw⟩, hothers, hmem, hclock⟩ := h
  obtain ⟨met, hmet⟩ : ∃ met, met = waitCond q.cond (ofBytes bs) (q.cmp.toNat % 2 ^ (8 * q.acc.width)) := ⟨_, rfl⟩
  obtain ⟨z, hz⟩ : ∃ z : Warp, z = { x with sawMark := saw, wait := some (.watch (q.again s.clock)) } := ⟨_, rfl⟩
  have hzw : (u.setWarp w z).warp? w = some z := State.warp?_setWarp_self ..
  have hends : ∀ res, (res || q.late s.clock) = true → ∃ y, Decided s ((u.setWarp w z).endWatch w res) w x y q res := fun res hover => by
    obtain ⟨y, hy⟩ := State.endWatch_ends (q := q.again s.clock) hzw (by rw [hz]) res
    obtain ⟨hc, hp⟩ := hy.of_same (x := x) (q := q) (by rw [hz]) (by rw [hz]) (by rw [hz]) (by rw [hz]) rfl rfl
    exact ⟨y, .of_ends hover hc hp, fun hno => absurd (hno.symm.trans hover) Bool.false_ne_true,
      fun v hv => (hy.others v hv).trans ((State.warp?_setWarp_ne _ _ hv).trans (hothers v hv)), hy.mem.trans hmem, fun _ => hy.drops⟩
  unfold State.decideWatch
  rw [State.modWarp_eq hw, ← hmet]
  dsimp only
  have hagain : ({ x with
      sawMark := saw
      wait := some (.watch { q with lastEval := s.clock, faulted := false, entry := none, far := false, sent := none }) } : Warp) = z := hz.symm
  rw [hclock, hagain, show (u.setWarp w z).clock = s.clock from hclock]
  cases met with
  | true => exact hends true rfl
  | false =>
    rw [if_neg Bool.false_ne_true]
    cases hl : q.late s.clock with
    | true =>
      rw [if_pos (show (q.deadline.any fun d => decide (d ≤ s.clock)) = true from hl)]
      exact hends false (by rw [hl]; rfl)
    | false =>
      rw [if_neg (show ¬ (q.deadline.any fun d => decide (d ≤ s.clock)) = true from Bool.eq_false_iff.1 hl)]
      refine ⟨z, ?_, fun _ => by rw [hz], fun v hv => (State.warp?_setWarp_ne _ _ hv).trans (hothers v hv), hmem, fun hover => ?_⟩
      · unfold WatchGoesOn
        rw [hl, if_neg (show ¬ (false || false) = true from nofun)]
        refine ⟨hzw, ?_, ?_, ?_⟩ <;> rw [hz]
        rfl
      · rw [hl] at hover
        exact absurd hover nofun

/-- A warp looks at the word that it watches (R136). -/
theorem Watching.decides {l : LaneAcc} {pte : W64} {place : Nat} (h : Watching s w x q l pte place) :
    ∃ y, Decided s (s.watchFrom w x q none) w x y q (waitCond q.cond (ofBytes (s.wordBytes w q l pte)) (q.cmp.toNat % 2 ^ (8 * q.acc.width))) := by
  have hsent : (q.sent.any fun n => decide (n + 2 ^ 24 ≤ s.clock)) = false := by
    cases hs : q.sent with
    | none => rfl
    | some n =>
      rw [Option.any_some, decide_eq_false_iff_not]
      exact Nat.not_le.2 (h.sent n hs)
  have hread := h.readWatch
  have hlook := State.decideWatch_decides (q := q) h.looked (s.wordBytes w q l pte)
  unfold Watch.asks at hread
  unfold State.watchFrom
  simp only [hsent, Bool.false_eq_true, if_false, Option.bind_none, Option.map_none, Option.getD_none, hread]
  exact hlook

/-- The watch of a warp whose read has not faulted is evaluated by reading its word. -/
theorem State.evalWatch_eq (hw : s.warp? w = some x) (hwait : x.wait = some (.watch q)) (hf : q.faulted = false) : s.evalWatch w = s.watchFrom w x q none := by
  unfold State.evalWatch
  simp only [hw, hwait, hf, Bool.false_eq_true, if_false]

end

end Sys2Proof.Machine
end

section
/-! PROOFS. O36: `waitaddr`, the events of a watch, and the end of a sleep (R134 to R137). -/

namespace Sys2Proof.Machine

/-- The conditions of `waitaddr` in words of the spec (R135). -/
def condHolds (c v k : Nat) : Bool := match c with | 0 => decide (v = k) | 1 => decide (v ≠ k) | 2 => decide (k ≤ v) | _ => decide (v < k)

theorem waitCond_eq (c v k : Nat) : waitCond c v k = condHolds c v k := by
  rcases c with - | - | - | c
  · rfl
  · exact Bool.eq_iff_iff.2 (bne_iff_ne.trans decide_eq_true_iff.symm)
  · rfl
  · rfl

theorem SameCode.translate_fst {s t : State} (h : SameCode s t) (core p va perm : Nat) : (t.translate core p va perm).1 = (s.translate core p va perm).1 := by
  unfold State.translate
  rw [h.tlb, h.asid]
  split
  · rfl
  · rw [h.lookup]
    split <;> rfl

/-! ## The events of a watch (R136, R137) -/

section
variable {s t : State} {w : Nat} {x y z : Warp} {q : Watch} {l : LaneAcc} {pte : W64} {place : Nat}

theorem State.lookAgain_eq {p : Watch → Bool} (hw : s.warp? w = some x) (hwait : x.wait = some (.watch q)) (hf : q.faulted = false)
    (hi : s.interrupted w x = false) (hp : p q = true) : s.lookAgain w p = s.watchFrom w x q none := by
  unfold State.lookAgain
  simp only [hw, hwait, hp, hi, Bool.not_false, Bool.and_self, if_true]
  exact State.evalWatch_eq hw hwait hf

/-- The events at which a warp looks again at the word that it watches. -/
theorem exec_looks {i : Instr} (hw : s.warp? w = some x) (hwait : x.wait = some (.watch q)) (hf : q.faulted = false) (hi : s.interrupted w x = false)
    (hev : (i = .waitaddrEvaluation w ∧ (q.far = false ∨ q.sent ≠ none)) ∨ (i = .waitaddrDeadline w ∧ ∃ d, q.deadline = some d ∧ d ≤ s.clock) ∨
      (i = .waitaddrPeriodic w ∧ q.lastEval + 16384 ≤ s.clock)) : exec i s = .next (s.watchFrom w x q none) := by
  rcases hev with ⟨rfl, hnear⟩ | ⟨rfl, d, hd, hlate⟩ | ⟨rfl, hold⟩
  · have hp : (!q.far || q.sent.isSome) = true := by
      rw [Bool.or_eq_true, Bool.not_eq_true', Option.isSome_iff_ne_none]
      exact hnear
    exact congrArg Host.Outcome.next (State.lookAgain_eq hw hwait hf hi hp)
  · have hp : (q.deadline.any fun d => decide (d ≤ s.clock)) = true := by
      rw [hd, Option.any_some]
      exact decide_eq_true hlate
    exact congrArg Host.Outcome.next (State.lookAgain_eq hw hwait hf hi hp)
  · exact congrArg Host.Outcome.next (State.lookAgain_eq hw hwait hf hi (p := fun q => decide (q.lastEval + 16384 ≤ s.clock)) (decide_eq_true hold))

theorem exec_sleepExpiry_eq {till : Nat} (hw : s.warp? w = some x) (hwait : x.wait = some (.sleep till)) :
    exec (.sleepExpiry w) s = .next (if till ≤ s.clock ∧ s.interrupted w x = false then s.setWarp w { x with wait := none } else s) := by
  have hiff : (decide (till ≤ s.clock) && !s.interrupted w x) = true ↔ till ≤ s.clock ∧ s.interrupted w x = false := by
    rw [Bool.and_eq_true, decide_eq_true_iff, Bool.not_eq_true']
  rw [exec_sleepExpiry, execSleepExpiry]
  simp only [hw, hwait, hiff]

/-! ## The first look, at issue (R136) -/

theorem OnlyWarp.sameBytes (ho : OnlyWarp s t) : SameBytes s t := ⟨ho.sameCode.mem, by rw [ho.rest]⟩

theorem OnlyWarp.sameOrder (ho : OnlyWarp s t) (hw : s.warp? s.cur = some x) (hz : t.warp? s.cur = some z) (hlogged : z.logged = x.logged) : SameOrder s t := by
  refine ⟨by rw [ho.rest], funext fun v => ?_, funext ho.sameCode.redirect⟩
  by_cases hv : v = s.cur
  · rw [hv, State.loggedOf, State.loggedOf, hz, hw]
    exact hlogged
  · rw [State.loggedOf, State.loggedOf, ho.others v hv]

theorem Watching.logged (h : Watching s w x q l pte place) (hlog : z.log = []) (hfifth : z.fifth = none) : z.logged = x.logged := by
  rw [Warp.logged, Warp.logged, hlog, hfifth, h.log, h.fifth]

/-- What a watch finds does not depend on the warp whose turn it is, but for what waits for the fault service. -/
theorem Watching.of_only (h : Watching s s.cur x q l pte place) (ho : OnlyWarp s t) (hz : t.warp? s.cur = some z) (hlog : z.log = []) (hfifth : z.fifth = none) :
    Watching t s.cur z q l pte place := by
  have hcode := ho.sameCode
  have hflights : t.flights = s.flights := by rw [ho.rest]
  have hdies : t.dies = s.dies := hcode.dies
  have hdie : t.die = s.die := by
    unfold State.die
    rw [hdies]
  have hclock : t.clock = s.clock := by rw [ho.rest]
  have hports : t.ports = s.ports := by rw [ho.rest]
  have hredir : t.redirect = s.redirect := funext hcode.redirect
  have hstill : ∀ d ∈ t.dies, d.2.slots = [] := hdies ▸ h.quiet.slots
  have horder := ho.sameOrder h.warp hz (h.logged hlog hfifth)
  refine ⟨hz, h.space, h.op, h.lanes, h.done, h.ord, h.rel, hlog, hfifth, hclock ▸ h.sent, hflights ▸ h.flights,
    ⟨hstill, hdie ▸ h.quiet.promote, hdie ▸ h.quiet.inject⟩,
    h.low, h.wide, (hcode.translate_fst ..).trans h.leaf, h.near, ?_, ((horder.coreView ho.sameBytes _ _).anyMarked _).trans h.clean, ?_⟩
  · have hworks := h.works
    rw [State.keyFault_still h.quiet.slots] at hworks
    rw [State.keyFault_still hstill, hcode.homeFault]
    exact hworks
  · have hserved := h.served
    unfold State.portsOpen State.homeRank at hserved ⊢
    rwa [hports, hclock, hredir]

theorem State.wordBytes_of_only (h : Watching s s.cur x q l pte place) (ho : OnlyWarp s t) (hz : t.warp? s.cur = some z) (hlog : z.log = [])
    (hfifth : z.fifth = none) : t.wordBytes s.cur q l pte = s.wordBytes s.cur q l pte := by
  unfold State.wordBytes
  rw [((ho.sameOrder h.warp hz (h.logged hlog hfifth)).coreView ho.sameBytes _ _).byte]

end

/-! ## `waitaddr` (R136) -/

section
variable {s : State} {x y z : Warp} {e : Entry} {sh : Shape} {f : Frame} {pte : W64} {place : Nat}

/-- The address of the word that a `waitaddr` watches, its bytes, and the time that it waits. -/
def Warp.watchAddr (x : Warp) (f : Frame) : W64 := (x.uni f.kb).1 + f.imm.signExtend 64
def watchBytes (f : Frame) : Nat := if f.vn = 7 then 8 else 4
def Warp.watchTime (x : Warp) (f : Frame) : Nat := (x.uni f.kc).1.toNat % 2 ^ 32

/-- The watch that a `waitaddr` sets up. -/
def State.watchOf (s : State) (x : Warp) (e : Entry) (f : Frame) : Watch :=
  { acc :=
      { id := s.nextId, w := s.cur, instr := .waitaddr f, pc := e.pc, space := .global, op := .load 0, width := watchBytes f, dest := .none
        lanes := [{ lane := 0, addr := (x.watchAddr f).toNat, keys := [] }], act := x.active f e, ord := 0, scope := 0, core := coreOf s.cur
        proc := x.owner.proc, issuedAt := s.clock, after := x.loadMark }
    cmp := (x.uni f.ka).1, cond := f.mf 0 2, acq := if f.bit 2 then some (f.mf 3 3) else none, pd := f.xd
    deadline := if f.bit 6 then some (s.clock + x.watchTime f) else none, lastEval := s.clock }

/-- A tagged operand (R175). -/
def Warp.watchTagged (x : Warp) (f : Frame) : Bool := (x.uni f.kb).2 || (x.uni f.ka).2 || (f.bit 6 && (x.uni f.kc).2)

theorem Ready.waitaddr_tagged (h : Ready (.waitaddr f) s x e sh f) (hact : x.active f e ≠ 0) (ht : x.watchTagged f = true) :
    exec (.waitaddr f) s = .next (s.takeTrap s.cur 9 0 e.pc) := by
  rw [exec_waitaddr, execWaitaddr]
  exact h.traps hact (if_pos ht)

theorem Ready.waitaddr_misaligned (h : Ready (.waitaddr f) s x e sh f) (hact : x.active f e ≠ 0) (ht : x.watchTagged f = false)
    (ha : (x.watchAddr f).toNat % watchBytes f ≠ 0) : exec (.waitaddr f) s = .next (s.takeTrap s.cur 0x0A (x.watchAddr f) e.pc) := by
  rw [exec_waitaddr, execWaitaddr]
  exact h.traps hact ((if_neg (Bool.eq_false_iff.1 ht)).trans (if_pos (bne_iff_ne.2 ha)))

/-- The state in which a `waitaddr` first looks at its word. -/
def State.watched (s : State) (x : Warp) (e : Entry) (sh : Shape) (f : Frame) : State :=
  ((s.opened x e sh f).hold s.cur (.watch (s.watchOf x e f))).modWarp s.cur fun q => { q with waitLen := f.form.bytes, run := 0 }

/-- The warp in that state. -/
def State.watcher (s : State) (x : Warp) (e : Entry) (sh : Shape) (f : Frame) : Warp :=
  { x.opened e sh f s.clock with wait := some (.watch (s.watchOf x e f)), kept := [], waitLen := f.form.bytes, run := 0 }

theorem State.watched_only (s : State) (x : Warp) (e : Entry) (sh : Shape) (f : Frame) :
    (s.watched x e sh f).warp? s.cur = some (s.watcher x e sh f) ∧ OnlyWarp s (s.watched x e sh f) := by
  obtain ⟨hw, ho⟩ := State.suspend_only_warp (s := s.opened x e sh f) (State.warp?_setWarp_self ..) (.watch (s.watchOf x e f)) f.form.bytes
  exact ⟨hw, (OnlyWarp.setWarp s _).trans ho rfl⟩

theorem Ready.exec_waitaddr (h : Ready (.waitaddr f) s x e sh f) (hact : x.active f e ≠ 0) (ht : x.watchTagged f = false)
    (ha : (x.watchAddr f).toNat % watchBytes f = 0) (hlog : x.log = []) : exec (.waitaddr f) s = .next ((s.watched x e sh f).evalWatch s.cur) := by
  have haligned : ((x.watchAddr f).toNat % watchBytes f != 0) = false := bne_eq_false_iff_eq.2 ha
  have hshare : ∀ p : Nat × LogEntry → Bool, ¬ x.log.any p = true := fun p => by rw [hlog]; exact nofun
  rw [Machine.exec_waitaddr, execWaitaddr, h.issueOnce, if_neg hact]
  exact congrArg (Host.Outcome.next <| Act.after · s s.cur f e)
    ((if_neg (Bool.eq_false_iff.1 ht)).trans ((if_neg (Bool.eq_false_iff.1 haligned)).trans (if_neg (hshare _))))

/-- The warp that first looks differs from the warp at issue in what it waits for and in what its sources' reads have left. -/
theorem State.watcher_same (s : State) (x : Warp) (e : Entry) (sh : Shape) (f : Frame) :
    (s.watcher x e sh f).hw = x.hw ∧ (s.watcher x e sh f).owner = x.owner ∧ (s.watcher x e sh f).preds = x.preds ∧ (s.watcher x e sh f).log = x.log ∧
      (s.watcher x e sh f).fifth = x.fifth := by
  have hs := Warp.opened_same x e sh f s.clock
  exact ⟨hs.hw, hs.owner, hs.preds, (congrArg Warp.log hs.still :), (congrArg Warp.fifth hs.still :)⟩

/-- What a `waitaddr` leaves at issue: it has completed, or its watch goes on (R136). -/
structure FirstLook (s t : State) (x y : Warp) (e : Entry) (f : Frame) (met : Bool) : Prop where
  warp : t.warp? s.cur = some y
  run : y.run = 0
  mem : t.mem = s.mem
  others : ∀ w, w ≠ s.cur → t.warp? w = s.warp? w
  ends : met = true ∨ f.bit 6 = true ∧ x.watchTime f = 0 →
    y.hw = (x.replaceHead [{ e with pc := t.land s.cur x (followPc e f) }]).hw ∧ y.wait = none ∧ PredHolds x y (x.active f e) f.xd (fun _ => met) 0 ∧
      (f.bit 2 = true → 2 ≤ f.mf 3 3 → (t.core (coreOf s.cur)).l1 = [])
  goesOn : ¬ (met = true ∨ f.bit 6 = true ∧ x.watchTime f = 0) → y.hw = x.hw ∧ y.preds = x.preds ∧ y.wait = some (.watch ((s.watchOf x e f).again s.clock))

theorem State.watchOf_late (s : State) (x : Warp) (e : Entry) (f : Frame) : (s.watchOf x e f).late s.clock = true ↔ f.bit 6 = true ∧ x.watchTime f = 0 := by
  unfold Watch.late State.watchOf
  cases f.bit 6 with
  | false => simp
  | true => simp

theorem FirstLook.of_decided {t : State} {met : Bool} (hh : x.hw.head? = some e)
    (h : Decided (s.watched x e sh f) t s.cur (s.watcher x e sh f) y (s.watchOf x e f) met) : FirstLook s t x y e f met := by
  obtain ⟨hgoes, hrun, hothers, hmem, hdrops⟩ := h
  obtain ⟨-, ho⟩ := s.watched_only x e sh f
  obtain ⟨hhw, hown, hpreds, -, -⟩ := s.watcher_same x e sh f
  obtain ⟨es, hx⟩ := List.head?_eq_some_iff.1 hh
  have hclock : (s.watched x e sh f).clock = s.clock := by rw [ho.rest]
  rw [hclock] at hgoes hrun hdrops
  have hover : (met || (s.watchOf x e f).late s.clock) = true ↔ met = true ∨ f.bit 6 = true ∧ x.watchTime f = 0 := by
    rw [Bool.or_eq_true, State.watchOf_late]
  have hsame : t.mem = s.mem ∧ ∀ w, w ≠ s.cur → t.warp? w = s.warp? w :=
    ⟨hmem.trans ho.sameCode.mem, fun w hw => (hothers w hw).trans (ho.others w hw)⟩
  unfold WatchGoesOn at hgoes
  by_cases hend : (met || (s.watchOf x e f).late s.clock) = true
  · rw [if_pos hend] at hgoes
    obtain ⟨⟨hwarp, hgo, hrun0, hwait⟩, hpred⟩ := hgoes
    refine ⟨hwarp, hrun0, hsame.1, hsame.2, fun _ => ⟨?_, hwait, ?_, fun hb hsc => ?_⟩, fun hno => absurd (hover.1 hend) hno⟩
    · rw [hgo e es (hhw.trans hx), (SameCode.refl t).land s.cur hown]
      exact Warp.replaceHead_congr hhw _
    · exact hpred.of_preds hpreds
    · exact hdrops hend _ (if_pos hb) hsc
  · rw [if_neg hend] at hgoes
    obtain ⟨hwarp, hwait, hyhw, hypreds⟩ := hgoes
    exact ⟨hwarp, hrun (Bool.eq_false_iff.2 hend), hsame.1, hsame.2, fun hyes => absurd (hover.2 hyes) hend,
      fun _ => ⟨hyhw.trans hhw, hypreds.trans hpreds, hwait⟩⟩

/-- `waitaddr` reads its word at issue (R136). -/
theorem Ready.waitaddr_looks (h : Ready (.waitaddr f) s x e sh f) (hact : x.active f e ≠ 0) (ht : x.watchTagged f = false)
    (ha : (x.watchAddr f).toNat % watchBytes f = 0)
    (hq : Watching s s.cur x (s.watchOf x e f) { lane := 0, addr := (x.watchAddr f).toNat, keys := [] } pte place) :
    ∃ t y, exec (.waitaddr f) s = .next t ∧ FirstLook s t x y e f (condHolds (f.mf 0 2)
      (ofBytes (s.wordBytes s.cur (s.watchOf x e f) { lane := 0, addr := (x.watchAddr f).toNat, keys := [] } pte))
      ((x.uni f.ka).1.toNat % 2 ^ (8 * watchBytes f))) := by
  obtain ⟨hw, ho⟩ := s.watched_only x e sh f
  obtain ⟨-, -, -, hlog, hfifth⟩ := s.watcher_same x e sh f
  have hlooks := hq.of_only ho hw (hlog.trans hq.log) (hfifth.trans hq.fifth)
  obtain ⟨y, hy⟩ := hlooks.decides
  rw [State.wordBytes_of_only hq ho hw (hlog.trans hq.log) (hfifth.trans hq.fifth), waitCond_eq] at hy
  exact ⟨_, y, (h.exec_waitaddr hact ht ha hq.log).trans (congrArg Host.Outcome.next (State.evalWatch_eq hw rfl rfl)), .of_decided h.head hy⟩

end

/-- Settles O36: a look reads the word as the warp's core sees it, and decides; at issue it is made by the warp that already waits. -/
theorem watches : Obligations.Watches := by
  unfold Obligations.Watches
  refine ⟨fun s x e sh f h hact => ⟨h.waitaddr_tagged hact, h.waitaddr_misaligned hact, ?_⟩, ?_, fun s w x till hw hwait => exec_sleepExpiry_eq hw hwait⟩
  · intro pte place ht ha hlog hfifth hflights hquiet hlow hleaf hnear hworks keys view hclean hserved v cmp met
    have hwide : 0 < watchBytes f := by unfold watchBytes; split <;> decide
    have hq : Watching s s.cur x (s.watchOf x e f) { lane := 0, addr := (x.watchAddr f).toNat, keys := [] } pte place :=
      ⟨h.warp, rfl, rfl, rfl, rfl, rfl, rfl, hlog, hfifth, nofun, hflights, hquiet, hlow, hwide, hleaf, hnear, hworks, hclean, hserved⟩
    obtain ⟨t, y, hexec, hwarp, hrun, hmem, hothers, hends, hgoes⟩ := h.waitaddr_looks hact ht ha hq
    refine ⟨t, y, hexec, hwarp, hrun, hmem, hothers, ?_⟩
    split
    · next hover => exact hends hover
    · next hover =>
      obtain ⟨hyhw, hypreds, hwait⟩ := hgoes hover
      exact ⟨hyhw, hypreds, _, hwait, rfl, rfl, rfl, rfl, rfl, rfl, rfl, rfl, rfl, rfl⟩
  · intro s w x q l pte place i hw hwait hf hspace hop hlanes hdone hord hrel hproc hlog hfifth hsent hflights hquiet hlow hwide hi hev hleaf hnear hworks
      keys view hclean hserved v cmp met late
    have hq : Watching s w x q l pte place :=
      ⟨hw, hspace, hop, hlanes, hdone, hord, hrel, hlog, hfifth, hsent, hflights, hquiet, hlow, hwide, hleaf, hnear, hworks, hclean, hserved⟩
    obtain ⟨y, hgoes, -, hothers, hmem, -⟩ := hq.decides
    have hlate : q.late s.clock = late := by
      show q.late s.clock = match q.deadline with | some d => decide (d ≤ s.clock) | none => false
      unfold Watch.late
      cases q.deadline <;> rfl
    rw [waitCond_eq, hlate] at hgoes
    exact ⟨_, y, exec_looks hw hwait hf hi hev, hmem, hothers, hgoes⟩

end Sys2Proof.Machine
end
